-- ==== Sys2Proof/Word.lean ====
section
/-! DEFINITION. The words of the device and the shapes of what commands carry (R3, R30, R256). -/

namespace Sys2Proof

/-- Eight bits; host memory, HBM and flash are counted in these. -/
abbrev Byte := BitVec 8
/-- A 32-bit register word. -/
abbrev Word := BitVec 32
/-- A 64-bit register word. -/
abbrev DWord := BitVec 64
/-- A cell header, bit numbers as R256 and Table SW-1 give them. -/
abbrev Header := BitVec 128
/-- A cell payload: payload bit k of R30 is bit k. -/
abbrev Payload := BitVec 768
/-- Fabric time in units of 2^-16 ns (R302). -/
abbrev Time := Nat
/-- Register set n of Table RG-1: ports 0 to 127, then twin-link halves 128 and 129. -/
abbrev PSet := Fin 130
/-- Fabric port, and the logical tile of the same number (R11). -/
abbrev Port := Fin 128
/-- Logical tile (R11). -/
abbrev LTile := Fin 128
/-- Physical tile 34 x die + position (R10). -/
abbrev Phys := Fin 136
/-- Device-local job slot (R230). -/
abbrev Slot := Fin 64
/-- Die of the package. -/
abbrev Die := Fin 4

/-- A 112-byte cell (R256): 16 header bytes and 96 payload bytes. -/
structure Cell where
  hdr : Header
  pay : Payload
  deriving DecidableEq, Repr, Inhabited

/-- A host command as the device holds it: ring and index of its descriptor (R374), the 64-byte descriptor
(byte k in bits [8k + 7 : 8k]), the bytes of its data buffer in list order (R382), and whether every read of that
data and every write to host memory it needs is answered (R394). -/
structure HostCmd where
  ring    : Fin 8
  index   : Word
  desc    : BitVec 512
  data    : List Byte
  readOk  : Bool
  writeOk : Bool
  deriving DecidableEq, Repr

/-- What a receiver takes from one slot time, before FEC and CRC: on a native link the symbols of each lane of the lane
set in use, stuff and slack symbols included (R320 to R326); on a compatibility link the 66-bit blocks of each lane,
sync header in bits [1:0] and scrambled payload above it (R335, R336). -/
inductive SlotRx where
  | native (lanes : List (List (BitVec 2)))
  | compat (lanes : List (List (BitVec 66)))
  deriving DecidableEq, Repr

/-- What the receiver measures beside a training frame: frame checks passed on every lane within 1.2 ns of skew with
good polarity, equalisation converged, lane 0 to clock-lane skew and own clock-lane flight in 2^-10 ns, the receive position
by the frame's first bit at the balls (R264) and the time from that bit to the position in 2^-10 ns, and the recovery latency
of an embedded-clock receiver in 2^-10 ns (R328). -/
structure TrainMeas where
  aligned   : Bool
  converged : Bool
  polinv    : Bool
  deskew    : BitVec 8
  flight    : BitVec 16
  skew      : BitVec 16
  phi0      : BitVec 16
  rxpos     : BitVec 14
  recov     : BitVec 16
  deriving DecidableEq, Repr

/-- The straps a cold reset samples and the fuses it senses (R485, R10), with the identity they carry. -/
structure ColdPins where
  twinSel : Bool
  fabPos  : BitVec 6
  serial  : BitVec 64
  fused   : List (Die × Fin 34)
  deriving DecidableEq, Repr

/-- What a shard group member's transfer delivered (R452, R453): position, the step it carries, the shard, and whether
the header and CRC of its stored shard were valid. -/
structure ShardIn where
  pos   : Nat
  step  : BitVec 40
  bytes : List Byte
  valid : Bool
  deriving DecidableEq, Repr

/-- The four stamps of a time exchange (R304). -/
structure Stamps where
  t1 : BitVec 64
  t2 : BitVec 64
  t3 : BitVec 64
  t4 : BitVec 64
  deriving DecidableEq, Repr

/-- Where background scrubbing or a check found an error (R440, Table DP-2, R441): of a residue check the tile and the instance's collective, as of an
uncorrectable error in a stationary operand or feeder buffer (R185). -/
inductive ScrubFind where
  | clean
  | sramCorrected (tile : LTile)
  | hbmCorrected (die : Die)
  | accMemory (tile : LTile) (acc : Fin 2048)
  | residue (tile : LTile) (slot : Slot) (coll : BitVec 12)
  | matrixBuffer (tile : LTile) (slot : Slot) (coll : BitVec 12)
  | cellBuffer (tile : LTile) (buf : Fin 16384)
  | programMemory (tile : LTile) (addr : Nat)
  | pilotMemory (tile : LTile) (addr : Nat)
  | harbourmaster
  | hbmCommitted (slot : Slot) (die : Die)
  | hbmAlternate (slot : Slot) (coll : BitVec 12) (die : Die)
  | hbmSpill (slot : Slot) (tile : LTile) (ord : Nat) (die : Die)
  | hbmManifest (slot : Slot) (rec : Fin 8) (die : Die)
  | hbmShard (slot : Slot) (which : Fin 2) (die : Die)
  | hbmReserved (die : Die)
  deriving DecidableEq, Repr

/-- Where a register write comes from (R4, R399; Tables TP-13, TP-14): the host through BAR0, or the pilot core of a tile, to one of
its CSRs or to its memory map. -/
inductive RegBus where
  | host
  | csr (tile : LTile)
  | mem (tile : LTile)
  deriving DecidableEq, Repr

/-- The end of a self-test (R450): the unit it ran on, a physical tile or a port set, and the signature it found. -/
structure TestEnd where
  lanes     : Bool
  unit      : Nat
  signature : Word
  deriving DecidableEq, Repr

/-- The end of a spare's reduced memory test (R446): the spare position and whether it passed. -/
structure SpareTest where
  spare  : Phys
  passed : Bool
  deriving DecidableEq, Repr

/-- Why a tile alarm comes (R449). -/
inductive AlarmCause where
  | timingAtFloor
  | sramRepeat (addr : Nat)
  deriving DecidableEq, Repr

/-- Which crossing limit of Table CP-2 is broken. -/
inductive CrossKind where
  | frequency | supply | temperature
  deriving DecidableEq, Repr

/-- Why an island is reset (Table CP-7). -/
inductive IslandCause where
  | irst | watchdog | progUncorrectable | pilotUncorrectable
  deriving DecidableEq, Repr

/-- A watched rail (Table CP-6): the VDD_CORE of one die, or a shared rail. -/
inductive Rail where
  | core (die : Die) | sram | serA | serH | io | hbm
  deriving DecidableEq, Repr

/-- What the boot finds (R433): the numerics level of the harbourmaster image, which images pass their signature check, and what stands in
the EEPROM, the board configuration and the event-recorder flash (R487, R447, R472). -/
structure BootInfo where
  numlvl   : BitVec 8
  imageOkA : Bool
  imageOkB : Bool
  pilotOkA : Bool
  pilotOkB : Bool
  eepromOk : Bool
  regs     : List (Die × BitVec 16)
  monitors : Bool
  fast     : Bool
  subsys   : BitVec 32
  flashOk  : Bool
  deriving DecidableEq, Repr

end Sys2Proof
end

