-- ==== Sys2Proof/Syntax.lean ====
section
/-! DEFINITION. The commands of the block: one constructor for each row of spec/opcode_table.json. `t` is the fabric time
at which the command happens (log entry 3). A register write carries the whole value written; a received cell, slot or
training word is carried as it arrives; a detector or a timer that fires is a command of its own. -/

namespace Sys2Proof

inductive Instr where
  -- host commands (R384)
  | jobLoad (t : Time) (h : HostCmd)
  | jobStart (t : Time) (h : HostCmd)
  | jobStop (t : Time) (h : HostCmd)
  | jobStopped (t : Time) (slot : Slot)
  | jobQuota (t : Time) (h : HostCmd)
  | collDefine (t : Time) (h : HostCmd)
  | tideLoad (t : Time) (h : HostCmd)
  | stateWrite (t : Time) (h : HostCmd)
  | stateRead (t : Time) (h : HostCmd)
  | shardEncode (t : Time) (h : HostCmd) (peers : List ShardIn) (lost : Bool)
  | shardRebuild (t : Time) (h : HostCmd) (peers : List ShardIn) (lost : Bool)
  | stepReplay (t : Time) (h : HostCmd)
  | stepReplayDone (t : Time) (slot : Slot)
  | tileSelftest (t : Time) (h : HostCmd)
  | fwStage (t : Time) (h : HostCmd)
  | fwActivate (t : Time) (h : HostCmd)
  | fwActivation (t : Time) (started : Bool)
  | traceArm (t : Time) (h : HostCmd)
  | traceStop (t : Time) (h : HostCmd)
  | traceCopyOut (t : Time) (h : HostCmd)
  | dump (t : Time) (h : HostCmd)
  | telemDrain (t : Time) (h : HostCmd)
  -- rings and the host port (R373 to R395)
  | doorbellPoll (t : Time) (ring : Fin 10) (word : Option (BitVec 128))
  | descriptorPickup (t : Time) (ring : Fin 8) (desc : Option (BitVec 512)) (l1 : Option (List Byte)) (l2 : List (Option (List Byte)))
  | msixTimedMessage (t : Time) (ring : Fin 10)
  | ringEnable (t : Time) (ring : Fin 10) (v : Word)
  | ringDisable (t : Time) (ring : Fin 10) (v : Word)
  | functionLevelReset (t : Time)
  | hotReset (t : Time)
  | linkDown (t : Time)
  | perstN (t : Time)
  | harbourmasterRestart (t : Time)
  -- tides and the switch core (R256 to R287)
  | tideEnable (t : Time) (v : Word)
  | tideDisable (t : Time) (v : Word)
  | tideBankSwitch (t : Time)
  | tideHoldEnd (t : Time)
  | tideSlot (t : Time)
  | matchQuad (t : Time)
  -- links (R316 to R352)
  | slotReceived (t : Time) (set : PSet) (rx : SlotRx)
  | replayTimeout (t : Time) (set : PSet)
  | wreq (t : Time) (set : PSet) (width : BitVec 2)
  | wack (t : Time) (set : PSet)
  | wdraw (t : Time) (set : PSet)
  | switch (t : Time) (set : PSet)
  | rtreq (t : Time) (set : PSet)
  | rtack (t : Time) (set : PSet)
  | fecon (t : Time) (set : PSet)
  | fecoff (t : Time) (set : PSet)
  | fecack (t : Time) (set : PSet)
  | portEnable (t : Time) (port : Port) (v : Word)
  | portDisable (t : Time) (port : Port) (v : Word)
  | portRetrain (t : Time) (set : PSet) (v : Word)
  | fecRequest (t : Time) (set : PSet) (v : Word)
  | widthRequest (t : Time) (set : PSet) (v : Word)
  | loopbackRequest (t : Time) (set : PSet) (v : Word)
  | trainingWord (t : Time) (set : PSet) (lane : Fin 8) (word : BitVec 128) (crc : Word) (m : TrainMeas)
  | trainingPhaseTimeout (t : Time) (set : PSet)
  | trainingRetry (t : Time) (set : PSet)
  | lossOfSignal (t : Time) (set : PSet) (lane : Fin 8)
  | lossOfLock (t : Time) (set : PSet) (lane : Option (Fin 8))
  | frameLoss (t : Time) (set : PSet) (lane : Fin 8)
  | laneLost (t : Time) (set : PSet) (lane : Fin 8)
  | marginScan (t : Time) (set : PSet) (lane : Fin 8) (height : BitVec 8) (width : BitVec 8)
  | wakeSignal (t : Time) (set : PSet)
  -- sleep, discovery, routing, time, tide agreement (R288 to R315)
  | sleepRequestLight (t : Time) (port : Port) (v : Word)
  | sleepRequestDeep (t : Time) (port : Port) (v : Word)
  | wakeCommand (t : Time) (port : Port) (v : Word)
  | sleep (t : Time) (port : Port) (c : Cell)
  | sleepAck (t : Time) (port : Port) (c : Cell)
  | sleepNak (t : Time) (port : Port) (c : Cell)
  | sleepTimeout (t : Time) (port : Port)
  | sleepEntryDone (t : Time) (port : Port)
  | sleepExitDone (t : Time) (port : Port)
  | hello (t : Time) (port : Port) (c : Cell)
  | helloTimer (t : Time)
  | adjacencyTimeout (t : Time) (port : Port)
  | endpointDetect (t : Time) (port : Port)
  | lsaOriginate (t : Time)
  | lsaPart (t : Time) (port : Port) (c : Cell)
  | lsaAck (t : Time) (port : Port) (c : Cell)
  | lsaRetransmit (t : Time) (port : Port)
  | lsaExpiry (t : Time)
  | routeInstall (t : Time)
  | timeExchange (t : Time)
  | timeReq (t : Time) (set : PSet) (c : Cell) (arrival : BitVec 64)
  | timeResp (t : Time) (set : PSet) (c : Cell) (arrival : BitVec 64)
  | startTideExchange (t : Time) (slot : Slot) (port : Port) (x : Option (Cell × BitVec 64))
  | tideReady (t : Time) (dev : BitVec 12) (c : Cell)
  | tideDecision (t : Time)
  | tideGo (t : Time) (c : Cell)
  | tideCancel (t : Time) (c : Cell)
  | tideWithdraw (t : Time) (dev : BitVec 12) (c : Cell)
  | tideGoDeadline (t : Time)
  | ppsEdge (t : Time)
  | ppsLoss (t : Time)
  | devEnable (t : Time) (v : Word)
  | devDisable (t : Time) (v : Word)
  | devIdWrite (t : Time) (v : Word)
  | fallbackId (t : Time)
  -- cells at the tiles, buffers (R101 to R127, R205, R270 to R286)
  | contributionCell (t : Time) (port : Port) (c : Cell)
  | partialCell (t : Time) (tile : LTile) (c : Cell)
  | egressCell (t : Time) (tile : LTile) (c : Cell)
  | shuffleFragment (t : Time) (port : Port) (c : Cell)
  | passCell (t : Time) (port : Port) (lbl : BitVec 14) (c : Cell)
  | unscheduledCell (t : Time) (port : Port) (c : Cell)
  | creditHoldRetry (t : Time) (tile : LTile)
  | slipLimit (t : Time) (set : PSet)
  | bufferFree (t : Time) (tile : LTile) (addr : Word)
  | auditorStep (t : Time) (tile : LTile)
  -- firing and completion (R114 to R123), the step gate (R134 to R170)
  | launch (t : Time) (port : Port) (c : Cell)
  | prearmedFiring (t : Time) (slot : Slot) (coll : BitVec 12)
  | lateDeadline (t : Time) (slot : Slot) (coll : BitVec 12)
  | statSend (t : Time) (slot : Slot) (coll : BitVec 12)
  | statCell (t : Time) (dev : BitVec 12) (c : Cell)
  | verdictDeadline (t : Time) (slot : Slot)
  | twinDecision (t : Time) (c : Cell)
  | stepVerdict (t : Time) (c : Cell)
  | instanceVerdict (t : Time) (c : Cell)
  | commitWordAck (t : Time) (slot : Slot)
  | clipOrder (t : Time) (c : Cell)
  -- engine instructions at the head of a command queue (R198 to R229)
  | nop (t : Time) (tile : LTile) (slot : Slot) (cq : Fin 8)
  | barrier (t : Time) (tile : LTile) (slot : Slot) (cq : Fin 8)
  | barrierRelease (t : Time) (tile : LTile) (slot : Slot)
  | wait (t : Time) (tile : LTile) (slot : Slot) (cq : Fin 8)
  | waitRelease (t : Time) (tile : LTile) (slot : Slot) (cq : Fin 8)
  | cvt (t : Time) (tile : LTile) (slot : Slot)
  | qnt (t : Time) (tile : LTile) (slot : Slot)
  | addw (t : Time) (tile : LTile) (slot : Slot)
  | maxl (t : Time) (tile : LTile) (slot : Slot)
  | minl (t : Time) (tile : LTile) (slot : Slot)
  | fastsum (t : Time) (tile : LTile) (slot : Slot)
  | proj (t : Time) (tile : LTile) (slot : Slot) (arr : Fin 4)
  | recon (t : Time) (tile : LTile) (slot : Slot) (arr : Fin 4)
  | elem (t : Time) (tile : LTile) (slot : Slot)
  | stat (t : Time) (tile : LTile) (slot : Slot)
  | opt (t : Time) (tile : LTile) (slot : Slot)
  | ortho (t : Time) (tile : LTile) (slot : Slot) (arr : Fin 4)
  | digest (t : Time) (tile : LTile) (slot : Slot)
  | spill (t : Time) (tile : LTile) (slot : Slot)
  | spillAck (t : Time) (tile : LTile) (acc : Fin 2048)
  | resume (t : Time) (tile : LTile) (slot : Slot)
  | resumeDone (t : Time) (tile : LTile) (acc : Fin 2048)
  | send (t : Time) (tile : LTile) (slot : Slot)
  | mcast (t : Time) (tile : LTile) (slot : Slot)
  -- the pilot core (R221 to R229, R467)
  | triggerDispatch (t : Time) (tile : LTile)
  | tpcmdhiWrite (t : Time) (tile : LTile) (v : Word)
  | tprunbWrite (t : Time) (tile : LTile) (v : Word)
  | tpevqRead (t : Time) (tile : LTile)
  | tpflagWrite (t : Time) (tile : LTile) (v : Word)
  | tpaccrelWrite (t : Time) (tile : LTile) (v : Word)
  | tpcellpopWrite (t : Time) (tile : LTile) (v : Word)
  | tpcellsendWrite (t : Time) (tile : LTile) (v : Word)
  | tpwdogWrite (t : Time) (tile : LTile) (v : Word)
  | pilotWatchdog (t : Time) (tile : LTile)
  | queueWatchdog (t : Time) (tile : LTile) (slot : Slot) (cq : Fin 8)
  -- twin operation (R353 to R372)
  | twinEnable (t : Time) (v : Word)
  | twinDisable (t : Time) (v : Word)
  | twinCmdOut (t : Time) (v : Word)
  | twinCmdResync (t : Time) (v : Word)
  | twinCmdRejoin (t : Time) (v : Word)
  | moor (t : Time) (half : Fin 2) (c : Cell)
  | moorTimer (t : Time)
  | moorTimeout (t : Time)
  | digestCell (t : Time) (c : Cell)
  | digestCompareTimeout (t : Time) (slot : Slot) (coll : BitVec 12)
  | jobnoteOut (t : Time) (c : Cell)
  | jobnoteServe (t : Time) (c : Cell)
  | jobnoteQuery (t : Time) (c : Cell)
  | jobnoteReply (t : Time) (c : Cell)
  | queryTimeout (t : Time) (slot : Slot)
  | xferReq (t : Time) (c : Cell)
  | xferGrant (t : Time) (c : Cell)
  | xferWithdraw (t : Time) (c : Cell)
  | xferRejoin (t : Time) (c : Cell)
  | xferEnd (t : Time) (c : Cell)
  | copy (t : Time) (c : Cell)
  | resyncPassEnd (t : Time)
  -- dependability (R439 to R456)
  | spareGo (t : Time) (v : Word)
  | retireClear (t : Time) (die : Die) (v : DWord)
  | tileAlarm (t : Time) (p : Phys) (cause : AlarmCause)
  | droop (t : Time) (p : Phys) (depth : BitVec 16)
  | timingWarning (t : Time) (p : Phys) (slack : BitVec 8)
  | timingAlarm (t : Time) (p : Phys) (slack : BitVec 8)
  | patrolScrub (t : Time) (f : ScrubFind)
  -- clocks, power, reset (R412 to R438, R489, R498)
  | oppRequest (t : Time) (p : Phys) (v : Word)
  | autoOppSelect (t : Time) (p : Phys) (demand : Nat)
  | voutReached (t : Time) (die : Die)
  | crossingLimitBreach (t : Time) (p : Phys) (q : Phys) (kind : CrossKind)
  | limitHoldRelease (t : Time) (p : Phys)
  | neighbourRaise (t : Time) (p : Phys) (q : Phys)
  | gateIsland (t : Time) (p : Phys) (v : Word)
  | wakeIsland (t : Time) (p : Phys) (v : Word)
  | islandWakeDone (t : Time) (p : Phys)
  | islandReset (t : Time) (p : Phys) (cause : IslandCause)
  | refclkLost (t : Time) (die : Die)
  | brownoutWarning (t : Time) (rail : Rail) (lowest : BitVec 16) (duration : Word)
  | brownoutHoldEnd (t : Time)
  | brownoutReset (t : Time) (kept : Bool) (pins : ColdPins)
  | coldReset (t : Time) (pins : ColdPins)
  | warmReset (t : Time)
  | bootWatchdog (t : Time)
  | bootReady (t : Time) (b : BootInfo)
  | overtempWarning (t : Time) (p : Phys) (temp : BitVec 16)
  | thermalTrip (t : Time) (p : Phys)
  -- registers (R399 to R411, R457 to R475)
  | lowHalfRead (t : Time) (addr : Word) (size : Nat)
  | lowHalfWrite (t : Time) (addr : Word) (v : Word)
  | highHalfWrite (t : Time) (addr : Word) (v : Word)
  | registerWrite (t : Time) (bus : RegBus) (addr : Word) (size : Nat) (v : DWord)
  | accessError (t : Time) (addr : Word) (size : Nat) (write : Bool)
  | diagWindowRead (t : Time) (off : Word) (size : Nat)
  | hwmCounterWrite (t : Time) (addr : Word) (v : Word)
  | counterClear (t : Time) (v : Word)
  | attributionClear (t : Time) (v : Word)
  | profileSelect (t : Time) (k : Fin 8) (v : Word)
  | evrCursorWrite (t : Time) (v : DWord)
  | evrWindowLoaded (t : Time)
  | sealedClear (t : Time) (v : Word) (verifies : Bool)
  | evrClearEraseDone (t : Time)
  | tokenArrival (t : Time) (code : BitVec 16)
  | flashRecordProgram (t : Time) (ok : Bool)
  -- sideband (R484 to R491)
  | smbReadIdcode (t : Time)
  | smbReadSerial (t : Time)
  | smbReadStatus (t : Time)
  | smbReadTemp (t : Time)
  | smbReadPower (t : Time) (watts : BitVec 16)
  | smbReadHbmTemp (t : Time) (temp : BitVec 16)
  | smbUnsupported (t : Time) (cmd : Byte) (write : Bool)
  | smbAlertResponse (t : Time)
  | smbTimeout (t : Time)
  | i2cBusClear (t : Time) (sda : List Bool)
  | i2cStuckRetry (t : Time) (sda : List Bool)
  | idcode (t : Time)
  | samplePreload (t : Time)
  | extest (t : Time)
  | extestPulse (t : Time)
  | extestTrain (t : Time)
  | clamp (t : Time)
  | highz (t : Time)
  | flashprog (t : Time)
  | bypass (t : Time) (opcode : Byte)
  -- ends of steps begun by other commands
  | harbourmasterRestartEnd (t : Time)
  | activationTimeout (t : Time)
  | farEndDetect (t : Time) (set : PSet)
  | clockLock (t : Time) (set : PSet)
  | blockLock (t : Time) (set : PSet) (lane : Fin 8)
  | blockLockLoss (t : Time) (set : PSet) (lane : Fin 8)
  | ppsOut (t : Time)
  | oppChangeDone (t : Time) (p : Phys)
  | fwStageDone (t : Time) (programmed : Bool) (verifies : Bool)
  | selftestDone (t : Time) (done : TestEnd) (expected : Word)
  | spareMemoryTestDone (t : Time) (done : SpareTest)
  | islandResetDone (t : Time) (p : Phys)
  deriving DecidableEq, Repr

end Sys2Proof
end

