-- ==== Sys2Proof/Decode.lean ====
section
/-! DEFINITION. The table's rows give no bits ("fields" is empty and "fixed" absent in every row), so no word spells a
command. -/

namespace Sys2Proof

/-- The command that a word of the table spells: none, as no row of spec/opcode_table.json gives bits. -/
def decodeTableWord (_nbits _w : Nat) : Option Instr := none

end Sys2Proof
end

