-- ==== Sys2Proof/Config.lean ====
section
/-! DEFINITION. What one implementation fixes and the values the spec leaves free. Free values have no body: no proof can
use what they are (log entry 2). -/

namespace Sys2Proof

/-- The new random value EVR_NONCE takes after the n-th draw (R474). -/
opaque Config.freeNonce : Nat → BitVec 64

/-- A value the spec does not state, the n-th one drawn (log entry 2). -/
opaque Config.freeWord : Nat → BitVec 96

end Sys2Proof
end

