-- ==== Sys2Proof/Machine/Tbl.lean ====
section
/-! DEFINITION. Sparse tables in one canonical form: keys strictly rising, no entry equal to what an unlisted key reads as.
Every memory and every large array of the state is one of these, so equal contents are equal data. -/

namespace Sys2Proof.Machine

/-- A sparse table from numbers to values; what an unlisted key reads as is given at each use. -/
abbrev Tbl (α : Type) := List (Nat × α)

/-- Byte memory; an unlisted byte reads 0 (log entry 7). -/
abbrev Mem := List Host.Cell

/-- The value at key k, with d for an unlisted key. -/
def Tbl.get {α : Type} (d : α) : Tbl α → Nat → α
  | [], _ => d
  | (j, v) :: rest, k => if j = k then v else Tbl.get d rest k

/-- The table without key k. -/
def Tbl.del {α : Type} (k : Nat) : Tbl α → Tbl α
  | [] => []
  | (j, v) :: rest => if j = k then Tbl.del k rest else (j, v) :: Tbl.del k rest

/-- The table with (k, v) put before the first greater key. -/
def Tbl.ins {α : Type} (k : Nat) (v : α) : Tbl α → Tbl α
  | [] => [(k, v)]
  | (j, w) :: rest => if k < j then (k, v) :: (j, w) :: rest else (j, w) :: Tbl.ins k v rest

/-- The table with v at key k; the canonical form is kept. -/
def Tbl.set {α : Type} [DecidableEq α] (d : α) (t : Tbl α) (k : Nat) (v : α) : Tbl α :=
  if v = d then Tbl.del k t else Tbl.ins k v (Tbl.del k t)

/-- Every key is at least lo, keys rise strictly, and no value is d. -/
def Tbl.wfFrom {α : Type} [DecidableEq α] (d : α) : Nat → Tbl α → Bool
  | _, [] => true
  | lo, (j, v) :: rest => decide (lo ≤ j) && decide (v ≠ d) && Tbl.wfFrom d (j + 1) rest

/-- The canonical form. -/
def Tbl.wf {α : Type} [DecidableEq α] (d : α) (t : Tbl α) : Bool := Tbl.wfFrom d 0 t

/-- Change the value at key k by f. -/
def Tbl.upd {α : Type} [DecidableEq α] (d : α) (t : Tbl α) (k : Nat) (f : α → α) : Tbl α :=
  Tbl.set d t k (f (Tbl.get d t k))

/-- The byte at address a. -/
def Mem.read (m : Mem) (a : Nat) : Byte := Tbl.get (0 : Byte) m a

/-- Write one byte. -/
def Mem.write (m : Mem) (a : Nat) (b : Byte) : Mem := Tbl.set (0 : Byte) m a b

/-- The canonical form of a memory. -/
def Mem.wf (m : Mem) : Bool := Tbl.wf (0 : Byte) m

/-- n bytes from address a, lowest address first. -/
def Mem.readN (m : Mem) (a n : Nat) : List Byte := (List.range n).map (fun k => Mem.read m (a + k))

/-- Write bytes from address a on, first byte lowest. -/
def Mem.writeN (m : Mem) (a : Nat) : List Byte → Mem
  | [] => m
  | b :: bs => Mem.writeN (Mem.write m a b) (a + 1) bs

/-- Little-endian number of a byte list (R3). -/
def leNat : List Byte → Nat
  | [] => 0
  | b :: bs => b.toNat + 256 * leNat bs

/-- The n low bytes of x, least significant first (R3). -/
def leBytes : Nat → Nat → List Byte
  | 0, _ => []
  | n + 1, x => BitVec.ofNat 8 (x % 256) :: leBytes n (x / 256)

end Sys2Proof.Machine
end

