-- ==== Sys2Proof/Machine/State.lean ====
section
/-! DEFINITION. The state of the block: every register, memory, queue, counter, mode and pin of INVENTORY.md, as plain data. -/

namespace Sys2Proof.Machine

/-! ### Device block (15 R403, 11 Table FB-1) -/

/-- DEV_STAT.STATE (Table RG-6). -/
inductive DevSt where
  | boot | ready | enabled | withdrawn | restart
  deriving DecidableEq, Repr

/-- A consistency check that waits for the end of BOOT or RESTART (R406). -/
inductive WaitCheck where
  | dev | port (n : Nat) | ring (n : Nat) | tide | twin
  deriving DecidableEq, Repr

/-- Steps of a live move (R446). -/
inductive MoveStage where
  | waking | testing
  deriving DecidableEq, Repr

/-- A live move of a logical tile in progress (R446): from a physical tile to a spare one. -/
structure Move where
  tile  : Nat
  old   : Nat
  new   : Nat
  stage : MoveStage
  deriving DecidableEq, Repr

/-- A self-test in progress (R450): the physical tile or port set, its level, and how it was asked for. -/
structure SelfTest where
  lanes : Bool
  unit  : Nat
  level : Nat
  ltile : Option Nat
  deriving DecidableEq, Repr

structure Dev where
  serial : BitVec 64
  fwHm : Word
  fwPc : Word
  numlvl : BitVec 8
  pcslot : Bool
  hmslot : Bool
  twinSel : Bool
  fabPos : BitVec 6
  noFb : Bool
  en : Bool
  reason : BitVec 16
  st : DevSt
  before : DevSt              -- the state RESTART returns to
  dwmiss : Bool
  accerr : Bool
  w1cAt : Tbl Nat             -- 1 + time at which DWMISS (0), ACCERR (1) or DUP (2) was last set (R5)
  waiting : List WaitCheck
  idValid : Bool
  idSource : BitVec 2
  idDup : Bool
  id : BitVec 12
  dwTarget : BitVec 8
  dwIndex : BitVec 16
  fused : List Nat            -- physical tiles fused off at test
  retired : List Nat          -- physical tiles a live move has left (R404)
  place : List (Option Nat)   -- physical tile of logical tile 0 .. 127 (R11)
  moves : List Move           -- live moves in progress (R446)
  tests : List SelfTest       -- self-tests in progress (R450)
  failed : List Nat           -- physical tiles that a self-test left out of service (R450)
  resetting : List Nat        -- physical tiles whose island reset is in progress
  rdata : DWord               -- what the last read returned
  rshadow : Tbl Word          -- read shadows by register address (R401)
  wshadow : Tbl (Option Word) -- write shadows by register address (R402)
  bootAt : Time
  readyAt : Option Time
  deriving DecidableEq, Repr

/-! ### Tide block (10 R263 to R274, 11 R308 to R310) -/

/-- A tide bank (Tables SW-5 to SW-7): header fields, slice map, entries keyed by T x column + slot. -/
structure TideBank where
  len : Nat
  device : BitVec 12
  crc : Word
  tableid : Word
  slices : Tbl Word
  ents : Tbl Word
  deriving DecidableEq, Repr

/-- A device's readiness as the coordinator records it (R310). -/
structure ReadyRec where
  dev : BitVec 12
  tide : BitVec 48
  len : Word
  tableid : Word
  deriving DecidableEq, Repr

structure Tide where
  en : Bool
  active : Bool               -- bank in force
  reason : BitVec 16
  hold : Bool
  pending : Bool
  staged : Bool
  switchAt : BitVec 48
  now : Nat                   -- TIDE_NOW, modulo 2^48 when read
  start : Nat                 -- fabric time at which tide `now` began, in fifths of 2^-16 ns (a slot is 786,432 of them)
  len : Nat                   -- T the fabric counts (R308)
  bank0 : TideBank
  bank1 : TideBank
  go : Bool                   -- GO received for the pending switch
  ready : List ReadyRec       -- coordinator: devices ready
  withdrawn : List (BitVec 12)
  twinReady : Option ReadyRec -- the twin coordinator's plane is ready
  asked : Option (BitVec 48)  -- readiness exchanged with the twin for this switch tide
  decided : Option (BitVec 48)
  switchedAt : Time
  base : Nat                  -- first position of tide `now`, positions being counted on through tides and switches
  switchPos : Nat             -- first position of the last switch, in that count
  deriving DecidableEq, Repr

/-! ### Host interface (14) -/

/-- RING_STAT.STATE (Table HI-13). -/
inductive RingSt where
  | disabled | running | paused | stalled | draining | fault
  deriving DecidableEq, Repr

/-- A completion that waits for room (R378): its 32 bytes without SEQ, its descriptor's IRQ, and whether the host answers. -/
structure Compl where
  bits : BitVec 256
  irq : Bool
  ok : Bool
  deriving DecidableEq, Repr

structure Ring where
  base : DWord
  cbase : DWord
  size : BitVec 4
  vec : BitVec 6
  coal : BitVec 8
  irqen : Bool
  en : Bool
  reason : BitVec 16
  st : RingSt
  before : RingSt             -- the state PAUSED returns to
  cpi : Word
  fetch : Word
  pi : Word
  cci : Word
  hint : Bool
  interval : Nat              -- ns to the next poll
  waiting : List Compl
  unsent : Bool               -- a completion whose message has not been sent (R390)
  coalN : Nat                 -- completions since the last one that COAL announced
  fence : Option (BitVec 512) -- a fenced descriptor that is fetched and has not begun (R380)
  deriving DecidableEq, Repr

/-- A command in execution (R380), or waiting for its completion: where its descriptor stood, and the descriptor. -/
structure Exec where
  ring : Nat
  index : Word
  desc : BitVec 512
  ents : List (Nat × Nat)     -- data entries of its buffer: address and length (R382)
  started : Bool              -- its STARTED completion is written (R387)
  mute : Bool                 -- its completion is lost: its ring was reset or faulted (R392, R394)
  deriving DecidableEq, Repr

/-- A record on its way into an output ring (R391): its command, chunks not yet in slots, slots written. -/
structure OutRun where
  x : Exec
  rest : List (List Byte)
  n : Nat
  deriving DecidableEq, Repr

structure HostIf where
  rings : Tbl Ring
  outs : Tbl (Option OutRun)  -- by output ring
  dbbase : DWord
  exec : List Exec
  lastRing : Nat
  msix : Tbl (BitVec 128)
  pba : BitVec 64
  sent : List (BitVec 6)      -- MSI-X messages sent, newest first
  subsys : BitVec 32
  deriving DecidableEq, Repr

/-! ### Twin (13) -/

/-- TWIN_STAT.DSTATE (Table TW-9). -/
inductive DState where
  | unmoored | moored | simplex
  deriving DecidableEq, Repr

/-- A twin digest record, this tile's or the twin's (Table TW-4). -/
structure DigRec where
  job : BitVec 12
  coll : BitVec 12
  epoch : BitVec 4
  tile : BitVec 7
  round : Bool
  count : BitVec 7
  fin : Bool                  -- END
  group : BitVec 16
  crc : Word
  deriving DecidableEq, Repr

/-- A transfer of a job's image (R366, R367). -/
structure Xfer where
  job : BitVec 12
  src : Bool
  granted : Bool
  passes : Nat                -- passes finished
  cur : List Nat              -- target: granules received in this pass
  ending : Bool               -- the pass in progress began after the rejoin commit
  deriving DecidableEq, Repr

structure Twin where
  en : Bool
  reason : BitVec 16
  dst : DState
  lastMoor : Time
  moorAt : Option Time        -- when the last MOORs were sent
  jobStep : BitVec 40
  jobTag : BitVec 12
  xfer : Option Xfer
  wanted : Option (BitVec 12) -- a transfer to ask for again after the twin's END
  withdrawn : Nat
  mine : List DigRec          -- open comparisons: records of this device
  theirs : List DigRec        -- records of the twin not yet matched
  twinSerial : BitVec 64
  stateOfTwin : BitVec 2
  deriving DecidableEq, Repr

/-! ### Ports and links (12, 10 R275 to R278, 11 R293 to R313) -/

/-- PORT_STAT.STATE (Table LN-10). -/
inductive PortSt where
  | disabled | detect | training | up | retrain | down | loopback | sleep
  deriving DecidableEq, Repr

/-- Phases of training (Table LN-5). -/
inductive Phase where
  | idle | detect | clock | eq | align | time | done
  deriving DecidableEq, Repr

/-- PORT_SLEEP.STATE (Table FB-7). -/
inductive SleepSt where
  | active | negotiating | light | deep
  deriving DecidableEq, Repr

/-- Sleep entry or exit under way (R312). -/
inductive SleepMove where
  | none | entering (wake : Bool) | exiting
  deriving DecidableEq, Repr

/-- Link adjacency (R293). -/
inductive Adj where
  | down | init | twoway
  deriving DecidableEq, Repr

/-- What a port's partner has shown itself to be (R294). -/
inductive PortKind where
  | unknown | endpoint | device
  deriving DecidableEq, Repr

/-- An own request outstanding on the link (R313, R333, R342). -/
inductive LinkReq where
  | width (w : BitVec 2) | retrain | fec (on : Bool)
  deriving DecidableEq, Repr

/-- A slot as sent or held for retry (R325, R327, R330): four cells, their labels, sequence number, credits, CTL. -/
structure TxSlot where
  cells : List Cell
  labels : List (BitVec 14)
  seq : BitVec 12
  credit : BitVec 3
  ctl : BitVec 4
  replays : Nat
  onTime : Nat                -- scheduled cells placed at their own positions and not yet slipped by a retry (R324, R331)
  deriving DecidableEq, Repr

/-- A scheduled cell placed at a transmit position (R271), or slipped (R266). -/
structure SchedCell where
  pos : Nat                   -- scheduled transmit position, counted through tides
  cell : Cell
  own : Bool                  -- launched from an output queue of this device
  deriving DecidableEq, Repr

/-- LANE_STAT (R349) with the lane's scramblers, run lengths, equalisation and lock. -/
structure Lane where
  ehmin : BitVec 8
  ewmin : BitVec 8
  los : Bool
  lol : Bool
  polinv : Bool
  inuse : Bool
  deskew : BitVec 8
  txScr : BitVec 31
  rxScr : BitVec 31
  txRun : BitVec 2 × Nat
  rxRun : BitVec 2 × Nat
  rx58 : BitVec 58            -- descrambler of compatibility coding (R335)
  tx58 : BitVec 58
  frames : Nat                -- consecutive training frames that passed (R338)
  locked : Bool               -- block lock of a compatibility lane (R335)
  healthy : Bool
  taps : BitVec 18            -- own transmitter: pre, main, post steps (R338, Table LN-7)
  eqReq : BitVec 8            -- EQREQ sent on the lane
  eqStat : BitVec 8           -- EQSTAT sent on the lane
  eqPeer : Bool               -- EQDONE received on the lane
  hdrs : Nat                  -- sync headers: valid in a row before lock, seen in the window of 64 after it (R335)
  badHdrs : Nat
  deriving DecidableEq, Repr

/-- An LSA part sent and not acknowledged (R297). -/
structure Unacked where
  cell : Cell
  sends : Nat
  at_ : Time
  deriving DecidableEq, Repr

/-- A cell in a queue, with the cell buffer of the tile that holds it. -/
structure QCell where
  cell : Cell
  buf : Option Nat
  deriving DecidableEq, Repr

/-- A scheduled cell of an RX PASS slot: its label, the receive position that names, and the tide entry of that position (R265, R270). -/
structure PassCell where
  label : BitVec 14
  pos : Nat
  entry : Word
  cell : Cell
  deriving DecidableEq, Repr

/-- The exchange of a job's start tide on a port (R307): job tag, tide, exchange number, and T1 once the REQ has left. -/
structure StartEx where
  tag : BitVec 12
  tide : BitVec 48
  seq : BitVec 16
  t1 : Option (BitVec 64)
  deriving DecidableEq, Repr

/-- Offset record (Table RG-12). -/
structure OffsetRec where
  theta : BitVec 64
  delay : BitVec 64
  job : BitVec 12
  tide : BitVec 48
  valid : Bool
  deriving DecidableEq, Repr

structure PortS where
  loop : BitVec 2
  fecRes : Bool
  fecAuto : Bool
  fec : Bool
  width : BitVec 2
  coding : Bool
  clk : Bool
  en : Bool
  reason : BitVec 16
  st : PortSt
  widthNow : BitVec 2
  laneSet : BitVec 8
  fecOn : Bool
  offV : Bool
  txOff : BitVec 14
  rxOff : BitVec 14
  tau : Bool
  rxd : BitVec 16
  asym : BitVec 16
  slpReason : BitVec 16
  slp : SleepSt
  autowake : Bool
  slpDeep : Bool
  slpMove : SleepMove
  slpAckSent : Bool
  slpAt : Time
  lanes : Tbl Lane
  phase : Phase
  phaseAt : Time
  short : Bool                -- a short retrain (R337)
  txSeed : BitVec 31
  rxSeed : BitVec 31
  peerDev : BitVec 12
  peerPort : BitVec 7
  peerEp : Bool
  peerSide : Bool
  nextWidth : BitVec 2
  txSeq : BitVec 12
  rxSeq : BitVec 12
  ackSeen : BitVec 12
  nak : Bool
  held : List TxSlot          -- retry buffer, oldest first
  replay : List TxSlot        -- slots still to be replayed
  replayedAck : Option (BitVec 12)
  heldAt : Time               -- last advance of ACK
  req : Option LinkReq
  ctlOut : List (BitVec 4)    -- handshake codes to send
  rxCtl : List (BitVec 4)     -- handshake codes received and not yet acted on
  fecReq : Option Bool        -- own thin FEC request outstanding (R333)
  switchOut : List LinkReq    -- changes that the next SWITCH slots sent bring, in order
  switchIn : List LinkReq     -- changes that the next SWITCH slots received bring
  rxWidth : BitVec 2          -- width, lane set and thin FEC of the receive direction
  rxLanes : BitVec 8
  rxFec : Bool
  txFree : Nat                -- when the next slot may be sent, in fifths of 2^-16 ns
  fecDue : Bool               -- a margin warning came during a short retrain (R351)
  timed : Bool                -- own measurement of TIME done (R339)
  flt : BitVec 16             -- own clock-lane flight
  tauReq : Option Bool        -- τ requested of the partner in this TIME (R339)
  tauSet : Bool               -- τ requested in the last TIME that ended
  credits : Nat               -- unscheduled credits held toward the partner
  owed : Nat                  -- credits to return
  staged : List QCell         -- unscheduled arrivals staged, oldest first
  creditHold : Bool
  rxCells : List (BitVec 14 × Cell) -- cells received and not yet at their consumer, with labels
  passCells : List PassCell   -- scheduled cells received in RX PASS slots and not yet forwarded (R270)
  schedQ : List SchedCell
  slipQ : List SchedCell
  ctlQ : List Cell
  mgmtQ : List Cell
  unsQ : List Cell
  void : Bool                 -- the slot of this time is a VOID slot (R324)
  again : Option TxSlot       -- slot put back by a stuff overrun
  adj : Adj
  adjDev : BitVec 12
  adjPort : BitVec 7
  adjSerial : BitVec 64
  planeBad : Bool
  lastHello : Time
  kind : PortKind
  upAt : Time
  peerTide : Option (BitVec 48 × Word × BitVec 64) -- TIDE, T, TSTART of the last HELLO
  peerHops : BitVec 4
  peerLock : Bool
  unacked : List Unacked
  offset : OffsetRec
  wire : Option TxSlot        -- the slot last put on the lanes
  symbols : List (List (BitVec 2)) -- the symbols on the lanes, one list a lane: a slot's, a training frame's, or a loopback's
  blocks : List (List (BitVec 66)) -- the blocks a compatibility port put on its lanes (R335)
  trainOut : Option (BitVec 128)   -- the training word last sent, as on lane 0
  wakeOut : Bool              -- the wake signal is being sent (R346)
  owesRetrain : Bool          -- the short retrain of R341, which the port could not ask for yet
  startEx : Option StartEx    -- the start-tide exchange under way (R307)
  woken : Bool                -- the partner's wake signal came while the port was NEGOTIATING (R314)
  timeRun : Bool              -- TIME has run while this device was locked, and since the partner's last word that it was not (R341)
  deriving DecidableEq, Repr

/-! ### Fabric (11) -/

/-- An LSA as held (R297, R298): the parts of one LSEQ, each a payload. -/
structure Lsa where
  origin : BitVec 12
  lseq : Word
  serial : BitVec 64
  np : Nat
  parts : Tbl Payload
  at_ : Time
  deriving DecidableEq, Repr

structure Fabric where
  lseq : Word
  originAt : Time
  changedAt : Option Time     -- last change of an adjacency or width not yet advertised
  db : List Lsa               -- newest LSA of each origin, complete or not
  full : List Lsa             -- newest complete LSA of each origin
  dbAt : Option Time          -- last change of the database not yet in the routing table
  routes : Tbl DWord
  tlock : Bool
  hops : BitVec 4
  parent : Option Nat
  root : Option (BitVec 12)
  exch : BitVec 16
  sentT1 : Option (BitVec 64)
  exchAt : Option Time
  helloAt : Option Time
  slew : Int                  -- rate correction in ppm (R305)
  groups : Tbl (BitVec 256)
  gptr : Tbl Nat
  aptr : Tbl Nat
  hmRx : List Cell            -- routed cells delivered to the harbourmaster
  ctlHeld : Tbl (List (Cell × Nat)) -- control cells that tiles hold for ports, with the copies still to send (R275, R280)
  reqSeq : BitVec 16          -- exchange number of the last REQ to the parent (R304)
  deriving DecidableEq, Repr

/-! ### Logical tiles (04, 08, 10, 18) -/

/-- Accumulator tile (R76, R80, R81), with the segment it holds (R78, R89), the member contributions whose last-of-chunk cells have
been folded into it, and the parity of the pass it was last added to in (R111). -/
structure Acc where
  tag : Word
  seg : Nat
  folds : Nat
  par : Bool
  top : Nat                   -- highest pass, counted from 1, of which it has taken an add (R88)
  hat : Bool                  -- a segment of Ĝ (R190), not of the summed tensor
  written : BitVec 192
  elems : Tbl (BitVec 96)
  deriving DecidableEq, Repr

/-- An entry of a vector queue or matrix feed (R202): payload word, scale bytes of an MX word, descriptor; of a partial, the member
contributions folded into it (R111). -/
structure Ent where
  pay : Payload
  scale : BitVec 48
  bind : BitVec 6
  chunk : BitVec 20
  idx : BitVec 40
  valid : Nat
  fmt : BitVec 4
  par : Bool
  esc : Option (Fin 4)        -- part of an escalated cell, and
  part : Nat                  -- its part count
  fold : Nat
  trip : Bool                 -- triples of Table XR-6 (R79)
  void : Bool
  deriving DecidableEq, Repr

/-- What waits in a command queue (R198, R221): instruction, identifier word, dispatch order, relocation overflow; units of
its count done so far, whether it is being skipped (R214), and whether its operation is done and its completion waits. -/
structure CqEnt where
  insn : DWord
  lop : Word
  order : Nat
  bad : Bool
  done : Nat
  skipped : Bool
  held : Bool
  deriving DecidableEq, Repr

/-- An instruction that waits for room in its command queue (R223, R227); `head`: the first of those that one write dispatches. -/
structure Disp where
  slot : Nat
  insn : DWord
  lop : Word
  bad : Bool
  head : Bool
  deriving DecidableEq, Repr

/-- The band that an ORTHO sends to another tile of its group (R192): destination tile and binding there, job slot and binding here, the base of the
working set, the phase, the next cell and their number. -/
structure BandRun where
  dest : Nat
  peer : Nat
  slot : Nat
  bind : Nat
  acc : Nat
  phase : Nat
  next : Nat
  total : Nat
  deriving DecidableEq, Repr

/-- A running digest (R209, R357): SET 0 keeps its cells' CRC state, count in the group and groups closed. -/
structure Dig where
  set : Nat
  bind : BitVec 6
  round : Bool
  crc : Word
  count : Nat
  groups : Nat
  deriving DecidableEq, Repr

/-- Row statistics kept by a drain (R97, R99). -/
structure RowStat where
  row : Nat
  ssq : Nat
  maxmag : Nat
  deriving DecidableEq, Repr

/-- One job on one tile: its grant (R240, R241), queues, barriers, flags and statistics. -/
structure TJob where
  loaded : Bool
  iq : List Nat               -- physical input queues, by local name
  vq : List Nat
  oq : List Nat
  bslots : List Nat           -- physical binding slots, by local index
  accBase : Nat
  accCount : Nat
  cells : Nat                 -- cell-buffer grant B
  progUnits : List Nat        -- 1 KiB units of program memory that hold its image, in order
  nbind : Nat
  ntrig : Nat
  ninsn : Nat
  ncdir : Nat
  mset : BitVec 3
  cqs : Tbl (List CqEnt)      -- command queues 0 .. 7
  lastDone : Tbl Time         -- last completion of a command queue (R467)
  orders : Nat                -- instructions dispatched so far
  flags : BitVec 32
  groupAt : List (BitVec 12 × BitVec 4 × BitVec 8) -- group barriers this tile has reached, by collective, epoch and number (R219)
  escUsed : Tbl Nat           -- escalated cells of the running instance by 2^20 x binding + chunk (R50)
  digs : List Dig
  contribs : List (Nat × Cell) -- contributions whose DIGEST of SET 1 is still to come: their digest's number in the manifest, and the cell (R168, R209)
  rows : List (Nat × RowStat) -- by binding
  runs : Tbl (List Word)      -- run sums that a cell has left open, by binding, one for each column of P (R180)
  streams : Tbl Payload       -- band cells that ORTHO has popped, by 2^20 x binding + place in the matrix (R192)
  ghat : Tbl Nat              -- next element of Ĝ that RECON forms, by binding
  sqs : Tbl (Nat × Nat)       -- sum of squares of an ORTHO band in units of 2^-298, by 2 x binding + round; 1 infinite, 2 NaN
  deriving DecidableEq, Repr

/-- What a cell buffer was allocated for: a job's scheduled or unscheduled cell (R243), or a reserve of R275. -/
inductive BufOwner where
  | job (slot : Nat) (uns : Bool) | staged | control | twin | transit
  deriving DecidableEq, Repr

/-- Cell buffer of the pool (R281). -/
structure Buf where
  state : Bool
  count : Nat
  onList : Bool
  owner : Option BufOwner
  suspect : Bool              -- found held by nothing on the last pass (Table SW-14)
  deriving DecidableEq, Repr

/-- A RESUME whose record is being read (R81, R90). -/
structure Resuming where
  acc : Nat
  slot : Nat
  ord : Nat
  coll : BitVec 12
  epoch : BitVec 4
  seg : BitVec 20
  wlsb : BitVec 16
  drop : Bool                 -- aborted: the data is discarded
  deriving DecidableEq, Repr

/-- A snapshot of a tile (R468): cause, capture time, and sections 1 to 8. -/
structure Snap where
  cause : BitVec 16
  at_ : Time
  bytes : List Byte
  deriving DecidableEq, Repr

/-- A message of the pilot-core trace writer (R464). -/
structure TraceT where
  on : Bool
  since : Nat
  lastAt : Time
  lost : Nat
  pendLost : Nat
  deriving DecidableEq, Repr

structure TileS where
  inbox : List Cell           -- cells the exchange has delivered to the tile's programs
  accs : Tbl Acc
  bufs : Tbl Buf
  freeList : Option (List Nat) -- none: never used since reset, all buffers in ascending order
  audit : Nat
  jobs : Tbl TJob
  iqs : Tbl (List QCell)
  vqs : Tbl (List Ent)
  mqs : Tbl (List Ent)
  oqs : Tbl (List QCell)
  bind : Tbl (BitVec 256)
  prog : Mem
  cdir : Tbl DWord            -- directory entries by job slot x 2^17 + index in the image
  mset : BitVec 3
  spilling : List (Nat × Nat × Nat × Bool) -- accumulator tile, job slot, record, aborted
  resuming : List Resuming
  skips : List (BitVec 128)
  evq : List Word
  dispatchQ : List Disp       -- instructions that wait for room in their command queues, oldest first
  tpcmdlo : Word
  tpruna : Word
  tplop : Word
  tpcellsel : Word
  tpqsel : Word
  tpskip : Word
  xregs : Tbl Word            -- x1 .. x31
  csrs : Tbl Word             -- pc, mstatus, mie, mip, mcause, mepc, mtval by number 0 .. 6
  imem : Mem
  dmem : Mem
  mailbox : Mem
  sendWin : BitVec 896
  voqs : Tbl (List QCell)     -- by 4 x destination tile + priority
  bands : List BandRun        -- ORTHO bands with cells still to send (R196)
  prods : Tbl Word            -- FP32 products that ORTHO has formed, by binding slot, band row and column (log entry 32)
  wdogAt : Time
  snap : Option Snap
  trace : TraceT
  deriving DecidableEq, Repr

/-! ### Jobs (09, 05, 06) -/

/-- Job states (Table JB-1). -/
inductive JobSt where
  | free | loaded | running | stopping | stopped
  deriving DecidableEq, Repr

/-- Job twin states (R360). -/
inductive JTwin where
  | paired | serving | out | frozen
  deriving DecidableEq, Repr

/-- Step-gate states of a home device (Table UP-12). -/
inductive Gate where
  | idle | opened | reported | rerun | reported1
  deriving DecidableEq, Repr

/-- A member's progress at its ingress tile (R110, R125). -/
structure Member where
  rank : BitVec 18
  port : Nat
  ord : Nat                   -- next expected ordinal
  pass : Nat
  sent : Nat                  -- cells accepted in all
  done : Bool
  record : List Cell          -- fragments of the record held (R125)
  dropping : Bool
  deriving DecidableEq, Repr

/-- A home chunk's counts (R112). -/
structure Chunk where
  num : Nat
  count0 : Nat
  count1 : Nat
  passes : Nat
  settled : Nat               -- passes whose cells have all left the tile's queues (R87)
  out : Nat                   -- segments drained
  drained : Bool
  deriving DecidableEq, Repr

/-- What one tile adds to the device STAT of an instance (R211). -/
structure Part where
  nan : Nat
  inf : Nat
  ssq : Nat
  maxmag : Nat
  c : Option Nat
  sat : Bool
  dig : Bool
  nfu : Bool
  home : Bool
  pcells : Nat
  digest : Word
  status : BitVec 4
  reason : BitVec 16
  deriving DecidableEq, Repr

/-- An instance of an entry on this device (R117 to R123). -/
structure Inst where
  start : Time
  deadline : Time
  worst : BitVec 4            -- highest status of Table CO-5 that a cause has given it so far, and
  why : BitVec 16             -- that cause
  wtop : Int
  w : Nat
  auto : Bool
  margin : Nat
  s : Int                     -- log2 of the loss scale (R54)
  step : Nat                  -- step number of R44
  depoch : Word
  members : List Member
  chunks : List Chunk
  parts : Tbl Part
  posts0 : Tbl Part           -- parts posted for round 0 (R211), by tile
  posts1 : Tbl Part
  sent0 : Bool
  sent1 : Bool
  postDrops : Nat             -- posts for a round already sent, dropped (Table TP-16)
  egress : Nat                -- own scheduled cells still to leave the device
  left : Tbl Nat              -- cells, or last-of-chunk cells, that have left by a port (R121)
  ends : List Nat             -- ranks whose end records are in (R127); of a RELAY, that its last cell is
  owesStat : Bool             -- its part has ended, and its STAT waits for digest comparisons (R18)
  recs : List (Nat × List Cell) -- fragments of records that egress tiles gather, by 2^18 x tile + rank (R127)
  ended : Bool
  missing : BitVec 18
  rowCells : Tbl Nat          -- row-statistics cells delivered so far, by destination (R106)
  opWrites : List (Nat × Word) -- STATE_WRITEs of the operand in execution when it fired, by ring and index (R96)
  fast : Bool                 -- FASTSUM has been used in it (R74)
  exact : Bool
  deriving DecidableEq, Repr

/-- A collective entry (R103): RW fields in force, those written for the next instance, RO fields, instance. -/
structure Entry where
  cfg : BitVec 1024
  next : Option (BitVec 1024)
  status : BitVec 4
  epoch : BitVec 4
  fired : Bool
  reason : BitVec 16
  stale : Word
  latec : Word
  order : Word
  shdrop : Word
  escn : Word
  escdeny : Word
  lastSeen : Time
  inst : Option Inst
  vstats : List (BitVec 12 × Payload) -- verdict tile: STATs of the running instance
  operand : Mem               -- the part of a fused-operand tensor that no tile of this device holds (R94, R96)
  opNew : Option (Nat × List Byte) -- a STATE_WRITE of it held until the instance ends (R96)
  rank : Nat                  -- rank r of its projection (R188), 0 for none, from the PROJ and RECON of the load's images
  deriving DecidableEq, Repr

/-- A tile's request and grant (Table HI-8 TILEREQ, R238 to R243). -/
structure Grant where
  tile : Nat
  iq : Nat
  vq : Nat
  oq : Nat
  bs : Nat
  acc : Nat
  reqBase : Nat
  base : Nat
  cells : Nat
  prog : Nat
  records : Nat               -- spill records R_t (R245)
  held : List Nat             -- accumulator tiles held for operands and ORTHO working sets (R242)
  deriving DecidableEq, Repr

/-- A tide slice (R246). -/
structure Slice where
  port : Nat
  tx : Bool
  slots : Nat
  relay : Nat
  deriving DecidableEq, Repr

/-- A STAT held by the verdict tile (R152). -/
structure StatRec where
  dev : BitVec 12
  pos : Nat
  round : Bool
  pay : Payload
  deriving DecidableEq, Repr

/-- The verdict tile's record of the open attempt (R152 to R157). -/
inductive VPhase where
  | collecting | twin0 (mine : Payload) | clipping (deadline : Time) | twin1 (mine : Payload) | decided
  deriving DecidableEq, Repr

structure Verd where
  stats : List StatRec
  deadline : Time
  phase : VPhase
  theirs : Option Payload
  alpha : Word
  norm : Word
  dropped : Nat
  deriving DecidableEq, Repr

/-- A STEP_REPLAY in progress (R169, R387): the recorded attempt's place in the manifest, the step positions checked, what their
entries held before, and the digests recomputed so far by their index in a record. -/
structure Replay where
  rec_ : Nat
  positions : List Nat
  saved : List (BitVec 4 × BitVec 4) -- epoch and status of each entry before the replay
  deadline : Time
  contrib : Tbl Word
  sums : Tbl Word
  x : Exec
  resaddr : Nat
  deriving DecidableEq, Repr

structure Job where
  st : JobSt
  tag : BitVec 12
  uprio : BitVec 2
  seed : BitVec 64
  startTide : BitVec 48
  unload : Bool               -- a JOB_STOP with UNLOAD waits for STOPPED
  devset : List (BitVec 12)
  entries : Tbl Entry         -- by collective identifier
  ids : List (BitVec 12)      -- identifiers in package order
  steps : List (BitVec 12 × Nat) -- step list: collective, devices taking part
  control : Mem
  hparam : Mem
  hparamNext : Option Mem     -- written during an attempt, used from the next (R142)
  step : BitVec 40            -- commit word fields (Table UP-4)
  lsexp : BitVec 8
  clean : BitVec 16
  clipmax : Word
  grow : BitVec 16
  vmargin : BitVec 16
  blkNext : Option (Word × BitVec 16 × BitVec 16)
  holdGrant : Bool
  bank0 : Mem
  bank1 : Mem
  gradHold : Mem
  home : Bool                 -- this device is a home device of a step-list entry
  segs : Nat                  -- N, segments of step-list entries homed here (R244)
  shardb : Nat
  shards : Mem                -- parity shard area: two slots, each a header and a shard (R451)
  spill : Tbl (List Byte)     -- spill records by logical tile x 2^17 + ordinal (R89)
  manifest : Mem              -- eight records (R168), by bytes (log entry 26)
  dc : Nat                    -- contribution digests and sum digests of a record (R244)
  ds : Nat
  ctlLen : Nat                -- bytes of the control area
  attempts : BitVec 8
  grants : List Grant
  slices : List Slice
  groups : List Nat
  package : List Byte
  stateBytes : Nat
  quotaAcc : Tbl Nat          -- quotas below the grant, by tile; unlisted: the grant (stored + 1)
  quotaCbuf : Tbl Nat
  quotaSpill : Option Nat
  quotaState : Option Nat
  lastCell : Time
  twin : JTwin
  ready : Bool
  rejoin : Option (BitVec 40)
  stale : Bool
  announced : Bool            -- SERVE sent since the last mooring (R371)
  query : Option (Nat × Bool × Time) -- a QUERY waiting for its REPLY: repeats, whether the last REPLY gave STOPPING, time
  dirty : Option (List Nat)   -- dirty granules of the image while a transfer runs (R366)
  copied : Nat                -- COPY cells received in the transfer
  gate : Gate
  attempt : Bool              -- an attempt is open (R135)
  fired : List Nat            -- step positions fired in it (R136)
  deadline : Time             -- latest start + LATE over them (R152)
  biasDone : Bool             -- b1p, b2p of R145 written
  optWaits : Bool             -- the target waits for END (R366)
  alpha : Word                -- clip factor of the clip order
  verd : Option Verd
  heldVerdicts : List Cell    -- step VERDICTs held by a brown-out hold (R426)
  ignored : Nat               -- step VERDICTs and clip orders ignored (R161, Table UP-14)
  commitPend : Option (Option (Nat × Nat × Nat × Nat)) -- commit word written and not yet acknowledged; of a commit, its
                              -- manifest record, step, attempt counter and decision
  vparts : List Cell          -- parts received of the step VERDICT that is arriving
  replay : Option Replay
  deriving DecidableEq, Repr

structure Jobs where
  slots : Tbl Job
  gone : List (BitVec 12 × Time) -- unloaded tags and the time of their last cell, 0 where none has come (R233)
  deriving DecidableEq, Repr

/-! ### Clocks, power, margins (16, 17, 19) -/

/-- PWR_TILE.PSTATE (Table CP-14). -/
inductive PState where
  | on | gated | waking | fused
  deriving DecidableEq, Repr

structure Island where
  held : Bool
  busy : Bool
  auto : Bool
  cur : BitVec 3
  req : BitVec 3
  target : BitVec 3
  saved : Option (BitVec 3)   -- operating point before a brown-out hold (R426)
  okSince : Option Time       -- when the crossing monitor last found a limit broken (R418)
  pst : PState
  gate : Bool
  slack : BitVec 8
  droops : BitVec 8
  pred : Bool
  alarm : Bool
  warn : Bool
  temp : Int                  -- junction temperature, 0.1 C
  raisedAt : Option Time      -- when the crossing monitor last raised the island as the other of a pair (R418)
  deriving DecidableEq, Repr

structure Clk where
  islands : Tbl Island
  reason : BitVec 16
  reflost : BitVec 4
  w1cAt : Tbl Nat             -- 1 + time at which REFLOST d (d), WARN (4), or PRED, ALARM, WARN of island p (8 + 4 p + 0, 1, 2) was last set (R5)
  reflock : BitVec 4
  refDown : BitVec 4          -- REFCLK pairs lost since cold reset
  ppsPresent : Bool
  ppsOutEn : Bool
  ppsInEn : Bool
  ppsAt : Time
  ppsOut : Bool
  pwrReason : BitVec 16
  bor : Bool
  warn : Bool
  hold : Bool
  holdEnd : Time
  cause : BitVec 2
  failA : BitVec 4
  failB : BitVec 4
  nofailover : Bool
  vdd : Tbl Nat               -- VDD_CORE setpoint in force per die, mV
  vddNext : Tbl Nat           -- setpoint being reached
  regs : Tbl (BitVec 16)      -- EEPROM regulator words per die (Table PK-6)
  monReason : BitVec 16
  autospare : Bool
  spareSt : BitVec 2
  spareTile : BitVec 7
  retirePos : Tbl (BitVec 6)
  listed : List Nat           -- physical tiles listed in MON_RETIRE
  unlist : List Nat           -- listings to remove at the next cold reset
  sramUe : List (Nat × Nat)   -- tile and address of uncorrectable SRAM errors seen
  thermtrip : Bool
  deriving DecidableEq, Repr

/-! ### Observability (18) -/

/-- Aggregate of one code (R470). -/
structure Agg where
  unit : BitVec 16
  first : BitVec 64
  last : BitVec 64
  count : Word
  min : Word
  max : Word
  hist : BitVec 128
  auxMin : Word
  auxLast : Word
  tokens : Nat                -- tokens used, 0 = bucket full
  gainAt : Time               -- the last token's return, or the first one's taking from a full bucket
  rate : BitVec 8
  deriving DecidableEq, Repr

/-- Attribution bin (Table OB-7). -/
structure Bin where
  key : BitVec 16
  layer : BitVec 16
  operator : BitVec 16
  insn : DWord
  stall : DWord
  accb : DWord
  hbmb : DWord
  deriving DecidableEq, Repr

structure TraceDie where
  msgs : List (DWord × Time)  -- newest first, with the time each was written
  free : Nat                  -- when the write port is free, in fifths of 2^-16 ns
  lost : Word
  armed : Bool
  full : Bool
  mask : Word
  deriving DecidableEq, Repr

structure Obs where
  ctrs : Tbl DWord            -- counter space by BAR0 address
  afreeze : Bool
  disp : Bool
  wrap : Bool
  trcReason : BitVec 16
  qtime : BitVec 16
  ptime : BitVec 16
  psel : Tbl Word
  bins : Tbl Bin
  trace : Tbl TraceDie
  aggs : Tbl Agg              -- by code
  onchip : List (BitVec 512)  -- newest first, at most 4,096
  seq : Word
  toFlash : List (BitVec 512)
  evrReason : BitVec 16
  clearing : Bool
  wready : Bool
  wmiss : Bool
  wmissAt : Nat               -- 1 + time at which WMISS was last set (R5)
  flashOk : Bool
  cursor : DWord
  window : List (BitVec 512)
  nonceNo : Nat
  rateSel : BitVec 24
  scope : BitVec 2
  sealed : Mem
  deriving DecidableEq, Repr

/-! ### Flash, sideband, pins (16 R432, 17 R442, 19) -/

/-- Commit record of an image slot (Table CP-9). -/
structure CommitRec where
  present : Bool
  seq : Word
  version : Word
  deriving DecidableEq, Repr

/-- A staged or running image of a slot (Table DP-4). -/
structure Image where
  version : Word
  numlvl : BitVec 8
  size : Nat
  verified : Bool             -- verified since the last reset (R444)
  deriving DecidableEq, Repr

/-- A firmware command running (R443, R444). -/
inductive FwRun where
  | stage (which : Bool) (im : Image) (x : Exec)
  | activate (which : Bool) (tide : BitVec 48) (x : Exec)
  | restarting (which : Bool) (x : Exec) (since : Time)
  deriving DecidableEq, Repr

structure Flash where
  recs : Tbl CommitRec        -- 0 harbourmaster A, 1 B, 2 pilot core A, 3 B
  images : Tbl Image
  fw : Option FwRun
  evr : Tbl (BitVec 512)      -- event-recorder region by record slot
  evrNext : Nat
  evrBad : List Nat           -- sectors that failed to program
  deriving DecidableEq, Repr

/-- The JTAG instruction in force (Table PK-7). -/
inductive Jtag where
  | idcode | samplePreload | extest | extestPulse | extestTrain | clamp | highz | flashprog | bypass
  deriving DecidableEq, Repr

structure Side where
  jtag : Jtag
  warmLow : Bool              -- WARM_RST_N is held low
  porAt : Time                -- release of POR_N
  smbAlert : Bool             -- SMB_ALERT_N asserted
  smbStatus : Nat             -- STATUS bits [7:4] that the alert logic has seen
  smbData : List Byte         -- bytes of the last block or word read
  smbNack : Bool
  i2cStuck : Bool
  i2cTries : Nat              -- attempts of the last bus clear
  i2cAt : Time
  i2cFast : Bool
  monitors : Bool
  everReady : Bool
  deriving DecidableEq, Repr

/-! ### The whole machine -/

structure State where
  time    : Time
  dev     : Dev
  tide    : Tide
  host    : HostIf
  hostMem : Mem
  twin    : Twin
  ports   : Tbl PortS
  fabric  : Fabric
  tiles   : Tbl TileS
  jobs    : Jobs
  clk     : Clk
  obs     : Obs
  flash   : Flash
  side    : Side
  free    : Nat
  pending : List Instr
  deriving DecidableEq, Repr

/-- Why the machine stops. No command of this block stops it: every rule of the spec leaves the device running. -/
inductive Fault where
  /-- Raised by no command; it stands for a command that could not be sent. Safe: no run reaches it. -/
  | malformedOperand
  deriving DecidableEq, Repr

/-- Why a command has no meaning. -/
inductive Refusal where
  /-- Raised by an arm of exec whose command is not modelled; no arm is left. Safe: nothing is said about it. -/
  | notModelled (mnemonic : String)
  deriving DecidableEq, Repr

/-! ### Reset -/

/-- The non-fused, unlisted positions of a die in ascending order hold its logical tiles (R11, R447). -/
def usable (fused listed : List Nat) (die : Nat) : List Nat :=
  ((List.range 34).map (fun k => 34 * die + k)).filter (fun p => !(fused.contains p || listed.contains p))

/-- The physical tile of each logical tile after cold reset (R11); none where a die has too few positions (R447). -/
def assignTiles (fused listed : List Nat) : List (Option Nat) :=
  (List.range 4).flatMap (fun d => (List.range 32).map (fun k => (usable fused listed d)[k]?))

def Dev.reset : Dev where
  serial := 0
  fwHm := 0
  fwPc := 0
  numlvl := 0
  pcslot := false
  hmslot := false
  twinSel := false
  fabPos := 0
  noFb := false
  en := false
  reason := 0
  st := .boot
  before := .boot
  dwmiss := false
  w1cAt := []
  accerr := false
  waiting := []
  idValid := false
  idSource := 0
  idDup := false
  id := 0
  dwTarget := 0
  dwIndex := 0
  fused := []
  retired := []
  place := assignTiles [] []
  moves := []
  tests := []
  failed := []
  resetting := []
  rdata := 0
  rshadow := []
  wshadow := []
  bootAt := 0
  readyAt := none

/-- The idle tide: T = 64, slot 0 CONTROL on every port, every other entry FREE (R274). -/
def TideBank.idle : TideBank where
  len := 64
  device := 0
  crc := 0
  tableid := 0
  slices := []
  ents := (List.range 128).map (fun n => (64 * n, 0xC0000000#32))

def TideBank.empty : TideBank := ⟨0, 0, 0, 0, [], []⟩

def Tide.reset : Tide where
  en := false
  active := false
  reason := 0
  hold := false
  pending := false
  staged := false
  switchAt := 0
  now := 0
  start := 0
  len := 64
  bank0 := TideBank.idle
  bank1 := TideBank.empty
  go := false
  ready := []
  withdrawn := []
  twinReady := none
  asked := none
  decided := none
  switchedAt := 0
  base := 0
  switchPos := 0

def Ring.reset : Ring where
  base := 0
  cbase := 0
  size := 6
  vec := 0
  coal := 0
  irqen := false
  en := false
  reason := 0
  st := .disabled
  before := .disabled
  cpi := 0
  fetch := 0
  pi := 0
  cci := 0
  hint := false
  interval := 500
  waiting := []
  unsent := false
  coalN := 0
  fence := none

/-- A masked MSI-X table entry (log entry 6). -/
def msixMasked : BitVec 128 := (1 : BitVec 128) <<< 96

def HostIf.reset : HostIf := ⟨[], [], 0, [], 7, [], 0, [], 0x81281F3A⟩

def Twin.reset : Twin := ⟨false, 0, .unmoored, 0, none, 0, 0, none, none, 0, [], [], 0, 0⟩

def Lane.reset : Lane :=
  ⟨0, 0, false, false, false, false, 0, 0, 0, (0, 0), (0, 0), 0, 0, 0, false, true, 0, 0, 0, false, 0, 0⟩

def OffsetRec.reset : OffsetRec := ⟨0, 0, 0, 0, false⟩

def PortS.reset : PortS where
  loop := 0
  fecRes := false
  fecAuto := true
  fec := false
  width := 0
  coding := false
  clk := false
  en := false
  reason := 0
  st := .disabled
  widthNow := 0
  laneSet := 0
  fecOn := false
  offV := false
  txOff := 0
  rxOff := 0
  tau := false
  rxd := 0
  asym := 0
  slpReason := 0
  slp := .active
  autowake := true
  slpDeep := false
  slpMove := .none
  slpAckSent := false
  slpAt := 0
  lanes := []
  phase := .idle
  phaseAt := 0
  short := false
  txSeed := 1
  rxSeed := 0
  peerDev := 0
  peerPort := 0
  peerEp := false
  peerSide := false
  nextWidth := 0
  txSeq := 0
  rxSeq := 0xFFF
  ackSeen := 0xFFF
  nak := false
  held := []
  replay := []
  replayedAck := none
  heldAt := 0
  req := none
  ctlOut := []
  rxCtl := []
  fecReq := none
  switchOut := []
  switchIn := []
  rxWidth := 0
  rxLanes := 0
  rxFec := false
  txFree := 0
  fecDue := false
  timed := false
  flt := 0
  tauReq := none
  tauSet := false
  credits := 256
  owed := 0
  staged := []
  creditHold := false
  rxCells := []
  passCells := []
  schedQ := []
  slipQ := []
  ctlQ := []
  mgmtQ := []
  unsQ := []
  void := false
  again := none
  adj := .down
  adjDev := 0
  adjPort := 0
  adjSerial := 0
  planeBad := false
  lastHello := 0
  kind := .unknown
  upAt := 0
  peerTide := none
  peerHops := 0xF
  peerLock := false
  unacked := []
  offset := OffsetRec.reset
  wire := none
  symbols := []
  blocks := []
  trainOut := none
  wakeOut := false
  owesRetrain := false
  startEx := none
  woken := false
  timeRun := false

def Fabric.reset : Fabric :=
  ⟨0, 0, none, [], [], none, [], false, 0xF, none, none, 0, none, none, none, 0, [], [], [], [], [], 0⟩

def Acc.reset : Acc := ⟨0, 0, 0, false, 0, false, 0, []⟩
def Buf.reset : Buf := ⟨false, 0, true, none, false⟩
def TraceT.reset : TraceT := ⟨false, 0, 0, 0, 0⟩

def TJob.reset : TJob where
  loaded := false
  iq := []
  vq := []
  oq := []
  bslots := []
  accBase := 0
  accCount := 0
  cells := 0
  progUnits := []
  nbind := 0
  ntrig := 0
  ninsn := 0
  ncdir := 0
  mset := 0
  cqs := []
  lastDone := []
  orders := 0
  flags := 0
  groupAt := []
  contribs := []
  escUsed := []
  digs := []
  rows := []
  runs := []
  streams := []
  ghat := []
  sqs := []

def TileS.reset : TileS where
  inbox := []
  accs := []
  bufs := []
  freeList := none
  audit := 0
  jobs := []
  iqs := []
  vqs := []
  mqs := []
  oqs := []
  bind := []
  prog := []
  cdir := []
  mset := 0
  spilling := []
  resuming := []
  skips := []
  evq := []
  dispatchQ := []
  tpcmdlo := 0
  tpruna := 0
  tplop := 0
  tpcellsel := 0
  tpqsel := 0
  tpskip := 0
  xregs := []
  csrs := []
  imem := []
  dmem := []
  mailbox := []
  sendWin := 0
  voqs := []
  bands := []
  prods := []
  wdogAt := 0
  snap := none
  trace := TraceT.reset

def Part.reset : Part := ⟨0, 0, 0, 0, none, false, false, false, false, 0, 0, 2, 0⟩

/-- Table CO-2's reset values: K 1, PLAN 0x0002_0000, LATE 0x2710. -/
def entryResetCfg : BitVec 1024 :=
  ((1 : BitVec 1024) <<< 56) ||| ((0x00020000 : BitVec 1024) <<< 64) ||| ((0x2710 : BitVec 1024) <<< 256)

def Entry.reset : Entry :=
  ⟨entryResetCfg, none, 0, 0, false, 0, 0, 0, 0, 0, 0, 0, 0, none, [], [], none, 0⟩


def Job.reset : Job where
  st := .free
  tag := 0
  uprio := 0
  seed := 0
  startTide := 0
  unload := false
  devset := []
  entries := []
  ids := []
  steps := []
  control := []
  hparam := []
  hparamNext := none
  step := 0
  lsexp := 0
  clean := 0
  clipmax := 0
  grow := 0x03E8
  vmargin := 0x03E8
  blkNext := none
  holdGrant := false
  bank0 := []
  bank1 := []
  gradHold := []
  home := false
  segs := 0
  shardb := 0
  shards := []
  spill := []
  manifest := []
  dc := 0
  ds := 0
  ctlLen := 0
  attempts := 0
  grants := []
  slices := []
  groups := []
  package := []
  stateBytes := 0
  quotaAcc := []
  quotaCbuf := []
  quotaSpill := none
  quotaState := none
  lastCell := 0
  twin := .paired
  ready := false
  rejoin := none
  stale := false
  announced := false
  query := none
  dirty := none
  copied := 0
  gate := .idle
  attempt := false
  fired := []
  deadline := 0
  biasDone := false
  optWaits := false
  alpha := 0x3F800000
  verd := none
  heldVerdicts := []
  ignored := 0
  commitPend := none
  vparts := []
  replay := none

/-- An island that holds a logical tile: powered, AUTO 1, REQ 4 (Tables CP-12, CP-14; log entry 10). -/
def Island.reset : Island :=
  ⟨false, false, true, 0, 4, 0, none, none, .on, false, 0, 0, false, false, false, 250, none⟩

/-- A spare island is kept gated (R424). -/
def Island.spare : Island := { Island.reset with pst := .gated, gate := true }

/-- A fused island (Table CP-14). -/
def Island.fused : Island := { Island.reset with pst := .fused, gate := true }

/-- The islands that do not hold a logical tile: spare or fused. -/
def islandsOf (fused listed : List Nat) : Tbl Island :=
  let place := assignTiles fused listed
  (List.range 136).filterMap (fun p =>
    if fused.contains p || listed.contains p then some (p, Island.fused)
    else if place.contains (some p) then none else some (p, Island.spare))

def Clk.reset : Clk where
  islands := islandsOf [] []
  reason := 0
  reflost := 0
  w1cAt := []
  reflock := 0
  refDown := 0
  ppsPresent := false
  ppsOutEn := false
  ppsInEn := false
  ppsAt := 0
  ppsOut := false
  pwrReason := 0
  bor := false
  warn := false
  hold := false
  holdEnd := 0
  cause := 0
  failA := 0
  failB := 0
  nofailover := false
  vdd := []
  vddNext := []
  regs := []
  monReason := 0
  autospare := false
  spareSt := 0
  spareTile := 0
  retirePos := []
  listed := []
  unlist := []
  sramUe := []
  thermtrip := false

def Agg.reset : Agg := ⟨0, 0, 0, 0, 0, 0, 0, 0, 0, 0, 0, 16⟩
def Bin.reset : Bin := ⟨0, 0, 0, 0, 0, 0, 0⟩
def TraceDie.reset : TraceDie := ⟨[], 0, 0, false, false, 0⟩

def Obs.reset : Obs where
  ctrs := []
  afreeze := false
  disp := false
  wrap := true
  trcReason := 0
  qtime := 0x0032
  ptime := 0x0064
  psel := []
  bins := []
  trace := []
  aggs := []
  onchip := []
  seq := 0
  toFlash := []
  evrReason := 0
  clearing := false
  wready := false
  wmiss := false
  wmissAt := 0
  flashOk := false
  cursor := 0
  window := []
  nonceNo := 0
  rateSel := 0x100000
  scope := 3
  sealed := []

def CommitRec.reset : CommitRec := ⟨false, 0, 0⟩
def Image.reset : Image := ⟨0, 0, 0, false⟩

def Flash.reset : Flash := ⟨[(0, ⟨true, 0, 0⟩), (2, ⟨true, 0, 0⟩)], [], none, [], 0, []⟩

def Side.reset : Side := ⟨.idcode, false, 0, false, 0, [], false, false, 0, 0, false, false, false⟩

/-- The machine right after a cold reset, before boot has ended (R274, R403, R428). -/
def State.reset : State where
  time := 0
  dev := Dev.reset
  tide := Tide.reset
  host := HostIf.reset
  hostMem := []
  twin := Twin.reset
  ports := []
  fabric := Fabric.reset
  tiles := []
  jobs := ⟨[], []⟩
  clk := Clk.reset
  obs := Obs.reset
  flash := Flash.reset
  side := Side.reset
  free := 0
  pending := []

end Sys2Proof.Machine
end

