-- ==== Sys2Proof/Machine/Ops.lean ====
section
/-! DEFINITION. The named operations over the state: time, registers' holders, logging, counters, host memory, completions. -/

namespace Sys2Proof.Machine

/-- What a command answers. -/
abbrev Out := Host.Outcome State Fault Refusal

/-! ### Numbers and bits -/

/-- Bits lo .. lo + n - 1 of x, as a number. -/
def bitsN (x lo n : Nat) : Nat := x / 2 ^ lo % 2 ^ n

/-- Bit k of x. -/
def bitN (x k : Nat) : Bool := x.testBit k

/-- A bit as a number. -/
def b2n (b : Bool) : Nat := if b then 1 else 0

/-- List element i replaced by f of it. -/
def listUpd {α : Type} (l : List α) (i : Nat) (f : α → α) : List α := l.modify i f

/-- The list without its first element that meets p. -/
def dropFirst {α : Type} (p : α → Bool) : List α → List α
  | [] => []
  | a :: l => if p a then l else a :: dropFirst p l

/-- The distinct keys of a list, in order of first appearance. -/
def dedupNat (l : List Nat) : List Nat := l.foldl (fun acc a => if acc.contains a then acc else acc ++ [a]) []

/-! ### Check codes -/

/-- One step of the reflected CRC-32C (polynomial 0x1EDC6F41). -/
def crcBit (c : Word) : Word := if c.getLsbD 0 then (c >>> 1) ^^^ 0x82F63B78#32 else c >>> 1

/-- One byte into a CRC-32C state. -/
def crcByte (c : Word) (b : Byte) : Word :=
  crcBit (crcBit (crcBit (crcBit (crcBit (crcBit (crcBit (crcBit (c ^^^ b.setWidth 32))))))))

/-- CRC-32C of a byte list: reflected, initial value and final XOR all ones (log entry 14). -/
def crc32c (bs : List Byte) : Word := bs.foldl crcByte 0xFFFFFFFF#32 ^^^ 0xFFFFFFFF#32

/-! ### Holders -/

def State.port (s : State) (n : Nat) : PortS := Tbl.get PortS.reset s.ports n
def State.updPort (n : Nat) (f : PortS → PortS) (s : State) : State :=
  { s with ports := Tbl.upd PortS.reset s.ports n f }
def State.tile (s : State) (n : Nat) : TileS := Tbl.get TileS.reset s.tiles n
def State.updTile (n : Nat) (f : TileS → TileS) (s : State) : State :=
  { s with tiles := Tbl.upd TileS.reset s.tiles n f }
def State.job (s : State) (j : Nat) : Job := Tbl.get Job.reset s.jobs.slots j
def State.updJob (j : Nat) (f : Job → Job) (s : State) : State :=
  { s with jobs := { s.jobs with slots := Tbl.upd Job.reset s.jobs.slots j f } }
def State.ring (s : State) (r : Nat) : Ring := Tbl.get Ring.reset s.host.rings r
def State.updRing (r : Nat) (f : Ring → Ring) (s : State) : State :=
  { s with host := { s.host with rings := Tbl.upd Ring.reset s.host.rings r f } }
def State.island (s : State) (p : Nat) : Island := Tbl.get Island.reset s.clk.islands p
def State.updIsland (p : Nat) (f : Island → Island) (s : State) : State :=
  { s with clk := { s.clk with islands := Tbl.upd Island.reset s.clk.islands p f } }
def State.updDev (f : Dev → Dev) (s : State) : State := { s with dev := f s.dev }
def State.updTide (f : Tide → Tide) (s : State) : State := { s with tide := f s.tide }
def State.updHost (f : HostIf → HostIf) (s : State) : State := { s with host := f s.host }
def State.updTwin (f : Twin → Twin) (s : State) : State := { s with twin := f s.twin }
def State.updFabric (f : Fabric → Fabric) (s : State) : State := { s with fabric := f s.fabric }
def State.updClk (f : Clk → Clk) (s : State) : State := { s with clk := f s.clk }
def State.updObs (f : Obs → Obs) (s : State) : State := { s with obs := f s.obs }
def State.updFlash (f : Flash → Flash) (s : State) : State := { s with flash := f s.flash }
def State.updSide (f : Side → Side) (s : State) : State := { s with side := f s.side }

def TileS.job (x : TileS) (j : Nat) : TJob := Tbl.get TJob.reset x.jobs j
def TileS.updJob (j : Nat) (f : TJob → TJob) (x : TileS) : TileS := { x with jobs := Tbl.upd TJob.reset x.jobs j f }
def TileS.acc (x : TileS) (a : Nat) : Acc := Tbl.get Acc.reset x.accs a
def TileS.updAcc (a : Nat) (f : Acc → Acc) (x : TileS) : TileS := { x with accs := Tbl.upd Acc.reset x.accs a f }
def TileS.buf (x : TileS) (b : Nat) : Buf := Tbl.get Buf.reset x.bufs b
def TileS.updBuf (b : Nat) (f : Buf → Buf) (x : TileS) : TileS := { x with bufs := Tbl.upd Buf.reset x.bufs b f }
def Job.entry (x : Job) (c : Nat) : Entry := Tbl.get Entry.reset x.entries c
def Job.updEntry (c : Nat) (f : Entry → Entry) (x : Job) : Job := { x with entries := Tbl.upd Entry.reset x.entries c f }
def PortS.lane (x : PortS) (l : Nat) : Lane := Tbl.get Lane.reset x.lanes l
def PortS.updLane (l : Nat) (f : Lane → Lane) (x : PortS) : PortS := { x with lanes := Tbl.upd Lane.reset x.lanes l f }

/-! ### Time (R302, R263, R308) -/

/-- A slot, 2.4 ns, in fifths of 2^-16 ns. -/
def slotFifths : Nat := 786432

/-- Nanoseconds, microseconds and milliseconds in fabric time units of 2^-16 ns. -/
def ns (n : Nat) : Time := 65536 * n
def us (n : Nat) : Time := 65536000 * n
def ms (n : Nat) : Time := 65536000000 * n
def sec (n : Nat) : Time := 65536000000000 * n

/-- The tides that have begun by the fabric time (R308). -/
def Tide.advance (time : Time) (x : Tide) : Tide :=
  let k := (5 * time - x.start) / (x.len * slotFifths)
  { x with now := x.now + k, start := x.start + k * (x.len * slotFifths), base := x.base + k * (4 * x.len) }

/-- STATUS bits [7:4] (Table PK-5): hold, thermal trip, stuck I2C bus, an island above 95 °C. -/
def alertBits (s : State) : Nat :=
  b2n s.clk.hold + 2 * b2n s.clk.thermtrip + 4 * b2n s.side.i2cStuck + 8 * b2n (s.clk.islands.any (fun i => decide (i.2.temp > 950)))

/-- A bit of a that b does not have. -/
def newBits (a b : Nat) : Bool := (List.range 4).any (fun k => bitN a k && !bitN b k)

/-- SMB_ALERT_N is asserted when a STATUS bit in [7:4] rises (R486). -/
def Side.watch (now : Nat) (x : Side) : Side := { x with smbAlert := x.smbAlert || newBits now x.smbStatus, smbStatus := now }

/-- Fabric time comes to t, and never moves backward (R302); TIDE_NOW counts the tides that have begun (R308). -/
def tick (t : Time) (s : State) : State :=
  { s with time := max s.time t, tide := s.tide.advance (max s.time t), side := s.side.watch (alertBits s) }

/-- This plane does not serve the job: OUT, or FROZEN (R360, R362; log entry 78). -/
def Job.away (x : Job) : Bool := x.twin = .out || x.twin = .frozen

/-- Fabric time at which tide n begins, in fifths of 2^-16 ns, by the present count (R308). -/
def tideStart5 (s : State) (n : Nat) : Int :=
  (s.tide.start : Int) + ((n : Int) - s.tide.now) * (s.tide.len * slotFifths)

/-! ### Events (R470 to R472) -/

/-- Units of an event (R470): kind in [15:14], index in [13:0]. -/
def unitDev : Nat := 0
def unitPort (n : Nat) : Nat := 0x4000 + n
def unitTile (n : Nat) : Nat := 0x8000 + n
def unitJob (n : Nat) : Nat := 0xC000 + n

/-- Byte of HIST that counts a VALUE (Table OB-11). -/
def histByte (v : Nat) : Nat := if v < 4 then 0 else min 15 (Nat.log2 v / 2)

/-- HIST with byte k counted up, saturating at 255. -/
def histAdd (h : BitVec 128) (k : Nat) : BitVec 128 :=
  if (h >>> (8 * k)) &&& 0xFF = 0xFF then h else h + (1 : BitVec 128) <<< (8 * k)

/-- One more event in an aggregate (R470). -/
def Agg.add (time : Time) (unit v aux : Nat) (a : Agg) : Agg :=
  { a with
    unit := BitVec.ofNat 16 unit
    first := if a.count = 0 then BitVec.ofNat 64 time else a.first
    last := BitVec.ofNat 64 time
    count := if a.count = 0xFFFFFFFF then a.count else a.count + 1
    min := if a.count = 0 then BitVec.ofNat 32 v else BitVec.ofNat 32 (Nat.min a.min.toNat v)
    max := if a.count = 0 then BitVec.ofNat 32 v else BitVec.ofNat 32 (Nat.max a.max.toNat v)
    hist := histAdd a.hist (histByte v)
    auxMin := if a.count = 0 then BitVec.ofNat 32 aux else BitVec.ofNat 32 (Nat.min a.auxMin.toNat aux)
    auxLast := BitVec.ofNat 32 aux }

/-- An aggregate restarted after its record, its bucket and rate kept. -/
def Agg.restart (a : Agg) : Agg := { Agg.reset with tokens := a.tokens, gainAt := a.gainAt, rate := a.rate }

/-- A record takes a token; a full bucket begins to gain one (R471). -/
def Agg.useToken (time : Time) (a : Agg) : Agg :=
  { a with tokens := a.tokens + 1, gainAt := if a.tokens = 0 then time else a.gainAt }

/-- When the next token of a bucket that is not full returns: one every 60 / RATE s (R471). -/
def Agg.nextToken (a : Agg) : Time := a.gainAt + sec 60 / a.rate.toNat

/-- Bytes [59:0] of a record (Table OB-11). -/
def Agg.body (code seq : Nat) (a : Agg) : List Byte :=
  leBytes 2 code ++ leBytes 2 a.unit.toNat ++ leBytes 4 seq ++ leBytes 8 a.first.toNat ++ leBytes 8 a.last.toNat ++
  leBytes 4 a.count.toNat ++ leBytes 4 a.min.toNat ++ leBytes 4 a.max.toNat ++ leBytes 16 a.hist.toNat ++
  leBytes 4 a.auxMin.toNat ++ leBytes 4 a.auxLast.toNat

/-- A 64-byte word of a byte list, byte 0 lowest. -/
def word512 (bs : List Byte) : BitVec 512 := BitVec.ofNat 512 (leNat bs)

/-- The record of an aggregate, with COMMIT (Table OB-11). -/
def Agg.record (code seq : Nat) (a : Agg) : BitVec 512 :=
  word512 (a.body code seq ++ leBytes 4 (crc32c (a.body code seq)).toNat)

/-- Counter space (R457): counters by BAR0 address, modulo 2^64. -/
def Obs.bump (addr n : Nat) (o : Obs) : Obs := { o with ctrs := Tbl.upd 0 o.ctrs addr (· + BitVec.ofNat 64 n) }

/-- A code's aggregate. -/
def Obs.agg (o : Obs) (code : Nat) : Agg := Tbl.get Agg.reset o.aggs code

/-- Write the record of a code's aggregate: on-chip, newest 4,096 kept, and queued for flash (R472). -/
def Obs.writeRecord (code : Nat) (o : Obs) : Obs :=
  let r := (o.agg code).record code o.seq.toNat
  let o := { o with
    onchip := (r :: o.onchip).take 4096
    seq := o.seq + 1
    toFlash := o.toFlash ++ [r]
    aggs := Tbl.set Agg.reset o.aggs code (o.agg code).restart }
  o.bump 0x4C0120 1

/-- An event is logged (R470): the aggregate takes it, and a record is written when the code's bucket holds a token; code
0x0C09 ignores its bucket (R471). -/
def Obs.log (time : Time) (code unit v aux : Nat) (o : Obs) : Obs :=
  let o := { o with aggs := Tbl.upd Agg.reset o.aggs code (Agg.add time unit v aux) }
  let o := o.bump 0x4C0128 1
  if code = 0x0C09 then o.writeRecord code
  else if (o.agg code).tokens < (o.agg code).rate.toNat then
    { o with aggs := Tbl.upd Agg.reset o.aggs code (Agg.useToken time) }.writeRecord code
  else o

/-- A full on-chip buffer whose oldest record has not reached flash loses it: 0x0C0B (R472). -/
def Obs.logLoss (time : Time) (o : Obs) : Obs :=
  if o.toFlash.length > 4096 then
    { o with toFlash := o.toFlash.drop (o.toFlash.length - 4096), evrReason := 0x0C0B }.log time 0x0C0B 0 0 0
  else o

/-- Log a code with its unit, VALUE and AUX. -/
def logEv (code unit v aux : Nat) (s : State) : State :=
  { s with obs := (s.obs.log s.time code unit v aux).logLoss s.time }

/-- Log a code whose VALUE and AUX are 0 (Table OB-12). -/
def logCode (code unit : Nat) (s : State) : State := logEv code unit 0 0 s

/-! ### Counters (R457 to R463) -/

def bump (addr n : Nat) (s : State) : State := { s with obs := s.obs.bump addr n }

def portCtr (set off : Nat) : Nat := 0x400000 + 0x400 * set + off
def tileCtr (tile off : Nat) : Nat := 0x480000 + 0x800 * tile + off
def devCtr (off : Nat) : Nat := 0x4C0000 + off
def jobCtr (tile slot off : Nat) : Nat := 0x500000 + 0x2000 * tile + 0x80 * slot + off
def profCtr (tile k : Nat) : Nat := 0x600000 + 0x40 * tile + 8 * k

/-- An HWM counter holds the highest level seen (R458). -/
def bumpMax (addr level : Nat) (s : State) : State :=
  { s with obs := { s.obs with ctrs := Tbl.upd 0 s.obs.ctrs addr (fun v => if v.toNat < level then BitVec.ofNat 64 level else v) } }

/-- Counter k of a tile counts an event when its select names the event and, with JOBF, the job slot (R461). -/
def profHit (sel : Word) (e : Nat) (slot : Option Nat) : Bool :=
  e ≠ 0 && sel.toNat % 256 = e && (!sel.getLsbD 14 || slot = some (bitsN sel.toNat 8 6))

/-- n profiling events of one kind on a tile (R461). -/
def profEvent (e tile : Nat) (slot : Option Nat) (n : Nat) (s : State) : State :=
  (List.range 8).foldl (fun s k =>
    if profHit (Tbl.get 0 s.obs.psel k) e slot then bump (profCtr tile k) n s else s) s

/-- The bin of a key, or the lowest free bin below 1,023, or bin 1,023 (R462). -/
def binFor (key layer oper : Nat) (o : Obs) : Nat × Bool :=
  let hit := (List.range 1023).find? (fun b =>
    let x := Tbl.get Bin.reset o.bins b
    x.key.toNat = 0x8000 + key && x.layer.toNat = layer && x.operator.toNat = oper)
  match hit with
  | some b => (b, false)
  | none =>
    match (List.range 1023).find? (fun b => (Tbl.get Bin.reset o.bins b).key = 0) with
    | some b => (b, false)
    | none => (1023, true)

/-- Charge the key (job tag, layer, operator) with completed instructions, accumulator bytes and HBM bytes (R462, R463). -/
def charge (tag layer oper insn accb hbmb : Nat) (s : State) : State :=
  if s.obs.afreeze then s
  else
    let (b, ovf) := binFor tag layer oper s.obs
    let s := { s with obs := { s.obs with bins := Tbl.upd Bin.reset s.obs.bins b (fun x =>
      { x with
        key := if ovf then 0xC000 else BitVec.ofNat 16 (0x8000 + tag)
        layer := if ovf then 0 else BitVec.ofNat 16 layer
        operator := if ovf then 0 else BitVec.ofNat 16 oper
        insn := x.insn + BitVec.ofNat 64 insn
        accb := x.accb + BitVec.ofNat 64 accb
        hbmb := x.hbmb + BitVec.ofNat 64 hbmb }) } }
    if ovf then (logCode 0x0C0C unitDev s).updObs (fun o => { o with trcReason := 0x0C0C }) else s

/-! ### Reason fields (R407) -/

def devReason (code : Nat) (s : State) : State := s.updDev (fun d => { d with reason := BitVec.ofNat 16 code })
/-- What a write leaves of a W1C bit: a bit set at the time of the write stays, so that no event is lost (R5; log entry 72). -/
def w1c (on one : Bool) (setAt : Nat) (s : State) : Bool := on && (!one || setAt = s.time + 1)

/-- A W1C bit of the device block, the clock block or an island is set now. -/
def markDev (k : Nat) (s : State) : State := s.updDev (fun d => { d with w1cAt := Tbl.set 0 d.w1cAt k (s.time + 1) })
def markClk (k : Nat) (s : State) : State := s.updClk (fun c => { c with w1cAt := Tbl.set 0 c.w1cAt k (s.time + 1) })
def setPred (p : Nat) (s : State) : State := markClk (8 + 4 * p) (s.updIsland p (fun i => { i with pred := true }))
def setAlarm (p : Nat) (s : State) : State := markClk (9 + 4 * p) (s.updIsland p (fun i => { i with alarm := true }))
def setWarn (p : Nat) (s : State) : State := markClk (10 + 4 * p) (s.updIsland p (fun i => { i with warn := true }))

def tideReason (code : Nat) (s : State) : State := s.updTide (fun d => { d with reason := BitVec.ofNat 16 code })
def twinReason (code : Nat) (s : State) : State := s.updTwin (fun d => { d with reason := BitVec.ofNat 16 code })
def ringReason (r code : Nat) (s : State) : State := s.updRing r (fun d => { d with reason := BitVec.ofNat 16 code })
def portReason (n code : Nat) (s : State) : State := s.updPort n (fun d => { d with reason := BitVec.ofNat 16 code })
def sleepReason (n code : Nat) (s : State) : State := s.updPort n (fun d => { d with slpReason := BitVec.ofNat 16 code })
def clkReason (code : Nat) (s : State) : State := s.updClk (fun d => { d with reason := BitVec.ofNat 16 code })
def pwrReason (code : Nat) (s : State) : State := s.updClk (fun d => { d with pwrReason := BitVec.ofNat 16 code })
def monReason (code : Nat) (s : State) : State := s.updClk (fun d => { d with monReason := BitVec.ofNat 16 code })
def trcReason (code : Nat) (s : State) : State := s.updObs (fun d => { d with trcReason := BitVec.ofNat 16 code })
def evrReason (code : Nat) (s : State) : State := s.updObs (fun d => { d with evrReason := BitVec.ofNat 16 code })

/-! ### Host memory and messages (R375, R378, R390) -/

/-- The device writes bytes to host memory; HOST_WR counts them. -/
def hostWrite (a : Nat) (bs : List Byte) (s : State) : State :=
  bump (devCtr 0x108) bs.length { s with hostMem := s.hostMem.writeN a bs }

/-- HOST_RD counts n bytes read from host memory. -/
def hostRead (n : Nat) (s : State) : State := bump (devCtr 0x100) n s

/-- Send MSI-X message v: a masked vector sets its pending bit instead (R390, R373; log entry 6). -/
def sendMsix (v : BitVec 6) (s : State) : State :=
  if (Tbl.get msixMasked s.host.msix v.toNat).getLsbD 96 then
    s.updHost (fun h => { h with pba := h.pba ||| (1 : BitVec 64) <<< v.toNat })
  else bump (devCtr 0x110) 1 (s.updHost (fun h => { h with sent := v :: h.sent }))

/-- Slots of a ring (R374). -/
def Ring.slots (r : Ring) : Nat := 2 ^ r.size.toNat

/-- Write-back word of ring r: FETCH at 0, CPI at 4 (Table HI-3). -/
def writeBack (r : Nat) (field : Nat) (v : Word) (s : State) : State :=
  hostWrite (s.host.dbbase.toNat + 0x800 + 64 * r + field) (leBytes 4 v.toNat) s

/-- A ring that host memory failed is in FAULT; the completions of its commands are lost (R394). -/
def ringFault (r code : Nat) (s : State) : State :=
  (s.updRing r (fun x => { x with st := .fault, reason := BitVec.ofNat 16 code, waiting := [], fence := none })).updHost
    (fun h => { h with exec := h.exec.map (fun e => if e.ring = r then { e with mute := true } else e) })

/-- The message rules of R390 after a completion of ring r: IRQ, COAL, and the timed message still owed. -/
def afterCompletion (r : Nat) (irq : Bool) (s : State) : State :=
  let x := s.ring r
  let n := x.coalN + 1
  let due := x.coal ≠ 0 && n ≥ x.coal.toNat
  let s := s.updRing r (fun x => { x with coalN := if due then 0 else n, unsent := !(irq || due) })
  if irq || due then sendMsix x.vec s else s

/-- One completion into ring r's completion ring: bytes [27:0], then SEQ, then CPI (R388, R378). -/
def putCompletion (r : Nat) (c : Compl) (s : State) : State :=
  let x := s.ring r
  if !c.ok then ringFault r 0x0406 s
  else
    let a := x.cbase.toNat + 32 * (x.cpi.toNat % x.slots)
    let s := hostWrite a (leBytes 28 c.bits.toNat) s
    let s := hostWrite (a + 28) (leBytes 4 ((x.cpi.toNat + 1) % 2 ^ 32)) s
    let s := s.updRing r (fun x => { x with cpi := x.cpi + 1 })
    let s := writeBack r 4 (s.ring r).cpi s
    afterCompletion r c.irq s

/-- The completion ring has no consumed slot left (R378). -/
def Ring.full (x : Ring) : Bool := (x.cpi - x.cci).toNat = x.slots

/-- Write the completions that wait, while there is room and the ring may write (R378, R395). -/
def flushN : Nat → Nat → State → State
  | 0, _, s => s
  | n + 1, r, s =>
    let x := s.ring r
    match x.waiting with
    | [] => s
    | c :: rest =>
      if x.st = .paused || x.st = .fault || x.st = .disabled then s
      else if x.full then s
      else flushN n r (putCompletion r c (s.updRing r (fun x => { x with waiting := rest })))

/-- A draining ring whose commands have completed and whose completions are written is DISABLED (R393). -/
def drainRing (r : Nat) (s : State) : State :=
  let x := s.ring r
  if x.st = .draining && x.waiting.isEmpty && s.host.exec.all (fun e => e.ring ≠ r || e.mute) &&
      (Tbl.get none s.host.outs r).isNone then
    s.updRing r (fun x => { x with st := .disabled })
  else s

/-- Write what waits on ring r; a running ring is STALLED while no slot of its completion ring is consumed (R378). -/
def flushRing (r : Nat) (s : State) : State :=
  let s := flushN ((s.ring r).waiting.length + 1) r s
  let x := s.ring r
  let s := if x.st = .running && x.full then s.updRing r (fun x => { x with st := .stalled })
    else if x.st = .stalled && !x.full then s.updRing r (fun x => { x with st := .running }) else s
  drainRing r s

/-! ### Descriptors and completions (R379, R388) -/

/-- Bytes lo .. lo + n - 1 of a descriptor. -/
def descN (d : BitVec 512) (lo n : Nat) : Nat := bitsN d.toNat (8 * lo) (8 * n)

def descOp (d : BitVec 512) : Nat := descN d 0 1
def descFlags (d : BitVec 512) : Nat := descN d 1 1
def descJob (d : BitVec 512) : Nat := descN d 2 2
def descAddr (d : BitVec 512) : Nat := descN d 8 8
def descLen (d : BitVec 512) : Nat := descN d 16 4
def descListLen (d : BitVec 512) : Nat := descN d 20 4

/-- Completion statuses (Table HI-12). -/
def stDone : Nat := 1
def stRefused : Nat := 2
def stFailed : Nat := 3
def stStarted : Nat := 4

/-- A completion without SEQ (Table HI-12). -/
def complBits (x : Exec) (status reason : Nat) (result : List Byte) : BitVec 256 :=
  BitVec.ofNat 256 (leNat (leBytes 4 (descN x.desc 4 4) ++ leBytes 2 reason ++ leBytes 1 status ++ leBytes 1 (descOp x.desc) ++
    (result ++ List.replicate (16 - result.length) 0).take 16 ++ leBytes 4 x.index.toNat))

/-- Hand a completion of command x to its ring; a ring in FAULT or reset loses it (R392, R394). -/
def postCompletion (x : Exec) (status reason : Nat) (result : List Byte) (ok : Bool) (s : State) : State :=
  if x.mute || (s.ring x.ring).st = .fault || (s.ring x.ring).st = .disabled then s
  else flushRing x.ring (s.updRing x.ring (fun r => { r with
    waiting := r.waiting ++ [⟨complBits x status reason result, bitN (descFlags x.desc) 1, ok⟩] }))

/-- The command x has completed: it leaves the commands in execution, CMDS counts it, its completion is written. -/
def finish (x : Exec) (status reason : Nat) (result : List Byte) (ok : Bool) (s : State) : State :=
  let s := s.updHost (fun h => { h with exec := dropFirst (fun e => e.ring = x.ring && e.index = x.index && e.mute = x.mute) h.exec })
  let s := bump (devCtr 0x118) 1 s
  drainRing x.ring (postCompletion x status reason result ok s)

/-- The command in execution that a host-command row names, if its operation is op. -/
def cmdOf (h : HostCmd) (op : Nat) (s : State) : Option Exec :=
  s.host.exec.find? (fun e => e.ring = h.ring.val && e.index = h.index && e.desc = h.desc && descOp e.desc = op)

/-- The commands picked up before x that are still in execution. -/
def before (x : Exec) (s : State) : List Exec := s.host.exec.takeWhile (· ≠ x)

/-- Commands that name a job; the others carry JOB 0 (R384). -/
def namesJob (op : Nat) : Bool := op ≤ 5 || (7 ≤ op && op ≤ 0x0B)

/-- Commands of one job execute one at a time in pickup order; JOB_STOP acts at pickup, and STATE_READs may overlap (R381). JOB_LOADs are admitted one after
the other (R236). -/
def mayRun (x : Exec) (s : State) : Bool :=
  !(descOp x.desc = 0x01 && (before x s).any (fun e => descOp e.desc = 0x01)) && (!namesJob (descOp x.desc) ||
  (before x s).all (fun e => descJob e.desc ≠ descJob x.desc || !namesJob (descOp e.desc) ||
    (descOp e.desc = 0x08 && descOp x.desc = 0x08) || (descOp e.desc ≠ 0x03 && descOp x.desc = 0x03)))

/-- Write bytes to the command's data buffer, entry by entry (R382). -/
def writeBuffer : List (Nat × Nat) → List Byte → State → State
  | [], _, s => s
  | (a, n) :: es, bs, s => writeBuffer es (bs.drop n) (hostWrite a (bs.take n) s)

end Sys2Proof.Machine
end

