-- ==== Sys2Proof/Machine/Num.lean ====
section
/-! DEFINITION. Number formats, rounding, conversion, and the FP32 arithmetic of the micro-programs (02, 06 R144). -/

namespace Sys2Proof.Machine

/-- A decoded value: NaN, an infinity, or sign, magnitude m and exponent e of m x 2^e. -/
inductive Val where
  | nan | inf (neg : Bool) | fin (neg : Bool) (m : Nat) (e : Int)
  deriving DecidableEq, Repr

/-- Conversion events of Table NF-8. -/
structure Ev where
  nan : Nat
  inf : Nat
  flush : Nat
  sat : Nat
  tb2 : Nat
  neg : Nat
  wmin : Nat
  deriving DecidableEq, Repr

def Ev.zero : Ev := ⟨0, 0, 0, 0, 0, 0, 0⟩
def Ev.add (a b : Ev) : Ev :=
  ⟨a.nan + b.nan, a.inf + b.inf, a.flush + b.flush, a.sat + b.sat, a.tb2 + b.tb2, a.neg + b.neg, a.wmin + b.wmin⟩
def Ev.sum (l : List Ev) : Ev := l.foldl Ev.add Ev.zero

/-! ### Exact arithmetic -/

def Val.zero : Val := .fin false 0 0
def Val.isZero : Val → Bool
  | .fin _ m _ => m = 0
  | _ => false
def Val.neg : Val → Bool
  | .nan => false
  | .inf n => n
  | .fin n _ _ => n
def Val.abs : Val → Val
  | .nan => .nan
  | .inf _ => .inf false
  | .fin _ m e => .fin false m e

/-- Scale by a power of two. -/
def Val.scale (k : Int) : Val → Val
  | .fin n m e => .fin n m (e + k)
  | v => v

/-- Signed integer of a finite value on the grid 2^e0, where e0 is at most its exponent. -/
def Val.intAt (e0 : Int) : Val → Int
  | .fin n m e => let x : Int := m * 2 ^ (e - e0).toNat
                  if n then -x else x
  | _ => 0

def Val.exp : Val → Int
  | .fin _ _ e => e
  | _ => 0

/-- A value from a signed integer and an exponent, with the sign of a zero. -/
def Val.ofInt (x : Int) (e : Int) (negZero : Bool) : Val := .fin (if x = 0 then negZero else x < 0) x.natAbs e

/-- Exact sum; opposite infinities give NaN, an exact zero of nonzero operands +0 (R144). -/
def Val.add : Val → Val → Val
  | .nan, _ => .nan
  | _, .nan => .nan
  | .inf a, .inf b => if a = b then .inf a else .nan
  | .inf a, _ => .inf a
  | _, .inf b => .inf b
  | .fin a m e, .fin b m' e' =>
    let e0 := min e e'
    .ofInt ((Val.fin a m e).intAt e0 + (Val.fin b m' e').intAt e0) e0 (m = 0 && m' = 0 && a && b)

def Val.opp : Val → Val
  | .nan => .nan
  | .inf a => .inf (!a)
  | .fin a m e => .fin (!a) m e

def Val.sub (a b : Val) : Val := a.add b.opp

/-- Exact product. -/
def Val.mul : Val → Val → Val
  | .nan, _ => .nan
  | _, .nan => .nan
  | .inf a, .inf b => .inf (a != b)
  | .inf a, .fin b m _ => if m = 0 then .nan else .inf (a != b)
  | .fin a m _, .inf b => if m = 0 then .nan else .inf (a != b)
  | .fin a m e, .fin b m' e' => .fin (a != b) (m * m') (e + e')

/-- Quotient to 64 more bits than the divisor's, with a sticky bit below: enough for one correct rounding to FP32. -/
def Val.div : Val → Val → Val
  | .nan, _ => .nan
  | _, .nan => .nan
  | .inf _, .inf _ => .nan
  | .inf a, .fin b _ _ => .inf (a != b)
  | .fin a _ _, .inf b => .fin (a != b) 0 0
  | .fin a m e, .fin b m' e' =>
    if m' = 0 then (if m = 0 then .nan else .inf (a != b))
    else
      let k := 64 + m'.log2
      let n := m * 2 ^ k
      .fin (a != b) (2 * (n / m') + (if n % m' = 0 then 0 else 1)) (e - e' - k - 1)

/-- Square root with a sticky bit below: enough for one correct rounding to FP32. -/
def Val.sqrt : Val → Val
  | .nan => .nan
  | .inf n => if n then .nan else .inf false
  | .fin n m e =>
    if m = 0 then .fin n 0 0
    else if n then .nan
    else
      let k : Nat := if e % 2 = 0 then 128 else 129
      let x := m * 2 ^ k
      let r := x.sqrt
      .fin false (2 * r + (if r * r = x then 0 else 1)) ((e - k) / 2 - 1)

/-- Order by exact value: infinities as numbers, zeros equal (R70). NaN is not compared. -/
def Val.lt : Val → Val → Bool
  | .nan, _ => false
  | _, .nan => false
  | .inf a, .inf b => a && !b
  | .inf a, _ => a
  | _, .inf b => !b
  | .fin a m e, .fin b m' e' =>
    let e0 := min e e'
    decide ((Val.fin a m e).intAt e0 < (Val.fin b m' e').intAt e0)

/-! ### Rounding (R34, R35, R45) -/

/-- floor(log2 of the magnitude) of a nonzero finite value. -/
def Val.ilog : Val → Int
  | .fin _ m e => e + m.log2
  | _ => 0

/-- RNE of m x 2^e to an integer, ties to even. -/
def rneNat (m : Nat) (e : Int) : Nat :=
  if e ≥ 0 then m * 2 ^ e.toNat
  else
    let k := (-e).toNat
    let q := m / 2 ^ k
    let r := m % 2 ^ k
    let h := 2 ^ (k - 1)
    if r > h || (r = h && q % 2 = 1) then q + 1 else q

/-- SR of m x 2^e to an integer with 16 random bits (R45). -/
def srNat (m : Nat) (e : Int) (u : Nat) : Nat :=
  if e ≥ 0 then m * 2 ^ e.toNat
  else
    let k := (-e).toNat
    let q := m / 2 ^ k
    let f := (m % 2 ^ k) * 65536 / 2 ^ k
    if f + u ≥ 65536 then q + 1 else q

/-- Rounding mode: RNE, or SR with its 16 random bits. -/
abbrev Rnd := Option Nat

def roundNat (r : Rnd) (m : Nat) (e : Int) : Nat :=
  match r with
  | none => rneNat m e
  | some u => srNat m e u

/-- RNE of a finite value to a signed integer. -/
def rneInteger : Val → Int
  | .fin n m e => let x : Int := rneNat m e
                  if n then -x else x
  | _ => 0

/-! ### Element encodings (Table NF-2) -/

/-- An element encoding: exponent and mantissa bits, bias, unsigned, and what the top exponent holds (0 numbers only,
1 IEEE infinities and NaNs, 2 one NaN at all ones). -/
structure Enc where
  ebits : Nat
  mbits : Nat
  bias : Nat
  unsigned : Bool
  top : Nat
  long : Bool                 -- flushed subnormals (R34)
  deriving DecidableEq, Repr

def encFp32 : Enc := ⟨8, 23, 127, false, 1, true⟩
def encBf16 : Enc := ⟨8, 7, 127, false, 1, true⟩
def encFp16 : Enc := ⟨5, 10, 15, false, 1, true⟩
def encE4m3 : Enc := ⟨4, 3, 7, false, 2, false⟩
def encE5m2 : Enc := ⟨5, 2, 15, false, 1, false⟩
def encE3m2 : Enc := ⟨3, 2, 3, false, 0, false⟩
def encE2m3 : Enc := ⟨2, 3, 1, false, 0, false⟩
def encE2m1 : Enc := ⟨2, 1, 1, false, 0, false⟩
def encUe5m3 : Enc := ⟨5, 3, 15, true, 2, false⟩

/-- R24 with the infinities and NaNs of Table NF-2; subnormals of every encoding exact. -/
def Enc.raw (c : Enc) (code : Nat) : Val :=
  let m := bitsN code 0 c.mbits
  let e := bitsN code c.mbits c.ebits
  let s := !c.unsigned && bitN code (c.mbits + c.ebits)
  let emax := 2 ^ c.ebits - 1
  if c.top = 1 && e = emax then (if m = 0 then .inf s else .nan)
  else if c.top = 2 && e = emax && m = 2 ^ c.mbits - 1 then .nan
  else if e = 0 then .fin s m (1 - (c.bias : Int) - c.mbits)
  else .fin s (2 ^ c.mbits + m) ((e : Int) - c.bias - c.mbits)

/-- Decoding an element: long formats flush subnormals (R34). -/
def Enc.dec (c : Enc) (code : Nat) : Val × Ev :=
  let v := c.raw code
  if c.long && bitsN code c.mbits c.ebits = 0 && bitsN code 0 c.mbits ≠ 0 then (.fin v.neg 0 0, { Ev.zero with flush := 1 })
  else (v, Ev.zero)

/-- Exponent of the smallest normal. -/
def Enc.emin (c : Enc) : Int := 1 - (c.bias : Int)

/-- The code of a magnitude n x 2^g that lies on the encoding's grid. -/
def Enc.pack (c : Enc) (neg : Bool) (n : Nat) (g : Int) : Nat :=
  let s := if neg && !c.unsigned then 2 ^ (c.mbits + c.ebits) else 0
  if n = 0 then s
  else
    let l := g + n.log2
    if l < c.emin then s + n * 2 ^ (g - (c.emin - c.mbits)).toNat
    else
      let mant := if (n.log2 : Int) ≥ c.mbits then n / 2 ^ (n.log2 - c.mbits) else n * 2 ^ (c.mbits - n.log2)
      s + (l + c.bias).toNat * 2 ^ c.mbits + (mant - 2 ^ c.mbits)

/-- Largest finite code without sign (Table NF-2). -/
def Enc.maxCode (c : Enc) : Nat :=
  if c.top = 1 then (2 ^ c.ebits - 1) * 2 ^ c.mbits - 1
  else if c.top = 2 then 2 ^ (c.ebits + c.mbits) - 2
  else 2 ^ (c.ebits + c.mbits) - 1

/-- The canonical NaN (R38). -/
def Enc.nanCode (c : Enc) : Nat :=
  if c.top = 2 then 2 ^ (c.ebits + c.mbits) - 1
  else if c.ebits = 5 && c.mbits = 2 then 0x7F
  else (2 ^ c.ebits - 1) * 2 ^ c.mbits + 2 ^ (c.mbits - 1)

/-- Round a finite magnitude to the encoding's grid: count and grid exponent (R35). -/
def Enc.grid (c : Enc) (r : Rnd) (m : Nat) (e : Int) : Nat × Int :=
  if m = 0 then (0, 0)
  else
    let l := e + m.log2
    let g := (if c.long then l else max l c.emin) - c.mbits
    (roundNat r m (e - g), g)

/-- n x 2^g exceeds the largest finite value. -/
def Enc.over (c : Enc) (n : Nat) (g : Int) : Bool := (c.raw c.maxCode).lt (.fin false n g)

/-- One conversion to the encoding (R35, R37, R38, R34); `toInf`: overflow gives infinity, as in FP32 arithmetic and in decode. An infinity that
becomes the canonical NaN is counted as an infinity received and a NaN produced (R42). -/
def Enc.enc (c : Enc) (toInf : Bool) (r : Rnd) : Val → Nat × Ev
  | .nan => (c.nanCode, { Ev.zero with nan := 1 })
  | .inf n => (if c.top = 1 then (if n then 2 ^ (c.ebits + c.mbits) else 0) + (2 ^ c.ebits - 1) * 2 ^ c.mbits else c.nanCode,
      { Ev.zero with inf := 1, nan := b2n (c.top ≠ 1) })
  | .fin n m e =>
    if c.unsigned && n && m ≠ 0 then (0, { Ev.zero with neg := 1 })
    else
      let (k, g) := c.grid r m e
      if c.over k g then
        (if toInf then ((if n then 2 ^ (c.ebits + c.mbits) else 0) + (2 ^ c.ebits - 1) * 2 ^ c.mbits, { Ev.zero with inf := 1 })
         else ((if n then 2 ^ (c.ebits + c.mbits) else 0) + c.maxCode, { Ev.zero with sat := 1 }))
      else if c.long && k ≠ 0 && g + k.log2 < c.emin then (c.pack n 0 0, { Ev.zero with flush := 1 })
      else (c.pack n k g, Ev.zero)

/-! ### FP32 words -/

/-- FP32 decoded, subnormals flushed (R34). -/
def fp32 (w : Nat) : Val × Ev := encFp32.dec w
def fp32v (w : Nat) : Val := (fp32 w).1

/-- One RNE rounding to FP32: infinity on overflow (R37's exception, R144), flush below 2^-126. -/
def toFp32 (v : Val) : Nat := (encFp32.enc true none v).1

/-- An FP32 word and the flushes that forming it counts (R34). -/
structure Fres where
  v : Nat
  n : Nat
  deriving DecidableEq, Repr

/-- An FP32 operation of R144 over its operands' words: subnormals flushed, inputs and result alike. -/
def fop (f : Val → Val → Val) (a b : Nat) : Fres :=
  let x := fp32 a
  let y := fp32 b
  let r := encFp32.enc true none (f x.1 y.1)
  ⟨r.1, x.2.flush + y.2.flush + r.2.flush⟩
def faddC (a b : Nat) : Fres := fop Val.add a b
def fsubC (a b : Nat) : Fres := fop Val.sub a b
def fmulC (a b : Nat) : Fres := fop Val.mul a b
def fdivC (a b : Nat) : Fres := fop Val.div a b
def fsqrtC (a : Nat) : Fres := fop (fun x _ => x.sqrt) a 0
def fadd (a b : Nat) : Nat := (faddC a b).v
def fsub (a b : Nat) : Nat := (fsubC a b).v
def fmul (a b : Nat) : Nat := (fmulC a b).v
def fdiv (a b : Nat) : Nat := (fdivC a b).v
def fsqrt (a : Nat) : Nat := (fsqrtC a).v
def fisNan (a : Nat) : Bool := fp32v a = .nan
def fisFin (a : Nat) : Bool :=
  match fp32v a with
  | .fin _ _ _ => true
  | _ => false

/-! ### Formats of cells (Tables NF-1, NF-3) -/

/-- Element bits of a format code. -/
def fmtBits : Nat → Nat
  | 0 => 32 | 1 => 16 | 2 => 16 | 3 => 8 | 4 => 8 | 5 => 8 | 6 => 8 | 7 => 6 | 8 => 6 | 9 => 4 | 0xA => 2
  | 0xC => 32 | 0xD => 48 | 0xE => 64 | _ => 32

/-- Elements per cell. -/
def fmtElems (f : Nat) : Nat := 768 / fmtBits f

/-- Elements per block scale, 0 for none. -/
def fmtBlock (f : Nat) : Nat := if 5 ≤ f && f ≤ 9 then 32 else if f = 0xA then 64 else 0

def fmtIsFloat (f : Nat) : Bool := f ≤ 0xA
def fmtIsW (f : Nat) : Bool := 0xC ≤ f && f ≤ 0xE

/-- Width of a W-form code. -/
def wBits (f : Nat) : Nat := if f = 0xC then 32 else if f = 0xD then 48 else 64

/-- The element encoding of a floating-point format other than TB2. -/
def fmtEnc : Nat → Enc
  | 0 => encFp32 | 1 => encBf16 | 2 => encFp16 | 3 => encE4m3 | 4 => encE5m2 | 5 => encE4m3 | 6 => encE5m2 | 7 => encE3m2
  | 8 => encE2m3 | _ => encE2m1

/-- Exponent of the largest normal element (Table NF-7). -/
def fmtEmax : Nat → Int
  | 5 => 8 | 6 => 15 | 7 => 4 | 8 => 2 | 9 => 2 | _ => 0

/-- Element i of a payload in a format (R30). -/
def payElem (f : Nat) (p : Payload) (i : Nat) : Nat := bitsN p.toNat (fmtBits f * i) (fmtBits f)

/-- A payload from its element codes. -/
def payPack (f : Nat) (codes : List Nat) : Payload :=
  BitVec.ofNat 768 ((codes.zipIdx.map (fun c => c.1 % 2 ^ fmtBits f * 2 ^ (fmtBits f * c.2))).sum)

/-- Decode one element under its block scale (R25, R26, R34): its exact value. DESIGN CHOICE: in a block of scale 0xFF a code 0b10 is that block's NaN
and is not counted as a reserved code (log entry 51). -/
def decElem (f code scale : Nat) : Val × Ev :=
  if f = 0xA then
    (if scale = 0xFF then (.nan, Ev.zero)
     else if code = 1 then (.fin false 1 ((scale : Int) - 127), Ev.zero)
     else if code = 3 then (.fin true 1 ((scale : Int) - 127), Ev.zero)
     else (Val.zero, if code = 2 then { Ev.zero with tb2 := 1 } else Ev.zero))
  else if fmtBlock f ≠ 0 then
    (if scale = 0xFF then (.nan, Ev.zero) else (((fmtEnc f).raw code).scale ((scale : Int) - 127), Ev.zero))
  else (fmtEnc f).dec code

/-- Decode to an FP32 word (Table NF-5): infinity from 2^128 on, flushed below 2^-126, NaN and infinity counted. -/
def decFp32 (f code scale : Nat) : Nat × Ev :=
  let (v, e) := decElem f code scale
  let (w, e2) := encFp32.enc true none v
  (w, e.add e2)

/-- Value of a W-form word: its integer, and whether it was -2^(w-1) (R29). -/
def decW (w code : Nat) : Int × Bool :=
  if code = 2 ^ (w - 1) then (-(2 ^ (w - 1) - 1 : Int), true)
  else (if code ≥ 2 ^ (w - 1) then (code : Int) - 2 ^ w else code, false)

/-- Two's complement of w bits. -/
def toW (w : Nat) (x : Int) : Nat := (x % (2 ^ w : Int)).toNat

/-- Saturate to the symmetric range of w bits (R29). -/
def satW (w : Nat) (x : Int) : Int × Bool :=
  let lim : Int := 2 ^ (w - 1) - 1
  if x > lim then (lim, true) else if x < -lim then (-lim, true) else (x, false)

/-! ### Stochastic rounding bits (R43) -/

def rotl32 (x : Word) (k : Nat) : Word := x.rotateLeft k

def srRound (k : Word) (q : Word × Word × Word × Word) : Word × Word × Word × Word :=
  let (a, b, c, d) := q
  let a := a + b; let d := rotl32 (d ^^^ a) 16
  let c := c + d; let b := rotl32 (b ^^^ c) 12
  let a := a + b; let d := rotl32 (d ^^^ a) 8
  let c := c + d; let b := rotl32 (b ^^^ c) 7
  (a + k, b, c, d)

def srBits (seed : BitVec 64) (step tensor idx : Nat) : Nat :=
  let a : Word := seed.extractLsb' 0 32 ^^^ BitVec.ofNat 32 idx
  let q := ([0x9E3779B9, 0x3C6EF372, 0xDAA66D2B, 0x78DDE6E4] : List Word).foldl (fun q k => srRound k q)
    (a, seed.extractLsb' 32 32, BitVec.ofNat 32 step, BitVec.ofNat 32 (idx / 2 ^ 32 % 256 * 2 ^ 24 + tensor % 2 ^ 24))
  (q.1 ^^^ q.2.2.1).toNat % 65536

/-! ### Encoding a block (R39, R40, R38) -/

/-- The largest magnitude of a list of finite values. -/
def maxAbs (l : List Val) : Val := l.foldl (fun a v => if a.lt v.abs then v.abs else a) Val.zero

def Val.isFin : Val → Bool
  | .fin _ _ _ => true
  | _ => false

/-- Clamp the scale exponent and give the scale byte. -/
def clampExp (x : Int) : Int := max (-127) (min x 127)

/-- Encode a block: scale byte, element codes, events. `rs` gives each element's rounding. In a block that is NaN as a whole, each element that
is itself a NaN or an infinity counts as a NaN produced (R42; log entry 51). -/
def encBlock (f : Nat) (vs : List Val) (rs : List Rnd) : Nat × List Nat × Ev :=
  let nans := (vs.filter (· = .nan)).length
  let infs := (vs.filter (fun v => v = .inf true || v = .inf false)).length
  if nans + infs > 0 then (0xFF, vs.map (fun _ => 0), { Ev.zero with nan := nans + infs, inf := infs })
  else
    let amax := maxAbs vs
    let x := clampExp (if amax.isZero then -127 else amax.ilog - fmtEmax f)
    let codes := (vs.zip rs).map (fun q =>
      let v := q.1.scale (-x)
      if f = 0xA then
        match v with
        | .fin n m e => if min 1 (roundNat q.2 m e) = 0 then 0 else if n then 3 else 1
        | _ => 0
      else ((fmtEnc f).enc false q.2 v).1)
    ((x + 127).toNat, codes, Ev.zero)

/-- Encode elements into one cell of a format: scale bytes, codes, events; block scales only where the format has them.
A block of padding alone has scale 0 (R33). -/
def encCell (f : Nat) (vs : List Val) (rs : List Rnd) : BitVec 48 × Payload × Ev :=
  if fmtBlock f = 0 then
    let cs := (vs.zip rs).map (fun q => (fmtEnc f).enc false q.2 q.1)
    (0, payPack f (cs.map (·.1)), Ev.sum (cs.map (·.2)))
  else
    let b := fmtBlock f
    let n := (vs.length + b - 1) / b
    let bl := (List.range n).map (fun j =>
      let v := (vs.drop (b * j)).take b
      let r := (rs.drop (b * j)).take b
      let q := encBlock f v r
      (q.1, q.2.1 ++ List.replicate (b - q.2.1.length) 0, q.2.2))
    (BitVec.ofNat 48 ((bl.zipIdx.map (fun q => q.1.1 * 2 ^ (8 * q.2))).sum), payPack f (bl.flatMap (·.2.1)), Ev.sum (bl.map (·.2.2)))

/-! ### Window quantisation and drains (R53, R55, R62, R91) -/

/-- ceil(log2 n) for n at least 1. -/
def clog2 (n : Nat) : Nat := if n ≤ 1 then 0 else (n - 1).log2 + 1

/-- QNT of one value: the W-form integer, whether it saturated, its events (R55). -/
def qnt (v : Val) (wtop : Int) (w : Nat) (s : Int) : Int × Bool × Ev :=
  match v with
  | .nan => (0, false, { Ev.zero with nan := 1 })
  | .inf n => (if n then -(2 ^ (w - 1) - 1) else 2 ^ (w - 1) - 1, true, { Ev.zero with inf := 1 })
  | v =>
    let (x, sat) := satW w (rneInteger (v.scale (-(wtop - w + 2 + s))))
    (x, sat, Ev.zero)

/-- Fusion of a drain (R91). -/
inductive Fuse where
  | none | add | mul
  deriving DecidableEq, Repr

/-- Drain of one W96 sum to an FP32 word (R91, R92), with its events; an exact zero gives +0. -/
def drainFp32 (x : Int) (wlsb : Int) (op : Fuse) (b : Val) : Nat × Ev :=
  let a := Val.ofInt x wlsb false
  let r := match op with
    | .none => a
    | .add => a.add b
    | .mul => a.mul b
  encFp32.enc true none (if r.isZero then Val.zero else r)

/-- A W96 word of an accumulator as a signed integer. -/
def accInt (w : BitVec 96) : Int := w.toInt

/-- Exact add into W96 with the symmetric limit (R29, R84). -/
def addW96 (a b : Int) : BitVec 96 × Bool :=
  let (x, sat) := satW 96 (a + b)
  (BitVec.ofInt 96 x, sat)

/-! ### Moments (R139) -/

/-- v_encode: UE5M3 elements with their own scale rule; a NaN or infinity makes the block NaN. A negative value gives 0 and counts a range
error (R38, R42). -/
def vEncode (vs : List Val) : Nat × List Nat × Ev :=
  if vs.any (fun v => !v.isFin) then (0xFF, vs.map (fun _ => 0), Ev.zero)
  else
    let amax := maxAbs vs
    let x := clampExp (if amax.isZero then -127 else amax.ilog - 15)
    let cs := vs.map (fun v => encUe5m3.enc false none (v.scale (-x)))
    ((x + 127).toNat, cs.map (·.1), Ev.sum (cs.map (·.2)))

/-- A moment element decoded exactly under its block's scale (R139, R25). -/
def decMoment (c : Enc) (code scale : Nat) : Val := if scale = 0xFF then .nan else (c.raw code).scale ((scale : Int) - 127)

end Sys2Proof.Machine
end

