-- ==== Sys2Proof/Machine/Operands.lean ====
section
/-! DEFINITION. The operand forms: fields of cells, tide entries, group and routing entries, and of the words that commands
carry (10, 11). -/

namespace Sys2Proof

open Machine

/-! ### Cell headers (Tables SW-1, SW-2) -/

/-- Header bits lo .. lo + n - 1. -/
def Cell.f (c : Cell) (lo n : Nat) : Nat := bitsN c.hdr.toNat lo n

def Cell.cls (c : Cell) : Nat := c.f 126 2
def Cell.kind (c : Cell) : Nat := c.f 122 4
def Cell.fmt (c : Cell) : Nat := c.f 118 4
def Cell.parity (c : Cell) : Bool := c.hdr.getLsbD 117
def Cell.last (c : Cell) : Bool := c.hdr.getLsbD 116
def Cell.esc (c : Cell) : Bool := c.hdr.getLsbD 115
def Cell.prov (c : Cell) : Bool := c.hdr.getLsbD 114
def Cell.job (c : Cell) : Nat := c.f 102 12
def Cell.coll (c : Cell) : Nat := c.f 90 12
def Cell.epoch (c : Cell) : Nat := c.f 86 4
def Cell.chunk (c : Cell) : Nat := c.f 66 20
def Cell.rank (c : Cell) : Nat := c.f 48 18
def Cell.scale (c : Cell) : Nat := c.f 0 48
def Cell.scaleByte (c : Cell) (j : Nat) : Nat := c.f (8 * j) 8
def Cell.ddev (c : Cell) : Nat := c.f 74 12
def Cell.dport (c : Cell) : Nat := c.f 67 7
def Cell.mgrp (c : Cell) : Nat := c.f 53 14
def Cell.seq (c : Cell) : Nat := c.f 37 16
def Cell.ksf (c : Cell) : Nat := c.f 0 37

/-- Payload byte k (R30, R256). -/
def Cell.pbyte (c : Cell) (k : Nat) : Nat := bitsN c.pay.toNat (8 * k) 8

/-- n payload bytes from lo on, little-endian (R3). -/
def Cell.pn (c : Cell) (lo n : Nat) : Nat := bitsN c.pay.toNat (8 * lo) (8 * n)

/-- The 112 cell bytes (R256). -/
def Cell.bytes (c : Cell) : List Byte :=
  (List.range 16).map (fun b => BitVec.ofNat 8 (c.f (120 - 8 * b) 8)) ++ leBytes 96 c.pay.toNat

/-- The cell of 112 bytes (R256). -/
def Cell.ofBytes (bs : List Byte) : Cell :=
  ⟨BitVec.ofNat 128 ((bs.take 16).foldl (fun a b => 256 * a + b.toNat) 0), BitVec.ofNat 768 (leNat ((bs.drop 16).take 96))⟩

end Sys2Proof

namespace Sys2Proof.Machine

/-- A field value at its place. -/
def at' (v lo n : Nat) : Nat := v % 2 ^ n * 2 ^ lo

/-- The common part of a header (Table SW-1). -/
def hdrCommon (cls kind fmt : Nat) (parity last esc prov : Bool) (job coll epoch : Nat) : Nat :=
  at' cls 126 2 + at' kind 122 4 + at' fmt 118 4 + at' (b2n parity) 117 1 + at' (b2n last) 116 1 + at' (b2n esc) 115 1 +
  at' (b2n prov) 114 1 + at' job 102 12 + at' coll 90 12 + at' epoch 86 4

/-- A cell of the collective layout (Table SW-1). -/
def mkColl (kind fmt : Nat) (parity last esc prov : Bool) (job coll epoch chunk rank scale : Nat) (pay : Payload) : Cell :=
  ⟨BitVec.ofNat 128 (hdrCommon 0 kind fmt parity last esc prov job coll epoch + at' chunk 66 20 + at' rank 48 18 + at' scale 0 48), pay⟩

/-- A cell of the routed layout (Table SW-2). -/
def mkRouted (cls kind fmt job coll epoch ddev dport mgrp seq ksf : Nat) (pay : Payload) : Cell :=
  ⟨BitVec.ofNat 128 (hdrCommon cls kind fmt false false false false job coll epoch + at' ddev 74 12 + at' dport 67 7 +
    at' mgrp 53 14 + at' seq 37 16 + at' ksf 0 37), pay⟩

/-- A payload of bytes, the rest 0. -/
def payOf (bs : List Byte) : Payload := BitVec.ofNat 768 (leNat (bs.take 96))

/-- The idle cell (R259, R260). -/
def idleCell : Cell := ⟨(3 : BitVec 128) <<< 126, 0⟩

/-! ### Classes and kinds (Tables SW-3, SW-4) -/

def clsSched : Nat := 0
def clsUns : Nat := 1
def clsCtl : Nat := 2
def clsMgmt : Nat := 3

def kContribution : Nat := 1
def kPartial : Nat := 2
def kResult : Nat := 3
def kParameter : Nat := 4
def kRelay : Nat := 5
def kShuffle : Nat := 6
def kStat : Nat := 7
def kLaunch : Nat := 8
def kVerdict : Nat := 9
def kAck : Nat := 0xA
def kDiscovery : Nat := 0xB
def kSleep : Nat := 0xC
def kTime : Nat := 0xD

/-- The classes in which a kind may travel (Table SW-4). -/
def kindClasses : Nat → List Nat
  | 0x0 => [3]
  | 0x1 => [0]
  | 0x2 => [0]
  | 0x3 => [0]
  | 0x4 => [0]
  | 0x5 => [0, 1]
  | 0x6 => [0]
  | 0x7 => [2]
  | 0x8 => [2]
  | 0x9 => [2]
  | 0xA => [2, 1]
  | 0xB => [3, 2]
  | 0xC => [3]
  | 0xD => [3]
  | _ => []

/-- The header errors of R260. -/
def hdrBad (c : Cell) : Bool :=
  !(kindClasses c.kind).contains c.cls || c.fmt = 0xB || c.fmt = 0xF ||
  (c.cls ≠ clsSched && c.mgrp ≠ 0 && (c.ddev ≠ 0 || c.dport ≠ 0)) ||
  (c.cls = clsMgmt && (c.ddev ≠ 0 || c.dport ≠ 0 || c.mgrp ≠ 0)) ||
  (c.kind = 0 && c.hdr.toNat % 2 ^ 126 ≠ 0)

def isIdle (c : Cell) : Bool := c.cls = clsMgmt && c.kind = 0

/-! ### Tide entries (Table SW-7), the slice map (Table SW-6), groups (Table SW-12) -/

def rxFree : Nat := 0
def rxLocal : Nat := 1
def rxPass : Nat := 2
def rxControl : Nat := 3

def teRx (e : Word) : Nat := bitsN e.toNat 30 2
def teTx (e : Word) : Nat := bitsN e.toNat 28 2
def teMc (e : Word) : Bool := e.getLsbD 27
def teRelay (e : Word) : Bool := e.getLsbD 26
def teSlice (e : Word) : Nat := bitsN e.toNat 20 6
def teOq (e : Word) : Nat := bitsN e.toNat 17 3
def teRsvd (e : Word) : Nat := bitsN e.toNat 14 3
def teDest (e : Word) : Nat := bitsN e.toNat 0 14
/-- DEST of a unicast entry: TILE bit and number. -/
def teTile (e : Word) : Bool := e.getLsbD 7
def teUnit (e : Word) : Nat := bitsN e.toNat 0 7

/-- The entry of column n, slot t. -/
def TideBank.ent (b : TideBank) (n t : Nat) : Word := Tbl.get 0 b.ents (b.len * n + t)

/-- The job tag of a valid slice. -/
def TideBank.sliceJob (b : TideBank) (k : Nat) : Option Nat :=
  let w := Tbl.get 0 b.slices k
  if w.getLsbD 12 then some (w.toNat % 4096) else none

def grpLocal (g : BitVec 256) : Bool := g.getLsbD 141
def grpValid (g : BitVec 256) : Bool := g.getLsbD 140
def grpJob (g : BitVec 256) : Nat := bitsN g.toNat 128 12
def grpPort (g : BitVec 256) (p : Nat) : Bool := p < 128 && g.getLsbD p
def grpPorts (g : BitVec 256) : List Nat := (List.range 128).filter (grpPort g)

/-! ### Positions (R263, R265, R271) -/

/-- The tide bank in force, and the other one. -/
def State.bank (s : State) : TideBank := if s.tide.active then s.tide.bank1 else s.tide.bank0
def State.otherBank (s : State) : TideBank := if s.tide.active then s.tide.bank0 else s.tide.bank1

/-- Position now: 4 T positions in each tide, counted on through tides and switches (R263; log entry 19). -/
def posNow (s : State) : Nat := s.tide.base + (5 * s.time - s.tide.start) / 196608

/-- Slot now, counted through tides. -/
def slotNow (s : State) : Nat := posNow s / 4

/-- The position, near now, that a label names (R265): at most 4,096 positions ahead. -/
def labelPos (s : State) (label : Nat) : Nat :=
  let top := posNow s + 4096
  top - (top + 16384 - label % 16384) % 16384

/-- The slot of a position in a bank whose tide begins at position base, the tides before it alike. -/
def TideBank.slotAt (b : TideBank) (base pos : Nat) : Nat :=
  if base ≤ pos then (pos - base) / 4 % b.len else (b.len - (base - pos + 3) / 4 % b.len) % b.len

/-- First position of the tide at which a pending switch takes place. -/
def nextSwitch (s : State) : Nat := s.tide.base + 4 * s.tide.len * (s.tide.switchAt.toNat - s.tide.now)

/-- The entry of port n for a position: positions before a switch use the bank of before it (R273). -/
def entryAt (s : State) (n pos : Nat) : Word × TideBank :=
  let old := s.otherBank
  if s.tide.hold && pos < s.tide.switchPos then (old.ent n (old.slotAt s.tide.switchPos pos), old)
  else if s.tide.pending && s.tide.go && nextSwitch s ≤ pos then (old.ent n (old.slotAt (nextSwitch s) pos), old)
  else (s.bank.ent n (s.bank.slotAt s.tide.base pos), s.bank)

/-- A port's position lies in one of its control slots. -/
def ctlSlot (s : State) (n pos : Nat) : Bool := n < 128 && teRx (entryAt s n pos).1 = rxControl

/-- Offset of Table SW-8 from a cell of port or tile n toward port m. -/
def passOffset (n m : Nat) : Nat := if n / 32 = m / 32 then 6 else 7
def oqOffset (n m : Nat) : Nat := if n / 32 = m / 32 then 1 else 2

end Sys2Proof.Machine
end

