-- ==== Sys2Proof/Machine/JobOps.lean ====
section
/-! DEFINITION. Operations on jobs and their grants that several families share (09). -/

namespace Sys2Proof.Machine

/-- Accumulator tile states (Table AC-1). -/
def accFree : Nat := 0
def accActive : Nat := 1
def accSpilling : Nat := 2
def accSpilled : Nat := 3
def accResuming : Nat := 4

/-- Fields of a tag word (Table AC-1). -/
def tagState (w : Word) : Nat := bitsN w.toNat 29 3
def tagSat (w : Word) : Bool := w.getLsbD 28
def tagEpoch (w : Word) : Nat := bitsN w.toNat 24 4
def tagColl (w : Word) : Nat := bitsN w.toNat 12 12
def tagSlot (w : Word) : Nat := bitsN w.toNat 6 6

/-- A tag word from its fields (Table AC-1). -/
def mkTag (state : Nat) (sat : Bool) (epoch coll slot : Nat) : Word :=
  BitVec.ofNat 32 (state % 8 * 2 ^ 29 + b2n sat * 2 ^ 28 + epoch % 16 * 2 ^ 24 + coll % 4096 * 2 ^ 12 + slot % 64 * 64)

/-- A tag word with another STATE. -/
def retag (state : Nat) (w : Word) : Word := mkTag state (tagSat w) (tagEpoch w) (tagColl w) (tagSlot w)

/-- Codes of Table JB-1. -/
def JobSt.code : JobSt → Nat
  | .free => 0
  | .loaded => 1
  | .running => 2
  | .stopping => 3
  | .stopped => 4

/-- The slot of a loaded job tag (R230). -/
def slotOf (tag : Nat) (s : State) : Option Nat :=
  (List.range 64).find? (fun j => (s.job j).st ≠ .free && (s.job j).tag.toNat = tag)

/-- The job's grant on a logical tile. -/
def Job.grant (x : Job) (tile : Nat) : Option Grant := x.grants.find? (·.tile = tile)

/-- Quota of kind ACC or CBUF on a tile: the grant until JOB_QUOTA changes it (R248). -/
def Job.accQuota (x : Job) (tile : Nat) : Nat :=
  match Tbl.get 0 x.quotaAcc tile with
  | 0 => ((x.grant tile).map (·.acc)).getD 0
  | q + 1 => q
def Job.cbufQuota (x : Job) (tile : Nat) : Nat :=
  match Tbl.get 0 x.quotaCbuf tile with
  | 0 => ((x.grant tile).map (·.cells)).getD 0
  | q + 1 => q

/-- The spill grant: 2,368 bytes for each record (R245). -/
def Job.spillGrant (x : Job) : Nat := 2368 * (x.grants.map (·.records)).sum
def Job.spillQuota (x : Job) : Nat := x.quotaSpill.getD x.spillGrant
def Job.stateQuota (x : Job) : Nat := x.quotaState.getD x.stateBytes

/-- Byte 11 of a spill record: VALID (Table AC-5). -/
def recValid (r : List Byte) : Bool := (r.getD 11 0).getLsbD 0

/-- Use of each kind (Table JB-5). -/
def accUse (s : State) (slot tile : Nat) : Nat :=
  match (s.job slot).grant tile with
  | none => 0
  | some g => ((List.range g.acc).filter (fun k =>
      tagState ((s.tile tile).acc (g.base + k)).tag ≠ accFree || g.held.contains (g.base + k))).length
def cbufUse (s : State) (slot tile : Nat) : Nat :=
  ((s.tile tile).bufs.filter (fun b => b.2.state && b.2.owner = some (.job slot true))).length

/-- Buffers held by a job's cells on a tile, scheduled and unscheduled together (R243). -/
def cellsHeld (s : State) (slot tile : Nat) : Nat :=
  ((s.tile tile).bufs.filter (fun b => b.2.state && (b.2.owner = some (.job slot true) || b.2.owner = some (.job slot false)))).length
def Job.spillUse (x : Job) : Nat := 2368 * (x.spill.filter (fun e => recValid e.2)).length

/-- OVER_QUOTA (R249): bit k set while use of kind k exceeds its quota. -/
def overQuota (s : State) (slot : Nat) : Nat :=
  let x := s.job slot
  b2n (x.grants.any (fun g => accUse s slot g.tile > x.accQuota g.tile)) +
  2 * b2n (x.grants.any (fun g => cbufUse s slot g.tile > x.cbufQuota g.tile)) +
  4 * b2n (decide (x.spillUse > x.spillQuota)) +
  8 * b2n (decide (x.stateBytes > x.stateQuota))

/-- Job status word of a slot (Table JB-2); a FREE slot reads 0 (R405). -/
def jobWord (s : State) (slot : Nat) : Nat :=
  let x := s.job slot
  if x.st = .free then 0
  else x.st.code * 2 ^ 28 + slot * 2 ^ 22 + overQuota s slot * 2 ^ 18 + x.uprio.toNat * 2 ^ 12 + x.tag.toNat

/-- The word for a tag: its slot's, or FREE, SLOT 0 and the tag (R388). -/
def jobWordOf (tag : Nat) (s : State) : Nat :=
  match slotOf tag s with
  | some j => jobWord s j
  | none => tag % 4096

/-- A field of an entry, and its kind (Tables CO-1, CO-2). -/
def Entry.f (e : Entry) (lo n : Nat) : Nat := bitsN e.cfg.toNat lo n
def Entry.op (e : Entry) : Nat := e.f 16 4

/-- The kinds of R102, which move payload bytes unchanged. -/
def isBytes (op : Nat) : Bool := (2 ≤ op && op ≤ 4) || (8 ≤ op && op ≤ 0xA)

/-! ### Instance status (Table CO-5) -/

def stIdle : Nat := 0
def stRunning : Nat := 1
def stComplete : Nat := 2
def stSaturated : Nat := 3
def stIncomplete : Nat := 4
def stAborted : Nat := 5

/-- A cause of status st reaches an instance: the highest wins, and the first cause of it is kept (R120). -/
def Inst.raise (st code : Nat) (i : Inst) : Inst :=
  if i.worst.toNat < st then { i with worst := BitVec.ofNat 4 st, why := BitVec.ofNat 16 code } else i

/-- The running instance of an entry takes a cause; without one nothing happens. -/
def raiseInst (slot coll st code : Nat) (s : State) : State :=
  s.updJob slot (fun x => x.updEntry coll (fun e => { e with inst := e.inst.map (Inst.raise st code) }))

/-- The running instance of an entry becomes INCOMPLETE with a code. -/
def markInc (slot coll code : Nat) (s : State) : State := raiseInst slot coll stIncomplete code s

/-- The instance that a cell names becomes INCOMPLETE, where its job is loaded and its epoch is the entry's. -/
def markCellInc (job coll epoch code : Nat) (s : State) : State :=
  match slotOf job s with
  | none => s
  | some j => if ((s.job j).entry coll).epoch.toNat = epoch then markInc j coll code s else s

/-- Some admitted job holds a slice on a port, in either direction (R246). -/
def carriesSlice (s : State) (port : Nat) : Bool :=
  (List.range 64).any (fun j => (s.job j).st ≠ .free && (s.job j).slices.any (fun x => x.port = port && x.slots ≠ 0))

/-- JOB_ commands, whose REFUSED completions carry the job status word (R388). -/
def isJobOp (op : Nat) : Bool := 1 ≤ op && op ≤ 4

/-- RESULT of a refused or failed command (R234, R388). -/
def refusedResult (d : BitVec 512) (s : State) : List Byte :=
  if isJobOp (descOp d) then leBytes 4 (jobWordOf (descJob d) s) else []

/-- Command x is refused with a code: nothing changes but its completion (R383, R388), and TIDE_STAT.REASON for a TIDE_LOAD (Table SW-11). -/
def refuse (x : Exec) (code : Nat) (s : State) : State :=
  finish x stRefused code (refusedResult x.desc s) true (if descOp x.desc = 0x06 then tideReason code s else s)

/-- Command x fails with a code. -/
def fail (x : Exec) (code : Nat) (s : State) : State := finish x stFailed code (refusedResult x.desc s) true s

/-- Run the body of host command op on its command in execution, once it may run; a failed read of its data completes it
FAILED with 0x0405 (R394). A command that is not in execution, or may not run yet, changes nothing. -/
def hostCmd (op : Nat) (t : Time) (h : HostCmd) (body : Exec → State → State) (s : State) : State :=
  let s := tick t s
  match cmdOf h op s with
  | none => s
  | some x =>
    if s.dev.st = .restart || s.dev.st = .boot || s.clk.thermtrip then s
    else if !mayRun x s || x.started then s
    else if !h.readOk then finish x stFailed 0x0405 (refusedResult x.desc s) h.writeOk s
    else body x (hostRead h.data.length s)

end Sys2Proof.Machine
end

