-- ==== Sys2Proof/Machine/Buffers.lean ====
section
/-! DEFINITION. Cell buffers, the control reserve, and the copies of cells that a port still owes (10 R275, R280 to R283; 05 R121). -/

namespace Sys2Proof.Machine

/-! ### Cell buffers (R281 to R283) -/

/-- The free list of a tile; a pool never used holds every buffer in ascending order. -/
def TileS.free (x : TileS) : List Nat := x.freeList.getD (List.range 16384)

/-- Allocate a buffer for an owner with a count of copies; none from an empty pool (R281). ALLOCFAIL and CB_HWM follow. -/
def allocBuf (tile : Nat) (owner : BufOwner) (copies : Nat) (s : State) : Option Nat × State :=
  match (s.tile tile).free with
  | [] => (none, bump (tileCtr tile 0x0C0) 1 s)
  | b :: rest =>
    let s := s.updTile tile (fun x => { x with
      freeList := some rest, bufs := Tbl.set Buf.reset x.bufs b ⟨true, copies, false, some owner, false⟩ })
    (some b, bumpMax (tileCtr tile 0x500) (((s.tile tile).bufs.filter (fun e => e.2.state)).length) s)

/-- Release a buffer whose count reached 1: appended to the free list (Table SW-13). -/
def releaseBuf (tile b : Nat) (s : State) : State :=
  s.updTile tile (fun x => { x with
    freeList := some (x.free ++ [b]), bufs := Tbl.set Buf.reset x.bufs b Buf.reset })

/-- A free of a byte address (Table SW-13). -/
def freeAddr (tile addr : Nat) (s : State) : State :=
  if addr ≥ 1835008 || addr % 112 ≠ 0 then logCode 0x020C (unitTile tile) s
  else
    let b := addr / 112
    let x := (s.tile tile).buf b
    if !x.state then bump (tileCtr tile 0x0C8) 1 (logCode 0x020D (unitTile tile) s)
    else if x.count > 1 then s.updTile tile (fun y => y.updBuf b (fun z => { z with count := z.count - 1 }))
    else releaseBuf tile b s

/-- A queue gives up a cell: its buffer is freed once. -/
def freeBuf (tile : Nat) (b : Option Nat) (s : State) : State :=
  match b with
  | none => s
  | some k => freeAddr tile (112 * k) s

/-- Transit buffers in use on a tile (R275). -/
def transitUse (s : State) (tile : Nat) : Nat :=
  ((s.tile tile).bufs.filter (fun e => e.2.state && e.2.owner = some .transit)).length

/-- Allocate a buffer for a scheduled cell of a job (R243, R283): none is a scheduled-admission fault. -/
def allocSched (tile slot : Nat) (s : State) : Option Nat × State :=
  if cellsHeld s slot tile ≥ (((s.job slot).grant tile).map (·.cells)).getD 0 then (none, bump (tileCtr tile 0x0C0) 1 s)
  else allocBuf tile (.job slot false) 1 s

/-- Allocate a buffer for an unscheduled cell: within B and the CBUF quota for a job's cell, a transit buffer for one that
belongs to no job (R275, R249). -/
def allocUns (tile : Nat) (slot : Option Nat) (copies : Nat) (s : State) : Option Nat × State :=
  match slot with
  | some j =>
    if cellsHeld s j tile ≥ (((s.job j).grant tile).map (·.cells)).getD 0 || cbufUse s j tile ≥ (s.job j).cbufQuota tile then
      (none, bump (tileCtr tile 0x0C0) 1 s)
    else allocBuf tile (.job j true) copies s
  | none => if transitUse s tile ≥ 1024 then (none, bump (tileCtr tile 0x0C0) 1 s) else allocBuf tile .transit copies s

/-! ### Control and management cells held for ports (R275, R280) -/

/-- Buffers of a tile's control and management reserve in use (R275). -/
def ctlUse (s : State) (n : Nat) : Nat := (Tbl.get [] s.fabric.ctlHeld n).length + (s.port n).mgmtQ.length

/-- The reserve of a tile, or of a twin-link half (R275). -/
def ctlLimit (n : Nat) : Nat := if n < 128 then 512 else 256

/-- One copy less of a held cell; its buffer is free after the last. -/
def ctlLess (c : Cell) : List (Cell × Nat) → List (Cell × Nat)
  | [] => []
  | q :: qs => if q.1 = c then (if q.2 ≤ 1 then qs else (c, q.2 - 1) :: qs) else q :: ctlLess c qs

/-- A copy of a control cell has been sent, or discarded with its link: the count of its source tile's buffer goes down (R280). -/
def ctlGone (c : Cell) (s : State) : State :=
  match s.fabric.ctlHeld.find? (fun e => e.2.any (fun q => q.1 = c)) with
  | none => s
  | some (n, l) => s.updFabric (fun f => { f with ctlHeld := Tbl.set [] f.ctlHeld n (ctlLess c l) })

/-! ### Scheduled cells on their way out (R121, R271, Table SW-16) -/

/-- A scheduled cell has left by a port, or is lost there: an own cell counts off its instance's copies; of a kind of R102 each cell, else the last cell
of a chunk, counts toward what the port's member is due (R121, R127, R129). -/
def cellLeft (n : Nat) (x : SchedCell) (s : State) : State :=
  match slotOf x.cell.job s with
  | none => s
  | some j => s.updJob j (fun y => y.updEntry x.cell.coll (fun e =>
      if e.epoch.toNat ≠ x.cell.epoch then e
      else { e with inst := e.inst.map (fun i => { i with
        egress := i.egress - b2n x.own
        left := if isBytes e.op || x.cell.last then Tbl.upd 0 i.left n (· + 1) else i.left }) }))

/-- A scheduled cell is lost at an output port: its instance becomes INCOMPLETE with 0x020F. -/
def schedLost (n : Nat) (x : SchedCell) (s : State) : State :=
  markCellInc x.cell.job x.cell.coll x.cell.epoch 0x020F (cellLeft n x (logCode 0x020F (unitPort n) s))

/-- The scheduled cells that wait for a port whose link is lost are dropped (Table SW-16). -/
def dropSched (n : Nat) (s : State) : State :=
  let p := s.port n
  if p.schedQ.isEmpty && p.slipQ.isEmpty then s
  else (p.slipQ ++ p.schedQ).foldl (fun s x => schedLost n x s) (s.updPort n (fun p => { p with schedQ := [], slipQ := [] }))

/-- The copies in one VOQ for a lost port are discarded and counted, and their buffers count down (R280). -/
def dropVoq (n i k : Nat) (s : State) : State :=
  match Tbl.get [] (s.tile i).voqs k with
  | [] => s
  | l => l.foldl (fun s q => bump (portCtr n 0x088) 1 (freeBuf i q.buf s)) (s.updTile i (fun x => { x with voqs := Tbl.set [] x.voqs k [] }))

/-- The residue copies of every tile for a lost port (R280). -/
def dropVoqs (n : Nat) (s : State) : State :=
  if n ≥ 128 then s
  else (List.range 128).foldl (fun s i => if (s.tile i).voqs.isEmpty then s
    else (List.range 4).foldl (fun s p => dropVoq n i (4 * n + p) s) s) s

end Sys2Proof.Machine
end

