-- ==== Sys2Proof/Machine/LinkCode.lean ====
section
/-! DEFINITION. Slots on the lanes: the slot stream, its CRC and thin FEC, lane-frames, scrambling and stuffing, and the
blocks of a compatibility link (12 R320 to R336). -/

namespace Sys2Proof.Machine

/-- n bits of x, most significant first. -/
def bitsMsb : Nat → Nat → List Bool
  | 0, _ => []
  | n + 1, x => x.testBit n :: bitsMsb n x

/-- A number from bits, most significant first. -/
def ofMsb (bs : List Bool) : Nat := bs.foldl (fun a b => 2 * a + b2n b) 0

/-! ### The slot stream (R325, R327, R329) -/

/-- What one slot carries beside its cells. -/
structure SlotWord where
  ctlw : Word
  labels : List (BitVec 14)
  deriving DecidableEq, Repr

/-- CTLW (Table LN-3). -/
def mkCtlw (seq ack : BitVec 12) (nak : Bool) (credit : BitVec 3) (ctl : BitVec 4) : Word :=
  seq ++ ack ++ BitVec.ofBool nak ++ credit ++ ctl

def ctlwSeq (w : Word) : BitVec 12 := w.extractLsb' 20 12
def ctlwAck (w : Word) : BitVec 12 := w.extractLsb' 8 12
def ctlwNak (w : Word) : Bool := w.getLsbD 7
def ctlwCredit (w : Word) : BitVec 3 := w.extractLsb' 4 3
def ctlwCtl (w : Word) : BitVec 4 := w.extractLsb' 0 4

/-- LABEL, 56 bits: cell i in [14i + 13 : 14i]. -/
def labelWord (ls : List (BitVec 14)) : Nat := (ls.zip (List.range 4)).foldl (fun a p => a + p.1.toNat * 2 ^ (14 * p.2)) 0

/-- The slot stream of R329: cells in slot byte order, then CTLW, then LABEL, each most significant bit first. -/
def slotStream (cells : List Cell) (w : SlotWord) : List Bool :=
  (cells.flatMap (fun c => c.bytes.flatMap (fun b => bitsMsb 8 b.toNat))) ++ bitsMsb 32 w.ctlw.toNat ++ bitsMsb 56 (labelWord w.labels)

/-- One bit into the CRC-32 of R329. -/
def crc32Bit (c : Word) (b : Bool) : Word :=
  if (c.getLsbD 31) != b then (c <<< 1) ^^^ 0x04C11DB7#32 else c <<< 1

def crc32Bits (bs : List Bool) : Word := bs.foldl crc32Bit 0xFFFFFFFF#32 ^^^ 0xFFFFFFFF#32

/-! ### Thin FEC (R332) -/

/-- Positions of a codeword's data bits: those from 3 to 472 that are no power of two, ascending. -/
def fecPositions : List Nat := (List.range 473).filter (fun p => 3 ≤ p && !([4, 8, 16, 32, 64, 128, 256] : List Nat).contains p)

/-- The codewords' data: stream bits whose index is j modulo 8. -/
def fecData (bs : List Bool) (j : Nat) : List Bool := (bs.zipIdx.filter (fun p => p.2 % 8 = j)).map (·.1)

/-- Parity p_8 to p_0 of a codeword: the XOR of the positions whose data bit is 1. -/
def fecParity (data : List Bool) : Nat := (data.zip fecPositions).foldl (fun a p => if p.1 then a ^^^ p.2 else a) 0

/-- Correct one codeword: its data, and whether a bit was corrected; none where the syndrome names an unused position. -/
def fecFix (data : List Bool) (parity : Nat) : Option (List Bool × Bool) :=
  let syn := fecParity data ^^^ parity
  if syn = 0 then some (data, false)
  else if syn > 472 then none
  else some ((data.zip fecPositions).map (fun p => if p.2 = syn then !p.1 else p.1), true)

/-- Put the codewords' data bits back in stream order. -/
def fecMerge (cws : List (List Bool)) : List Bool := (List.range 463).flatMap (fun i => cws.map (fun c => c.getD i false))

/-! ### Lane-frames (R325, R327) -/

/-- A lane-frame: 56 frame bytes and the overhead word. -/
structure Frame where
  bytes : List Byte
  ovh : Nat
  deriving DecidableEq, Repr

/-- The slot bytes, 4 cells of 112. -/
def slotBytes (cells : List Cell) : List Byte := cells.flatMap (·.bytes)

/-- Lane-frame k of a slot (R325, Table LN-2). -/
def mkFrame (bs : List Byte) (w : SlotWord) (crc : Word) (fecp : Nat) (k : Nat) : Frame :=
  ⟨(List.range 56).map (fun i => bs.getD (8 * i + k) 0),
   bitsN crc.toNat (4 * k) 4 * 2 ^ 20 + fecp % 512 * 2 ^ 11 + bitsN (labelWord w.labels) (7 * k) 7 * 16 + bitsN w.ctlw.toNat (4 * k) 4⟩

/-- The 8 lane-frames of a slot. -/
def slotFrames (fec : Bool) (cells : List Cell) (w : SlotWord) : List Frame :=
  let st := slotStream cells w
  let crc := crc32Bits st
  let full := st ++ bitsMsb 32 crc.toNat
  (List.range 8).map (fun k => mkFrame (slotBytes cells) w crc (if fec then fecParity (fecData full k) else 0) k)

/-- What the 8 lane-frames carry: cells, word, CRC, parities. -/
def joinFrames (fs : List Frame) : List Cell × SlotWord × Word × List Nat :=
  let byte (n : Nat) : Byte := ((fs[n % 8]?).map (fun f => f.bytes.getD (n / 8) 0)).getD 0
  let cells := (List.range 4).map (fun i => Cell.ofBytes ((List.range 112).map (fun b => byte (112 * i + b))))
  let pick (lo n : Nat) : Nat := (fs.zipIdx.map (fun p => bitsN p.1.ovh lo n * 2 ^ (n * p.2))).sum
  let lab := pick 4 7
  (cells, ⟨BitVec.ofNat 32 (pick 0 4), (List.range 4).map (fun i => BitVec.ofNat 14 (lab / 2 ^ (14 * i)))⟩,
   BitVec.ofNat 32 (pick 20 4), fs.map (fun f => bitsN f.ovh 11 9))

/-- A slot as checked: its cells and word. -/
structure Checked where
  cells : List Cell
  word : SlotWord
  deriving DecidableEq, Repr

/-- The codewords of a slot after thin FEC (R332): none for one whose syndrome names an unused position. -/
def fecWords (fs : List Frame) : List (Option (List Bool × Bool)) :=
  let (cells, w, crc, pars) := joinFrames fs
  let bits := slotStream cells w ++ bitsMsb 32 crc.toNat
  (List.range 8).map (fun j => fecFix (fecData bits j) (pars.getD j 0))

/-- Corrections that thin FEC makes in a slot, whether the slot passes or not (R332). -/
def slotFixes (fec : Bool) (fs : List Frame) : Nat := if fec then ((fecWords fs).filter (fun c => (c.map (·.2)).getD false)).length else 0

/-- The slot stream and CRC received, corrected by thin FEC; none where that fails the slot (R332). -/
def fixedBits (fec : Bool) (fs : List Frame) : Option (List Bool) :=
  if !fec then
    let (cells, w, crc, _) := joinFrames fs
    some (slotStream cells w ++ bitsMsb 32 crc.toNat)
  else if (fecWords fs).any (·.isNone) then none
  else some (fecMerge ((fecWords fs).map (fun c => ((c.map (·.1)).getD []))))

/-- Check a slot (R329, R332): none where it fails. -/
def checkSlot (fec : Bool) (fs : List Frame) : Option Checked :=
  match fixedBits fec fs with
  | none => none
  | some bs =>
    let st := bs.take 3672
    let ctlw : Word := BitVec.ofNat 32 (ofMsb ((st.drop 3584).take 32))
    let lab := ofMsb (st.drop 3616)
    let bytes := (List.range 448).map (fun i => BitVec.ofNat 8 (ofMsb ((st.drop (8 * i)).take 8)))
    if (crc32Bits st).toNat ≠ ofMsb (bs.drop 3672) || ctlwCtl ctlw ≥ 0xD || ctlwCredit ctlw ≥ 5 then none
    else some ⟨(List.range 4).map (fun i => Cell.ofBytes ((bytes.drop (112 * i)).take 112)),
      ⟨ctlw, (List.range 4).map (fun i => BitVec.ofNat 14 (lab / 2 ^ (14 * i)))⟩⟩

/-! ### Scrambling and stuffing (R320 to R324) -/

/-- One step of the scrambler x^31 + x^28 + 1: the new state and the bit it yields (R321). -/
def scrStep (s : BitVec 31) : BitVec 31 × Bool :=
  let fb := s.getLsbD 30 != s.getLsbD 27
  ((s <<< 1) ||| (BitVec.ofBool fb).setWidth 31, fb)

/-- A lane's seed: SEED rotated left by 4l places within 31 bits (R322). -/
def laneSeed (seed : BitVec 31) (l : Nat) : BitVec 31 := seed.rotateLeft (4 * l)

/-- The seed of training frames (R322). -/
def trainSeed : BitVec 31 := 0x7FFFFFFF

/-- A symbol scrambled or descrambled: two steps, the first bit the more significant (R320, R321). -/
def scrSymbol (s : BitVec 31) (x : BitVec 2) : BitVec 31 × BitVec 2 :=
  let (s1, b1) := scrStep s
  let (s2, b0) := scrStep s1
  (s2, x ^^^ (BitVec.ofBool b1 ++ BitVec.ofBool b0))

/-- Run of identical symbols: the symbol and its length. -/
abbrev Run := BitVec 2 × Nat

def runNext (r : Run) (x : BitVec 2) : Run := if r.2 ≠ 0 && r.1 = x then (x, r.2 + 1) else (x, 1)

/-- The stuff symbol after a run: level 3 (0b10) after level 0 or 1, level 0 (0b00) after level 2 or 3 (R323). -/
def stuffFor (x : BitVec 2) : BitVec 2 := if x = 0 || x = 1 then 2 else 0

/-- A lane's transmit state: scrambler and run. -/
structure LaneTx where
  scr : BitVec 31
  run : Run
  deriving DecidableEq, Repr

/-- n symbols of a lane-frame from its data symbols; zeros follow when the data is out. What is left over did not fit. -/
def laneSend : Nat → List (BitVec 2) → LaneTx → List (BitVec 2) × List (BitVec 2) × LaneTx
  | 0, data, x => ([], data, x)
  | n + 1, data, x =>
    if x.run.2 = 24 then
      let (out, rest, y) := laneSend n data { x with run := (0, 0) }
      (stuffFor x.run.1 :: out, rest, y)
    else
      let (scr, sym) := scrSymbol x.scr (data.headD 0)
      let (out, rest, y) := laneSend n data.tail ⟨scr, runNext x.run sym⟩
      (sym :: out, rest, y)

/-- The symbols received on a lane, destuffed and descrambled (R321, R323). -/
def laneRecv : List (BitVec 2) → LaneTx → List (BitVec 2) × LaneTx
  | [], x => ([], x)
  | y :: ys, x =>
    if x.run.2 = 24 then laneRecv ys { x with run := (0, 0) }
    else
      let (scr, sym) := scrSymbol x.scr y
      let (out, z) := laneRecv ys ⟨scr, runNext x.run y⟩
      (sym :: out, z)

/-- The 236 data symbols of a frame: bytes then the overhead word, most significant first. -/
def symsOf : List Bool → List (BitVec 2)
  | a :: b :: rest => (BitVec.ofBool a ++ BitVec.ofBool b) :: symsOf rest
  | _ => []

def frameSymbols (f : Frame) : List (BitVec 2) := symsOf (f.bytes.flatMap (fun b => bitsMsb 8 b.toNat) ++ bitsMsb 24 f.ovh)

/-- The frame of 236 data symbols. -/
def symbolsFrame (ss : List (BitVec 2)) : Frame :=
  let bits := ss.flatMap (fun x => [x.getLsbD 1, x.getLsbD 0])
  ⟨(List.range 56).map (fun i => BitVec.ofNat 8 (ofMsb ((bits.drop (8 * i)).take 8))), ofMsb ((bits.drop 448).take 24)⟩

/-- Symbols in a lane-frame. -/
def frameLen : Nat := 240

/-- Send frames on one lane in order; true where some frame needed more than 4 stuff symbols (R324). -/
def laneFrames : List Frame → LaneTx → List (BitVec 2) × Bool × LaneTx
  | [], x => ([], false, x)
  | f :: fs, x =>
    let (out, rest, y) := laneSend frameLen (frameSymbols f) x
    let (out2, ex, z) := laneFrames fs y
    (out ++ out2, !rest.isEmpty || ex, z)

/-- Receive m frames on one lane: a frame is what 240 received symbols hold. -/
def laneUnframes : Nat → List (BitVec 2) → LaneTx → List Frame × LaneTx
  | 0, _, x => ([], x)
  | m + 1, ys, x =>
    let (ss, y) := laneRecv (ys.take frameLen) x
    let (fs, z) := laneUnframes m (ys.drop frameLen) y
    (symbolsFrame ss :: fs, z)

/-! ### Training frames and the loopback pattern (R338, R348) -/

/-- The symbols of a training frame: the word, its CRC-32C, zeros; scrambled from the training seed (R322, R338). -/
def trainSymbols (w : BitVec 128) : List (BitVec 2) :=
  let bytes := leBytes 16 w.toNat
  (laneSend frameLen (frameSymbols ⟨bytes ++ leBytes 4 (crc32c bytes).toNat ++ List.replicate 36 0, 0⟩) ⟨trainSeed, (0, 0)⟩).1

/-- n symbols of PRBS31, the scrambler's own output (R321, R348). -/
def prbsSend : Nat → BitVec 31 → List (BitVec 2) × BitVec 31
  | 0, s => ([], s)
  | n + 1, s =>
    let (s1, x) := scrSymbol s 0
    let (xs, s2) := prbsSend n s1
    (x :: xs, s2)

/-- The checker: it takes 31 bits, then compares each bit with the pattern that follows them. Errors, bits checked, and the checker after. -/
def prbsCheck (bs : List Bool) (x : BitVec 31 × Nat) : Nat × Nat × BitVec 31 × Nat :=
  bs.foldl (fun (q : Nat × Nat × BitVec 31 × Nat) b =>
    let (err, n, h, seen) := q
    if seen < 31 then (err, n, (h <<< 1) ||| (BitVec.ofBool b).setWidth 31, seen + 1)
    else
      let (h, e) := scrStep h
      (err + b2n (b != e), n + 1, h, seen)) (0, 0, x.1, x.2)

/-! ### Widths (R326) -/

/-- Lanes of a width code: 8, 4 or 2. -/
def lanesOfWidth (w : BitVec 2) : Nat := if w = 0 then 8 else if w = 1 then 4 else 2

/-- The lanes of a lane set, ascending. -/
def lanesIn (set : BitVec 8) : List Nat := (List.range 8).filter (fun l => set.getLsbD l)

/-- The lane sets of a width, lowest first. -/
def laneSets (w : BitVec 2) : List (BitVec 8) :=
  if w = 0 then [0xFF] else if w = 1 then [0x0F, 0xF0] else [0x03, 0x0C, 0x30, 0xC0]

/-- Frames of the i-th lane at width W: k = i, i + W, ... -/
def framesOfLane (fs : List Frame) (w i : Nat) : List Frame :=
  (fs.zipIdx.filter (fun p => p.2 % w = i)).map (·.1)

/-- The slot's frames from the frames of each lane. -/
def framesBack (lanes : List (List Frame)) (w : Nat) : List Frame :=
  (List.range 8).map (fun k => ((lanes[k % w]?).bind (fun l => l[k / w]?)).getD ⟨[], 0⟩)

/-! ### Compatibility coding (R335, R336) -/

/-- The self-synchronising scrambler x^58 + x^39 + 1 over bits in sending order. -/
def scr58 : List Bool → BitVec 58 → List Bool × BitVec 58
  | [], s => ([], s)
  | b :: bs, s =>
    let o := b != (s.getLsbD 38 != s.getLsbD 57)
    let (out, z) := scr58 bs ((s <<< 1) ||| (BitVec.ofBool o).setWidth 58)
    (o :: out, z)

def descr58 : List Bool → BitVec 58 → List Bool × BitVec 58
  | [], s => ([], s)
  | b :: bs, s =>
    let o := b != (s.getLsbD 38 != s.getLsbD 57)
    let (out, z) := descr58 bs ((s <<< 1) ||| (BitVec.ofBool b).setWidth 58)
    (o :: out, z)

/-- Bits of bytes, each least significant first (R336). -/
def bitsLsb (bs : List Byte) : List Bool := bs.flatMap (fun b => (List.range 8).map (fun k => b.getLsbD k))

def ofLsb (bs : List Bool) : Nat := bs.foldr (fun b a => 2 * a + b2n b) 0

/-- The 8 blocks of a lane-frame: payload bytes, block 0 the marker and overhead word (R336). -/
def frameBlocks (f : Frame) : List (BitVec 2 × List Byte) :=
  (2, (0xD2 : Byte) :: leBytes 3 f.ovh ++ leBytes 4 0) ::
  (List.range 7).map (fun b => ((1 : BitVec 2), (f.bytes.drop (8 * b)).take 8))

/-- The 8 blocks of a training frame: marker 0xD4 and training-word bytes 0 to 6, then data blocks of zeros (R336). -/
def trainBlocks (w : BitVec 128) : List (BitVec 2 × List Byte) :=
  (2, (0xD4 : Byte) :: leBytes 7 w.toNat) :: List.replicate 7 ((1 : BitVec 2), leBytes 8 0)

/-- Bits of blocks in sending order, the sync header first, paired into symbols (R335). -/
def blockSymbols (bs : List (BitVec 66)) : List (BitVec 2) :=
  symsOf (bs.flatMap (fun b => b.getLsbD 1 :: b.getLsbD 0 :: (List.range 64).map (fun k => b.getLsbD (k + 2))))

/-- Blocks scrambled for the lane: sync in [1:0], payload above (R335). -/
def sendBlocks : List (BitVec 2 × List Byte) → BitVec 58 → List (BitVec 66) × BitVec 58
  | [], s => ([], s)
  | (h, bs) :: rest, s =>
    let (o, s1) := scr58 (bitsLsb bs) s
    let (out, s2) := sendBlocks rest s1
    (BitVec.ofNat 66 (h.toNat + 4 * ofLsb o) :: out, s2)

/-- Blocks descrambled. -/
def recvBlocks : List (BitVec 66) → BitVec 58 → List (BitVec 2 × List Byte) × BitVec 58
  | [], s => ([], s)
  | b :: rest, s =>
    let (o, s1) := descr58 ((List.range 64).map (fun k => b.getLsbD (k + 2))) s
    let (out, s2) := recvBlocks rest s1
    ((b.extractLsb' 0 2, leBytes 8 (ofLsb o)) :: out, s2)

/-- A sync header that is valid. -/
def hdrOk (h : BitVec 2) : Bool := h = 1 || h = 2

/-- Sync headers counted (R335): before lock the valid ones in a row, up to 64; after it the invalid ones of a window of 64, until there are 16. -/
def hdrCount (locked : Bool) (h : BitVec 2) (x : Nat × Nat) : Nat × Nat :=
  if !locked then (if hdrOk h then (min 64 (x.1 + 1), 0) else (0, 0))
  else if x.2 ≥ 16 then x
  else
    let y := if x.1 ≥ 64 then (0, 0) else x
    (y.1 + 1, y.2 + b2n (!hdrOk h))

/-- The lane-frame of 8 blocks; none where a sync header or the marker is wrong. -/
def blocksFrame (bs : List (BitVec 2 × List Byte)) : Option Frame :=
  match bs with
  | (h, p) :: rest =>
    if h = 2 && p.getD 0 0 = 0xD2 && rest.all (fun b => b.1 = 1) && rest.length = 7 then
      some ⟨rest.flatMap (·.2), leNat ((p.drop 1).take 3)⟩
    else none
  | [] => none

end Sys2Proof.Machine
end

