-- ==== Sys2Proof/Machine/Host.lean ====
section
/-! DEFINITION. The host rings: polls, pickup, messages, enable bits and resets of the host port (14). -/

namespace Sys2Proof.Machine

/-! ### Registers reached over BAR0 -/

/-- An access outside R400: ACCERR, and nothing else. -/
def accErr (s : State) : State := markDev 1 (s.updDev (fun d => { d with accerr := true }))

/-- A register write takes effect once the device has booted; before READY every address is unassigned (R435), and a device
whose thermal limit tripped serves nothing (R498). -/
def bar0 (t : Time) (f : State → State) (s : State) : State :=
  let s := tick t s
  if s.clk.thermtrip then s else if s.dev.st = .boot then accErr s else f s

/-- Start a consistency check: at once, or when RESTART ends (R406). -/
def startCheck (c : WaitCheck) (run : State → State) (s : State) : State :=
  if s.dev.st = .boot || s.dev.st = .restart then s.updDev (fun d => { d with waiting := d.waiting ++ [c] }) else run s

/-- The check of an enable bit waits. -/
def checking (c : WaitCheck) (s : State) : Bool := s.dev.waiting.contains c

/-- A waiting check is cancelled (R406). -/
def cancelCheck (c : WaitCheck) (s : State) : State :=
  s.updDev (fun d => { d with waiting := d.waiting.filter (· ≠ c) })

/-! ### Enabling a ring (R393) -/

/-- Host memory of a ring: ranges of start and length (Table HI-2). -/
def ringRanges (r : Nat) (x : Ring) : List (Nat × Nat) :=
  if r < 8 then [(x.base.toNat, 64 * x.slots), (x.cbase.toNat, 32 * x.slots)] else [(x.base.toNat, 4096 * x.slots)]

def overlaps (a b : Nat × Nat) : Bool := a.1 < b.1 + b.2 && b.1 < a.1 + a.2

/-- The check of RING_CTL.EN (R393): the code it refuses with. -/
def ringCheck (r : Nat) (s : State) : Option Nat :=
  let x := s.ring r
  let mine := ringRanges r x
  let others := (List.range 10).flatMap (fun q => if q ≠ r && (s.ring q).en then ringRanges q (s.ring q) else [])
  if x.size.toNat < 6 || x.size.toNat > 16 then some 0x0407
  else if x.base = 0 || (r < 8 && x.cbase = 0) || s.host.dbbase = 0 then some 0x0408
  else if mine.any (fun a => overlaps a (s.host.dbbase.toNat, 4096) || others.any (overlaps a)) then some 0x0409
  else none

/-- Run the check: EN and REASON after a refusal, FETCH and CPI from 0 after acceptance (R393). -/
def runRingCheck (r : Nat) (s : State) : State :=
  match ringCheck r s with
  | some code => s.updRing r (fun x => { x with en := false, reason := BitVec.ofNat 16 code })
  | none => s.updRing r (fun x => { x with
      en := true, st := .running, cpi := 0, fetch := 0, pi := 0, cci := 0, hint := false, interval := 500, waiting := [],
      unsent := false, coalN := 0, fence := none })

/-- A write of RING_CTL (Table HI-13, R406): EN starts or stops the ring; SIZE is held while EN is 1. -/
def writeRingCtl (r : Nat) (v : Word) (s : State) : State :=
  let c := WaitCheck.ring r
  let x := s.ring r
  if checking c s && v.getLsbD 0 then s
  else
    let s := s.updRing r (fun x => { x with
      size := if x.en then x.size else (v.extractLsb' 24 4)
      vec := v.extractLsb' 16 6
      coal := v.extractLsb' 8 8
      irqen := v.getLsbD 1 })
    if v.getLsbD 0 then
      if x.en then s
      else startCheck c (runRingCheck r) (s.updRing r (fun x => { x with en := true }))
    else if checking c s then cancelCheck c (s.updRing r (fun x => { x with en := false }))
    else if x.en then
      drainRing r (s.updRing r (fun x => { x with
        en := false
        fence := none
        st := if x.st = .disabled || x.st = .paused then x.st else .draining
        before := .draining }))
    else s

def execRingEnable (t : Time) (ring : Fin 10) (v : Word) (s : State) : Out :=
  .next (bar0 t (writeRingCtl ring.val (v ||| 1)) s)

def execRingDisable (t : Time) (ring : Fin 10) (v : Word) (s : State) : Out :=
  .next (bar0 t (writeRingCtl ring.val (v &&& 0xFFFFFFFE)) s)

/-! ### Output rings (R391) -/

/-- A 4,096-byte slot without SEQ: the chunk, zeros, and its valid bytes. -/
def outSlot (chunk : List Byte) : List Byte :=
  chunk ++ List.replicate (4090 - chunk.length) 0 ++ leBytes 2 chunk.length

/-- Room in an output ring (R391). -/
def outRoom (s : State) (r : Nat) : Nat := (s.ring r).slots - ((s.ring r).fetch - (s.ring r).pi).toNat

/-- Write one slot, its SEQ last, then the write-back word, then the message (R391, R388, R390). -/
def putSlot (r : Nat) (chunk : List Byte) (s : State) : State :=
  let x := s.ring r
  let a := x.base.toNat + 4096 * (x.fetch.toNat % x.slots)
  let s := hostWrite a (outSlot chunk) s
  let s := hostWrite (a + 4092) (leBytes 4 ((x.fetch.toNat + 1) % 2 ^ 32)) s
  let s := s.updRing r (fun x => { x with fetch := x.fetch + 1, cpi := x.cpi + 1 })
  let s := writeBack r 0 (s.ring r).fetch s
  if x.irqen then sendMsix x.vec s else s

/-- Cut bytes into chunks of at most n. -/
def chunksOf (n : Nat) : Nat → List Byte → List (List Byte)
  | 0, _ => []
  | k + 1, bs => if bs.isEmpty then [] else bs.take n :: chunksOf n k (bs.drop n)

/-- Chunks of a record for slots of 4,090 bytes. -/
def slotChunks (bs : List Byte) : List (List Byte) := chunksOf 4090 (bs.length / 4090 + 1) bs

/-- Write slots of the record under way while ring r has room; its command completes DONE with the slots written. -/
def pumpN : Nat → Nat → State → State
  | 0, _, s => s
  | k + 1, r, s =>
    match Tbl.get none s.host.outs r with
    | none => s
    | some o =>
      match o.rest with
      | [] => finish o.x stDone 0 (leBytes 4 o.n) true (s.updHost (fun h => { h with outs := Tbl.set none h.outs r none }))
      | c :: rest =>
        if outRoom s r = 0 || !((s.ring r).st = .running || (s.ring r).st = .draining) then s
        else pumpN k r (putSlot r c (s.updHost (fun h => { h with outs := Tbl.set none h.outs r (some { o with rest := rest, n := o.n + 1 }) })))

/-- As many slots as there is room for. -/
def pumpOut (r : Nat) (s : State) : State :=
  drainRing r (pumpN ((((Tbl.get none s.host.outs r).map (·.rest.length)).getD 0) + 1) r s)

/-- Begin a record of command x on output ring r; a slot write that host memory fails puts the ring in FAULT with 0x0406 (R394). -/
def startOut (r : Nat) (x : Exec) (ok : Bool) (bs : List Byte) (s : State) : State :=
  pumpOut r ((fun s => if ok then s else ringFault r 0x0406 s) (s.updHost (fun h => { h with
    outs := Tbl.set none h.outs r (some ⟨x, slotChunks bs, 0⟩)
    exec := h.exec.map (fun e => if e = x then { e with started := true } else e) })))

/-- Output ring r can take a command's record now: none is under way. -/
def outIdle (s : State) (r : Nat) : Bool := (Tbl.get none s.host.outs r).isNone

/-! ### Polling (R375, R377, R378) -/

/-- The next poll interval: 500 ns while there is work, doubled up to 100 us otherwise (R377). -/
def nextInterval (old : Nat) (active changed : Bool) : Nat := if active || changed then 500 else min 100000 (2 * old)

/-- What a doorbell word does to its ring. -/
def takeDoorbell (r : Nat) (w : BitVec 128) (s : State) : State :=
  let pi : Word := w.extractLsb' 0 32
  let cci : Word := w.extractLsb' 32 32
  let s := s.updRing r (fun x => { x with
    pi := pi
    cci := if r < 8 then cci else x.cci
    hint := w.getLsbD 64
    interval := if r < 8 then nextInterval x.interval (w.getLsbD 64) (pi != x.pi) else 500 })
  if r < 8 then flushRing r s else pumpOut r s

/-- A ring's doorbell word is polled while the ring is enabled or still has completions to write (R377, R393). -/
def polls (x : Ring) : Bool := x.st = .running || x.st = .stalled || x.st = .draining

def execDoorbellPoll (t : Time) (ring : Fin 10) (word : Option (BitVec 128)) (s : State) : Out :=
  let s := tick t s
  .next (if !polls (s.ring ring.val) then s
    else match word with
      | none => ringFault ring.val 0x0405 s
      | some w => takeDoorbell ring.val w (hostRead 16 s))

/-! ### Pickup (R379 to R384) -/

/-- Bytes of [63:24] that a command's row of Table HI-6 names. -/
def namedBytes : Nat → List Nat
  | 0x01 => [24, 40, 41, 42, 43, 44, 45, 46, 47]
  | 0x02 => [24, 25, 26, 27, 28, 29]
  | 0x03 => [24]
  | 0x04 => [24, 25, 32, 33, 34, 35, 36, 37, 38, 39]
  | 0x07 => [24, 26, 27, 32, 33, 34, 35, 36, 37, 38, 39]
  | 0x08 => [24, 26, 27, 32, 33, 34, 35, 36, 37, 38, 39]
  | 0x09 => [24, 25]
  | 0x0A => [24, 25, 26, 27]
  | 0x0B => [24, 25, 26, 27, 28, 29, 30, 40, 41, 42, 43, 44, 45, 46, 47]
  | 0x0C => [24, 25, 26]
  | 0x0D => [24]
  | 0x0E => [24, 26, 27, 28, 29, 30, 31]
  | 0x0F => [24, 25] ++ (List.range 16).map (· + 40)
  | 0x10 => [24]
  | 0x11 => [24]
  | _ => []

/-- Bits of byte 24, 25 or 30 that a row leaves reserved, and values it reserves, refused with 0x0401 (R6, R7, R379). -/
def badValue (d : BitVec 512) : Bool :=
  match descOp d with
  | 0x01 => descN d 24 1 ≥ 4
  | 0x03 => descN d 24 1 ≥ 2
  | 0x0B => descN d 30 1 ≥ 2
  | 0x0C => descN d 24 1 ≥ 3
  | 0x0D => descN d 24 1 ≥ 2
  | 0x0E => descN d 24 1 ≥ 2
  | 0x07 => descN d 26 2 ≥ 4096
  | 0x08 => descN d 26 2 ≥ 4096
  | _ => false

/-- OP, FLAGS and reserved fields: 0x0401 (R379, R384, R398). A command that names no job carries JOB 0, but TELEM_DRAIN may name
one for set 2 (R469). -/
def descFormBad (d : BitVec 512) : Bool :=
  let op := descOp d
  op = 0 || op > 0x11 || descFlags d ≥ 8 || descJob d ≥ 4096 ||
  (List.range 40).any (fun k => !(namedBytes op).contains (24 + k) && descN d (24 + k) 1 ≠ 0) ||
  badValue d || (!namesJob op && descJob d ≠ 0 && !(op = 0x11 && descN d 24 1 = 2))

/-- An entry of an indirect list (Table HI-5). -/
structure ListEnt where
  addr : Nat
  len : Nat
  list : Bool
  last : Bool
  deriving DecidableEq, Repr

/-- The entries of a list's bytes. -/
def listEnts : List Byte → Nat → List ListEnt
  | _, 0 => []
  | bs, n + 1 =>
    let e := bs.take 16
    ⟨leNat (e.take 8), leNat ((e.drop 8).take 4), (e.getD 12 0).getLsbD 0, (e.getD 12 0).getLsbD 1⟩ :: listEnts (bs.drop 16) n

/-- LAST stands on a list's final entry and on no other (R383). -/
def lastOk (es : List ListEnt) : Bool := !es.isEmpty && (es.dropLast.all (fun e => !e.last)) && ((es.getLast?).map (·.last)).getD false

/-- A list structure as it is read. -/
inductive Lists where
  | ok (ents : List (Nat × Nat))
  | failed                    -- a list could not be read (R394)
  | bad (code : Nat)          -- refused (R383)
  deriving DecidableEq, Repr

/-- The level-2 list of each LIST entry, in order. -/
def pairLists : List ListEnt → List (Option (List Byte)) → List (ListEnt × Option (Option (List Byte)))
  | [], _ => []
  | e :: es, l2 =>
    if e.list then (e, some (l2.headD none)) :: pairLists es l2.tail else (e, none) :: pairLists es l2

/-- Read and check the list structure of a descriptor (R382, R383). -/
def readLists (d : BitVec 512) (l1 : Option (List Byte)) (l2 : List (Option (List Byte))) : Lists :=
  if !bitN (descFlags d) 0 then
    if descListLen d ≠ 0 then .bad 0x0403 else .ok (if descLen d = 0 then [] else [(descAddr d, descLen d)])
  else
    let n := descListLen d
    if n = 0 || n % 16 ≠ 0 then .bad 0x0403
    else match l1 with
      | none => .failed
      | some bs =>
        let es := listEnts bs (n / 16)
        if es.any (fun e => e.list && (e.len = 0 || e.len % 16 ≠ 0)) then .bad 0x0403
        else
          let ps := pairLists es l2
          if ps.any (fun p => p.2 = some none) then .failed
          else
            let subs := ps.map (fun p => match p.2 with
              | some (some b) => (p.1, some (listEnts b (p.1.len / 16)))
              | _ => (p.1, none))
            let data := subs.flatMap (fun p => match p.2 with
              | some es2 => es2.map (fun e => (e.addr, e.len))
              | none => [(p.1.addr, p.1.len)])
            if subs.any (fun p => (p.2.getD []).any (·.list)) then .bad 0x0402
            else if !lastOk es || subs.any (fun p => match p.2 with
                | some es2 => !lastOk es2
                | none => false) then .bad 0x0403
            else if data.any (fun e => e.2 = 0) || (data.map (·.2)).sum ≠ descLen d then .bad 0x0403
            else if data.length > 65536 then .bad 0x0404
            else .ok data

/-- Whether a command requires data, takes none, or may take it (Table HI-6). -/
def dataRule (d : BitVec 512) : Option Bool :=
  match descOp d with
  | 0x02 => some false
  | 0x03 => some false
  | 0x04 => some false
  | 0x0B => some (!bitN (descN d 30 1) 0)
  | 0x0C => some false
  | 0x0E => some false
  | 0x0F => some (descN d 24 1 = 2)
  | 0x10 => some false
  | 0x11 => some false
  | _ => some true

/-- LEN against the command's data column (R383); COLL_DEFINE takes 128 bytes. -/
def lenBad (d : BitVec 512) : Bool :=
  (match dataRule d with
    | some true => descLen d = 0
    | some false => descLen d ≠ 0
    | none => false) || (descOp d = 0x05 && descLen d ≠ 128)

/-- A firmware restart that waits stops pickup from its own pickup (R395). -/
def pickupStopped (s : State) : Bool := s.host.exec.any (fun e => descOp e.desc = 0x0E && descN e.desc 24 1 = 0)

/-- A ring with a descriptor that can be fetched or begun now, as far as R378 and R380 hold it back. -/
def ringReady (s : State) (r : Nat) : Bool :=
  let x := s.ring r
  x.st = .running &&
  (match x.fence with
    | some _ => s.host.exec.all (fun e => e.ring ≠ r || e.mute)
    | none => x.pi ≠ x.fetch)

/-- The ring whose turn it is (R381): the next one in ascending order, from the lowest again. -/
def nextRing (s : State) : Option Nat :=
  ((List.range 8).map (fun k => (s.host.lastRing + 1 + k) % 8)).find? (ringReady s)

/-- The descriptor begins, or is refused and completes at once (R381, R383, R384, R389). -/
def beginCommand (r : Nat) (index : Word) (d : BitVec 512) (l1 : Option (List Byte)) (l2 : List (Option (List Byte)))
    (s : State) : State :=
  let x : Exec := ⟨r, index, d, [], false, false⟩
  let lists := if bitN (descFlags d) 0 then ((l1.getD []).length + (l2.map (fun l => (l.getD []).length)).sum) else 0
  let refused (code : Nat) : State :=
    drainRing r (postCompletion x stRefused code (refusedResult d s) true
      (bump (devCtr 0x118) 1 (if descOp d = 0x06 then tideReason code s else if code = 0x0C05 then trcReason code s else s)))
  if descFormBad d then refused 0x0401
  else if descOp d = 0x0F && (descN d 24 1 > 2 || descN d 25 1 ≥ 16) then refused 0x0C05
  else match readLists d l1 l2 with
    | .failed => ringFault r 0x0405 s
    | .bad code => hostRead lists (refused code)
    | .ok ents => hostRead lists <|
      if lenBad d then refused 0x0403
      else if descJob d ≠ 0 && descOp d ≠ 0x01 && (slotOf (descJob d) s).isNone then refused 0x0503
      else if namesJob (descOp d) && descJob d = 0 && descOp d ≠ 0x01 && (slotOf 0 s).isNone then refused 0x0503
      else s.updHost (fun h => { h with exec := h.exec ++ [{ x with ents := ents }] })

def pickup (r : Nat) (desc : Option (BitVec 512)) (l1 : Option (List Byte)) (l2 : List (Option (List Byte))) (s : State) : State :=
  if s.dev.st = .restart || s.dev.st = .boot || pickupStopped s || nextRing s ≠ some r || s.host.exec.length ≥ 32 then s
  else
    let s := s.updHost (fun h => { h with lastRing := r })
    match (s.ring r).fence with
    | some d => beginCommand r ((s.ring r).fetch - 1) d l1 l2 (s.updRing r (fun x => { x with fence := none }))
    | none =>
      match desc with
      | none => ringFault r 0x0405 s
      | some d =>
        let index := (s.ring r).fetch
        let s := writeBack r 0 (index + 1) (hostRead 64 (s.updRing r (fun x => { x with fetch := index + 1 })))
        if bitN (descFlags d) 2 && s.host.exec.any (fun e => e.ring = r && !e.mute) then
          s.updRing r (fun x => { x with fence := some d })
        else beginCommand r index d l1 l2 s

def execDescriptorPickup (t : Time) (ring : Fin 8) (desc : Option (BitVec 512)) (l1 : Option (List Byte))
    (l2 : List (Option (List Byte))) (s : State) : Out :=
  .next (pickup ring.val desc l1 l2 (tick t s))

/-! ### Messages and resets (R390, R392) -/

def execMsixTimedMessage (t : Time) (ring : Fin 10) (s : State) : Out :=
  let s := tick t s
  let x := s.ring ring.val
  .next (if x.irqen && x.unsent && x.st ≠ .paused then
      sendMsix x.vec (s.updRing ring.val (fun x => { x with unsent := false }))
    else s)

/-- A reset of the host port (R392): the registers of Table HI-13 to their reset values, every ring disabled, commands in
progress complete without writing their completions, those that write slots at once; waiting ring checks are cancelled (R411). -/
def hostPortReset (s : State) : State :=
  let outs := s.host.outs.filterMap (fun o => o.2.map (·.x))
  let s := s.updHost (fun h => { h with
    rings := [], outs := [], dbbase := 0, lastRing := 7,
    exec := (h.exec.filter (fun e => !outs.any (fun o => o.ring = e.ring && o.index = e.index && o.mute = e.mute))).map (fun e => { e with mute := true }) })
  let s := bump (devCtr 0x118) outs.length s
  s.updDev (fun d => { d with waiting := d.waiting.filter (fun c => match c with
    | .ring _ => false
    | _ => true) })

def execFunctionLevelReset (t : Time) (s : State) : Out := .next (hostPortReset (tick t s))
def execHotReset (t : Time) (s : State) : Out := .next (hostPortReset (tick t s))
def execLinkDown (t : Time) (s : State) : Out := .next (hostPortReset (tick t s))
def execPerstN (t : Time) (s : State) : Out := .next (hostPortReset (tick t s))

end Sys2Proof.Machine
end

