-- ==== Sys2Proof/Machine/Links.lean ====
section
/-! DEFINITION. Ports and links: registers, training, slots, retry, handshakes, detectors (12). -/

namespace Sys2Proof.Machine

/-! ### States of a port -/

/-- The adjacency of a port goes DOWN (R293); an LSA follows any change of an adjacency (R296). -/
def adjDown (n : Nat) (s : State) : State :=
  let was := (s.port n).adj
  let s := s.updPort n (fun p => { p with adj := .down, peerTide := none, peerHops := 0xF, peerLock := false, unacked := [] })
  if was ≠ .down then s.updFabric (fun f => { f with changedAt := some s.time }) else s

/-- The cells of COPY that a slot carries. -/
def slotCopies (x : TxSlot) : List Cell := x.cells.filter (fun c => c.cls = clsUns && !isIdle c)

/-- What waits at a twin-link half that goes DOWN goes on at the other half, if that is up, with the COPY cells not acknowledged (R317, Table TW-12). -/
def moveHalf (n : Nat) (s : State) : State :=
  let o := 257 - n
  if n < 128 || (s.port o).st ≠ .up then s
  else
    let p := s.port n
    let s := s.updPort o (fun q => { q with
      unsQ := q.unsQ ++ p.held.flatMap slotCopies ++ p.unsQ, ctlQ := q.ctlQ ++ p.ctlQ, mgmtQ := q.mgmtQ ++ p.mgmtQ.filter (fun c => c.kind ≠ kTime) })
    s.updPort n (fun p => { p with unsQ := [], ctlQ := [], mgmtQ := [] })

/-- A link is lost or training fails (R337, R345): the port is DOWN, its waiting copies are discarded and counted (R280), its scheduled cells dropped
with 0x020F (Table SW-16). -/
def portDown (n : Nat) (s : State) : State :=
  let s := moveHalf n s
  let p := s.port n
  let s := p.ctlQ.foldl (fun s c => ctlGone c s) (dropVoqs n (dropSched n s))
  let s := bump (portCtr n 0x088) (p.unsQ.length + p.ctlQ.length + p.mgmtQ.length) s
  let s := s.updPort n (fun p => { p with
    st := .down, phase := .idle, phaseAt := s.time, unsQ := [], ctlQ := [], mgmtQ := [], slp := .active, slpMove := .none,
    laneSet := 0, offV := false, timeRun := false, req := none, fecReq := none, woken := false })
  adjDown n s

/-- Training fails with a code (Table LN-5). -/
def trainFail (n code : Nat) (s : State) : State := portReason n code (portDown n s)

/-- The SEED a transmitter chooses at training: free, and not zero (R322). -/
def freeSeed (s : State) : BitVec 31 := let v := (Config.freeWord s.free).setWidth 31; if v = 0 then 1 else v

/-- Full training starts from DETECT (R337): a new link, whose kind is not known yet (R294), a new SEED (R322), and τ = 0 until the partner asks (R339). -/
def startFull (n : Nat) (s : State) : State :=
  { s with free := s.free + 1 }.updPort n (fun p => { p with
    txSeed := freeSeed s, tau := false, tauReq := none, trainOut := none,
    st := .detect, phase := .detect, phaseAt := s.time, short := false, kind := .unknown, owesRetrain := false, timed := false, ctlOut := [], rxCtl := [], req := none,
    fecReq := none, switchOut := [], switchIn := [], replay := [], again := none, nextWidth := p.width,
    lanes := (List.range 8).foldl (fun l k => Tbl.upd Lane.reset l k (fun x => { x with
      frames := 0, healthy := true, los := false, lol := false, locked := false, hdrs := 0, badHdrs := 0, eqReq := 0, eqStat := 0, eqPeer := false })) p.lanes })

/-- A short retrain: CLOCK from the stored phase, then ALIGN and TIME, equalisation and SEED kept (R337). -/
def startShort (n : Nat) (s : State) : State :=
  s.updPort n (fun p => { p with
    st := .retrain, phase := .clock, phaseAt := s.time, short := true, owesRetrain := false, tauReq := none, timed := false, again := none, replay := [],
    lanes := (List.range 8).foldl (fun l k => Tbl.upd Lane.reset l k (fun x => { x with frames := 0 })) p.lanes })

/-- The narrowest change that avoids unhealthy lanes: the widest width with a healthy lane set, and its lowest such set
(R342, R343). -/
def healthySet (p : PortS) (w : BitVec 2) : Option (BitVec 8) :=
  (laneSets w).find? (fun set => (lanesIn set).all (fun l => (p.lane l).healthy))

def widest (p : PortS) (from_ : Nat) : Option (BitVec 2 × BitVec 8) :=
  ([0, 1, 2] : List Nat).findSome? (fun w => if w < from_ then none else (healthySet p (BitVec.ofNat 2 w)).map (fun x => (BitVec.ofNat 2 w, x)))

/-- A lane is lost (R343): the port narrows to the widest width that avoids it, by a short retrain, and logs 0x010B; without a
healthy set of two lanes it goes DOWN. -/
def narrow (n lane : Nat) (s : State) : State :=
  let s := s.updPort n (fun p => p.updLane lane (fun x => { x with healthy := false }))
  if !((s.port n).st = .up || (s.port n).st = .retrain) then s
  else match widest (s.port n) 0 with
    | none => portDown n s
    | some (w, _) =>
      let s := portReason n 0x010B (logCode 0x010B (unitPort n) s)
      startShort n (s.updPort n (fun p => { p with nextWidth := w, switchOut := [], switchIn := [], req := none }))

/-! ### Handshake codes (Table LN-4) -/

def ctlVoid : BitVec 4 := 1
def ctlWreq (w : BitVec 2) : BitVec 4 := if w = 0 then 2 else if w = 1 then 3 else 4
def ctlWack : BitVec 4 := 5
def ctlWdraw : BitVec 4 := 6
def ctlSwitch : BitVec 4 := 7
def ctlRtreq : BitVec 4 := 8
def ctlRtack : BitVec 4 := 9
def ctlFecon : BitVec 4 := 0xA
def ctlFecoff : BitVec 4 := 0xB
def ctlFecack : BitVec 4 := 0xC

/-- Send handshake codes, one to a slot, in order. -/
def sendCtl (n : Nat) (cs : List (BitVec 4)) (s : State) : State := s.updPort n (fun p => { p with ctlOut := p.ctlOut ++ cs })

/-- Take a received handshake code; none where the port has not received it. -/
def takeCtl (n : Nat) (c : BitVec 4) (s : State) : Option State :=
  if (s.port n).rxCtl.contains c then some (s.updPort n (fun p => { p with rxCtl := dropFirst (· = c) p.rxCtl })) else none

/-- Own request stands on a collision (R313): lower device ID, then lower port; on an endpoint port the Uabry's. -/
def ownStands (s : State) (n : Nat) : Bool :=
  let p := s.port n
  p.peerEp || s.dev.id.toNat < p.peerDev.toNat || (s.dev.id = p.peerDev && n < p.peerPort.toNat)

/-- Own request is withdrawn: counted and logged 0x030A (R313). -/
def withdraw (n : Nat) (s : State) : State :=
  bump (portCtr n 0x0B8) 1 (logCode 0x030A (unitPort n) (s.updPort n (fun p => { p with req := none })))

/-- A width or retrain request stands over a sleep negotiation, which is withdrawn with 0x030A (R313). -/
def dropSleep (n : Nat) (s : State) : State :=
  if (s.port n).slp = .negotiating then
    sleepReason n 0x030A (bump (portCtr n 0x0B8) 1 (logCode 0x030A (unitPort n) (s.updPort n (fun p => { p with slp := .active }))))
  else s

/-- Both directions change after a SWITCH slot each way. -/
def planSwitch (n : Nat) (c : LinkReq) (codes : List (BitVec 4)) (s : State) : State :=
  sendCtl n (codes ++ [ctlSwitch]) (s.updPort n (fun p => { p with switchOut := p.switchOut ++ [c], switchIn := p.switchIn ++ [c] }))

/-- Thin FEC may change (R333, R334). -/
def fecAllowed (s : State) (n : Nat) : Bool :=
  let p := s.port n
  !p.coding && (p.fecRes || !carriesSlice s n)

/-- Ask the partner for thin FEC on or off. -/
def askFec (n : Nat) (on : Bool) (s : State) : State :=
  sendCtl n [if on then ctlFecon else ctlFecoff] (s.updPort n (fun p => { p with fecReq := some on }))

/-- Ask the partner for a width; a sleep negotiation under way is withdrawn (R313). -/
def askWidth (n : Nat) (w : BitVec 2) (s : State) : State :=
  sendCtl n [ctlWreq w] ((dropSleep n s).updPort n (fun p => { p with req := some (.width w) }))

def execWreq (t : Time) (set : PSet) (width : BitVec 2) (s : State) : Out :=
  let s := tick t s
  let n := set.val
  .next (match takeCtl n (ctlWreq width) s with
    | none => s
    | some s =>
      let s := dropSleep n s
      match (s.port n).req with
      | none => planSwitch n (.width width) [ctlWack] s
      | some .retrain => s
      | some _ => if ownStands s n then s else planSwitch n (.width width) [ctlWdraw, ctlWack] (withdraw n s))

def execWack (t : Time) (set : PSet) (s : State) : Out :=
  let s := tick t s
  let n := set.val
  .next (match takeCtl n ctlWack s with
    | none => s
    | some s =>
      match (s.port n).req with
      | some (.width w) => planSwitch n (.width w) [] (s.updPort n (fun p => { p with req := none }))
      | _ => s)

def execWdraw (t : Time) (set : PSet) (s : State) : Out :=
  let s := tick t s
  .next ((takeCtl set.val ctlWdraw s).getD s)

/-- The lane set of a width in force: the lowest healthy one. -/
def setFor (p : PortS) (w : BitVec 2) : BitVec 8 := (healthySet p w).getD ((laneSets w).headD 0xFF)

/-- A change comes into force in the receive direction. -/
def switchRx (c : LinkReq) (p : PortS) : PortS :=
  match c with
  | .width w => { p with rxWidth := w, rxLanes := setFor p w }
  | .fec on => { p with rxFec := on }
  | .retrain => p

/-- A change comes into force in the transmit direction. -/
def switchTx (c : LinkReq) (p : PortS) : PortS :=
  match c with
  | .width w => { p with widthNow := w, laneSet := setFor p w, nextWidth := w }
  | .fec on => { p with fecOn := on, fec := on }
  | .retrain => p

/-- A width change is advertised (R295, R296). -/
def advertise (s : State) : State := s.updFabric (fun f => { f with changedAt := some s.time })

def execSwitch (t : Time) (set : PSet) (s : State) : Out :=
  let s := tick t s
  let n := set.val
  .next (match takeCtl n ctlSwitch s with
    | none => s
    | some s =>
      match (s.port n).switchIn with
      | [] => s
      | c :: rest => advertise (s.updPort n (fun p => switchRx c { p with switchIn := rest })))

def execRtreq (t : Time) (set : PSet) (s : State) : Out :=
  let s := tick t s
  let n := set.val
  .next (match takeCtl n ctlRtreq s with
    | none => s
    | some s =>
      let s := dropSleep n s
      match (s.port n).req with
      | none => startShort n (sendCtl n [ctlRtack] s)
      | some (.width _) => startShort n (sendCtl n [ctlWdraw, ctlRtack] (withdraw n s))
      | some _ => if ownStands s n then s else startShort n (sendCtl n [ctlRtack] (withdraw n s)))

def execRtack (t : Time) (set : PSet) (s : State) : Out :=
  let s := tick t s
  let n := set.val
  .next (match takeCtl n ctlRtack s with
    | none => s
    | some s =>
      match (s.port n).req with
      | some .retrain => startShort n (s.updPort n (fun p => { p with req := none }))
      | _ => s)

/-- A received thin FEC request: answered with FECACK when R333 allows it. -/
def takeFec (n : Nat) (on : Bool) (s : State) : State :=
  match takeCtl n (if on then ctlFecon else ctlFecoff) s with
  | none => s
  | some s => if fecAllowed s n then planSwitch n (.fec on) [ctlFecack] s else s

def execFecon (t : Time) (set : PSet) (s : State) : Out := .next (takeFec set.val true (tick t s))
def execFecoff (t : Time) (set : PSet) (s : State) : Out := .next (takeFec set.val false (tick t s))

def execFecack (t : Time) (set : PSet) (s : State) : Out :=
  let s := tick t s
  let n := set.val
  .next (match takeCtl n ctlFecack s with
    | none => s
    | some s =>
      match (s.port n).fecReq with
      | some on => planSwitch n (.fec on) [] (s.updPort n (fun p => { p with fecReq := none }))
      | none => s)

/-! ### PORT_CTL (Table LN-9, R350) -/

/-- The check of PORT_CTL.EN (R350): the code it refuses with. -/
def portCheck (n : Nat) (p : PortS) : Option Nat :=
  if p.width = 3 then some 0x0101
  else if p.clk && n % 32 ≥ 4 then some 0x0102
  else if p.coding && (p.fec || p.fecRes || p.width ≠ 0) then some 0x0103
  else none

/-- A port loops back (R348): its pattern and its checker start; a far-end loopback asks the partner with a PHASE 5 word. -/
def enterLoop (n : Nat) (v : BitVec 2) (s : State) : State :=
  s.updPort n (fun p => { p with
    st := .loopback, loop := v, trainOut := if v = 3 then some 5 else none, symbols := [], blocks := [], wire := none,
    lanes := (List.range 8).foldl (fun l k => Tbl.upd Lane.reset l k (fun x => { x with txScr := laneSeed p.txSeed k, rxScr := 0, rxRun := (0, 0) })) p.lanes })

/-- The check passed: the port trains, or loops back (R337, R348), which it does not while it carries a slice. -/
def portGo (n : Nat) (s : State) : State :=
  if (s.port n).loop = 0 then startFull n s
  else if carriesSlice s n then startFull n (portReason n 0x0104 (s.updPort n (fun p => { p with loop := 0 })))
  else enterLoop n (s.port n).loop s

def runPortCheck (n : Nat) (s : State) : State :=
  match portCheck n (s.port n) with
  | some code => portReason n code (s.updPort n (fun p => { p with en := false }))
  | none => portGo n s

/-- EN cleared: the port is DISABLED and its adjacency DOWN. -/
def portOff (n : Nat) (s : State) : State :=
  (portDown n s).updPort n (fun p => { p with st := .disabled, en := false })

/-- A write of LOOP while EN is 1 (R348): refused with 0x0104 while the port carries a slice. -/
def writeLoop (n : Nat) (v : BitVec 2) (s : State) : State :=
  if v = (s.port n).loop then s
  else if v ≠ 0 && carriesSlice s n then portReason n 0x0104 s
  else
    if v = 0 then
      let s := s.updPort n (fun p => { p with loop := v })
      if (s.port n).st = .loopback then startFull n s else s
    else enterLoop n v s

/-- A write of WIDTH while EN is 1 (R342, R344): refused with 0x0103 while the port carries a slice. -/
def writeWidth (n : Nat) (w : BitVec 2) (s : State) : State :=
  let p := s.port n
  if w = p.width then s
  else if w = 3 then portReason n 0x0101 s
  else if carriesSlice s n || p.coding then portReason n 0x0103 s
  else
    let s := s.updPort n (fun p => { p with width := w, nextWidth := w })
    if p.st = .up then askWidth n w s else s

/-- A write of FEC while EN is 1 (R333): refused with 0x0103 where R333 does not allow it. -/
def writeFec (n : Nat) (on : Bool) (s : State) : State :=
  let p := s.port n
  if on = p.fec then s
  else if !fecAllowed s n then portReason n 0x0103 s
  else
    let s := s.updPort n (fun p => { p with fec := on })
    if p.st = .up then askFec n on s else s

/-- RETRAIN written 1 on a port that is UP: RTREQ, and a short retrain when it is accepted (R349, R337). -/
def writeRetrain (n : Nat) (s : State) : State :=
  if (s.port n).st = .up && (s.port n).req.isNone then
    sendCtl n [ctlRtreq] ((dropSleep n s).updPort n (fun p => { p with req := some .retrain }))
  else s

/-- The device locked: a port retrains, at once or as soon as it can ask for it (R341). -/
def owedRetrain (n : Nat) (s : State) : State :=
  let p := s.port n
  if p.st = .up && p.req.isNone then writeRetrain n s
  else if p.st = .up || p.st = .retrain || p.st = .sleep then s.updPort n (fun p => { p with owesRetrain := true })
  else s

/-- A write of PORT_CTL of a fabric port or, for the mode fields, of a twin-link half (R405, R406). -/
def writePortCtl (n : Nat) (v : Word) (s : State) : State :=
  let c := WaitCheck.port n
  let en := (s.port n).en
  if n ≥ 128 then
    if s.twin.en then
      let s := s.updPort n (fun p => { p with fecAuto := v.getLsbD 18 })
      let s := writeFec n (v.getLsbD 17) (writeLoop n (v.extractLsb' 24 2) s)
      if v.getLsbD 1 then writeRetrain n s else s
    else s.updPort n (fun p => { p with
      loop := v.extractLsb' 24 2, fecRes := v.getLsbD 19, fecAuto := v.getLsbD 18, fec := v.getLsbD 17,
      width := v.extractLsb' 14 2, coding := v.getLsbD 13, clk := v.getLsbD 12 })
  else if checking c s && v.getLsbD 0 then s
  else if en then
    if !v.getLsbD 0 then
      let s := cancelCheck c s
      let s := s.updPort n (fun p => { p with
        loop := v.extractLsb' 24 2, fecAuto := v.getLsbD 18, fec := v.getLsbD 17, width := v.extractLsb' 14 2 })
      portOff n s
    else
      let s := s.updPort n (fun p => { p with fecAuto := v.getLsbD 18 })
      let s := writeFec n (v.getLsbD 17) (writeWidth n (v.extractLsb' 14 2) (writeLoop n (v.extractLsb' 24 2) s))
      if v.getLsbD 1 then writeRetrain n s else s
  else
    let s := s.updPort n (fun p => { p with
      loop := v.extractLsb' 24 2, fecRes := v.getLsbD 19, fecAuto := v.getLsbD 18, fec := v.getLsbD 17,
      width := v.extractLsb' 14 2, coding := v.getLsbD 13, clk := v.getLsbD 12, en := v.getLsbD 0 })
    if v.getLsbD 0 then startCheck c (runPortCheck n) s else s

def execPortEnable (t : Time) (port : Port) (v : Word) (s : State) : Out :=
  .next (bar0 t (writePortCtl port.val (v ||| 1)) s)
def execPortDisable (t : Time) (port : Port) (v : Word) (s : State) : Out :=
  .next (bar0 t (writePortCtl port.val (v &&& 0xFFFFFFFE)) s)
def execPortRetrain (t : Time) (set : PSet) (v : Word) (s : State) : Out :=
  .next (bar0 t (writePortCtl set.val (v ||| 2)) s)
def execFecRequest (t : Time) (set : PSet) (v : Word) (s : State) : Out := .next (bar0 t (writePortCtl set.val v) s)
def execWidthRequest (t : Time) (set : PSet) (v : Word) (s : State) : Out := .next (bar0 t (writePortCtl set.val v) s)
def execLoopbackRequest (t : Time) (set : PSet) (v : Word) (s : State) : Out := .next (bar0 t (writePortCtl set.val v) s)

/-! ### Training (R337 to R341) -/

/-- Limit of a phase (Table LN-5), and the code of its failure. -/
def phaseLimit (p : PortS) : Time × Nat :=
  match p.phase with
  | .detect => (us 100, 0x0105)
  | .clock => (if p.clk || p.coding then us 50 else us 10, 0x0105)
  | .eq => (us 500, 0x0106)
  | .align => (us 20, 0x0107)
  | .time => (us 20, 0x010A)
  | .done => (us 2, 0x0108)
  | .idle => (0, 0)

/-- Code of a training phase in the training word (Table LN-6). -/
def phaseCode : Phase → Nat
  | .eq => 1
  | .align => 2
  | .time => 3
  | .done => 4
  | _ => 0

/-- The training word a port sends on a lane in its present phase; fields that the phase does not use are 0 (R338, Table LN-6). -/
def trainWord (s : State) (n lane : Nat) : BitVec 128 :=
  let p := s.port n
  let l := p.lane lane
  let eq := p.phase = .eq
  let time := p.phase = .time
  let seed := p.phase = .align || p.phase = .done
  let result := match p.tauReq with
    | some r => (if p.timed then p.rxOff.toNat + 0x8000 else 0) + 0x4000 * b2n r
    | none => 0
  BitVec.ofNat 128 (leNat (leBytes 1 (phaseCode p.phase + 16 * lane) ++
    leBytes 1 (if eq then l.eqReq.toNat else 0) ++ leBytes 1 (if eq then l.eqStat.toNat else 0) ++
    leBytes 1 (b2n (!p.coding) + 2 * b2n p.coding + 4 * b2n (!p.coding) + 8 * b2n p.fecRes) ++ leBytes 2 (s.dev.id.toNat + 0x2000 * b2n s.dev.twinSel) ++
    leBytes 1 (n % 128) ++ leBytes 1 p.nextWidth.toNat ++
    leBytes 4 (if time then p.flt.toNat + p.rxd.toNat * 65536 else if seed then p.txSeed.toNat else 0) ++
    leBytes 2 (if time then posNow s % 16384 else 0) ++ leBytes 2 (if time then result else 0)))

/-- Blocks go out on the lanes of a compatibility port (R335). -/
def putBlocks (lanes : List (List (BitVec 2 × List Byte))) (p : PortS) : PortS :=
  let got := lanes.zipIdx.map (fun x => (x.2, sendBlocks x.1 (p.lane x.2).tx58))
  let p := got.foldl (fun p g => p.updLane g.1 (fun l => { l with tx58 := g.2.2 })) p
  { p with blocks := got.map (·.2.1), symbols := got.map (fun g => blockSymbols g.2.1) }

/-- The training frame of the present phase goes out on every lane (R336, R338). -/
def sendTrain (n : Nat) (s : State) : State :=
  let ws := (List.range 8).map (trainWord s n)
  let s := s.updPort n (fun p => { p with trainOut := ws.head? })
  if (s.port n).coding then s.updPort n (putBlocks (ws.map trainBlocks))
  else s.updPort n (fun p => { p with symbols := ws.map trainSymbols })

/-- Enter a phase, and send its training word. -/
def enterPhase (n : Nat) (ph : Phase) (s : State) : State :=
  let s := s.updPort n (fun p => { p with phase := ph, phaseAt := s.time, st := if p.short then .retrain else .training })
  if ph = .clock then s else sendTrain n s

/-- Transmit tap steps: pre 0 to 16, main 0 to 28 above 0.55, post 0 to 19, in units of 1/64 (Table LN-7); a step beyond the
range leaves the tap (R338). -/
def tapStep (v req top : Nat) : Nat := if req = 1 && v < top then v + 1 else if req = 2 && v > 0 then v - 1 else v

def applyEq (req : Nat) (taps : BitVec 18) : BitVec 18 :=
  let x := taps.toNat
  if bitN req 6 then BitVec.ofNat 18 (28 * 64)
  else BitVec.ofNat 18 (tapStep (x % 64) (bitsN req 0 2) 16 + 64 * tapStep (bitsN x 6 6) (bitsN req 2 2) 28 +
    4096 * tapStep (bitsN x 12 6) (bitsN req 4 2) 19)

/-- What a tap reports of a request: not updated, updated, or at its limit (Table LN-6). -/
def tapStat (v req top : Nat) : Nat := if req = 1 || req = 2 then (if tapStep v req top = v then 2 else 1) else 0

/-- EQSTAT after a request; PRESET updates every tap. -/
def eqStatOf (req : Nat) (taps : BitVec 18) : BitVec 8 :=
  let x := taps.toNat
  if bitN req 6 then 0x15
  else BitVec.ofNat 8 (tapStat (x % 64) (bitsN req 0 2) 16 + 4 * tapStat (bitsN x 6 6) (bitsN req 2 2) 28 + 16 * tapStat (bitsN x 12 6) (bitsN req 4 2) 19)

/-- The EQREQ of a receiver whose equalisation has not converged: which steps it asks for is free (log entry 75). -/
def freeReq (s : State) : BitVec 8 :=
  let v := (Config.freeWord s.free).toNat
  BitVec.ofNat 8 (v % 3 + 4 * (v / 3 % 3) + 16 * (v / 9 % 3) + 64 * (v / 27 % 2))

/-- Fields of a training word (Table LN-6). -/
def twN (w : BitVec 128) (lo n : Nat) : Nat := bitsN w.toNat (8 * lo) (8 * n)

/-- Both ends have a common coding and the width is the narrower of the two asked for (R337, Table LN-5). -/
def capsAgree (p : PortS) (w : BitVec 128) : Bool :=
  bitN (twN w 3 1) (if p.coding then 1 else 0) && twN w 7 1 % 4 ≠ 3

/-- A link that trained comes UP: data mode starts with fresh scramblers (R322); a full training restarts the sequence and the
credits (log entry 8). -/
def linkUp (n : Nat) (s : State) : State :=
  let w := (s.port n).nextWidth
  let s := s.updPort n (fun p =>
    let p := { p with
      st := .up, phase := .done, phaseAt := s.time, upAt := s.time, trainOut := none, txFree := 0,
      widthNow := w, rxWidth := w, laneSet := setFor p w, rxLanes := setFor p w,
      fecOn := p.fecOn && p.short, rxFec := p.rxFec && p.short,
      lanes := (List.range 8).foldl (fun l k => Tbl.upd Lane.reset l k (fun x => { x with
        txScr := laneSeed p.txSeed k, rxScr := laneSeed p.rxSeed k, txRun := (0, 0), rxRun := (0, 0), tx58 := 0, rx58 := 0,
        inuse := (setFor p w).getLsbD k })) p.lanes }
    let p := { p with heldAt := s.time, replayedAck := none }
    if p.short then p
    else
      { p with
        txSeq := 0, rxSeq := 0xFFF, ackSeen := 0xFFF, nak := false, held := [], replay := [], credits := 256, owed := 0 })
  let s := advertise s
  let p := s.port n
  let s := if p.fec != p.fecOn && fecAllowed s n then askFec n p.fec s else s
  if p.fecDue then
    let s := s.updPort n (fun p => { p with fecDue := false })
    if p.fecAuto && !p.fecOn && fecAllowed s n then askFec n true (s.updPort n (fun p => { p with fec := true })) else s
  else s

/-- Added receive latency in fifths of 2^-10 ns (R328, R334): recovery of an embedded clock, and 1.2 ns of thin FEC on or reserved. -/
def rxLatency (p : PortS) (m : TrainMeas) : Nat :=
  (if p.clk then 5 * m.recov.toNat else 0) + (if p.fecRes || (p.rxFec && p.short) then 6144 else 0)

/-- Receive position and φ0, in fifths of 2^-10 ns, of a frame's effective arrival (R264, R328, R339). A position takes 0.6 ns. -/
def effective (p : PortS) (m : TrainMeas) : Nat × Nat :=
  let lat := rxLatency p m
  let phi := 5 * m.phi0.toNat
  let k := (lat + 3071 - phi) / 3072
  (m.rxpos.toNat + k, phi + 3072 * k - lat)

/-- TIME's measurement from a partner's word (R339 to R341): delays, offsets and phase of both directions. The offset is measured with the τ asked for
applied, so after a request of 0.2 ns with the next word. TIME ends when both results have gone out. -/
def timeStep (n : Nat) (w : BitVec 128) (m : TrainMeas) (s : State) : State :=
  let p := s.port n
  let d := ((if p.clk then 0 else twN w 8 2) + m.skew.toNat) % 65536
  let e := effective p m
  let req := p.tauReq.getD (e.2 < 768)
  let rxOff : BitVec 14 := BitVec.ofNat 14 e.1 - BitVec.ofNat 14 (twN w 12 2)
  let done := p.short || p.tauReq.isSome || !req
  let res := twN w 14 2
  let newTx : BitVec 14 := BitVec.ofNat 14 res
  let newTau := bitN res 14
  let differs := done && p.short && (rxOff ≠ p.rxOff || req != p.tauSet || (bitN res 15 && (newTx ≠ p.txOff || newTau != p.tau)))
  let s := s.updPort n (fun p => { p with
    rxd := BitVec.ofNat 16 d
    asym := if p.clk then p.asym else BitVec.ofNat 16 (twN w 10 2 + 65536 - d)
    flt := if p.clk then 0 else m.flight
    tauReq := some req, timed := done, tau := if p.short then p.tau else newTau
    rxOff := if done && !p.short then rxOff else p.rxOff })
  if differs then startFull n (portReason n 0x010A (logCode 0x010A (unitPort n) s))
  else if bitN res 15 && p.timed then
    enterPhase n .done (s.updPort n (fun p => { p with
      txOff := newTx, tau := newTau, tauSet := req, timeRun := s.fabric.tlock, offV := s.fabric.tlock && p.peerLock }))
  else sendTrain n s

/-- Frame lock of the lanes of the width (R338), or block lock of a compatibility port's (R335). -/
def lanesLocked (p : PortS) : Bool :=
  (lanesIn (setFor p p.nextWidth)).all (fun l => if p.coding then (p.lane l).locked else 2 ≤ (p.lane l).frames)

/-- SEED of an ALIGN or DONE word (Table LN-6). -/
def takeSeed (n : Nat) (w : BitVec 128) (s : State) : State :=
  if twN w 0 1 % 16 = 3 then s else s.updPort n (fun p => { p with rxSeed := BitVec.ofNat 31 (twN w 8 4) })

/-- ALIGN's exchange (R337, Table LN-6). -/
def alignStep (n : Nat) (w : BitVec 128) (m : TrainMeas) (s : State) : State :=
  let p := s.port n
  if !capsAgree p w then trainFail n 0x0108 s
  else if !(m.aligned && lanesLocked p) then s
  else
    let pw := twN w 7 1 % 4
    let s := (takeSeed n w s).updPort n (fun p => { p with
      peerDev := BitVec.ofNat 12 (twN w 4 2), peerEp := bitN (twN w 4 2) 12, peerSide := bitN (twN w 4 2) 13,
      peerPort := BitVec.ofNat 7 (twN w 6 1), flt := if p.clk then 0 else m.flight,
      nextWidth := if pw > p.nextWidth.toNat then BitVec.ofNat 2 pw else p.nextWidth })
    enterPhase n (if p.coding then .done else .time) s

/-- EQ's exchange on a lane (R338): the partner's request moves the lane's transmitter; EQ ends when both directions of every lane are done. -/
def eqStep (n lane : Nat) (w : BitVec 128) (m : TrainMeas) (s : State) : State :=
  let req := twN w 1 1
  let eq := twN w 0 1 % 16 = 1
  let own : BitVec 8 := if m.converged then 0x80 else freeReq s
  let s := if m.converged then s else { s with free := s.free + 1 }
  let s := s.updPort n (fun p => p.updLane lane (fun x => { x with
    taps := if eq then applyEq req x.taps else x.taps, eqStat := if eq then eqStatOf req x.taps else 0
    eqPeer := !eq || bitN req 7, eqReq := own }))
  let p := s.port n
  if (lanesIn (setFor p p.nextWidth)).all (fun l => (p.lane l).eqPeer && (p.lane l).eqReq = 0x80) then enterPhase n .align s else sendTrain n s

/-- A PHASE 5 word (R348): refused while the port carries a slice, else the port sends back what it receives; at the end that asked, VALID gives the answer. -/
def loopWord (n : Nat) (w : BitVec 128) (s : State) : State :=
  let p := s.port n
  if p.loop = 3 && p.st = .loopback then
    if bitN (twN w 14 2) 15 then s.updPort n (fun p => { p with trainOut := none })
    else startFull n (portReason n 0x0104 (s.updPort n (fun p => { p with loop := 0 })))
  else if carriesSlice s n then portReason n 0x0104 (s.updPort n (fun p => { p with trainOut := some 5 }))
  else (enterLoop n 0 s).updPort n (fun p => { p with trainOut := some (5 + (1 : BitVec 128) <<< 127) })

/-- A received training frame in the present phase (R338). On a port that is UP it shows that the partner trains again (log entry 76). -/
def trainStep (n lane : Nat) (w : BitVec 128) (m : TrainMeas) (s : State) : State :=
  let ph := twN w 0 1 % 16
  let s := s.updPort n (fun p => p.updLane lane (fun x => { x with
    frames := x.frames + 1, polinv := m.polinv, deskew := m.deskew }))
  let p := s.port n
  if ph = 5 then loopWord n w s
  else if p.st = .up then
    if ph = 1 then startFull n s else if ph = 2 || ph = 3 then startShort n s else s
  else match p.phase with
    | .eq => eqStep n lane w m s
    | .align => if ph ≥ 2 then alignStep n w m s else s
    | .time => if ph = 3 then timeStep n w m s else s
    | .done => if ph = 4 then linkUp n (takeSeed n w s) else s
    | _ => s

/-- Sync headers of a lane counted (R335). -/
def countHdrs (hs : List (BitVec 2)) (l : Lane) : Lane :=
  let x := hs.foldl (fun x h => hdrCount l.locked h x) (l.hdrs, l.badHdrs)
  { l with hdrs := x.1, badHdrs := x.2 }

/-- A training frame on a lane: on a native port its word and CRC-32C (R338), on a compatibility port 8 blocks whose first carries bytes 0 to 6 (R336). -/
def execTrainingWord (t : Time) (set : PSet) (lane : Fin 8) (word : BitVec 128) (crc : Word) (m : TrainMeas) (s : State) : Out :=
  let s := tick t s
  let n := set.val
  .next (if !(s.port n).en then s
    else if (s.port n).coding then
      trainStep n lane.val ((word.setWidth 56).setWidth 128) m (s.updPort n (fun p => p.updLane lane.val (countHdrs (2 :: List.replicate 7 1))))
    else if crc32c (leBytes 16 word.toNat) ≠ crc then s.updPort n (fun p => p.updLane lane.val (fun x => { x with frames := 0 }))
    else trainStep n lane.val word m s)

def execFarEndDetect (t : Time) (set : PSet) (s : State) : Out :=
  let s := tick t s
  .next (if (s.port set.val).phase = .detect then enterPhase set.val .clock s else s)

def execClockLock (t : Time) (set : PSet) (s : State) : Out :=
  let s := tick t s
  let p := s.port set.val
  .next (if p.phase = .clock then enterPhase set.val (if p.short then .align else .eq) s else s)

/-- A port is in training, full or short. -/
def training (p : PortS) : Bool := p.st = .detect || p.st = .training || p.st = .retrain

def execTrainingPhaseTimeout (t : Time) (set : PSet) (s : State) : Out :=
  let s := tick t s
  let p := s.port set.val
  .next (if training p && (phaseLimit p).1 ≤ s.time - p.phaseAt && p.phase ≠ .idle then trainFail set.val (phaseLimit p).2 s else s)

def execTrainingRetry (t : Time) (set : PSet) (s : State) : Out :=
  let s := tick t s
  let p := s.port set.val
  .next (if p.st = .down && p.en && ms 10 ≤ s.time - p.phaseAt then startFull set.val s else s)

/-! ### Detectors (R343, R345, R347, R335) -/

/-- Every lane in use has lost its signal, or its lock. -/
def allLanes (p : PortS) (bad : Lane → Bool) : Bool := p.laneSet ≠ 0 && (lanesIn p.laneSet).all (fun l => bad (p.lane l))

def execLossOfSignal (t : Time) (set : PSet) (lane : Fin 8) (s : State) : Out :=
  let s := tick t s
  let n := set.val
  let s := s.updPort n (fun p => p.updLane lane.val (fun x => { x with los := true, healthy := false }))
  .next (if allLanes (s.port n) (·.los) then portDown n s
    else if (s.port n).laneSet.getLsbD lane.val then narrow n lane.val s else s)

def execLossOfLock (t : Time) (set : PSet) (lane : Option (Fin 8)) (s : State) : Out :=
  let s := tick t s
  let n := set.val
  .next (match lane with
    | none => if (s.port n).clk then s else
        (if (s.port n).en then portDown n (s.updPort n (fun p => { p with
          lanes := (List.range 8).foldl (fun l k => Tbl.upd Lane.reset l k (fun x => { x with lol := true })) p.lanes })) else s)
    | some l =>
      let s := s.updPort n (fun p => p.updLane l.val (fun x => { x with lol := true, healthy := false }))
      if allLanes (s.port n) (·.lol) then portDown n s
      else if (s.port n).laneSet.getLsbD l.val then narrow n l.val s else s)

def execFrameLoss (t : Time) (set : PSet) (lane : Fin 8) (s : State) : Out :=
  let s := tick t s
  let n := set.val
  .next (if ((s.port n).lane lane.val).los && (s.port n).en then portDown n s
    else s.updPort n (fun p => p.updLane lane.val (fun x => { x with frames := 0 })))

def execLaneLost (t : Time) (set : PSet) (lane : Fin 8) (s : State) : Out :=
  let s := tick t s
  .next (if (s.port set.val).laneSet.getLsbD lane.val then narrow set.val lane.val s else s)

/-- Thin FEC turns on by itself on a warning, when FECAUTO and R333 allow (R347). -/
def autoFec (n : Nat) (s : State) : State :=
  let p := s.port n
  if p.st = .retrain then s.updPort n (fun p => { p with fecDue := true })
  else if p.st = .up && p.fecAuto && !p.fec && fecAllowed s n then askFec n true (s.updPort n (fun p => { p with fec := true }))
  else s

def execMarginScan (t : Time) (set : PSet) (lane : Fin 8) (height : BitVec 8) (width : BitVec 8) (s : State) : Out :=
  let s := tick t s
  let n := set.val
  let s := s.updPort n (fun p => p.updLane lane.val (fun x => { x with ehmin := height, ewmin := width }))
  let warn := height.toNat < 20 || 100 * width.toNat < 15 * 128
  let alarm := height.toNat < 12 || 100 * width.toNat < 8 * 128
  let s := if warn then autoFec n (portReason n 0x010C (logEv 0x010C (unitPort n) height.toNat width.toNat s)) else s
  .next (if alarm then portReason n 0x010D (logEv 0x010D (unitPort n) height.toNat width.toNat s) else s)

/-- Block lock, after 64 consecutive valid sync headers (R335). -/
def execBlockLock (t : Time) (set : PSet) (lane : Fin 8) (s : State) : Out :=
  .next ((tick t s).updPort set.val (fun p =>
    if p.coding && !(p.lane lane.val).locked && 64 ≤ (p.lane lane.val).hdrs then
      p.updLane lane.val (fun x => { x with locked := true, lol := false, hdrs := 0, badHdrs := 0 })
    else p))

/-- Block lock is lost after 16 invalid headers within 64 (R335): the lane has lost lock (R343, R345). -/
def execBlockLockLoss (t : Time) (set : PSet) (lane : Fin 8) (s : State) : Out :=
  let s := tick t s
  let n := set.val
  let l := (s.port n).lane lane.val
  .next (if (s.port n).coding && l.locked && 16 ≤ l.badHdrs then
      let s := s.updPort n (fun p => p.updLane lane.val (fun x => { x with locked := false, hdrs := 0, badHdrs := 0, lol := true, healthy := false }))
      if allLanes (s.port n) (·.lol) then portDown n s
      else if (s.port n).laneSet.getLsbD lane.val then narrow n lane.val s else s
    else s)

/-! ### Retry (R330, R331) -/

/-- A replay of all held slots from ACK + 1 begins: counted as a link retry (R330). -/
def startReplay (n : Nat) (s : State) : State :=
  (bump (portCtr n 0x060) 1 s).updPort n (fun p => { p with replay := p.held, replayedAck := some p.ackSeen, heldAt := s.time })

/-- A held slot as it changes. -/
def updHeld (n : Nat) (seq : BitVec 12) (f : TxSlot → TxSlot) (s : State) : State :=
  s.updPort n (fun p => { p with held := p.held.map (fun x => if x.seq = seq then f x else x) })

/-- The scheduled cells of a slot that leaves late slip (R324, R331): each counts once. -/
def slotSlips (n : Nat) (x : TxSlot) (s : State) : State := bump (portCtr n 0x0A8) x.onTime (updHeld n x.seq (fun y => { y with onTime := 0 }) s)

/-- A slot has gone out: one replayed 8 times starts a short retrain and logs 0x0109 (R331). -/
def retryLimit (n : Nat) (x : TxSlot) (s : State) : State :=
  if (s.port n).again.isNone && (s.port n).held.any (fun y => y.seq = x.seq && 8 ≤ y.replays) then
    startShort n (portReason n 0x0109 (logCode 0x0109 (unitPort n)
      (s.updPort n (fun p => { p with held := p.held.map (fun x => { x with replays := 0 }) }))))
  else s

/-- ACK covers a held slot: it is at or before ACK in sequence. -/
def covered (ack : BitVec 12) (x : TxSlot) : Bool := (ack - x.seq).toNat < 2048

/-- ACK and NAK of a slot that passed its checks (R330). -/
def takeAck (n : Nat) (ack : BitVec 12) (nak : Bool) (s : State) : State :=
  let p := s.port n
  let held := p.held.filter (fun x => !covered ack x)
  let moved := held.length ≠ p.held.length
  let s := s.updPort n (fun p => { p with
    held := held, replay := p.replay.filter (fun x => !covered ack x), ackSeen := ack, heldAt := if moved then s.time else p.heldAt })
  if nak && (s.port n).replayedAck ≠ some ack && !held.isEmpty then startReplay n s else s

def execReplayTimeout (t : Time) (set : PSet) (s : State) : Out :=
  let s := tick t s
  let p := s.port set.val
  .next (if p.st = .up && !p.held.isEmpty && ns 200 ≤ s.time - p.heldAt then startReplay set.val s else s)

end Sys2Proof.Machine
end

