-- ==== Sys2Proof/Machine/SwitchOps.lean ====
section
/-! DEFINITION. Operations of the switch core that several families share: buffers, routing, queues to ports, cells taken from
where they arrived (10, 11). -/

namespace Sys2Proof.Machine

/-! ### Waking a sleeping port (R312) -/

/-- Own cell of the sleep exchange (Table FB-2). -/
def sleepCell (sub : Nat) (deep : Bool) : Cell := mkRouted clsMgmt kSleep 0 0 0 0 0 0 0 0 (sub * 2 ^ 34 + b2n deep * 2 ^ 33) 0

/-- Queue a management cell on a link (R258); dropped with 0x0210 where the reserve of its tile is used up (R275, R283). -/
def queueMgmt (n : Nat) (c : Cell) (s : State) : State :=
  if ctlUse s n ≥ ctlLimit n then logCode 0x0210 (unitTile (n % 128)) s
  else s.updPort n (fun p => { p with mgmtQ := p.mgmtQ ++ [c] })

/-- A wake of a port: by command, by a queued cell under AUTOWAKE, or by the partner's signal (Table FB-8). -/
def wakePort (n : Nat) (s : State) : State :=
  let p := s.port n
  match p.slpMove, p.slp with
  | .entering _, _ => s.updPort n (fun p => { p with slpMove := .entering true })
  | .exiting, _ => s
  | .none, .negotiating => queueMgmt n (sleepCell 2 p.slpDeep) (s.updPort n (fun p => { p with slp := .active }))
  | .none, .light => s.updPort n (fun p => { p with slpMove := .exiting, slpAt := s.time, wakeOut := true })
  | .none, .deep => s.updPort n (fun p => { p with slpMove := .exiting, slpAt := s.time, wakeOut := true })
  | .none, .active => s

/-- A cell has been queued for a port: it wakes it under AUTOWAKE (Table FB-7). -/
def autoWake (n : Nat) (s : State) : State :=
  let p := s.port n
  if p.autowake && (p.slp ≠ .active || p.slpMove ≠ .none) then wakePort n s else s

/-- A management cell is queued: it wakes a sleeping port under AUTOWAKE, unless it is of the sleep exchange itself (R312). -/
def pushMgmt (n : Nat) (c : Cell) (s : State) : State :=
  if c.kind = kSleep then queueMgmt n c s else autoWake n (queueMgmt n c s)

/-! ### Queues to ports -/

/-- A port's link carries cells: UP, or asleep and wakeable. -/
def linkAlive (p : PortS) : Bool := p.st = .up || p.st = .retrain || p.st = .sleep

/-- Queue a control cell of tile n on ports, in one buffer of the tile that counts its copies (R280): a copy for a lost link is discarded and counted;
with the tile's reserve used up the cell is dropped with 0x0210 (R275, R283). -/
def pushCtl (n : Nat) (ports : List Nat) (c : Cell) (s : State) : State :=
  let live := ports.filter (fun p => linkAlive (s.port p))
  let s := (ports.filter (fun p => !linkAlive (s.port p))).foldl (fun s p => bump (portCtr p 0x088) 1 s) s
  if live.isEmpty then s
  else if ctlUse s n ≥ ctlLimit n then logCode 0x0210 (unitTile (n % 128)) s
  else live.foldl (fun s p => autoWake p (s.updPort p (fun x => { x with ctlQ := x.ctlQ ++ [c] })))
    (s.updFabric (fun f => { f with ctlHeld := Tbl.upd [] f.ctlHeld n (· ++ [(c, live.length)]) }))

/-- Queue a scheduled cell for its transmit position on a port (R271): a port that is down drops it, and its instance becomes
INCOMPLETE with 0x020F (Table SW-16). -/
def pushSched (n pos : Nat) (own : Bool) (c : Cell) (s : State) : State :=
  let p := s.port n
  if !linkAlive p then schedLost n ⟨pos, c, own⟩ s
  else autoWake n (s.updPort n (fun p => { p with schedQ := p.schedQ ++ [⟨pos, c, own⟩] }))

/-! ### Routing (R261, R279, R280, R300, R301) -/

/-- route_port of R300: the hash over 32 bits and the index into the next-hop set. -/
def routeHash (ddev dport job coll arr : Nat) : Word :=
  let x : Word := BitVec.ofNat 32 (ddev * 2 ^ 14 ||| dport * 2 ^ 7 ||| arr)
  let h := x ^^^ BitVec.ofNat 32 ((job * 4096 ||| coll) * 0x9E3779B9)
  let h := h ^^^ (h >>> 15)
  let h := h * 0x85EBCA6B
  h ^^^ (h >>> 13)

/-- The next hop of a routing entry, none where COUNT is 0 (Table FB-5). -/
def routePort (e : DWord) (c : Cell) (arr : Nat) : Option Nat :=
  let count := bitsN e.toNat 60 4
  if count = 0 then none
  else some (bitsN e.toNat (7 * ((routeHash c.ddev c.dport c.job c.coll arr).toNat / 65536 * count / 65536)) 7)

/-- The device forwards routed cells (R291, Table RG-5). -/
def forwards (s : State) : Bool := s.dev.st = .enabled || (s.dev.st = .restart && s.dev.before = .enabled)

/-- Where a routed cell goes: ports, and whether a local copy is due; none where it is dropped, with the counter to bump. -/
inductive RouteTo where
  | go (ports : List Nat) (here : Bool)
  | unreach
  | foreign
  deriving DecidableEq, Repr

/-- A unicast cell of a kind that an endpoint consumes, addressed to one behind this device: DPORT names an endpoint port other than 0 (Table SW-4;
log entry 60). -/
def forEndpoint (s : State) (c : Cell) : Bool :=
  (c.kind = kVerdict || c.kind = kAck) && c.dport ≠ 0 && (s.port c.dport).kind = .endpoint

/-- Route a cell that arrived on port arr, or started on the device (arr none; then tile or 0 for the hash). -/
def route (s : State) (arr : Option Nat) (tile : Nat) (c : Cell) : RouteTo :=
  if c.mgrp ≠ 0 then
    let g := Tbl.get 0 s.fabric.groups c.mgrp
    if !grpValid g || grpJob g ≠ c.job then .foreign
    else .go (if forwards s then (grpPorts g).filter (fun p => some p ≠ arr) else []) (grpLocal g)
  else if c.ddev = s.dev.id.toNat && s.dev.idValid then
    (if !forEndpoint s c then .go [] true else if some c.dport = arr then .unreach else .go [c.dport] false)
  else if !forwards s then .unreach
  else match routePort (Tbl.get 0 s.fabric.routes c.ddev) c (arr.getD tile) with
    | none => .unreach
    | some p => if some p = arr then .unreach else .go [p] false

/-- A cell is delivered to the device's own consumers. -/
def deliverHere (c : Cell) (s : State) : State := s.updFabric (fun f => { f with hmRx := f.hmRx ++ [c] })

/-- Count a cell that names a group its job does not own, in its job's foreign-cell counter on this port (R251, R280). -/
def countForeign (port : Nat) (c : Cell) (s : State) : State :=
  match slotOf c.job s with
  | some j => bump (jobCtr (port % 128) j 0x60) 1 s
  | none => s

/-- Send a control cell that starts on the device, from a tile or the harbourmaster (R262, R268). -/
def sendCtlCell (tile : Nat) (c : Cell) (s : State) : State :=
  match route s none tile c with
  | .go ps here =>
    let s := pushCtl tile ps c s
    if here then deliverHere c s else s
  | .unreach => bump (portCtr tile 0x088) 1 s
  | .foreign => countForeign tile c s

/-- The last time a cell bearing a tag came (R233). -/
def noteTag (tag : Nat) (s : State) : State :=
  match slotOf tag s with
  | some j => s.updJob j (fun x => { x with lastCell := s.time })
  | none => { s with jobs := { s.jobs with gone := s.jobs.gone.map (fun g => if g.1.toNat = tag then (g.1, s.time) else g) } }

/-! ### Header checks (R7, R149, R260) -/

/-- SUB of the kind-specific field of a routed cell. -/
def ksfSub (c : Cell) : Nat := bitsN c.ksf 34 3
def ksfPart (c : Cell) : Nat := bitsN c.ksf 24 10

/-- A STAT or VERDICT cell that R149 drops: a reserved SUB, a PART above 47, or RSVD bits (Table UP-7). -/
def ksfBad (c : Cell) : Bool :=
  (c.kind = kStat && ksfSub c > 1) || (c.kind = kVerdict && ksfSub c > 3) || ksfPart c > 47 || bitsN c.ksf 0 24 ≠ 0

/-- A reserved SUB of a fabric or twin exchange (Tables FB-2, TW-2). -/
def subBad (c : Cell) : Bool :=
  let sub := ksfSub c
  (c.cls = clsMgmt && ((c.kind = kDiscovery && sub > 0) || (c.kind = kSleep && sub > 2) || (c.kind = kTime && sub > 1))) ||
  (c.cls = clsCtl && ((c.kind = kDiscovery && (sub = 0 || sub > 5)) || (c.kind = kAck && (sub = 0 || sub > 4))))

/-- A header in which a reserved encoding stands: the receiving port drops the cell and counts a header error. -/
def cellBad (c : Cell) : Bool := hdrBad c || (c.cls ≠ clsSched && (subBad c || ((c.kind = kStat || c.kind = kVerdict) && ksfBad c)))

/-- A cell bears a tag of no loaded job; tag 0 with no such job means a cell of no job. -/
def noTag (c : Cell) (s : State) : Bool := c.job ≠ 0 && (slotOf c.job s).isNone

/-- A control cell that a port accepted: forwarded or replicated, and its local copy kept for its consumer (R261, R280). -/
def ctlArrive (n : Nat) (c : Cell) (s : State) : State :=
  if noTag c s then bump (portCtr n 0x0A0) 1 s
  else match route s (some n) 0 c with
    | .go ps here =>
      let s := pushCtl n ps c s
      if here then s.updPort n (fun p => { p with rxCells := p.rxCells ++ [(0, c)] }) else s
    | .unreach => bump (portCtr n 0x088) 1 s
    | .foreign => countForeign n c s

/-! ### Cells taken by their consumers -/

/-- Scheduled cells of one instance, which keep their order of arrival (R113; log entry 61). -/
def samePath (c d : Cell) : Bool := c.cls = clsSched && d.cls = clsSched && d.job = c.job && d.coll = c.coll

/-- Of a list of cells that wait, c is the next to be taken: it is there, and no cell of its path came before it. -/
def isNext (c : Cell) (l : List Cell) : Bool := l.find? (fun d => d = c || samePath c d) = some c

/-- Take a cell that a port accepted for the tile's programs or the device; none where it has not come, or an earlier one of its path waits. -/
def takeRx (n : Nat) (c : Cell) (s : State) : Option State :=
  if isNext c ((s.port n).rxCells.map (·.2)) then
    some (s.updPort n (fun p => { p with rxCells := dropFirst (fun e => e.2 = c) p.rxCells }))
  else none

/-- Take a cell of an RX PASS slot by its label. -/
def takePass (n : Nat) (l : BitVec 14) (c : Cell) (s : State) : Option (PassCell × State) :=
  ((s.port n).passCells.find? (fun q => q.label = l && q.cell = c)).map (fun q =>
    (q, s.updPort n (fun p => { p with passCells := dropFirst (· = q) p.passCells })))

/-- Take a cell delivered to the device, from within it or from any port or twin-link half. -/
def takeAny (c : Cell) (s : State) : Option State :=
  if s.fabric.hmRx.contains c then some (s.updFabric (fun f => { f with hmRx := dropFirst (· = c) f.hmRx }))
  else match s.ports.find? (fun e => e.2.rxCells.any (fun r => r.2 = c)) with
    | some (n, _) => takeRx n c s
    | none => none

/-- Take a cell for a tile's programs, from the exchange or from the tile's port. -/
def takeTile (tile : Nat) (c : Cell) (s : State) : Option State :=
  if (s.tile tile).inbox.contains c then
    (if isNext c (s.tile tile).inbox then some (s.updTile tile (fun x => { x with inbox := dropFirst (· = c) x.inbox })) else none)
  else takeRx tile c s

/-- Take a cell that came over the twin link. -/
def takeTwin (c : Cell) (s : State) : Option State :=
  match takeRx 128 c s with
  | some s => some s
  | none => takeRx 129 c s

/-- Queue a cell for the twin: on the half that is UP and has less waiting, half 0 first (R317, R355). A control cell that finds the twin reserve used
up is dropped with 0x0210 (R275, R283); the cells of a COPY pass stand in HBM until they are sent (log entry 62). -/
def sendTwin (c : Cell) (s : State) : State :=
  let a := s.port 128
  let b := s.port 129
  let n := if a.st = .up && (b.st ≠ .up || a.ctlQ.length + a.unsQ.length ≤ b.ctlQ.length + b.unsQ.length) then 128 else 129
  if c.cls = clsUns then s.updPort n (fun p => { p with unsQ := p.unsQ ++ [c] })
  else if (s.port n).ctlQ.length + (s.port n).mgmtQ.length ≥ ctlLimit n then logCode 0x0210 (unitTile (n % 128)) s
  else s.updPort n (fun p => { p with ctlQ := p.ctlQ ++ [c] })

/-- The tile's island is being reset or failed its self-test, or its tile is moving: cells for it are dropped (R430, R446, R450). -/
def tileDown (s : State) (tile : Nat) : Bool :=
  (match (s.dev.place[tile]?).join with
    | some p => s.dev.resetting.contains p || s.dev.failed.contains p
    | none => true) || s.dev.moves.any (·.tile = tile)

end Sys2Proof.Machine
end

