-- ==== Sys2Proof/Machine/Insn.lean ====
section
/-! DEFINITION. Fields of engine instructions, bindings and collective entries; queue ends; the skip log; and the completion of
an instruction (05 Table CO-2, 08). -/

namespace Sys2Proof.Machine

/-! ### Instruction fields (Table TP-5) -/

def iBits (i : DWord) (lo n : Nat) : Nat := bitsN i.toNat lo n
def iOpc (i : DWord) : Nat := iBits i 59 5
def iNd (i : DWord) : Bool := i.getLsbD 58
def iBind (i : DWord) : Nat := iBits i 52 6
def iSrc (i : DWord) : Nat := iBits i 46 6
def iDst (i : DWord) : Nat := iBits i 40 6
def iAcc (i : DWord) : Nat := iBits i 29 11
/-- CNT holds the count minus 1 (R208). -/
def iCnt (i : DWord) : Nat := iBits i 17 12 + 1
def iMod (i : DWord) (lo n : Nat) : Nat := iBits i lo n

def qNone : Nat := 0x3F
def isIq (q : Nat) : Bool := q < 0x10
def isVq (q : Nat) : Bool := 0x10 ≤ q && q < 0x18
def isMq (q : Nat) : Bool := 0x18 ≤ q && q < 0x1C
def isAp01 (q : Nat) : Bool := q = 0x1C || q = 0x1D
def isAp2 (q : Nat) : Bool := q = 0x1E
def isAp3 (q : Nat) : Bool := q = 0x1F
def isOq (q : Nat) : Bool := 0x20 ≤ q && q < 0x28

/-- The command queues an instruction enters (Table TP-1). DESIGN CHOICE: an ORTHO, whose MOD has no ARRAY field, enters that of array 0 (log entry 57);
a reserved opcode and a BARRIER with no MASK, which name none, are found illegal
at the head of the VE queue (log entry 30). -/
def cqsOf (i : DWord) : List Nat :=
  match iOpc i with
  | 0x00 => [iMod i 14 3]
  | 0x01 => if iMod i 9 8 = 0 then [1] else (List.range 8).filter (fun k => bitN (iMod i 9 8) k)
  | 0x02 => [iMod i 14 3]
  | 0x03 => [1]
  | 0x04 => [0] | 0x05 => [0] | 0x06 => [0] | 0x07 => [0] | 0x08 => [0]
  | 0x09 => [2 + iMod i 7 2]
  | 0x0A => [2 + iMod i 7 2]
  | 0x0B => [1] | 0x0C => [1] | 0x0D => [1]
  | 0x0E => [2]
  | 0x0F => [1]
  | 0x10 => [7] | 0x11 => [7]
  | 0x12 => [6] | 0x13 => [6]
  | _ => [1]

/-- The local binding an instruction names: none for NOP, BARRIER without GRP, and a WAIT for FLAG or DECIDED (log entry 25). -/
def bindName (i : DWord) : Option Nat :=
  match iOpc i with
  | 0x00 => none
  | 0x01 => if iMod i 8 1 = 1 then some (iBind i) else none
  | 0x02 => if iMod i 11 3 = 1 || iMod i 11 3 = 2 then some (iBind i) else none
  | _ => some (iBind i)

/-! ### Bindings (Table TP-3) -/

def bF (b : BitVec 256) (lo n : Nat) : Nat := bitsN b.toNat lo n
def bColl (b : BitVec 256) : Nat := bF b 0 12
def bRole (b : BitVec 256) : Nat := bF b 16 4
def bIq (b : BitVec 256) : Nat := bF b 24 4
def bEn (b : BitVec 256) : Bool := b.getLsbD 31
def bReport (b : BitVec 256) : Bool := b.getLsbD 32
def bNparts (b : BitVec 256) : Nat := bF b 40 7 + 1
def bWspan (b : BitVec 256) : Nat := bF b 48 16
def bCdir (b : BitVec 256) : Nat := bF b 64 16
def bNchunk (b : BitVec 256) : Nat := bF b 80 16
def bOrows (b : BitVec 256) : Nat := bF b 96 16
def bOcols (b : BitVec 256) : Nat := bF b 112 16
def bGbase (b : BitVec 256) : Nat := bF b 128 8
def bGsize (b : BitVec 256) : Nat := bF b 136 4 + 1
def bGidx (b : BitVec 256) : Nat := bF b 140 4

def roleIngress : Nat := 0
def roleHome : Nat := 1
def roleStage : Nat := 2
def roleEgress : Nat := 3
def roleGroup : Nat := 4
def roleVerdict : Nat := 5

/-- The binding at a job's local index on a tile. -/
def TileS.binding (x : TileS) (slot k : Nat) : Option (BitVec 256) :=
  let tj := x.job slot
  if k < tj.nbind then (tj.bslots[k]?).map (fun p => Tbl.get 0 x.bind p) else none

/-- A binding's chunk directory: chunk numbers and state ordinals (R207). -/
def TileS.dirEnt (x : TileS) (slot : Nat) (b : BitVec 256) (n : Nat) : DWord :=
  Tbl.get 0 x.cdir (2 ^ 17 * slot + bCdir b + n)
def TileS.dir (x : TileS) (slot : Nat) (b : BitVec 256) : List (Nat × Nat) :=
  (List.range (bNchunk b)).map (fun n => (bitsN (x.dirEnt slot b n).toNat 0 20, bitsN (x.dirEnt slot b n).toNat 20 24))

/-- The directory ordinal of a chunk. -/
def TileS.dirOrd (x : TileS) (slot : Nat) (b : BitVec 256) (chunk : Nat) : Option Nat :=
  (List.range (bNchunk b)).find? (fun n => bitsN (x.dirEnt slot b n).toNat 0 20 = chunk)

/-- Local indices and bindings of a job on a tile. -/
def TileS.bindings (x : TileS) (slot : Nat) : List (Nat × BitVec 256) :=
  (List.range (x.job slot).nbind).filterMap (fun k => (x.binding slot k).map (fun b => (k, b)))

/-! ### Collective entries (Table CO-2) -/

def Entry.launched (e : Entry) : Bool := e.cfg.getLsbD 24
def Entry.sr (e : Entry) : Bool := e.cfg.getLsbD 25
def Entry.rowstat (e : Entry) : Bool := e.cfg.getLsbD 26
def Entry.rowScope (e : Entry) : Bool := e.cfg.getLsbD 27
def Entry.cfmt (e : Entry) : Nat := e.f 32 4
def Entry.rfmt (e : Entry) : Nat := e.f 36 4
def Entry.cshift (e : Entry) : Nat := e.f 40 4
def Entry.fuse (e : Entry) : Nat := e.f 44 4
def Entry.tau (e : Entry) : Nat := e.f 48 8
def Entry.k (e : Entry) : Nat := e.f 56 8
def Entry.plan (e : Entry) : Nat := e.f 64 32
def Entry.tensor (e : Entry) : Nat := e.f 96 24
def Entry.elems (e : Entry) : Nat := e.f 128 32
def Entry.rowlen (e : Entry) : Nat := e.f 160 24 + 1
def Entry.scalar (e : Entry) : Nat := e.f 192 32
def Entry.m (e : Entry) : Nat := e.f 224 18 + 1
def Entry.late (e : Entry) : Nat := e.f 256 32
def Entry.mlist (e : Entry) : Nat := 64 * e.f 288 32
def Entry.hmap (e : Entry) : Nat := 64 * e.f 320 32
def Entry.homes (e : Entry) : Nat := e.f 352 12 + 1
def Entry.mgroup (e : Entry) : Nat := e.f 368 14
def Entry.cgroup (e : Entry) : Nat := e.f 384 14
def Entry.escal (e : Entry) : Nat := e.f 400 16
def Entry.block (e : Entry) : Nat := e.f 416 16
def Entry.period (e : Entry) : Nat := e.f 432 16
def Entry.phase (e : Entry) : Nat := e.f 448 16
def Entry.launcher (e : Entry) : Nat := e.f 464 18
def Entry.domain (e : Entry) : Nat := e.f 512 40
def Entry.depoch (e : Entry) : Nat := e.f 576 32

/-- Window plan word (Table XR-1). -/
def planWtop (p : Nat) : Int := let v := bitsN p 24 8
                               if v ≥ 128 then (v : Int) - 256 else v
def planW (p : Nat) : Nat := match bitsN p 22 2 with
  | 0 => 32
  | 1 => 48
  | _ => 64
def planAuto (p : Nat) : Bool := bitN p 21
def planMargin (p : Nat) : Nat := bitsN p 16 4

def opRum : Nat := 5
def isSumming (op : Nat) : Bool := op = 0 || op = 1 || op = 5 || op = 0xC
def isSelecting (op : Nat) : Bool := op = 6 || op = 7 || op = 0xD || op = 0xE
def isMetric (op : Nat) : Bool := 0xC ≤ op && op ≤ 0xE

/-- Elements of a chunk, chunks and segments of the tensor (R78, R106). -/
def Entry.chunkElems (e : Entry) : Nat := 192 * 2 ^ e.cshift
/-- Elements of the summed tensor: the projected tensor of R188 where the instance is projected. -/
def Entry.sumElems (e : Entry) : Nat := if e.rank = 0 then e.elems else e.elems / e.rowlen * e.rank
def Entry.nchunks (e : Entry) : Nat := if e.op = 0xB then 1 else (e.sumElems + e.chunkElems - 1) / e.chunkElems
def Entry.nsegs (e : Entry) : Nat := (e.sumElems + 191) / 192

/-- A member list record (R104): rank, device, port. -/
def memberRec (x : Job) (e : Entry) (i : Nat) : Nat × Nat × Nat :=
  let r := leNat (x.control.readN (e.mlist + 8 * i) 8)
  (bitsN r 0 18, bitsN r 18 12, bitsN r 30 7)

/-- The home device of chunk j (R108). -/
def hmapDev (x : Job) (e : Entry) (j : Nat) : Nat := bitsN (leNat (x.control.readN (e.hmap + 2 * (j % e.homes)) 2)) 0 12

/-- The home tile of chunk j (R108). -/
def homeTile (tag coll j : Nat) : Nat :=
  let x : Word := BitVec.ofNat 32 (coll * 2 ^ 20 + j)
  let x := x ^^^ (BitVec.ofNat 32 tag * 0x9E3779B9)
  let x := x ^^^ (x >>> 16)
  let x := x * 0x85EBCA6B
  let x := x ^^^ (x >>> 13)
  bitsN x.toNat 25 7

/-- Home chunks of this device. -/
def homeChunks (s : State) (x : Job) (e : Entry) : List Nat :=
  if !(isSumming e.op || isSelecting e.op || e.op = 0xB) then []
  else (List.range e.nchunks).filter (fun j => hmapDev x e j = s.dev.id.toNat)

/-- Members whose ports are on this device: position, rank and port. -/
def localMembers (s : State) (x : Job) (e : Entry) : List (Nat × Nat × Nat) :=
  (List.range e.m).filterMap (fun i =>
    let (r, d, p) := memberRec x e i
    if d = s.dev.id.toNat then some (i, r, p) else none)

/-- The running instance of a job's entry. -/
def State.inst? (s : State) (slot coll : Nat) : Option Inst :=
  let e := (s.job slot).entry coll
  if e.status.toNat = stRunning then e.inst else none

def State.updInst (slot coll : Nat) (f : Inst → Inst) (s : State) : State :=
  s.updJob slot (fun x => x.updEntry coll (fun e => { e with inst := e.inst.map f }))

def Inst.part (i : Inst) (tile : Nat) : Part := Tbl.get Part.reset i.parts tile
def Inst.updPart (tile : Nat) (f : Part → Part) (i : Inst) : Inst := { i with parts := Tbl.upd Part.reset i.parts tile f }

/-- Change what a tile adds to the device STAT of an instance. -/
def addPart (slot coll tile : Nat) (f : Part → Part) (s : State) : State := s.updInst slot coll (Inst.updPart tile f)

/-- A status cause found on a tile: for the instance, and for the tile's part with its first reason (R120, R214). -/
def tileCause (slot coll tile st code : Nat) (s : State) : State :=
  addPart slot coll tile (fun p => if p.status.toNat < st then { p with status := BitVec.ofNat 4 st, reason := BitVec.ofNat 16 code } else p)
    (raiseInst slot coll st code s)

/-- A saturation flag of an instance, found on a tile (R65). -/
def setSat (slot coll tile : Nat) (on : Bool) (s : State) : State :=
  if on then addPart slot coll tile (fun p => { p with sat := true }) s else s

/-- Count the conversion events of a tile's job (R42). -/
def countEv (tile slot : Nat) (ev : Ev) (s : State) : State :=
  ([(0x00, ev.nan), (0x08, ev.inf), (0x10, ev.flush), (0x18, ev.sat), (0x20, ev.tb2), (0x28, ev.neg), (0x30, ev.wmin)] :
    List (Nat × Nat)).foldl (fun s q => if q.2 = 0 then s else bump (jobCtr tile slot q.1) q.2 s) s

/-- NaN and infinity counts that reach STAT (R42). -/
def statEv (slot coll tile : Nat) (ev : Ev) (s : State) : State :=
  if ev.nan + ev.inf = 0 then s
  else addPart slot coll tile (fun p => { p with nan := min 0xFFFFFFFF (p.nan + ev.nan), inf := min 0xFFFFFFFF (p.inf + ev.inf) }) s

/-! ### The program image (R222) -/

/-- n bytes of a job's image on a tile, as a number. -/
def TileS.imgN (x : TileS) (slot off n : Nat) : Nat :=
  let u := (x.job slot).progUnits
  leNat ((List.range n).map (fun k => x.prog.read (1024 * (u.getD ((off + k) / 1024) 0) + (off + k) % 1024)))

/-- Instruction k and trigger k of the image. -/
def TileS.imgInsn (x : TileS) (slot k : Nat) : DWord :=
  let t := x.job slot
  BitVec.ofNat 64 (x.imgN slot (64 + 32 * t.nbind + 16 * t.ntrig + 8 * k) 8)
def TileS.imgTrig (x : TileS) (slot k : Nat) : BitVec 128 :=
  BitVec.ofNat 128 (x.imgN slot (64 + 32 * (x.job slot).nbind + 16 * k) 16)

/-! ### Windows and working sets in accumulator tiles (R94, R206; log entry 32) -/

/-- The tile of a window for a segment (R206): none where the chunk has no directory entry. -/
def windowTile (x : TileS) (slot : Nat) (b : BitVec 256) (e : Entry) (acc seg : Nat) : Option Nat :=
  if bNchunk b = 0 then (if bWspan b = 0 then none else some (acc + seg % bWspan b))
  else
    let per := 2 ^ e.cshift
    (x.dirOrd slot b (seg / per)).map (fun n => acc + n * per + seg % per)

/-- The window base that the image's instructions give a binding (R206). -/
def windowBase (x : TileS) (slot bind : Nat) : Option Nat :=
  (List.range (x.job slot).ninsn).findSome? (fun n =>
    let i := x.imgInsn slot n
    if iBind i = bind && 4 ≤ iOpc i && iOpc i ≤ 9 && (isAp01 (iDst i) || isAp2 (iDst i)) then some (iAcc i) else none)

/-- n bytes at a byte offset of a run of accumulator tiles: within one 12-byte element. -/
def accN (x : TileS) (a off n : Nat) : Nat :=
  bitsN (Tbl.get 0 (x.acc (a + off / 2304)).elems (off % 2304 / 12)).toNat (8 * (off % 12)) (8 * n)
def setAccN (tile a off n v : Nat) (s : State) : State :=
  s.updTile tile (fun x => x.updAcc (a + off / 2304) (fun y => { y with elems := Tbl.upd 0 y.elems (off % 2304 / 12) (fun w =>
    w - (w.extractLsb' (8 * (off % 12)) (8 * n)).setWidth 96 <<< (8 * (off % 12)) + BitVec.ofNat 96 (v % 2 ^ (8 * n) * 2 ^ (8 * (off % 12)))) }))

/-! ### Queue ends (Table TP-2) -/

/-- Physical queue of a job's local queue name (R201). -/
def TJob.iqOf (t : TJob) (q : Nat) : Option Nat := if isIq q then t.iq[q]? else none
def TJob.vqOf (t : TJob) (q : Nat) : Option Nat := if isVq q then t.vq[q - 0x10]? else none
def TJob.oqOf (t : TJob) (q : Nat) : Option Nat := if isOq q then t.oq[q - 0x20]? else none

def iqCells (s : State) (tile p : Nat) : List QCell := Tbl.get [] (s.tile tile).iqs p

/-- Entries of a vector queue or matrix feed. -/
def entsOf (s : State) (tile slot q : Nat) : List Ent :=
  if isMq q then Tbl.get [] (s.tile tile).mqs (q - 0x18)
  else match ((s.tile tile).job slot).vqOf q with
    | some p => Tbl.get [] (s.tile tile).vqs p
    | none => []

def setEnts (tile slot q : Nat) (l : List Ent) (s : State) : State :=
  if isMq q then s.updTile tile (fun x => { x with mqs := Tbl.set [] x.mqs (q - 0x18) l })
  else match ((s.tile tile).job slot).vqOf q with
    | some p => bumpMax (tileCtr tile (0x300 + 8 * p)) l.length (s.updTile tile (fun x => { x with vqs := Tbl.set [] x.vqs p l }))
    | none => s

/-- Free places of a vector queue, matrix feed or output queue. -/
def roomOf (s : State) (tile slot q : Nat) : Nat :=
  if isOq q then
    match ((s.tile tile).job slot).oqOf q with
    | some p => 64 - (Tbl.get [] (s.tile tile).oqs p).length
    | none => 0
  else 16 - (entsOf s tile slot q).length

def pushEnts (tile slot q : Nat) (l : List Ent) (s : State) : State :=
  profEvent 0x08 tile (some slot) ((l.filter (·.void)).length) (setEnts tile slot q (entsOf s tile slot q ++ l) s)

def popEnts (tile slot q n : Nat) (s : State) : State := setEnts tile slot q ((entsOf s tile slot q).drop n) s

/-- Pop n cells of a physical input queue: their buffers are freed. -/
def popIq (tile p n : Nat) (slot : Nat) (s : State) : State :=
  let cells := iqCells s tile p
  let s := s.updTile tile (fun x => { x with iqs := Tbl.set [] x.iqs p (cells.drop n) })
  let s := profEvent 0x05 tile (some slot) (min n cells.length) s
  bump (tileCtr tile 0x050) (112 * min n cells.length) ((cells.take n).foldl (fun s c => freeBuf tile c.buf s) s)

/-! ### What an instruction pops and pushes (Table TP-6, R208) -/

/-- The collective of an instruction's binding, and the binding. -/
def bindingOf (s : State) (tile slot : Nat) (i : DWord) : BitVec 256 := ((s.tile tile).binding slot (iBind i)).getD 0

/-- Entries per unit of a conversion between two entry sizes: sources popped and destinations pushed. -/
def groupIn (a b : Nat) : Nat := Nat.lcm a b / a
def groupOut (a b : Nat) : Nat := Nat.lcm a b / b

/-- What one unit of an instruction pops and pushes: units, entries popped in each group, entries pushed for a group one by one. -/
structure Plan where
  groups : Nat
  popN : Nat
  pushN : Nat
  deriving DecidableEq, Repr

def Plan.units (p : Plan) : Nat := p.groups * max 1 p.pushN

def qntPlan (s : State) (tile slot : Nat) (c : CqEnt) : Plan :=
  let i := c.insn
  if isVq (iDst i) then
    let e := (s.job slot).entry (bColl (bindingOf s tile slot i))
    let a := fmtElems e.cfmt
    let d := 768 / planW e.plan
    ⟨(iCnt i + groupIn a d - 1) / groupIn a d, groupIn a d, groupOut a d⟩
  else ⟨iCnt i, 1, 0⟩

def onePlan (c : CqEnt) : Plan := ⟨iCnt c.insn, 1, 0⟩

/-- Entries of a drained tile. -/
def drainPer (e : Entry) (dfmt : Nat) : Nat := if isSelecting e.op then 24 else 192 / fmtElems dfmt

def cvtPlan (s : State) (tile slot : Nat) (c : CqEnt) : Plan :=
  let i := c.insn
  if isAp3 (iDst i) then ⟨iCnt i, 1, 0⟩
  else if isAp3 (iSrc i) then ⟨iCnt i, 0, drainPer ((s.job slot).entry (bColl (bindingOf s tile slot i))) (iMod i 9 4)⟩
  else
    let a := fmtElems (iMod i 13 4)
    let d := fmtElems (iMod i 9 4)
    ⟨(iCnt i + groupIn a d - 1) / groupIn a d, groupIn a d, groupOut a d⟩

def elemPlan (c : CqEnt) : Plan := ⟨iCnt c.insn, 0, 8⟩

/-- A segment pops the eight FP32 entries of a drained tile, and pushes eight. -/
def optPlan (c : CqEnt) : Plan := ⟨iCnt c.insn, if isVq (iSrc c.insn) then 8 else 0, if isVq (iDst c.insn) then 8 else 0⟩

/-! ### Reconstruction (R190) -/

/-- r and qshift of PROJ and RECON. -/
def projRank (i : DWord) : Nat := 2 ^ iMod i 14 3
def qshift (i : DWord) : Nat := iMod i 9 5

/-- Elements of G that an entry of P rows covers: first, and one past the last. -/
def gSpan (e : Entry) (r : Nat) (v : Ent) : Nat × Nat := (v.idx.toNat / r * e.rowlen, (v.idx.toNat + v.valid) / r * e.rowlen)

/-- The spans of G that entries cover as far as each follows the one before; a VOID entry stands for the 48 elements of P that come next. -/
def spansFrom (e : Entry) (r : Nat) : Nat → List Ent → List (Nat × Nat)
  | _, [] => []
  | k, v :: vs =>
    let q := if v.void then (k, k + 48 / r * e.rowlen) else gSpan e r v
    if q.1 = k then q :: spansFrom e r q.2 vs else []

/-- The next tile of Ĝ: its first element of G, its element count, the entries that it reads, and those that are used up with it. -/
structure GTile where
  first : Nat
  count : Nat
  reads : Nat
  used : Nat
  deriving DecidableEq, Repr

def nextTile (s : State) (tile slot : Nat) (i : DWord) (e : Entry) (vs : List Ent) : Option GTile :=
  let r := projRank i
  let per := 48 / r * e.rowlen
  match vs.head? with
  | none => none
  | some v =>
    let cur := Tbl.get 0 ((s.tile tile).job slot).ghat (iBind i)
    let h := if v.void then (cur / per * per, cur / per * per + per) else gSpan e r v
    let first := if h.1 ≤ cur && cur < h.2 then cur else h.1
    let last := min (first + 192) e.elems
    let spans := spansFrom e r h.1 vs
    if spans.all (fun q => q.2 < last) then none
    else some ⟨first, last - first, (spans.takeWhile (fun q => q.1 < last)).length, (spans.takeWhile (fun q => q.2 ≤ last)).length⟩

/-! ### The ORTHO group (R192) -/

/-- An ORTHO block as a tile of its group holds it: r and c after transposition, rows of a band, this band's rows. -/
structure Block where
  r : Nat
  c : Nat
  per : Nat
  size : Nat
  g : Nat
  base : Nat
  deriving DecidableEq, Repr

def blockOf (b : BitVec 256) : Block :=
  let r := min (bOrows b) (bOcols b)
  ⟨r, Nat.max (bOrows b) (bOcols b), (r + bGsize b - 1) / bGsize b, bGsize b, bGidx b, bGbase b⟩

/-- Rows of the band of group tile g. -/
def Block.rowsOf (k : Block) (g : Nat) : Nat := min k.r ((g + 1) * k.per) - g * k.per
def Block.rows (k : Block) : Nat := k.rowsOf k.g

/-- Columns of the matrix whose bands a phase streams: x has c, a and b have r (R191). -/
def Block.width (k : Block) (phase : Nat) : Nat := if phase = 1 then k.r else k.c

/-- Cells that carry a tile's band, 48 BF16 elements each (log entry 32). -/
def Block.bandCells (k : Block) (phase h : Nat) : Nat := (k.rowsOf h * k.width phase + 47) / 48

/-- Band cells that tiles before h send, in the sequence that carries the matrix. -/
def Block.cellsBefore (k : Block) (phase h : Nat) : Nat := ((List.range h).map (k.bandCells phase)).sum

/-- Band cells that come from the other tiles of the group. -/
def Block.foreign (k : Block) (phase : Nat) : Nat := k.cellsBefore phase k.size - k.bandCells phase k.g

/-- The units of an ORTHO: its own band sent, each foreign band cell popped, each band row formed. -/
def orthoPlan (s : State) (tile slot : Nat) (c : CqEnt) : Plan :=
  ⟨1 + (blockOf (bindingOf s tile slot c.insn)).foreign (iMod c.insn 15 2) + iCnt c.insn, 1, 0⟩

/-- Unit g of an instruction pops from its source: of an ORTHO, the units between its first and its rows. -/
def popsAt (s : State) (tile slot : Nat) (i : DWord) (g : Nat) : Bool :=
  iOpc i ≠ 0x0E || (1 ≤ g && g ≤ (blockOf (bindingOf s tile slot i)).foreign (iMod i 15 2))

/-- The plan of an instruction that pops a queue (R200). -/
def planOf (s : State) (tile slot : Nat) (c : CqEnt) : Plan :=
  match iOpc c.insn with
  | 0x03 => cvtPlan s tile slot c
  | 0x04 => qntPlan s tile slot c
  | 0x0D => optPlan c
  | 0x0E => orthoPlan s tile slot c
  | 0x05 => onePlan c | 0x06 => onePlan c | 0x07 => onePlan c | 0x08 => onePlan c | 0x09 => onePlan c
  | 0x0F => onePlan c | 0x12 => onePlan c | 0x13 => onePlan c
  | _ => ⟨0, 0, 0⟩

/-- A void entry of a binding. -/
def voidEnt (bind : Nat) : Ent := ⟨0, 0, BitVec.ofNat 6 bind, 0, 0, 0, 0, false, none, 0, 0, false, true⟩

/-! ### The skip log and completion (R214 to R216, R462) -/

/-- A skip-log record (R216). -/
def skipRec (insn : DWord) (lop : Word) (code slot : Nat) (illegal : Bool) : BitVec 128 :=
  BitVec.ofNat 128 (insn.toNat + lop.toNat * 2 ^ 64 + code % 65536 * 2 ^ 96 + slot % 256 * 2 ^ 112 + b2n illegal * 2 ^ 120)

/-- Log a skip: the skip log, its counters, the event, and the instance of the binding (R214, R216). -/
def logSkip (tile slot : Nat) (e : CqEnt) (code : Nat) (illegal : Bool) (s : State) : State :=
  let full := (s.tile tile).skips.length ≥ 32
  let s := s.updTile tile (fun x => { x with
    skips := (skipRec e.insn e.lop code slot illegal :: x.skips).take 32
    tpskip := if x.tpskip = 0xFFFFFFFF then x.tpskip else x.tpskip + 1 })
  let s := bump (tileCtr tile 0x090) 1 (bump (jobCtr tile slot 0x48) 1 s)
  let s := if full then bump (tileCtr tile 0x0A0) 1 s else s
  let s := logEv code (unitTile tile) (bitsN e.lop.toNat 16 16) (bitsN e.lop.toNat 0 16) s
  match (bindName e.insn).bind ((s.tile tile).binding slot) with
  | some b => if (s.inst? slot (bColl b)).isSome then tileCause slot (bColl b) tile stIncomplete code s else s
  | none => s

/-- The head of a job's command queue. -/
def cqHead (s : State) (tile slot q : Nat) : Option CqEnt := (Tbl.get [] ((s.tile tile).job slot).cqs q).head?

def updHead (tile slot q : Nat) (f : CqEnt → CqEnt) (s : State) : State :=
  s.updTile tile (fun x => x.updJob slot (fun t => { t with
    cqs := Tbl.upd [] t.cqs q (fun l => match l with
      | [] => []
      | e :: r => f e :: r) }))

/-! ### Dispatch into the command queues (R198, R221, R223, R227) -/

/-- An instruction enters its command queues. -/
def enqueue (tile : Nat) (d : Disp) (s : State) : State :=
  s.updTile tile (fun x => x.updJob d.slot (fun t =>
    let e : CqEnt := ⟨d.insn, d.lop, t.orders, d.bad, 0, false, false⟩
    { t with
      orders := t.orders + 1
      lastDone := (cqsOf d.insn).foldl (fun l q => if (Tbl.get [] t.cqs q).isEmpty then Tbl.set 0 l q s.time else l) t.lastDone
      cqs := (cqsOf d.insn).foldl (fun c q => Tbl.upd [] c q (· ++ [e])) t.cqs }))

/-- Every queue of an instruction has room. -/
def hasRoom (s : State) (tile : Nat) (d : Disp) : Bool :=
  (cqsOf d.insn).all (fun q => (Tbl.get [] ((s.tile tile).job d.slot).cqs q).length < 32)

/-- Instructions that wait for room go on in order, as far as there is room (R223). -/
def pumpQueues : Nat → Nat → State → State
  | 0, _, s => s
  | k + 1, tile, s =>
    match (s.tile tile).dispatchQ with
    | [] => s
    | d :: rest =>
      if hasRoom s tile d then pumpQueues k tile (enqueue tile d (s.updTile tile (fun x => { x with dispatchQ := rest }))) else s
def pumpTile (tile : Nat) (s : State) : State := pumpQueues (s.tile tile).dispatchQ.length tile s

/-- Dispatch the instructions of one write after those that wait already. -/
def dispatch (tile : Nat) (ds : List Disp) (s : State) : State :=
  pumpTile tile (s.updTile tile (fun x => { x with dispatchQ := x.dispatchQ ++ ds.zipIdx.map (fun d => { d.1 with head := d.2 = 0 }) }))

/-- The writes whose instructions wait: the first eight stand in the dispatch queue; a ninth stalls the pilot core (R227). -/
def Disp.writes : List Disp → Nat
  | [] => 0
  | _ :: ds => 1 + (ds.filter (·.head)).length

/-- Instructions of the write at hand, and of the next k writes. -/
def Disp.nextWrites : Nat → List Disp → List Disp
  | _, [] => []
  | 0, d :: ds => if d.head then [] else d :: Disp.nextWrites 0 ds
  | k + 1, d :: ds => if d.head then d :: Disp.nextWrites k ds else d :: Disp.nextWrites (k + 1) ds

/-- Instructions of the first n + 1 writes. -/
def Disp.firstWrites (n : Nat) : List Disp → List Disp
  | [] => []
  | d :: ds => d :: Disp.nextWrites n ds

/-- The pilot core is stalled. -/
def stalled (x : TileS) : Bool := 8 < Disp.writes x.dispatchQ

/-- An instruction completes: it leaves its queue; counters and attribution count it (R462). -/
def completeHead (tile slot q : Nat) (e : CqEnt) (s : State) : State :=
  let s := pumpTile tile (s.updTile tile (fun x => x.updJob slot (fun t => { t with
    cqs := Tbl.upd [] t.cqs q List.tail, lastDone := Tbl.set 0 t.lastDone q s.time })))
  let s := bump (jobCtr tile slot 0x68) 1 s
  charge (s.job slot).tag.toNat (bitsN e.lop.toNat 16 16) (bitsN e.lop.toNat 0 16) 1 0 0 s

/-- Charge accumulator bytes read and written by an instruction (Table OB-3, R462). -/
def chargeAcc (tile slot : Nat) (e : CqEnt) (rd wr : Nat) (s : State) : State :=
  let s := bump (tileCtr tile 0x040) rd (bump (tileCtr tile 0x048) wr s)
  charge (s.job slot).tag.toNat (bitsN e.lop.toNat 16 16) (bitsN e.lop.toNat 0 16) 0 (rd + wr) 0 s

/-- Charge HBM bytes moved for an instruction. -/
def chargeHbm (tile slot : Nat) (e : CqEnt) (rd wr : Nat) (s : State) : State :=
  let s := bump (tileCtr tile 0x060) rd (bump (tileCtr tile 0x068) wr s)
  let s := bump (devCtr (0x40 * (tile / 32))) rd (bump (devCtr (0x40 * (tile / 32) + 8)) wr s)
  charge (s.job slot).tag.toNat (bitsN e.lop.toNat 16 16) (bitsN e.lop.toNat 0 16) 0 0 (rd + wr) s

/-! ### Discarded instructions (R217) -/

/-- The entries that n counted ones are: the parts of an escalated cell count as one (R209). -/
def countedLen : Nat → List Ent → Nat
  | 0, _ => 0
  | _ + 1, [] => 0
  | n + 1, v :: l => if v.esc = some 0 then v.part + countedLen n (l.drop (v.part - 1)) else 1 + countedLen n l

/-- The entries of P that a RECON would use for its next k tiles leave its source. -/
def reconPops (tile slot : Nat) (i : DWord) : Nat → State → State
  | 0, s => s
  | k + 1, s =>
    let b := bindingOf s tile slot i
    match nextTile s tile slot i ((s.job slot).entry (bColl b)) (entsOf s tile slot (iSrc i)) with
    | none => s
    | some t => reconPops tile slot i k (popEnts tile slot (iSrc i) t.used (s.updTile tile (fun y => y.updJob slot (fun z =>
        { z with ghat := Tbl.set 0 z.ghat (iBind i) (t.first + t.count) }))))

/-- Counted cells or entries that an instruction has still to pop: those of the groups that it has not finished, of ORTHO the band cells left. -/
def popsLeft (s : State) (tile slot : Nat) (e : CqEnt) : Nat :=
  let p := planOf s tile slot e
  let k := e.done / max 1 p.pushN
  if iOpc e.insn = 0x0E then (blockOf (bindingOf s tile slot e.insn)).foreign (iMod e.insn 15 2) - (k - 1)
  else if iOpc e.insn = 0x03 || iOpc e.insn = 0x04 then (if p.popN = 0 then 0 else iCnt e.insn - p.popN * k)
  else p.popN * (p.groups - k)

/-- The cells and entries that a discarded instruction would still pop leave its source. -/
def discardSrc (tile slot : Nat) (e : CqEnt) (s : State) : State :=
  let q := iSrc e.insn
  match (bindName e.insn).bind ((s.tile tile).binding slot) with
  | none => s
  | some b =>
    if iOpc e.insn = 0x0A then reconPops tile slot e.insn (iCnt e.insn - e.done) s
    else
      let n := popsLeft s tile slot e
      match ((s.tile tile).job slot).iqOf q with
      | some p => popIq tile p (min n ((iqCells s tile p).takeWhile (fun c => c.cell.coll = bColl b)).length) slot s
      | none =>
        if isVq q || isMq q then
          popEnts tile slot q (countedLen n ((entsOf s tile slot q).takeWhile (fun x => x.bind.toNat = iBind e.insn))) s
        else s

/-- An OPT of a clip round that is executing: it completes though its instance has ended, and what it would write is abandoned (R162, R228). -/
def optRuns (e : CqEnt) : Bool := iOpc e.insn = 0x0D && iSrc e.insn = qNone && e.done ≠ 0 && !e.skipped

/-- Discard every queued instruction of a job on a tile that meets p; an OPT of a clip round that is executing completes. -/
def discardQueued (tile slot : Nat) (p : CqEnt → Bool) (s : State) : State :=
  let all := ((s.tile tile).job slot).cqs.flatMap (fun c => c.2)
  let out := all.filter p
  let s := out.foldl (fun s e => discardSrc tile slot e s) s
  let s := bump (jobCtr tile slot 0x58) (dedupNat ((out.filter (fun e => !optRuns e)).map (·.order))).length s
  let s := bump (jobCtr tile slot 0x68) (out.filter optRuns).length s
  pumpTile tile (s.updTile tile (fun x => x.updJob slot (fun t => { t with
    cqs := (List.range 8).foldl (fun c q => Tbl.upd [] c q (fun l => l.filter (fun e => !p e))) t.cqs })))

/-- The instruction names a binding of a collective. -/
def namesColl (x : TileS) (slot coll : Nat) (i : DWord) : Bool :=
  match (bindName i).bind (x.binding slot) with
  | some b => bColl b = coll
  | none => false

/-- Tiles of the device on which a job is loaded. -/
def jobTiles (s : State) (slot : Nat) : List Nat := (List.range 128).filter (fun n => ((s.tile n).job slot).loaded)

/-! ### Accumulator tiles at the end of an instance (R81, R123) -/

/-- One accumulator tile of an instance that is aborted or rejected (Tables AC-2, AC-3). -/
def abortAcc (tile a : Nat) (s : State) : State :=
  let x := s.tile tile
  let w := (x.acc a).tag
  if tagState w = accActive || tagState w = accSpilled then
    s.updTile tile (fun x => x.updAcc a (fun y => { Acc.reset with tag := retag accFree y.tag }))
  else if tagState w = accSpilling then
    s.updTile tile (fun x => { x with spilling := x.spilling.map (fun q => if q.1 = a then (q.1, q.2.1, q.2.2.1, true) else q) })
  else if tagState w = accResuming then
    s.updTile tile (fun x => { x with resuming := x.resuming.map (fun r => if r.acc = a then { r with drop := true } else r) })
  else s

/-- The tiles of an instance that meet p return to FREE on one logical tile; SAT goes to the instance's flag (R84). -/
def freeAccs (tile slot : Nat) (p : Word → Bool) (s : State) : State :=
  ((s.tile tile).accs.filter (fun a => tagState a.2.tag ≠ accFree && tagSlot a.2.tag = slot && p a.2.tag)).foldl (fun s a =>
    abortAcc tile a.1 (setSat slot (tagColl a.2.tag) tile (tagSat a.2.tag) s)) s

/-- The device address of a spill record (R89): logical tile and ordinal. -/
def spillKey (tile ord : Nat) : Nat := tile * 2 ^ 17 + ord

/-- Set VALID of a spill record to 0. -/
def invalidRec (r : List Byte) : List Byte := r.modify 11 (fun b => b &&& 0xFE)

/-- Invalidate the spill records of a job that meet p over their tag word (R90, R123). -/
def invalidateSpill (slot : Nat) (p : Word → Bool) (s : State) : State :=
  s.updJob slot (fun x => { x with spill := x.spill.map (fun e =>
    if p (BitVec.ofNat 32 (leNat (e.2.take 4))) then (e.1, invalidRec e.2) else e) })

end Sys2Proof.Machine
end

