-- ==== Sys2Proof/Machine/Foot.lean ====
section
/-! DEFINITION. What a job holds on the device and how it is given back: its image, events to tile programs, STAT cells, the end
of an instance, job reset, and a job's twin states (05, 06, 09, 13, 16 R430 and R431). -/

namespace Sys2Proof.Machine

/-! ### The state image (Table JB-4, R365) -/

def Job.u (x : Job) : Nat := x.steps.length
def Job.bankRec (x : Job) : Nat := 64 * (1 + (x.u + 7) / 8)
def Job.bankLen (x : Job) : Nat := if x.home then x.bankRec + 1216 * x.segs else 0
def Job.holdLen (x : Job) : Nat := if x.holdGrant then 768 * x.segs else 0
def Job.manRec (x : Job) : Nat := 64 + 4 * x.dc + 4 * x.ds

/-- Areas of the image, each 64-byte aligned: step block, HPARAM, entries, control, banks, hold, manifest. -/
inductive Area where
  | block | hparam | entries | control | bank0 | bank1 | hold | manifest
  deriving DecidableEq, Repr

def align64 (n : Nat) : Nat := (n + 63) / 64 * 64

def Job.areaLen (x : Job) : Area → Nat
  | .block => 64
  | .hparam => 64 * x.u
  | .entries => 128 * x.ids.length
  | .control => x.ctlLen
  | .bank0 => x.bankLen
  | .bank1 => x.bankLen
  | .hold => x.holdLen
  | .manifest => 8 * x.manRec

def areas : List Area := [.block, .hparam, .entries, .control, .bank0, .bank1, .hold, .manifest]

/-- Where an area begins in the image. -/
def Job.areaOff (x : Job) (a : Area) : Nat := ((areas.takeWhile (· ≠ a)).map (fun b => align64 (x.areaLen b))).sum
def Job.imageLen (x : Job) : Nat := (areas.map (fun b => align64 (x.areaLen b))).sum
def granule : Nat := 12288

/-- Granules of the image. -/
def Job.granules (x : Job) : List Nat := List.range ((x.imageLen + granule - 1) / granule)

/-- A write to n bytes of an area: dirty bits of its granules (R366). -/
def Job.touch (a : Area) (off n : Nat) (x : Job) : Job :=
  match x.dirty with
  | none => x
  | some d =>
    let lo := (x.areaOff a + off) / granule
    let hi := (x.areaOff a + off + n - 1) / granule
    if n = 0 then x
    else { x with dirty := some (((List.range (hi + 1)).filter (fun g => lo ≤ g && !d.contains g)) ++ d) }

/-- The commit word (Table UP-4). -/
def Job.commitWord (x : Job) : Nat := x.step.toNat * 2 ^ 24 + x.lsexp.toNat * 2 ^ 16 + x.clean.toNat

/-- The job step block as written last (Table UP-3, R142). -/
def Job.blockBytes (x : Job) : List Byte :=
  let (c, g, v) := x.blkNext.getD (x.clipmax, x.grow, x.vmargin)
  leBytes 8 x.commitWord ++ leBytes 4 c.toNat ++ leBytes 2 g.toNat ++ leBytes 2 v.toNat ++ List.replicate 48 0

/-- The 128 bytes of an entry: RW fields and, where asked, the RO fields (Table CO-2). -/
def Entry.bytes (ro : Bool) (e : Entry) : List Byte :=
  let rw := leBytes 80 ((e.next.getD e.cfg).toNat % 2 ^ 640)
  if ro then rw ++ leBytes 1 (e.epoch.toNat * 16 + e.status.toNat) ++ leBytes 1 0 ++ leBytes 2 e.reason.toNat ++ leBytes 4 e.stale.toNat ++
    leBytes 4 e.latec.toNat ++ leBytes 4 e.order.toNat ++ leBytes 4 e.shdrop.toNat ++ leBytes 4 e.escn.toNat ++ leBytes 4 e.escdeny.toNat ++
    leBytes 8 e.lastSeen ++ leBytes 12 0
  else rw ++ List.replicate 48 0

/-- Byte k of an area. -/
def Job.areaByte (x : Job) (a : Area) (k : Nat) : Byte :=
  match a with
  | .block => x.blockBytes.getD k 0
  | .hparam => (x.hparamNext.getD x.hparam).read k
  | .entries => match x.ids[k / 128]? with
    | some c => ((x.entry c.toNat).bytes false).getD (k % 128) 0
    | none => 0
  | .control => x.control.read k
  | .bank0 => x.bank0.read k
  | .bank1 => x.bank1.read k
  | .hold => x.gradHold.read k
  | .manifest => x.manifest.read k

/-- n bytes of an area from an offset. -/
def Job.areaBytes (x : Job) (a : Area) (off n : Nat) : List Byte := (List.range n).map (fun k => x.areaByte a (off + k))

/-- The job step block from 64 bytes. -/
def Job.setBlock (x : Job) (bs : List Byte) : Job :=
  let w := leNat bs
  { x with
    step := BitVec.ofNat 40 (bitsN w 24 40)
    lsexp := BitVec.ofNat 8 (bitsN w 16 8)
    clean := BitVec.ofNat 16 (bitsN w 0 16)
    clipmax := BitVec.ofNat 32 (bitsN w 64 32)
    grow := BitVec.ofNat 16 (bitsN w 96 16)
    vmargin := BitVec.ofNat 16 (bitsN w 112 16)
    blkNext := none }

/-- One byte of an area written. -/
def Job.setByte (a : Area) (k : Nat) (b : Byte) (x : Job) : Job :=
  match a with
  | .block => x.setBlock (x.blockBytes.set k b)
  | .hparam => { x with hparam := (x.hparamNext.getD x.hparam).write k b, hparamNext := none }
  | .entries => match x.ids[k / 128]? with
    | some c => if k % 128 ≥ 80 then x else x.updEntry c.toNat (fun e =>
        { e with cfg := BitVec.ofNat 1024 (leNat ((e.bytes false).set (k % 128) b)), next := none })
    | none => x
  | .control => { x with control := x.control.write k b }
  | .bank0 => { x with bank0 := x.bank0.write k b }
  | .bank1 => { x with bank1 := x.bank1.write k b }
  | .hold => { x with gradHold := x.gradHold.write k b }
  | .manifest => { x with manifest := x.manifest.write k b }

/-- Bytes of an area written, with their dirty bits. -/
def Job.writeArea (a : Area) (off : Nat) (bs : List Byte) (x : Job) : Job :=
  (bs.zipIdx.foldl (fun x q => x.setByte a (off + q.2) q.1) x).touch a off bs.length

/-! ### Events to tile programs (R222, R223) -/

/-- Put an event into a tile's FIFO; beyond 256 entries the source waits. -/
def pushEvent (tile slot ev bind arg : Nat) (s : State) : State :=
  let s := s.updTile tile (fun x => { x with evq := x.evq ++ [BitVec.ofNat 32 (ev * 2 ^ 28 + slot * 2 ^ 22 + bind * 2 ^ 16 + arg % 65536)] })
  bumpMax (tileCtr tile 0x508) (min 256 (s.tile tile).evq.length) s

/-- An event of an entry reaches every binding of it on a tile. -/
def tileEvent (tile slot coll ev arg : Nat) (s : State) : State :=
  ((s.tile tile).bindings slot).foldl (fun s b => if bColl b.2 = coll then pushEvent tile slot ev b.1 arg s else s) s

/-- An event of an entry reaches every binding of it on the device. -/
def jobEvent (slot coll ev arg : Nat) (s : State) : State :=
  (jobTiles s slot).foldl (fun s n => tileEvent n slot coll ev arg s) s

def evFire : Nat := 1
def evPass : Nat := 2
def evEnd : Nat := 3
def evCommit : Nat := 4
def evReject : Nat := 5
def evClip : Nat := 6

/-! ### Twin cells (Table TW-2) -/

/-- A control cell for the twin. -/
def twinCell (s : State) (kind sub : Nat) (pay : Payload) : Cell :=
  mkRouted clsCtl kind 0 0 0 0 s.dev.id.toNat 0 0 0 (sub * 2 ^ 34) pay

/-- JOBNOTE (Table TW-5). -/
def sendNote (tag note state start : Nat) (s : State) : State :=
  sendTwin (twinCell s kAck 3 (payOf (leBytes 2 (tag % 4096) ++ leBytes 1 note ++ leBytes 1 state ++ leBytes 6 start))) s

/-- XFER (Table TW-2). -/
def sendXfer (tag op : Nat) (s : State) : State := sendTwin (twinCell s kAck 4 (payOf (leBytes 2 tag ++ leBytes 1 op))) s

/-- The 16 bytes of a digest record (Table TW-4). -/
def digBytes (d : DigRec) : List Byte :=
  leBytes 2 d.job.toNat ++ leBytes 2 (d.coll.toNat + d.epoch.toNat * 4096) ++ leBytes 1 (d.tile.toNat + b2n d.round * 128) ++
  leBytes 1 (d.count.toNat + b2n d.fin * 128) ++ leBytes 2 d.group.toNat ++ leBytes 4 d.crc.toNat ++ leBytes 4 0

/-- Comparisons of a job are made: the device is MOORED and the job PAIRED (Table TW-6). -/
def compares (s : State) (slot : Nat) : Bool := s.twin.dst = .moored && (s.job slot).twin = .paired

/-- Send one digest record. -/
def sendDig (slot : Nat) (d : DigRec) (s : State) : State :=
  if compares s slot then sendTwin (twinCell s kAck 2 (payOf (digBytes d))) s else s

/-! ### The verdict tile and STAT cells (R17, R150, R211) -/

/-- The device of the verdict tile: the lowest of the job's home maps, or of its device set where it has none. -/
def verdictDev (x : Job) : Nat :=
  let devs := x.ids.flatMap (fun c =>
    let e := x.entry c.toNat
    if isSumming e.op || isSelecting e.op || e.op = 0xB then (List.range e.homes).map (fun j => hmapDev x e j) else [])
  match devs with
  | [] => ((x.devset.head?).map (·.toNat)).getD 0
  | d :: ds => ds.foldl Nat.min d

def verdictTile (x : Job) : Nat := x.tag.toNat % 128

/-- This device holds the job's verdict tile. -/
def isVerdict (s : State) (slot : Nat) : Bool := s.dev.idValid && verdictDev (s.job slot) = s.dev.id.toNat

/-- The combination of posts of R211. -/
def Part.join (a b : Part) : Part where
  nan := min 0xFFFFFFFF (a.nan + b.nan)
  inf := min 0xFFFFFFFF (a.inf + b.inf)
  ssq := a.ssq + b.ssq
  maxmag := Nat.max a.maxmag b.maxmag
  c := match a.c, b.c with
    | some x, some y => some (Nat.max x y)
    | some x, none => some x
    | none, y => y
  sat := a.sat || b.sat
  dig := a.dig || b.dig
  nfu := a.nfu || b.nfu
  home := a.home || b.home
  pcells := a.pcells + b.pcells
  digest := a.digest ^^^ b.digest
  status := if a.status.toNat < b.status.toNat then b.status else a.status
  reason := if a.status.toNat < b.status.toNat then b.reason else a.reason

def joinParts (l : Tbl Part) : Part := l.foldl (fun a p => a.join p.2) Part.reset

/-- The WLSB of an instance (R53). -/
def Inst.wlsb (i : Inst) : Int := i.wtop - i.w + 2

/-- The step number of the attempt (R135). -/
def Job.attemptStep (x : Job) : Nat := x.step.toNat + 1

/-- The missing field: the lowest missing rank, or none. -/
def missNone : Nat := 0x3FFFF

/-- The STAT payload (Table UP-8). -/
def statPay (coll epoch step : Nat) (p : Part) (missing : Nat) (wlsb : Int) : Payload :=
  payOf (leBytes 2 (coll + epoch * 4096) ++ leBytes 5 step ++
    leBytes 1 (p.status.toNat + 16 * b2n p.sat + 32 * b2n p.dig + 64 * b2n p.nfu + 128 * b2n p.home) ++
    leBytes 2 p.reason.toNat ++ leBytes 3 missing ++ leBytes 1 (p.c.getD 0xFF) ++ leBytes 2 (toW 16 wlsb) ++ leBytes 4 p.nan ++
    leBytes 4 p.inf ++ leBytes 20 p.ssq ++ leBytes 8 p.maxmag ++ leBytes 4 p.digest.toNat ++ leBytes 4 p.pcells)

/-- The tile whose binding reports an entry's STAT (Table TP-3), with its binding. -/
def reporter (s : State) (slot coll : Nat) : Option (Nat × BitVec 256) :=
  (jobTiles s slot).findSome? (fun n =>
    ((s.tile n).bindings slot).findSome? (fun b => if bColl b.2 = coll && bReport b.2 then some (n, b.2) else none))

/-- Send a STAT cell to the verdict tile: nothing while the job is OUT (R362) or replays (R169); COMPLETE while SERVING carries 0x0902 (R363). -/
def sendStat (slot coll epoch : Nat) (round : Bool) (p : Part) (missing : Nat) (wlsb : Int) (s : State) : State :=
  let x := s.job slot
  if x.away || x.replay.isSome then s
  else
    let p := if x.twin = .serving && p.status.toNat = stComplete then { p with reason := 0x0902 } else p
    let step := if (x.entry coll).op = opRum then x.attemptStep else 0
    let c := mkRouted clsCtl kStat 0 x.tag.toNat coll epoch (verdictDev x) 0 0 0 (b2n round * 2 ^ 34) (statPay coll epoch step p missing wlsb)
    sendCtlCell (((reporter s slot coll).map (·.1)).getD 0) c s

/-- The STAT of a running instance in its final status (R121, R211): the parts posted, or every tile's part when no tile
reports. -/
def instStat (slot coll : Nat) (round : Bool) (s : State) : State :=
  match (s.job slot).entry coll |>.inst with
  | none => s
  | some i =>
    let posts := if round then i.posts1 else i.posts0
    let p := joinParts (if (reporter s slot coll).isSome && !posts.isEmpty then posts else i.parts)
    let st := if i.worst.toNat < stComplete then stComplete else i.worst.toNat
    let st := if st = stComplete && p.sat then stSaturated else st
    let p := { p with
      dig := p.dig || (joinParts i.parts).dig
      status := if p.status.toNat < st then BitVec.ofNat 4 st else p.status
      reason := if p.status.toNat < st then i.why else p.reason
      home := p.home || !i.chunks.isEmpty }
    sendStat slot coll ((s.job slot).entry coll).epoch.toNat round p i.missing.toNat i.wlsb s

/-! ### The end of an instance (R120, R123, R217, R358) -/

/-- END records of the twin digest streams of a tile's bindings of an entry; its running digests are dropped. -/
def endDigs (tile slot coll : Nat) (s : State) : State :=
  let x := s.tile tile
  let mine := ((x.job slot).digs.filter (fun d => match x.binding slot d.bind.toNat with
    | some b => bColl b = coll
    | none => false))
  let e := (s.job slot).entry coll
  let s := mine.foldl (fun s d =>
    if d.set = 0 then sendDig slot ⟨(s.job slot).tag, BitVec.ofNat 12 coll, e.epoch, BitVec.ofNat 7 tile, d.round, 0, true,
      BitVec.ofNat 16 d.groups, 0⟩ s
    else s) s
  s.updTile tile (fun x => x.updJob slot (fun t => { t with digs := t.digs.filter (fun d => !mine.contains d) }))

/-- What the end of an instance does on one tile. -/
def endOnTile (tile slot coll : Nat) (keep : Bool) (s : State) : State :=
  let s := endDigs tile slot coll s
  let s := s.updTile tile (fun x => { x with bands := x.bands.filter (fun r => r.slot ≠ slot || ((x.binding slot r.bind).map bColl) ≠ some coll) }.updJob slot
    (fun t => { t with groupAt := t.groupAt.filter (fun k => k.1.toNat ≠ coll), contribs := t.contribs.filter (fun q => q.2.coll ≠ coll) }))
  let s := discardQueued tile slot (fun e => namesColl (s.tile tile) slot coll e.insn) s
  let s := if keep then s else
    s.updTile tile (fun x => x.updJob slot (fun t => { t with rows := t.rows.filter (fun r => match x.binding slot r.1 with
      | some b => bColl b ≠ coll
      | none => false) }))
  let s := if keep then s else freeAccs tile slot (fun w => tagColl w = coll) s
  tileEvent tile slot coll evEnd 0 s

/-- The ELEM that a tile's image has for a collective: its binding and its OPACC (R94, R209). -/
def elemOf (x : TileS) (slot coll : Nat) : Option (BitVec 256 × Nat) :=
  (List.range (x.job slot).ninsn).findSome? (fun n =>
    let i := x.imgInsn slot n
    match x.binding slot (iBind i) with
    | some b => if iOpc i = 0x0B && bColl b = coll then some (b, iMod i 0 11) else none
    | none => none)

/-- Bytes of an element of the fused operand, FP32 or BF16 (R94). -/
def Entry.opSize (e : Entry) : Nat := if e.fuse ≤ 4 then 4 else 2

/-- Where element k of a fused operand is held: its home tile on this device, the tile's OPACC, and the byte offset from there that its segment's
window position gives (R94, R209); none where no tile of this device holds it. -/
def operandSpot (s : State) (slot coll k : Nat) : Option (Nat × Nat × Nat) :=
  let x := s.job slot
  let e := x.entry coll
  let chunk := k / e.chunkElems
  if hmapDev x e chunk ≠ s.dev.id.toNat then none
  else
    let t := homeTile x.tag.toNat coll chunk
    match elemOf (s.tile t) slot coll with
    | none => none
    | some (b, acc) => (windowTile (s.tile t) slot b e 0 (k / 192)).map (fun p => (t, acc, e.opSize * (192 * p + k % 192)))

/-- One element of the fused operand is written: into its home tile's accumulator memory, or, where no tile of this device holds it, beside the entry
(log entry 53). -/
def putOperand (slot coll k : Nat) (bs : List Byte) (s : State) : State :=
  let n := ((s.job slot).entry coll).opSize
  match operandSpot s slot coll k with
  | some (t, acc, off) => setAccN t acc off n (leNat bs) s
  | none => s.updJob slot (fun x => x.updEntry coll (fun e => { e with operand := e.operand.writeN (n * k) bs }))

/-- Bytes from an offset of the operand area on are written, element by element; OFFSET and LEN are multiples of 8 (R386). -/
def writeOperand (slot coll off : Nat) (bs : List Byte) (s : State) : State :=
  let n := ((s.job slot).entry coll).opSize
  (List.range (bs.length / n)).foldl (fun s m => putOperand slot coll (off / n + m) ((bs.drop (n * m)).take n) s) s

/-- Bytes of the operand area, from the place of each element. -/
def readOperand (s : State) (slot coll off len : Nat) : List Byte :=
  let e := (s.job slot).entry coll
  let n := e.opSize
  (List.range (len / n)).flatMap (fun m => match operandSpot s slot coll (off / n + m) with
    | some (t, acc, o) => leBytes n (accN (s.tile t) acc o n)
    | none => e.operand.readN (off + n * m) n)

/-- A held operand write takes effect (R96). -/
def takeOperand (slot coll : Nat) (s : State) : State :=
  match ((s.job slot).entry coll).opNew with
  | none => s
  | some (off, bs) => writeOperand slot coll off bs (s.updJob slot (fun x => x.updEntry coll (fun e => { e with opNew := none })))

/-- The STATE_WRITE that waited for the end of an instance completes (R96). -/
def finishHeld (slot coll : Nat) (s : State) : State :=
  let e := (s.job slot).entry coll
  match e.opNew with
  | none => s
  | some (_, bs) =>
    let s := takeOperand slot coll s
    match s.host.exec.find? (fun q => descOp q.desc = 0x07 && q.started && descJob q.desc = (s.job slot).tag.toNat &&
        descN q.desc 24 1 = 9 && descN q.desc 26 2 = coll) with
    | some x => finish x stDone 0 (leBytes 8 bs.length) true s
    | none => s

/-- The running instance of an entry ends in its status (R120): STATUS and REASON, FREE tiles unless COMPLETE, discarded
instructions, END records, the END event. -/
def endInst (slot coll : Nat) (s : State) : State :=
  match s.inst? slot coll with
  | none => s
  | some i =>
    let sat := (joinParts i.parts).sat
    let st := if i.worst.toNat < stComplete then (if sat then stSaturated else stComplete) else i.worst.toNat
    let s := s.updJob slot (fun x => x.updEntry coll (fun e => { e with
      status := BitVec.ofNat 4 st
      reason := if i.why = 0 then e.reason else i.why
      inst := some { i with ended := true, worst := BitVec.ofNat 4 st } }))
    let s := finishHeld slot coll ((jobTiles s slot).foldl (fun s n => endOnTile n slot coll (st = stComplete) s) s)
    if st = stComplete then s else invalidateSpill slot (fun w => tagColl w = coll) s

/-- Cells or entries of an instance still stand in the queues of some tile. -/
def queuesHold (s : State) (slot coll : Nat) : Bool :=
  (jobTiles s slot).any (fun n =>
    let x := s.tile n
    let t := x.job slot
    t.iq.any (fun p => (iqCells s n p).any (fun q => q.cell.coll = coll)) ||
    t.vq.any (fun p => (Tbl.get [] x.vqs p).any (fun v => ((x.binding slot v.bind.toNat).map bColl) = some coll)))

/-! ### Cells of an entry (R101, R106, R109) -/

/-- A kind whose position 0 alone sends (R101). -/
def rootOnly (op : Nat) : Bool := op = 3 || op = 4 || op = 0xA

/-- Passes that a member sends (R101, R504). -/
def Entry.passes (e : Entry) : Nat := if isSumming e.op || isSelecting e.op then e.k else 1

/-- Cells of one pass of the member at position i (R101). -/
def Entry.passCells (e : Entry) (i : Nat) : Nat :=
  if e.op = 0xB then 1
  else if e.op = 2 then e.block
  else if e.op = 8 then e.m * e.block
  else if rootOnly e.op && i ≠ 0 then 0
  else (e.elems + fmtElems e.cfmt - 1) / fmtElems e.cfmt

/-- Chunk of ordinal n in cells of `per` elements (R106). -/
def Entry.chunkOfOrd (e : Entry) (per n : Nat) : Nat := n * per / e.chunkElems

/-- The last-of-chunk flag of ordinal n among the cells of a pass (R109). -/
def Entry.lastOf (e : Entry) (per total n : Nat) : Bool :=
  n + 1 = total || e.chunkOfOrd per (n + 1) ≠ e.chunkOfOrd per n

/-- The first row whose result stands in a segment, in row scope: in a chunk's first segment, the row that the chunk begins in (log entry 54). -/
def Entry.firstRow (e : Entry) (g : Nat) : Nat := (192 * g + (if g % 2 ^ e.cshift = 0 then 0 else e.rowlen - 1)) / e.rowlen

/-- Results of a selecting instance that stand in a segment: its positions, or the rows whose results stand there (R69). -/
def Entry.results (e : Entry) (g : Nat) : Nat :=
  let n := min (192 * (g + 1)) e.elems
  if e.elems ≤ 192 * g then 0 else if e.rowScope then (n + e.rowlen - 1) / e.rowlen - e.firstRow g else n - 192 * g

/-- Triple cells that carry a segment's results, eight each (R72). -/
def Entry.tripleCells (e : Entry) (g : Nat) : Nat := (e.results g + 7) / 8

/-- The ordinal of the triple cell at a place 192 x segment + result (R106). -/
def Entry.tripleOrd (e : Entry) (k : Nat) : Nat := ((List.range (k / 192)).map e.tripleCells).sum + k % 192 / 8

/-- From segment g on, the place of the triple cell that n cells stand before. -/
def Entry.tripleFrom (e : Entry) : Nat → Nat → Nat → Nat
  | 0, g, n => 192 * g + 8 * n
  | k + 1, g, n => if n < e.tripleCells g then 192 * g + 8 * n else e.tripleFrom k (g + 1) (n - e.tripleCells g)

/-- The place of the triple cell of an ordinal (R106). -/
def Entry.triplePlace (e : Entry) (n : Nat) : Nat := if e.rowScope then e.tripleFrom e.nsegs 0 n else 8 * n

/-- The triple cell at a place is the last of its chunk (R109). -/
def Entry.tripleLast (e : Entry) (k : Nat) : Bool :=
  let g := k / 192
  k % 192 / 8 + 1 = e.tripleCells g && (List.range (2 ^ e.cshift - 1 - g % 2 ^ e.cshift)).all (fun t => e.results (g + 1 + t) = 0)

/-- The chunk of a contribution or partial cell (R106, R108, R504). -/
def Entry.cellChunk (e : Entry) (c : Cell) : Nat :=
  if e.op = 0xB then 0
  else if isSelecting e.op && c.kind = kPartial then e.triplePlace c.chunk / e.chunkElems
  else e.chunkOfOrd (fmtElems c.fmt) c.chunk

/-- The binding of a job on a tile that receives cells of a collective in a role. -/
def bindingFor (s : State) (tile slot coll role : Nat) : Option (BitVec 256) :=
  (((s.tile tile).bindings slot).find? (fun b => bColl b.2 = coll && bRole b.2 = role && bEn b.2)).map (·.2)

/-! ### What the entry says of a cell (R117, R122) -/

/-- A saturating 32-bit count. -/
def satInc (w : Word) : Word := if w = 0xFFFFFFFF then w else w + 1

/-- What R117 and R122 say of a cell at a tile. -/
inductive Fate where
  | stale | late | live
  deriving DecidableEq, Repr

def fateOf (s : State) (e : Entry) (c : Cell) : Fate :=
  if !e.fired || c.epoch ≠ e.epoch.toNat then .stale
  else if e.status.toNat ≠ stRunning then .late
  else match e.inst with
    | none => .late
    | some i => if s.time < i.start then .stale else if e.op ≠ 0xA && i.deadline ≤ s.time then .late else .live

/-- A cell of the current epoch has been seen. -/
def Entry.seen (t : Time) (c : Cell) (e : Entry) : Entry :=
  if e.fired && c.epoch = e.epoch.toNat then { e with lastSeen := t } else e

/-- Judge a cell under R117: its counter and LASTSEEN, and whether it goes on. -/
def judge (slot : Nat) (c : Cell) (s : State) : Bool × State :=
  let f := fateOf s ((s.job slot).entry c.coll) c
  (f = .live, s.updJob slot (fun x => x.updEntry c.coll (fun e =>
    let e := e.seen s.time c
    match f with
    | .stale => { e with stale := satInc e.stale }
    | .late => { e with latec := satInc e.latec }
    | .live => e)))

/-! ### The end of a device's part (R121, R127, R129) -/

/-- Cells, for the kinds of R102, or last-of-chunk cells that an instance delivers to the member at position i (Table CO-1). -/
def Entry.due (e : Entry) (i : Nat) : Nat :=
  if e.op = 1 then ((List.range e.nchunks).filter (fun j => j * e.m / e.nchunks = i)).length
  else if isSumming e.op then e.nchunks
  else if isSelecting e.op then
    ((List.range e.nchunks).filter (fun j => (List.range (2 ^ e.cshift)).any (fun t => e.results (j * 2 ^ e.cshift + t) ≠ 0))).length
  else if e.op = 2 || e.op = 8 then e.m * e.block
  else if e.op = 3 || e.op = 4 then e.passCells 0
  else 0

/-- The ports of this device by which an instance's cells leave, with what each is due: its members', and of a MULTICAST the group's endpoints. -/
def dues (s : State) (slot coll : Nat) : List (Nat × Nat) :=
  let x := s.job slot
  let e := x.entry coll
  if e.op = 4 then ((grpPorts (Tbl.get 0 s.fabric.groups e.mgroup)).filter (fun p => (s.port p).kind = .endpoint)).map (fun p => (p, e.due 0))
  else (localMembers s x e).map (fun m => (m.2.2, e.due m.1))

/-- Every cell that an instance delivers by this device's ports has left (R121; log entry 64). -/
def delivered (s : State) (slot coll : Nat) (i : Inst) : Bool := (dues s slot coll).all (fun q => q.2 ≤ Tbl.get 0 i.left q.1)

/-- A SHUFFLE is over on this device: the end records of all M members are in, and no record is being gathered (R127; log entry 65). -/
def shuffled (e : Entry) (i : Inst) : Bool := e.op ≠ 9 || (e.m ≤ i.ends.length && i.recs.isEmpty)

/-- The device's part of an instance has ended (R121): home chunks complete and drained, own members' cells forwarded, egress cells gone. -/
def partEnded (s : State) (slot coll : Nat) (i : Inst) : Bool :=
  i.chunks.all (·.drained) && i.members.all (·.done) && i.egress = 0 && shuffled ((s.job slot).entry coll) i && delivered s slot coll i

/-- A RELAY instance has run its course on this device: its last cell has left the destination port (R129). -/
def relayDone (s : State) (slot coll : Nat) : Bool :=
  let x := s.job slot
  let e := x.entry coll
  match s.inst? slot coll with
  | none => false
  | some i => e.op = 0xA && partEnded s slot coll i && !queuesHold s slot coll && (!i.ends.isEmpty || (memberRec x e 1).2.1 ≠ s.dev.id.toNat)

/-- RELAY instances that have run their course end (R129). -/
def endRelays (s : State) : State :=
  (List.range 64).foldl (fun s j =>
    if (s.job j).st ≠ .running then s
    else (s.job j).ids.foldl (fun s c => if relayDone s j c.toNat then endInst j c.toNat s else s) s) s

/-- The accumulator tiles and spill records of an entry are given up. -/
def freeColl (slot coll : Nat) (s : State) : State :=
  invalidateSpill slot (fun w => tagColl w = coll)
    ((jobTiles s slot).foldl (fun s n => freeAccs n slot (fun w => tagColl w = coll) s) s)

/-- An open comparison of an entry's instance (R18, R359). -/
def comparing (s : State) (slot coll : Nat) : Bool :=
  s.twin.mine.any (fun d => d.job = (s.job slot).tag && d.coll.toNat = coll && d.epoch = ((s.job slot).entry coll).epoch)

/-- Abort the running instance of an entry with a code; `report`: its STAT is sent (R121), after its open comparisons (R18). -/
def abortInst (slot coll code : Nat) (report : Bool) (s : State) : State :=
  if (s.inst? slot coll).isNone then s
  else
    let s := raiseInst slot coll stAborted code s
    let s := if !report then s else if comparing s slot coll then s.updInst slot coll (fun i => { i with owesStat := true }) else instStat slot coll false s
    endInst slot coll s

/-- The STAT of an ended instance that waited for comparisons is sent (R18). -/
def payStat (slot coll : Nat) (s : State) : State :=
  match ((s.job slot).entry coll).inst with
  | none => s
  | some i => if i.owesStat then instStat slot coll false (s.updInst slot coll (fun i => { i with owesStat := false })) else s

/-- Identifiers of a job's entries with a running instance. -/
def runningColls (s : State) (slot : Nat) : List Nat :=
  ((s.job slot).ids.map (·.toNat)).filter (fun c => (s.inst? slot c).isSome)

/-! ### The step gate's common parts (R161 to R163, R159) -/

/-- Write the commit word; its acknowledgement is a command of its own (R161, R141). `mark`: what the acknowledgement of a commit
marks in the manifest. -/
def writeCommit (slot : Nat) (step : Nat) (lsexp clean : Nat) (mark : Option (Nat × Nat × Nat × Nat)) (s : State) : State :=
  s.updJob slot (fun x => { x with
    step := BitVec.ofNat 40 step, lsexp := BitVec.ofNat 8 lsexp, clean := BitVec.ofNat 16 clean, commitPend := some mark }.touch .block 0 8)

/-! ### Manifest digests (R168) -/

/-- Chunk groups of 64 chunks of an entry. -/
def Entry.ngroups (e : Entry) : Nat := (e.nchunks + 63) / 64

/-- Step-list position of an entry. -/
def Job.stepPos (x : Job) (coll : Nat) : Option Nat := x.steps.findIdx? (fun q => q.1.toNat = coll)

/-- Contribution digests of one step position on this device. -/
def contribsAt (s : State) (x : Job) (coll : Nat) : Nat :=
  let e := x.entry coll
  (localMembers s x e).length * e.k * e.ngroups

/-- Chunk groups of an entry that contain a home chunk of this device, ascending. -/
def homeGroups (s : State) (x : Job) (e : Entry) : List Nat :=
  (List.range e.ngroups).filter (fun g => (homeChunks s x e).any (fun j => j / 64 = g))

/-- Place of a contribution digest in a record: by position, member in list order, pass, chunk group (log entry 26). -/
def contribIdx (s : State) (x : Job) (pos member pass group : Nat) : Nat :=
  let e := x.entry (((x.steps[pos]?).map (·.1.toNat)).getD 0)
  ((x.steps.take pos).map (fun q => contribsAt s x q.1.toNat)).sum + (member * e.k + pass) * e.ngroups + group

/-- Place of a sum digest among the sum digests: by position, then chunk group. -/
def sumIdx (s : State) (x : Job) (pos group : Nat) : Nat :=
  let e := x.entry (((x.steps[pos]?).map (·.1.toNat)).getD 0)
  ((x.steps.take pos).map (fun q => (homeGroups s x (x.entry q.1.toNat)).length)).sum + ((homeGroups s x e).filter (· < group)).length

/-- A CRC-32C continued over more bytes. -/
def crcMore (c : Word) (bs : List Byte) : Word := bs.foldl crcByte (c ^^^ 0xFFFFFFFF#32) ^^^ 0xFFFFFFFF#32

/-- Where digest word k of record r stands in the manifest. -/
def Job.digestAt (x : Job) (r k : Nat) : Nat := r * x.manRec + 64 + 4 * k

/-- Add bytes to digest word k: of the open attempt's record, or of the replay. -/
def Job.digestMore (contrib : Bool) (k : Nat) (bs : List Byte) (x : Job) : Job :=
  match x.replay with
  | some r =>
    { x with replay := some (if contrib then { r with contrib := Tbl.upd 0 r.contrib k (fun c => crcMore c bs) }
        else { r with sums := Tbl.upd 0 r.sums k (fun c => crcMore c bs) }) }
  | none =>
    let a := x.digestAt (x.attempts.toNat % 8) (if contrib then k else x.dc + k)
    let c : Word := BitVec.ofNat 32 (leNat (x.manifest.readN a 4))
    { x with manifest := x.manifest.writeN a (leBytes 4 (crcMore c bs).toNat) }.touch .manifest a 4

/-- A replay ends: its instances end without STAT, their accumulator tiles are FREE, and the entries hold what they held before. -/
def endReplay (slot : Nat) (s : State) : State :=
  match (s.job slot).replay with
  | none => s
  | some r =>
    let colls := r.positions.filterMap (fun p => ((s.job slot).steps[p]?).map (·.1.toNat))
    let s := colls.foldl (fun s c => freeColl slot c (endInst slot c s)) s
    s.updJob slot (fun x => { (colls.zip r.saved).foldl (fun x q =>
      x.updEntry q.1 (fun e => { e with epoch := q.2.1, status := q.2.2, inst := none })) x with replay := none })

/-- Mark an attempt in its manifest record: step, attempt counter, decision, valid (R168; log entry 26). -/
def markManifest (slot : Nat) (m : Nat × Nat × Nat × Nat) (s : State) : State :=
  s.updJob slot (fun x =>
    let r := m.1 * x.manRec
    { x with manifest := x.manifest.writeN r (leBytes 5 m.2.1 ++ leBytes 1 m.2.2.1 ++ leBytes 1 m.2.2.2 ++ leBytes 1 1) }.touch .manifest r x.manRec)

/-- What the manifest marks of the open attempt with a decision. -/
def Job.mark (x : Job) (decision : Nat) : Nat × Nat × Nat × Nat := (x.attempts.toNat % 8, x.step.toNat + 1, x.attempts.toNat, decision)

/-- The attempt in force closes: the gate is IDLE; values written during it are used from here on (R142, R163). -/
def closeGate (slot : Nat) (s : State) : State :=
  s.updJob slot (fun x => { x with
    attempts := x.attempts + 1
    attempt := false
    fired := []
    gate := .idle
    deadline := 0
    biasDone := false
    alpha := 0x3F800000
    verd := none
    clipmax := ((x.blkNext.map (·.1)).getD x.clipmax)
    grow := ((x.blkNext.map (·.2.1)).getD x.grow)
    vmargin := ((x.blkNext.map (·.2.2)).getD x.vmargin)
    blkNext := none
    hparam := x.hparamNext.getD x.hparam
    hparamNext := none })

/-- The attempt in force closes with a decision, and its manifest record takes it (R168). -/
def closeAttempt (slot decision : Nat) (s : State) : State := closeGate slot (markManifest slot ((s.job slot).mark decision) s)

/-- REJECT on a home device (R162): instances of the step list end, their tiles return to FREE, records are invalidated, the
gradient hold is released. -/
def rejectAttempt (slot : Nat) (s : State) : State :=
  let colls := ((s.job slot).steps.map (·.1.toNat))
  let s := colls.foldl (fun s c => endInst slot c s) s
  let s := colls.foldl (fun s c => freeColl slot c s) s
  let s := colls.foldl (fun s c => jobEvent slot c evReject 0 s) s
  s.updJob slot (fun x => { x with gradHold := [] })

/-- End a job's open attempt as R162 does, without a change of the commit word; an OUT job writes none of its areas (R362). -/
def dropAttempt (slot : Nat) (s : State) : State :=
  if !(s.job slot).attempt then s
  else if (s.job slot).away then closeGate slot (rejectAttempt slot s)
  else closeAttempt slot 3 (rejectAttempt slot s)

/-! ### Job reset and job footprint (R431, R430) -/

/-- Everything of a job on one tile that a job reset discards. -/
def resetOnTile (slot tile : Nat) (s : State) : State :=
  let s := discardQueued tile slot (fun _ => true) s
  let s := s.updTile tile (fun x => { x with
    dispatchQ := x.dispatchQ.filter (fun d => d.slot ≠ slot)
    evq := x.evq.filter (fun e => bitsN e.toNat 22 6 ≠ slot) })
  let s := freeAccs tile slot (fun _ => true) s
  let t := (s.tile tile).job slot
  let s := t.iq.foldl (fun s p => (iqCells s tile p).foldl (fun s c => freeBuf tile c.buf s)
    (s.updTile tile (fun x => { x with iqs := Tbl.set [] x.iqs p [] }))) s
  let s := t.oq.foldl (fun s p => (Tbl.get [] (s.tile tile).oqs p).foldl (fun s c => freeBuf tile c.buf s)
    (s.updTile tile (fun x => { x with oqs := Tbl.set [] x.oqs p [] }))) s
  s.updTile tile (fun x => { x with
    prods := x.prods.filter (fun q => q.1 / 2 ^ 28 ≠ slot), bands := x.bands.filter (fun q => q.slot ≠ slot), vqs := t.vq.foldl (fun v p => Tbl.set [] v p []) x.vqs }.updJob slot (fun t =>
    { t with groupAt := [], digs := [], contribs := [], rows := [], runs := [], streams := [], ghat := [], sqs := [] }))

/-- Job reset (R431) on every tile. -/
def jobReset (slot : Nat) (s : State) : State :=
  invalidateSpill slot (fun _ => true) ((jobTiles s slot).foldl (fun s n => resetOnTile slot n s) s)

/-! ### Twin states of a job (R360 to R363) -/

/-- Comparisons of jobs that are compared no longer end uncompared (Table TW-6). -/
def uncompare (p : DigRec → Bool) (s : State) : State :=
  let gone := s.twin.mine.filter p
  let s := s.updTwin (fun w => { w with mine := w.mine.filter (fun d => !p d), theirs := w.theirs.filter (fun d => !p d) })
  gone.foldl (fun s d => match slotOf d.job.toNat s with
    | some j => bump (jobCtr d.tile.toNat j 0x78) 1 s
    | none => s) s

def uncompareJob (slot : Nat) (s : State) : State := uncompare (fun d => d.job = (s.job slot).tag) s

/-- A transfer of a job's image is aborted (R367): 0x090F, READY cleared, the target left OUT. -/
def abortXfer (s : State) : State :=
  match s.twin.xfer with
  | none => s
  | some x =>
    let s := twinReason 0x090F (logCode 0x090F unitDev (s.updTwin (fun w => { w with xfer := none })))
    match slotOf x.job.toNat s with
    | some j => s.updJob j (fun y => { y with ready := false, dirty := none, copied := 0, optWaits := false })
    | none => s

/-- A job's twin state changes: its transfer is aborted, its open comparisons end uncompared unless it stays PAIRED. -/
def setJTwin (slot : Nat) (st : JTwin) (s : State) : State :=
  let was := (s.job slot).twin
  if was = st then s
  else
    let s := s.updJob slot (fun x => { x with twin := st })
    let s := if (s.twin.xfer.map (·.job)) = some (s.job slot).tag && st ≠ .paired then abortXfer s else s
    if st = .paired then s else uncompareJob slot s

/-- A device leaves the service of a job (R362): its open attempt ends as R162 does, a job reset follows (Table CP-7). -/
def leaveService (slot code : Nat) (s : State) : State :=
  let s := dropAttempt slot s
  jobReset slot ((runningColls s slot).foldl (fun s c => abortInst slot c code false s) s)

/-- A job enters OUT (R362): its open attempt ends as R162 does, a job reset follows (Table CP-7); code 0 logs nothing. -/
def goOut (slot code : Nat) (notice : Bool) (s : State) : State :=
  let s := setJTwin slot .out s
  let s := if code = 0 then s else twinReason code (logCode code (unitJob slot) s)
  let s := leaveService slot code s
  if notice then sendNote (s.job slot).tag.toNat 0 0 0 s else s

/-- A job is FROZEN: no plane is known to serve it (0x0909). -/
def freeze (slot : Nat) (s : State) : State :=
  let was := (s.job slot).away
  let s := twinReason 0x0909 (logCode 0x0909 (unitJob slot) (setJTwin slot .frozen s))
  if was then s else leaveService slot 0x0909 s

/-- Job slots that hold a job. -/
def loadedSlots (s : State) : List Nat := (List.range 64).filter (fun j => (s.job j).st ≠ .free)

/-- The jobs a live move or self-test of a tile needs carried (R368, R445). -/
def jobsOn (s : State) (tile : Nat) : List Nat :=
  (loadedSlots s).filter (fun j => ((s.job j).grant tile).isSome ||
    ((List.range s.bank.len).any (fun t =>
      let e := s.bank.ent tile t
      (teRx e = rxLocal || teRx e = rxPass || teTx e = 1) && s.bank.sliceJob (teSlice e) = some (s.job j).tag.toNat)))

/-- The carry test of R368. -/
def mayCarry (s : State) (tile : Nat) : Bool :=
  s.twin.dst = .moored && (jobsOn s tile).all (fun j => (s.job j).twin = .paired)

/-! ### Island reset (R430) -/

/-- The tile's queues are cleared, its accumulator tiles FREE, its buffers back in the pool; running instances with a binding on it
become INCOMPLETE with 0x0A07. -/
def islandClear (tile : Nat) (s : State) : State :=
  let slots := (List.range 64).filter (fun j => ((s.tile tile).job j).loaded)
  let s := slots.foldl (fun s j =>
    ((s.tile tile).bindings j).foldl (fun s b => if (s.inst? j (bColl b.2)).isSome then tileCause j (bColl b.2) tile stIncomplete 0x0A07 s else s) s) s
  s.updTile tile (fun x => { x with
    inbox := [], accs := [], bufs := [], freeList := none, audit := 0, iqs := [], vqs := [], mqs := [], oqs := [], spilling := [],
    resuming := [], dispatchQ := [], evq := [], voqs := [], bands := [], prods := []
    jobs := (x.jobs.map (fun q => (q.1, { q.2 with cqs := [], lastDone := [], groupAt := [], digs := [], contribs := [], rows := [], runs := [], streams := [], ghat := [], sqs := [] }))).filter (fun q => q.2 ≠ TJob.reset) })

/-- The pilot core restarts from its image: registers and CSRs at reset, and a write that waits for room in the dispatch queue lost (R227). -/
def pilotRestart (tile : Nat) (s : State) : State :=
  s.updTile tile (fun x => { x with
    dispatchQ := Disp.firstWrites 7 x.dispatchQ
    tpcmdlo := 0, tpruna := 0, tplop := 0, tpcellsel := 0, tpqsel := 0, xregs := [], csrs := [], wdogAt := s.time })

end Sys2Proof.Machine
end

