-- ==== Sys2Proof/Machine/Power.lean ====
section
/-! DEFINITION. Clocks, operating points, gating, brown-out, island reset, resets and boot (16; 19 R485 to R489, R498). -/

namespace Sys2Proof.Machine

/-! ### Islands (R415, R419, R420) -/

/-- The logical tile an island holds. -/
def ltileOf (s : State) (p : Nat) : Option Nat := (List.range 128).find? (fun n => s.dev.place[n]? = some (some p))

/-- The island of a logical tile. -/
def physOf (s : State) (n : Nat) : Option Nat := (s.dev.place[n]?).join

/-- Setpoint in mV and frequency in MHz of an operating point (Table CP-3). -/
def oppMv (o : Nat) : Nat := ([550, 580, 620, 670, 720, 760, 800] : List Nat).getD o 800
def oppMhz (o : Nat) : Nat := ([250, 500, 833, 1250, 1666, 1833, 2000] : List Nat).getD o 2000

/-- Neighbours of a physical tile (R415). -/
def neighbours (p : Nat) : List Nat :=
  let k := p % 34
  let d := 34 * (p / 34)
  (if k % 17 ≠ 0 then [d + k - 1] else []) ++ (if k % 17 ≠ 16 then [d + k + 1] else []) ++ [d + (k + 17) % 34]

def powered (i : Island) : Bool := i.pst = .on || i.pst = .waking

/-- The operating point an island has or is changing to. -/
def Island.point (i : Island) : Nat := if i.busy then i.target.toNat else i.cur.toNat

/-- A tide bank gives a logical tile use (R420): an entry of its column, or one that names it as DEST. -/
def bankUses (b : TideBank) (n : Nat) : Bool :=
  (List.range b.len).any (fun t =>
    let e := b.ent n t
    teRx e = rxLocal || teRx e = rxPass || teTx e = 1) ||
  b.ents.any (fun q => (teRx q.2 = rxPass || teTx q.2 = 1 || teRx q.2 = rxLocal) && !teMc q.2 && teTile q.2 && teUnit q.2 = n)

/-- The bank in force, and the other one where it is pending or held, gives a tile use. -/
def tideUses (s : State) (n : Nat) : Bool :=
  bankUses s.bank n || ((s.tide.pending || s.tide.hold) && bankUses s.otherBank n)

/-- A job in RUNNING or STOPPING holds a binding on a tile. -/
def runs (s : State) (n : Nat) : Bool :=
  (List.range 64).any (fun j => ((s.job j).st = .running || (s.job j).st = .stopping) && ((s.tile n).job j).loaded && ((s.tile n).job j).nbind ≠ 0)

/-- The floor of an island (R420). -/
def floorOf (s : State) (p : Nat) : Nat :=
  match ltileOf s p with
  | some n => if tideUses s n || runs s n then 4 else 0
  | none => 0

/-- Neighbour limits for an island at an operating point (R417, Table CP-2): setpoints and present temperatures. -/
def limitOk (s : State) (p o : Nat) : Bool :=
  (neighbours p).all (fun q =>
    let j := s.island q
    !powered j || ((oppMv o - oppMv j.point ≤ 150 && oppMv j.point - oppMv o ≤ 150) &&
      decide ((s.island p).temp - j.temp ≤ 250 && j.temp - (s.island p).temp ≤ 250)))

/-- The highest setpoint among a die's powered islands, with island p at o (R419). -/
def dieMv (s : State) (die p o : Nat) : Nat :=
  ((List.range 34).map (fun k =>
    let q := 34 * die + k
    if q = p then oppMv o else if powered (s.island q) then oppMv (s.island q).point else 0)).foldl Nat.max 0

/-- VDD_CORE of a die: 720 mV at power-up (R489). -/
def vddOf (s : State) (die : Nat) : Nat := Tbl.get 720 s.clk.vdd die

/-- The die's regulator can be reached (R489). -/
def regOk (s : State) (die : Nat) : Bool := bitsN (Tbl.get 0 s.clk.regs die).toNat 0 16 ≠ 0 && !s.side.i2cStuck

/-- VDD_CORE of a die falls to the highest setpoint that is left among its powered islands (R419). -/
def trimVdd (die : Nat) (s : State) : State :=
  let v := dieMv s die 136 0
  if v ≠ 0 && v < vddOf s die && regOk s die then s.updClk (fun c => { c with vddNext := Tbl.set 720 c.vddNext die v }) else s

/-- Begin a change of operating point: the voltage first on a raise (R419). -/
def startOpp (p o : Nat) (s : State) : State :=
  let die := p / 34
  let v := dieMv s die p o
  let s := s.updIsland p (fun i => { i with busy := true, target := BitVec.ofNat 3 o })
  if v > vddOf s die && regOk s die then s.updClk (fun c => { c with vddNext := Tbl.set 720 c.vddNext die v }) else s

/-- VDD_CORE of a die can carry island p at operating point o: it does so now, or its regulator can be reached (R489). -/
def vddServes (s : State) (p o : Nat) : Bool := dieMv s (p / 34) p o ≤ vddOf s (p / 34) || regOk s (p / 34)

/-- The code that refuses an operating point (R420, R417, R489). -/
def oppRefusal (s : State) (p o : Nat) : Option Nat :=
  if o < floorOf s p then some 0x0A01
  else if !limitOk s p o then some 0x0A02
  else if vddServes s p o then none
  else some 0x0A11

/-- An operating point asked for: refused, deferred by a hold, or begun (R417, R418, R426). -/
def askOpp (p o : Nat) (s : State) : State :=
  match oppRefusal s p o with
  | some code => clkReason code s
  | none =>
    let i := s.island p
    if (s.clk.hold || i.held) && o > floorOf s p then s.updIsland p (fun i => { i with saved := some (BitVec.ofNat 3 o) })
    else if i.point = o then s
    else startOpp p o s

/-- An island goes to its floor and remembers where it was (R418, R426). -/
def toFloor (p : Nat) (s : State) : State :=
  let i := s.island p
  let f := floorOf s p
  if i.pst ≠ .on || i.point ≤ f then s
  else startOpp p f (s.updIsland p (fun i => { i with saved := some (i.saved.getD (BitVec.ofNat 3 i.point)) }))

/-- An island returns to its point when neither hold is left (Table CP-17). -/
def fromFloor (p : Nat) (s : State) : State :=
  let i := s.island p
  match i.saved with
  | none => s
  | some o =>
    if s.clk.hold || i.held then s
    else
      let s := s.updIsland p (fun i => { i with saved := none })
      if (oppRefusal s p o.toNat).isNone && i.point ≠ o.toNat then startOpp p o.toNat s else s

/-- A write of CLK_TILE (Table CP-12, R436). -/
def writeClkTile (p : Nat) (v : Word) (s : State) : State :=
  let i := s.island p
  let o := bitsN v.toNat 0 3
  if i.pst = .fused then s
  else if o = 7 then clkReason 0x0A0E s
  else if v.getLsbD 13 then s.updIsland p (fun i => { i with auto := true, req := BitVec.ofNat 3 o })
  else match oppRefusal s p o with
    | some code => clkReason code s
    | none => askOpp p o (s.updIsland p (fun i => { i with auto := false, req := BitVec.ofNat 3 o }))

def execOppRequest (t : Time) (p : Phys) (v : Word) (s : State) : Out := .next (bar0 t (writeClkTile p.val v) s)

/-- R422: the lowest point whose cells in 100 us cover 1.25 times the demand, OPP 4 at a floor of 4. -/
def autoPoint (s : State) (p demand : Nat) : Nat :=
  if floorOf s p = 4 then 4
  else (((List.range 5).find? (fun o => 4 * (100 * oppMhz o) ≥ 5 * demand)).getD 4)

def execAutoOppSelect (t : Time) (p : Phys) (demand : Nat) (s : State) : Out :=
  let s := tick t s
  let i := s.island p.val
  .next (if i.auto && i.pst = .on && !i.busy then askOpp p.val (autoPoint s p.val demand) s else s)

/-- VDD_CORE has reached its new setpoint (R489). -/
def execVoutReached (t : Time) (die : Die) (s : State) : Out :=
  let s := tick t s
  .next (s.updClk (fun c => { c with vdd := Tbl.set 720 c.vdd die.val (Tbl.get 720 c.vddNext die.val) }))

/-- A change ends once the supply suffices: CUR takes the point; a lowering then lets the supply fall (R419). -/
def oppDone (p : Nat) (s : State) : State :=
  let i := s.island p
  if !i.busy || vddOf s (p / 34) < oppMv i.target.toNat then s
  else trimVdd (p / 34) (s.updIsland p (fun i => { i with busy := false, cur := i.target }))

/-- The crossing monitor finds a limit broken, p the offending island of the pair (R418). -/
def execCrossingLimitBreach (t : Time) (p : Phys) (q : Phys) (kind : CrossKind) (s : State) : Out :=
  let s := tick t s
  let low (k : Nat) : Bool := (s.island k).point ≤ floorOf s k
  let s1 := clkReason 0x0A03 (logCode 0x0A03 unitDev s)
  .next (if !(neighbours p.val).contains q.val || !powered (s.island p.val) || !powered (s.island q.val) then s
    else if kind = .temperature && low p.val && low q.val then s1
    else toFloor p.val (s1.updIsland p.val (fun i => { i with
      held := true, okSince := some s.time, saved := some (i.saved.getD (if i.auto then BitVec.ofNat 3 i.point else i.req)) })))

def execLimitHoldRelease (t : Time) (p : Phys) (s : State) : Out :=
  let s := tick t s
  let i := s.island p.val
  .next (if i.held && s.time ≥ i.okSince.getD 0 + us 100 then
      fromFloor p.val (s.updIsland p.val (fun i => { i with held := false, okSince := none }))
    else s)

/-- While the offending island p is at its floor, the other island of the pair rises one point every 10 µs, outside a brown-out hold (R418, R426). -/
def execNeighbourRaise (t : Time) (p : Phys) (q : Phys) (s : State) : Out :=
  let s := tick t s
  let j := s.island q.val
  .next (if (s.island p.val).held && (s.island p.val).point ≤ floorOf s p.val && (neighbours p.val).contains q.val && powered j &&
      j.point < 6 && !s.clk.hold && j.raisedAt.all (fun a => a + us 10 ≤ s.time) then
      (if vddServes s q.val (j.point + 1) then
        startOpp q.val (j.point + 1) (s.updIsland q.val (fun i => { i with raisedAt := some s.time }))
      else clkReason 0x0A11 s)
    else s)

/-! ### Gating and waking (R424) -/

/-- The position is part of a live move or a self-test, or its island reset runs (R445). -/
def unitBusy (s : State) (p : Nat) : Bool :=
  s.dev.moves.any (fun m => m.old = p || m.new = p) || s.dev.tests.any (fun t => !t.lanes && t.unit = p) || s.dev.resetting.contains p

/-- The condition of Table CP-5 for gating a tile island. -/
def mayGate (s : State) (p : Nat) : Bool :=
  match ltileOf s p with
  | none => !unitBusy s p
  | some n => !(s.port n).en && (loadedSlots s).all (fun j => ((s.job j).grant n).isNone) &&
      !(bankUses s.bank n || ((s.tide.pending || s.tide.hold || s.tide.staged) && bankUses s.otherBank n)) && !unitBusy s p

/-- A gated island loses its contents; the tile's snapshot stands in HBM. -/
def gateTile (p : Nat) (s : State) : State :=
  let s := s.updIsland p (fun i => { i with pst := .gated, gate := true, cur := 0, busy := false, held := false, saved := none })
  let s := trimVdd (p / 34) s
  match ltileOf s p with
  | some n => s.updTile n (fun x => { TileS.reset with snap := x.snap })
  | none => s

/-- An island begins to wake; a neighbour too high for it is lowered first where its floor lets it (Table CP-17). -/
def wakeTile (p : Nat) (s : State) : State :=
  let s := (neighbours p).foldl (fun s q =>
    let low := Nat.max 3 (floorOf s q)
    if (s.island q).pst = .on && (s.island q).point > low then startOpp q low s else s) s
  s.updIsland p (fun i => { i with pst := .waking, gate := false })

/-- Raise a logical tile's island to OPP 4 before a use that raises its floor (R421): at once where the die's supply carries it, else by a change
that raises the supply first (R419); a gated one begins to wake, and takes its floor when it is awake. -/
def raiseTile (n : Nat) (s : State) : State :=
  match physOf s n with
  | none => s
  | some p =>
    let i := s.island p
    if i.pst = .gated then wakeTile p s
    else if i.pst = .on && i.point < 4 then
      let s := s.updIsland p (fun i => { i with saved := i.saved.filter (fun o => 4 < o.toNat) })
      if vddOf s (p / 34) < oppMv 4 then startOpp p 4 s else s.updIsland p (fun i => { i with busy := false, cur := 4, target := 4 })
    else s

/-- The move is abandoned: 0x0B24, the spare gated again (R446). -/
def abandonMove (m : Move) (s : State) : State :=
  let s := monReason 0x0B24 (logCode 0x0B24 (unitTile m.tile) s)
  let s := (s.updDev (fun d => { d with moves := d.moves.filter (· ≠ m) })).updClk (fun c => { c with spareSt := 3 })
  gateTile m.new s

/-- Start of an island reset (R430): queues cleared, instances INCOMPLETE, a move of the tile abandoned. -/
def startIslandReset (p : Nat) (s : State) : State :=
  let s := s.updDev (fun d => { d with resetting := if d.resetting.contains p then d.resetting else p :: d.resetting })
  let s := logCode 0x0A07 (match ltileOf s p with
    | some n => unitTile n
    | none => unitDev) (pwrReason 0x0A07 s)
  let s := (s.dev.moves.filter (fun m => m.old = p || m.new = p)).foldl (fun s m => abandonMove m s) s
  match ltileOf s p with
  | some n => islandClear n s
  | none => s

/-- A write of PWR_TILE (Table CP-14). -/
def writePwrTile (p : Nat) (v : Word) (s : State) : State :=
  let i := s.island p
  let s := if v.getLsbD 1 && i.pst = .on then startIslandReset p s else s
  if v.getLsbD 0 then
    (if i.pst = .gated || i.pst = .fused then s else if mayGate s p then gateTile p s else pwrReason 0x0A06 s)
  else if i.pst = .fused then pwrReason 0x0A06 s
  else if i.pst = .gated then wakeTile p s
  else s

def execGateIsland (t : Time) (p : Phys) (v : Word) (s : State) : Out := .next (bar0 t (writePwrTile p.val (v ||| 1)) s)
def execWakeIsland (t : Time) (p : Phys) (v : Word) (s : State) : Out := .next (bar0 t (writePwrTile p.val (v &&& 0xFFFFFFFE)) s)

/-- The lowest point within 150 mV of the powered neighbours, for an island that wakes. -/
def wakePoint (s : State) (p : Nat) : Nat := ((List.range 5).find? (fun o => limitOk s p o)).getD 0

/-! ### Island reset (R430) -/

/-- Reload a job's image and bindings on a tile: the package copies hold what program memory and binding slots held. -/
def execIslandReset (t : Time) (p : Phys) (cause : IslandCause) (s : State) : Out :=
  let s := tick t s
  .next (if (s.island p.val).pst ≠ .on then s
    else
      let s := match cause, ltileOf s p.val with
        | .progUncorrectable, some n => bump (tileCtr n 0x0B0) 1 (monReason 0x0B02 (logCode 0x0B02 (unitTile n) s))
        | .pilotUncorrectable, some n => bump (tileCtr n 0x0B0) 1 s
        | _, _ => s
      startIslandReset p.val s)

def execIslandResetDone (t : Time) (p : Phys) (s : State) : Out :=
  let s := tick t s
  .next (if !s.dev.resetting.contains p.val then s
    else
      let s := s.updDev (fun d => { d with resetting := d.resetting.filter (· ≠ p.val) })
      match ltileOf s p.val with
      | some n => pilotRestart n s
      | none => s)

/-! ### Brown-out (R425, R426) -/

/-- Nominal level of a watched rail in mV (Table CP-6): VDD_CORE's is its setpoint, the lower of both while it slews; the HBM rails' stands in the
HBM3E standard. -/
def railMv (s : State) : Rail → Option Nat
  | .core d => some (min (vddOf s d.val) (Tbl.get 720 s.clk.vddNext d.val))
  | .sram => some 750
  | .serA => some 750
  | .serH => some 1200
  | .io => some 1800
  | .hbm => none

/-- The comparators see a dip that stays 10 ns below the warning threshold, nominal - 6 % (R425); the HBM rails' level is not the spec's, and what is
reported of them counts as seen (log entry 44). -/
def dipSeen (s : State) (rail : Rail) (lowest duration : Nat) : Bool :=
  10 ≤ duration && (match railMv s rail with
    | some v => decide (100 * lowest < 94 * v)
    | none => true)

/-- A warning dip: hold, every island to its floor, 50 us from the end of the last dip. -/
def execBrownoutWarning (t : Time) (rail : Rail) (lowest : BitVec 16) (duration : Word) (s : State) : Out :=
  let s := tick t s
  if !dipSeen s rail lowest.toNat duration.toNat then .next s else
  let s := markClk 4 (s.updClk (fun c => { c with hold := true, warn := true, holdEnd := s.time + us 50 }))
  let s := pwrReason 0x0A04 (logEv 0x0A04 unitDev duration.toNat lowest.toNat s)
  .next ((List.range 136).foldl (fun s p => toFloor p s) s)

/-! ### Resets (R428, R429) -/

/-- Harbourmaster slots with a valid commit record, best first (R433): 0 A, 1 B; base 2 for the pilot core. -/
def slotOrder (f : Flash) (base : Nat) : List Nat :=
  let a := Tbl.get CommitRec.reset f.recs base
  let b := Tbl.get CommitRec.reset f.recs (base + 1)
  match a.present, b.present with
  | true, true => if b.seq.toNat > a.seq.toNat then [1, 0] else [0, 1]
  | true, false => [0]
  | false, true => [1]
  | false, false => []

/-- The failed-boot count of a slot (Table CP-16). -/
def failCount (c : Clk) (slot : Nat) : Nat := if slot = 0 then c.failA.toNat else c.failB.toNat

/-- The order in which the boot tries the harbourmaster slots: a slot that failed twice comes last unless NOFAILOVER (R434). -/
def bootOrder (s : State) : List Nat :=
  match slotOrder s.flash 0 with
  | [a, b] => if failCount s.clk a ≥ 2 && !s.clk.nofailover then [b, a] else [a, b]
  | l => l

/-- The recorder after a reset: on-chip buffer and aggregates lost, SEQ continues after the highest in flash, a new nonce. -/
def obsReset (cold : Bool) (s : State) : Obs :=
  { Obs.reset with
    aggs := if cold then [] else (s.obs.aggs.map (fun a => (a.1, { Agg.reset with rate := a.2.rate }))).filter (fun a => a.2 ≠ Agg.reset)
    seq := BitVec.ofNat 32 ((s.flash.evr.map (fun r => bitsN r.2.toNat 32 32 + 1)).foldl Nat.max 0)
    flashOk := s.obs.flashOk
    nonceNo := s.obs.nonceNo + 1 }

/-- A loaded job after a warm reset (R429): STOPPED, committed state kept, quotas at their grants, entries not fired. -/
def Job.rewarm (x : Job) : Job :=
  if x.st = .free then x
  else { x with
    st := .stopped
    unload := false
    entries := (x.entries.map (fun e => (e.1, { Entry.reset with cfg := e.2.next.getD e.2.cfg, operand := e.2.operand, rank := e.2.rank }))).filter (fun e => e.2 ≠ Entry.reset)
    quotaAcc := []
    quotaCbuf := []
    quotaSpill := none
    quotaState := none
    spill := x.spill.map (fun e => (e.1, invalidRec e.2))
    stale := x.stale || x.away
    twin := .paired
    ready := false
    rejoin := none
    announced := false
    query := none
    dirty := none
    copied := 0
    gate := .idle
    attempt := false
    fired := []
    deadline := 0
    biasDone := false
    optWaits := false
    alpha := 0x3F800000
    verd := none
    heldVerdicts := []
    commitPend := none
    vparts := []
    replay := none
    hparam := x.hparamNext.getD x.hparam
    hparamNext := none
    clipmax := ((x.blkNext.map (·.1)).getD x.clipmax)
    grow := ((x.blkNext.map (·.2.1)).getD x.grow)
    vmargin := ((x.blkNext.map (·.2.2)).getD x.vmargin)
    blkNext := none
    gradHold := [] }

/-- A logical tile after a warm reset and the reload of its jobs: images, bindings and grants; the snapshot stands in HBM. -/
def TileS.rewarm (x : TileS) : TileS :=
  { TileS.reset with
    prog := x.prog, bind := x.bind, cdir := x.cdir, mset := x.mset, snap := x.snap
    jobs := (x.jobs.map (fun q => (q.1, { q.2 with
      cqs := [], lastDone := [], orders := 0, flags := 0, groupAt := [], escUsed := [], digs := [], contribs := [], rows := [], runs := [], streams := [], ghat := [], sqs := [] }))).filter (fun q => q.2 ≠ TJob.reset) }

/-- A warm reset (R428, R429) with the cause of Table CP-16. -/
def warmReset (cause : Nat) (bor : Bool) (s : State) : State :=
  let d := s.dev
  let groups := s.fabric.groups.filter (fun g => g.1 ≥ 0x40)
  { State.reset with
    time := s.time
    dev := { Dev.reset with
      serial := d.serial, twinSel := d.twinSel, fabPos := d.fabPos, fused := d.fused, retired := d.retired, place := d.place, bootAt := s.time }
    tide := { Tide.reset with start := 5 * s.time }
    host := { HostIf.reset with sent := s.host.sent }
    hostMem := s.hostMem
    fabric := { Fabric.reset with groups := groups }
    tiles := (s.tiles.map (fun x => (x.1, x.2.rewarm))).filter (fun x => x.2 ≠ TileS.reset)
    jobs := ⟨s.jobs.slots.map (fun x => (x.1, x.2.rewarm)), s.jobs.gone⟩
    clk := { Clk.reset with
      islands := (List.range 136).filterMap (fun p =>
        let i := if d.fused.contains p then Island.fused else if d.place.contains (some p) then Island.reset else Island.spare
        if i = Island.reset then none else some (p, i))
      listed := s.clk.listed, unlist := s.clk.unlist, cause := BitVec.ofNat 2 cause, bor := bor, failA := s.clk.failA, failB := s.clk.failB
      nofailover := s.clk.nofailover, thermtrip := s.clk.thermtrip, refDown := s.clk.refDown }
    obs := obsReset false s
    flash := { s.flash with fw := none, images := (s.flash.images.map (fun i => (i.1, { i.2 with verified := false }))).filter (fun i => i.2 ≠ Image.reset) }
    side := { s.side with warmLow := true, monitors := false, i2cStuck := false, i2cTries := 0, i2cAt := 0, i2cFast := false }
    free := s.free
    pending := s.pending }

/-- A cold reset (R428): straps sampled, fuses sensed, tiles assigned over the listed positions (R11, R447). -/
def coldReset (cause : Nat) (bor : Bool) (pins : ColdPins) (s : State) : State :=
  let fused := pins.fused.map (fun f => 34 * f.1.val + f.2.val)
  let listed := s.clk.listed.filter (fun p => !s.clk.unlist.contains p)
  let place := assignTiles fused listed
  let s := { State.reset with
    time := s.time
    side := { Side.reset with porAt := s.time }
    dev := { Dev.reset with
      serial := pins.serial, twinSel := pins.twinSel, fabPos := pins.fabPos, fused := fused, place := place, bootAt := s.time }
    tide := { Tide.reset with start := 5 * s.time }
    host := { HostIf.reset with sent := s.host.sent }
    hostMem := s.hostMem
    clk := { Clk.reset with islands := islandsOf fused listed, listed := listed, cause := BitVec.ofNat 2 cause, bor := bor }
    obs := obsReset true s
    flash := { s.flash with fw := none, images := (s.flash.images.map (fun i => (i.1, { i.2 with verified := false }))).filter (fun i => i.2 ≠ Image.reset) }
    free := s.free
    pending := s.pending }
  if place.contains none then monReason 0x0B25 (logCode 0x0B25 unitDev s) else s

def execColdReset (t : Time) (pins : ColdPins) (s : State) : Out := .next (coldReset 0 false pins (tick t s))
def execWarmReset (t : Time) (s : State) : Out := .next (warmReset 1 false (tick t s))

/-- A brown-out reset is warm when the HBM rails and VDD_IO stayed above their thresholds (R427); its event is logged by the recorder that
the reset leaves, or it would be lost with the on-chip buffer. -/
def execBrownoutReset (t : Time) (kept : Bool) (pins : ColdPins) (s : State) : Out :=
  let s := tick t s
  .next (pwrReason 0x0A05 (logCode 0x0A05 unitDev (if kept then warmReset 2 true s else coldReset 2 true pins s)))

/-- Loss of a REFCLK pair (R413); with all four lost a cold reset follows (Table CP-17). -/
def execRefclkLost (t : Time) (die : Die) (s : State) : Out :=
  let s := tick t s
  let b : BitVec 4 := (1 : BitVec 4) <<< die.val
  let s := markClk die.val (s.updClk (fun c => { c with reflost := c.reflost ||| b, refDown := c.refDown ||| b }))
  let s := clkReason 0x0A0D (logCode 0x0A0D unitDev s)
  .next (if s.clk.refDown = 0xF then
      coldReset 0 false ⟨s.dev.twinSel, s.dev.fabPos, s.dev.serial,
        (List.finRange 4).flatMap (fun d => (List.finRange 34).filterMap (fun k => if s.dev.fused.contains (34 * d.val + k.val) then some (d, k) else none))⟩ s
    else s)

/-- The boot watchdog (R434). -/
def execBootWatchdog (t : Time) (s : State) : Out :=
  let s := tick t s
  .next (if s.dev.st ≠ .boot || s.time < s.dev.bootAt + sec 2 then s
    else
      let slot := (bootOrder s).headD 0
      warmReset 3 false (s.updClk (fun c => if slot = 0 then { c with failA := if c.failA = 0xF then 0xF else c.failA + 1 }
        else { c with failB := if c.failB = 0xF then 0xF else c.failB + 1 })))

/-- Boot ends (R433 to R435, R487, R472): a slot that fails its check is passed over; with none left, of the harbourmaster's or of the pilot
core's, STATE stays BOOT; the versions are those of the commit records (Table CP-9). -/
def bootReady (b : BootInfo) (s : State) : State :=
  if s.dev.st ≠ .boot then s
  else
    let order := bootOrder s
    let ok (k : Nat) : Bool := if k = 0 then b.imageOkA else b.imageOkB
    let pilots := slotOrder s.flash 2
    let pilotOk (k : Nat) : Bool := if k = 0 then b.pilotOkA else b.pilotOkB
    let bad := order.takeWhile (fun k => !ok k) ++ (if order.any ok then pilots.takeWhile (fun k => !pilotOk k) else [])
    let s := bad.foldl (fun s _ => pwrReason 0x0A08 (logCode 0x0A08 unitDev s)) s
    match order.find? ok, pilots.find? pilotOk with
    | none, _ | _, none => pwrReason 0x0A09 (logCode 0x0A09 unitDev s)
    | some k, some q =>
      let s := if order ≠ slotOrder s.flash 0 then pwrReason 0x0A0A (logCode 0x0A0A unitDev s) else s
      let s := s.updClk (fun c => if k = 0 then { c with failA := 0 } else { c with failB := 0 })
      let s := if b.eepromOk then s else clkReason 0x0A10 (logCode 0x0A10 unitDev s)
      let s := s.updClk (fun c => { c with
        reflock := 0xF
        regs := if b.eepromOk then b.regs.foldl (fun r q => Tbl.set 0 r q.1.val q.2) [] else [] })
      let s := s.updSide (fun x => { x with
        monitors := b.eepromOk && b.monitors, i2cFast := b.eepromOk && b.fast, everReady := true, warmLow := false
        jtag := if x.jtag = .idcode || x.jtag = .samplePreload then x.jtag else .bypass })
      let s := s.updHost (fun h => { h with subsys := if b.eepromOk then b.subsys else 0x81281F3A })
      let s := s.updObs (fun o => { o with flashOk := b.flashOk })
      s.updDev (fun d => { d with
        st := .ready, fwHm := (Tbl.get CommitRec.reset s.flash.recs k).version, fwPc := (Tbl.get CommitRec.reset s.flash.recs (2 + q)).version
        numlvl := b.numlvl, hmslot := k = 1, pcslot := q = 1, readyAt := some s.time })

def execBootReady (t : Time) (b : BootInfo) (s : State) : Out := .next (bootReady b (tick t s))

/-! ### Thermal limits (R498) -/

def execOvertempWarning (t : Time) (p : Phys) (temp : BitVec 16) (s : State) : Out :=
  let s := (tick t s).updIsland p.val (fun i => { i with temp := temp.toInt })
  .next (if temp.toInt > 950 then clkReason 0x0A0B (logEv 0x0A0B (match ltileOf s p.val with
      | some n => unitTile n
      | none => unitDev) temp.toNat 0 s)
    else s)

/-- The trip (R498): THERMTRIP_N, 0x0A0C, every tile island, SerDes group and the twin link gated. -/
def execThermalTrip (t : Time) (p : Phys) (s : State) : Out :=
  let s := tick t s
  let s := s.updIsland p.val (fun i => { i with temp := max i.temp 1100 })
  let s := pwrReason 0x0A0C (logCode 0x0A0C unitDev (s.updClk (fun c => { c with thermtrip := true })))
  let s := (List.range 136).foldl (fun s q => if (s.island q).pst = .fused then s else gateTile q s) s
  .next ((List.range 130).foldl (fun s n => if (s.port n).st = .disabled then s else (portDown n s).updPort n (fun p => { p with st := .disabled })) s)

end Sys2Proof.Machine
end

