-- ==== Sys2Proof/Machine/Depend.lean ====
section
/-! DEFINITION. Dependability: live sparing, alarms, scrubbing and self-test (17). -/

namespace Sys2Proof.Machine

/-! ### Live sparing (R445, R446) -/

/-- A spare position of a die that can take a logical tile (R445). -/
def spareOf (s : State) (die : Nat) : Option Nat :=
  ((List.range 34).map (fun k => 34 * die + k)).find? (fun p =>
    !(s.dev.fused.contains p || s.clk.listed.contains p || s.dev.retired.contains p || s.dev.place.contains (some p)))

/-- List a position in MON_RETIRE (R447). -/
def listPos (p : Nat) (s : State) : State :=
  s.updClk (fun c => { c with listed := if c.listed.contains p then c.listed else c.listed ++ [p] })

/-- Ask for a move of a logical tile (R445, R446 step 1 and 2). -/
def requestMove (n : Nat) (s : State) : State :=
  if !mayCarry s n then monReason 0x0910 s
  else match physOf s n, spareOf s (n / 32) with
    | none, _ => monReason 0x0B20 s
    | _, none => monReason 0x0B20 s
    | some old, some new =>
      if unitBusy s old || unitBusy s new then monReason 0x0B21 s
      else
        let s := (jobsOn s n).foldl (fun s j => goOut j 0x0908 true s) s
        let s := s.updClk (fun c => { c with spareSt := 1 })
        wakeTile new (s.updDev (fun d => { d with moves := d.moves ++ [⟨n, old, new, .waking⟩] }))

/-- A write of MON_SPARE (Table DP-9). -/
def writeMonSpare (v : Word) (s : State) : State :=
  let n := bitsN v.toNat 0 7
  let s := s.updClk (fun c => { c with spareTile := BitVec.ofNat 7 n })
  if v.getLsbD 31 then requestMove n s else s

def execSpareGo (t : Time) (v : Word) (s : State) : Out := .next (bar0 t (writeMonSpare v) s)

/-- An island below its floor goes to it (R420, R446). -/
def raiseFloor (p : Nat) (s : State) : State :=
  let f := floorOf s p
  if (s.island p).point < f then s.updIsland p (fun i => { i with busy := false, cur := BitVec.ofNat 3 f, target := BitVec.ofNat 3 f }) else s

/-- Steps 4 to 6 of R446: program memory, bindings, grants and queues stay with the logical tile (Table TP-16); accumulator tiles start FREE. -/
def finishMove (m : Move) (s : State) : State :=
  let s := s.updTile m.tile (fun x => { x with accs := [] })
  let s := s.updDev (fun d => { d with place := d.place.set m.tile (some m.new), retired := m.old :: d.retired, moves := d.moves.filter (· ≠ m) })
  let s := gateTile m.old s
  let s := raiseFloor m.new s
  pilotRestart m.tile (listPos m.old (s.updClk (fun c => { c with spareSt := 2 })))

def execSpareMemoryTestDone (t : Time) (done : SpareTest) (s : State) : Out :=
  let s := tick t s
  .next (match s.dev.moves.find? (fun m => m.new = done.spare.val && m.stage = .testing) with
    | some m => if done.passed then finishMove m s else listPos m.new (abandonMove m s)
    | none => s)

/-- A write of MON_RETIRE of a die (Table DP-10). -/
def writeMonRetire (die : Nat) (v : DWord) (s : State) : State :=
  let pos := bitsN v.toNat 50 6
  s.updClk (fun c => { c with
    retirePos := Tbl.set 0 c.retirePos die (BitVec.ofNat 6 pos)
    unlist := if v.getLsbD 63 && pos < 34 && !c.unlist.contains (34 * die + pos) then (34 * die + pos) :: c.unlist else c.unlist })

def execRetireClear (t : Time) (die : Die) (v : DWord) (s : State) : Out := .next (bar0 t (writeMonRetire die.val v) s)

/-! ### Alarms and monitors (R448, R449) -/

/-- The cause of a tile alarm holds (R449). -/
def alarmHolds (s : State) (p : Nat) : AlarmCause → Bool
  | .timingAtFloor => (s.island p).alarm && (s.island p).point = floorOf s p
  | .sramRepeat addr => match ltileOf s p with
    | some n => 2 ≤ (s.clk.sramUe.filter (· = (n, addr))).length
    | none => false

def execTileAlarm (t : Time) (p : Phys) (cause : AlarmCause) (s : State) : Out :=
  let s := tick t s
  let tested := s.dev.moves.find? (fun m => m.new = p.val && m.stage = .testing)
  .next (match tested with
    | some m => abandonMove m (if alarmHolds s p.val cause then setPred p.val s else s)
    | none =>
      if !alarmHolds s p.val cause then s
      else match s.clk.autospare, ltileOf s p.val with
        | true, some n => requestMove n (setPred p.val s)
        | _, _ => setPred p.val s)

/-- The unit an island's events name. -/
def islandUnit (s : State) (p : Nat) : Nat :=
  match ltileOf s p with
  | some n => unitTile n
  | none => unitDev

def execDroop (t : Time) (p : Phys) (depth : BitVec 16) (s : State) : Out :=
  let s := tick t s
  .next (if depth.toNat ≤ 40 then s
    else
      let s := s.updIsland p.val (fun i => { i with droops := if i.droops = 0xFF then 0xFF else i.droops + 1 })
      monReason 0x0B32 (logEv 0x0B32 (islandUnit s p.val) depth.toNat (oppMv (s.island p.val).point) s))

/-- Slack is in units of 1/256 of the cycle: 8 % is 20.48, 4 % is 10.24. -/
def execTimingWarning (t : Time) (p : Phys) (slack : BitVec 8) (s : State) : Out :=
  let s := (tick t s).updIsland p.val (fun i => { i with slack := slack })
  .next (if slack.toNat ≥ 21 then s
    else monReason 0x0B30 (logEv 0x0B30 (islandUnit s p.val) slack.toNat (s.island p.val).cur.toNat (setWarn p.val s)))

def execTimingAlarm (t : Time) (p : Phys) (slack : BitVec 8) (s : State) : Out :=
  let s := (tick t s).updIsland p.val (fun i => { i with slack := slack })
  .next (if slack.toNat ≥ 11 then s
    else
      let s := monReason 0x0B31 (logEv 0x0B31 (islandUnit s p.val) slack.toNat (s.island p.val).cur.toNat
        (setAlarm p.val s))
      let o := (s.island p.val).point
      if o > floorOf s p.val then startOpp p.val (o - 1) s else s)

/-! ### Unplanned harbourmaster restart (R395) -/

/-- A restart begins, planned or not: every ring that runs is PAUSED. -/
def enterRestart (s : State) : State :=
  let s := s.updDev (fun d => { d with before := d.st, st := .restart })
  (List.range 10).foldl (fun s r =>
    let x := s.ring r
    if x.st = .running || x.st = .stalled || x.st = .draining then s.updRing r (fun x => { x with st := .paused, before := x.st }) else s) s

/-- The harbourmaster restarts: running and stalled rings pause, commands executing complete FAILED with 0x040D when the rings run
again, pending aggregates are lost; the rest of the device goes on. -/
def hmRestart (s : State) : State :=
  if s.dev.st = .boot || s.dev.st = .restart then s
  else
    let s := enterRestart s
    let s := s.host.exec.foldl (fun s x => fail x 0x040D s) s
    let s := s.updHost (fun h => { h with outs := [] })
    let s := s.updFlash (fun f => { f with fw := none })
    let s := (List.range 64).foldl (fun s j => if (s.job j).query.isSome then s.updJob j (fun x => { x with query := none }) else s) s
    let s := (List.range 64).foldl (fun s j => endReplay j s) s
    s.updObs (fun o => { o with aggs := (o.aggs.map (fun a => (a.1, a.2.restart))).filter (fun a => a.2 ≠ Agg.reset) })

/-! ### Scrubbing (R440, R441) -/

/-- Remove the cells that sit in a cell buffer from every queue of the tile, and hand them back. -/
def cellsIn (s : State) (tile b : Nat) : List Cell :=
  let x := s.tile tile
  let pick (l : List QCell) : List Cell := (l.filter (fun c => c.buf = some b)).map (·.cell)
  x.iqs.flatMap (fun q => pick q.2) ++ x.oqs.flatMap (fun q => pick q.2) ++ x.voqs.flatMap (fun q => pick q.2)

def dropBuf (tile b : Nat) (s : State) : State :=
  let keep (l : List QCell) : List QCell := l.filter (fun c => c.buf ≠ some b)
  let all (t : Tbl (List QCell)) : Tbl (List QCell) := (t.map (fun q => (q.1, keep q.2))).filter (fun q => q.2 ≠ [])
  let s := s.updTile tile (fun x => { x with iqs := all x.iqs, oqs := all x.oqs, voqs := all x.voqs })
  releaseBuf tile b s

/-- An uncorrectable SRAM error at an address of a tile. -/
def sramUe (tile addr : Nat) (s : State) : State :=
  bump (tileCtr tile 0x0B0) 1 (s.updClk (fun c => { c with sramUe := (tile, addr) :: c.sramUe }))

/-- An uncorrectable HBM error of a die. -/
def hbmUe (die unit : Nat) (s : State) : State :=
  monReason 0x0B03 (logCode 0x0B03 unit (bump (devCtr (0x40 * die + 0x18)) 1 s))

/-- A job that leaves for OUT sends the STATs that its INCOMPLETE instances have not sent, so that the step is rejected (R441, Table UP-14). -/
def statsBeforeOut (slot : Nat) (s : State) : State :=
  (runningColls s slot).foldl (fun s c => match s.inst? slot c with
    | some i => if i.sent0 || (i.chunks.isEmpty && i.members.isEmpty) then s else instStat slot c false (s.updInst slot c (fun i => { i with sent0 := true }))
    | none => s) (uncompareJob slot s)

/-- Committed state of a job is hit (Table DP-3): its instances are INCOMPLETE; OUT if PAIRED, FROZEN if SERVING, OUT notice. -/
def committedHit (slot : Nat) (s : State) : State :=
  let s := (runningColls s slot).foldl (fun s c => markInc slot c 0x0B03 s) s
  match (s.job slot).st, (s.job slot).twin with
  | .free, _ => s
  | _, .paired => twinReason 0x0B03 (goOut slot 0 true (statsBeforeOut slot s))
  | _, .serving => sendNote (s.job slot).tag.toNat 0 0 0 (freeze slot s)
  | _, _ => s

def scrub (f : ScrubFind) (s : State) : State :=
  match f with
  | .clean => s
  | .sramCorrected n => bump (tileCtr n.val 0x0A8) 1 s
  | .hbmCorrected d => bump (devCtr (0x40 * d.val + 0x10)) 1 s
  | .accMemory n a =>
    let w := ((s.tile n.val).acc a.val).tag
    let s := sramUe n.val (2304 * a.val) s
    if tagState w = accFree then s else tileCause (tagSlot w) (tagColl w) n.val stIncomplete 0x0B02 s
  | .residue n j c =>
    let s := bump (tileCtr n.val 0x0B8) 1 s
    if (s.inst? j.val c.toNat).isSome then tileCause j.val c.toNat n.val stIncomplete 0x0B01 s else s
  | .matrixBuffer n j c =>
    let s := bump (tileCtr n.val 0x0B0) 1 s
    if (s.inst? j.val c.toNat).isSome then tileCause j.val c.toNat n.val stIncomplete 0x0B02 s else s
  | .cellBuffer n b =>
    let cs := cellsIn s n.val b.val
    let s := monReason 0x0B02 (logCode 0x0B02 (unitTile n.val) (sramUe n.val (112 * b.val) s))
    if cs.isEmpty then s
    else cs.foldl (fun s c => if c.cls = clsSched then markCellInc c.job c.coll c.epoch 0x0B02 s else s) (dropBuf n.val b.val s)
  | .programMemory n addr =>
    let s := monReason 0x0B02 (logCode 0x0B02 (unitTile n.val) (sramUe n.val addr s))
    (match physOf s n.val with
      | some p => startIslandReset p s
      | none => s)
  | .pilotMemory n addr =>
    let s := sramUe n.val addr s
    (match physOf s n.val with
      | some p => startIslandReset p s
      | none => s)
  | .harbourmaster => hmRestart s
  | .hbmCommitted j d => committedHit j.val (hbmUe d.val (unitJob j.val) s)
  | .hbmAlternate j c d => markInc j.val c.toNat 0x0B03 (hbmUe d.val (unitJob j.val) s)
  | .hbmSpill j n ord d =>
    (hbmUe d.val (unitJob j.val) s).updJob j.val (fun x => { x with spill := x.spill.map (fun e =>
      if e.1 = spillKey n.val ord then (e.1, invalidRec e.2) else e) })
  | .hbmManifest j r d =>
    (hbmUe d.val (unitJob j.val) s).updJob j.val (fun x => { x with manifest := x.manifest.write (r.val * x.manRec + 7) 0 })
  | .hbmShard j w d =>
    (hbmUe d.val (unitJob j.val) s).updJob j.val (fun x => { x with shards := x.shards.write (w.val * (x.shardb / 2)) 0 })
  | .hbmReserved d => hbmUe d.val unitDev s

def execPatrolScrub (t : Time) (f : ScrubFind) (s : State) : Out := .next (scrub f (tick t s))

/-! ### Self-test (R450) -/

/-- The physical position a TILE_SELFTEST of a tile names. -/
def testPos (s : State) (d : BitVec 512) : Option Nat :=
  if descN d 24 1 = 0 then some (descN d 25 1) else physOf s (descN d 25 1)

/-- An active position whose tile may carry no load is not tested (R450). -/
def testBarred (s : State) (p : Nat) : Bool :=
  (s.island p).pst ≠ .gated && (match ltileOf s p with
    | some n => !mayCarry s n
    | none => false)

/-- A gated position is woken for its test; an active tile's jobs go OUT and an island reset precedes the test (R450). -/
def testTile (p level : Nat) (s : State) : State :=
  let asleep := wakeTile p (s.updDev (fun d => { d with tests := d.tests ++ [⟨false, p, level, none⟩] }))
  if (s.island p).pst = .gated then asleep
  else match ltileOf s p with
    | some n =>
      let s := (jobsOn s n).foldl (fun s j => goOut j 0x0908 true s) s
      islandClear n (s.updDev (fun d => { d with tests := d.tests ++ [⟨false, p, level, some n⟩] }))
    | none => asleep

/-- Mark a command in execution as begun, so that it runs once. -/
def beginExec (x : Exec) (s : State) : State :=
  s.updHost (fun h => { h with exec := h.exec.map (fun e => if e = x then { e with started := true } else e) })

def execTileSelftest (t : Time) (h : HostCmd) (s : State) : Out :=
  .next (hostCmd 0x0C t h (fun x s =>
    let kind := descN x.desc 24 1
    let unit := descN x.desc 25 1
    let level := descN x.desc 26 1
    if unit ≥ (if kind = 0 then 136 else if kind = 1 then 128 else 130) then refuse x 0x040B s
    else if level > 3 || (kind = 2) ≠ (level = 3) then refuse x 0x0401 s
    else if kind = 2 then
      (if s.dev.tests.any (fun q => q.lanes && q.unit = unit) then refuse x 0x0B21 (monReason 0x0B21 s)
      else if (s.port unit).st ≠ .disabled && (s.port unit).st ≠ .down then refuse x 0x0B22 (monReason 0x0B22 s)
      else beginExec x (s.updDev (fun d => { d with tests := d.tests ++ [⟨true, unit, level, none⟩] })))
    else match testPos s x.desc with
      | none => refuse x 0x040B s
      | some p =>
        if (s.island p).pst = .fused then refuse x 0x040B s
        else if unitBusy s p then refuse x 0x0B21 (monReason 0x0B21 s)
        else if testBarred s p then refuse x 0x0910 (monReason 0x0910 s)
        else beginExec x (testTile p level s)) s)

/-- The TILE_SELFTEST that began a test. -/
def testCmd (q : SelfTest) (s : State) : Option Exec :=
  s.host.exec.find? (fun e => descOp e.desc = 0x0C && e.started && q.lanes = decide (descN e.desc 24 1 = 2) &&
    (if q.lanes then descN e.desc 25 1 = q.unit else testPos s e.desc = some q.unit))

/-- A failing active tile is flagged PRED and stays out of service until it is spared (R450). -/
def failTile (p : Nat) (s : State) : State := setPred p (s.updDev (fun d => { d with failed := d.failed ++ [p] }))

/-- What the end of a test does to its unit (R450): an active tile undergoes an island reset and is back, or stays out of service; a woken
position is gated again, and a failing spare is listed. -/
def endTest (q : SelfTest) (pass : Bool) (s : State) : State :=
  if q.lanes then s
  else match q.ltile with
    | some n => if pass then pilotRestart n (islandClear n s) else failTile q.unit s
    | none =>
      let s := gateTile q.unit s
      if pass then s
      else if (ltileOf s q.unit).isSome then failTile q.unit s
      else listPos q.unit (monReason 0x0B23 (logCode 0x0B23 unitDev s))

def execSelftestDone (t : Time) (done : TestEnd) (expected : Word) (s : State) : Out :=
  let s := tick t s
  .next (match s.dev.tests.find? (fun q => q.lanes = done.lanes && q.unit = done.unit) with
    | some q =>
      let pass : Bool := done.signature = expected
      let s := endTest q pass (s.updDev (fun d => { d with tests := d.tests.filter (· ≠ q) }))
      match testCmd q s with
      | some x => finish x stDone 0 (leBytes 4 done.signature.toNat ++ leBytes 1 (b2n pass)) true s
      | none => s
    | none => s)

end Sys2Proof.Machine
end

