-- ==== Sys2Proof/Machine/Fabric.lean ====
section
/-! DEFINITION. Device enable and identity, discovery, flooding, routing, fabric time and port sleep (11, 15 R406). -/

namespace Sys2Proof.Machine

/-! ### Device enable and identity (R289 to R291) -/

/-- The fallback ID (R290). -/
def fallbackOf (d : Dev) : BitVec 12 :=
  BitVec.ofNat 12 (d.fabPos.toNat * 64 + (crc32c (leBytes 8 d.serial.toNat)).toNat % 64)

/-- The check of DEV_CTL.EN (Table RG-8). -/
def runDevCheck (s : State) : State :=
  if s.dev.idValid then s.updDev (fun d => { d with en := true, st := .enabled })
  else devReason 0x0301 (s.updDev (fun d => { d with en := false }))

/-- A write of DEV_CTL (Table RG-5, R406). -/
def writeDevCtl (v : Word) (s : State) : State :=
  if checking .dev s then (if v.getLsbD 0 then s else cancelCheck .dev (s.updDev (fun d => { d with en := false })))
  else
    let was := s.dev.en
    let s := s.updDev (fun d => { d with noFb := v.getLsbD 1 })
    if v.getLsbD 0 then
      if was then s else startCheck .dev runDevCheck (s.updDev (fun d => { d with en := true }))
    else if was then s.updDev (fun d => { d with
        en := false
        st := if d.st = .enabled then .ready else d.st
        before := if d.before = .enabled then .ready else d.before })
    else s

def execDevEnable (t : Time) (v : Word) (s : State) : Out := .next (bar0 t (writeDevCtl (v ||| 1)) s)
def execDevDisable (t : Time) (v : Word) (s : State) : Out := .next (bar0 t (writeDevCtl (v &&& 0xFFFFFFFE)) s)

/-- A write of DEV_ID (Table FB-1): DUP is cleared by a 1, ID is held while EN is 1 (R289). -/
def writeDevId (v : Word) (s : State) : State :=
  s.updDev (fun d =>
    let d := { d with idDup := w1c d.idDup (v.getLsbD 28) (Tbl.get 0 d.w1cAt 2) s }
    if d.en then d else { d with id := v.extractLsb' 0 12, idValid := true, idSource := 1 })

def execDevIdWrite (t : Time) (v : Word) (s : State) : Out := .next (bar0 t (writeDevId v) s)

/-- The fallback ID, 2 s after boot (R290). -/
def execFallbackId (t : Time) (s : State) : Out :=
  let s := tick t s
  .next (match s.dev.readyAt with
    | none => s
    | some r =>
      if s.time < r + sec 2 || s.dev.idSource ≠ 0 || s.dev.noFb || s.dev.en || s.dev.st = .boot then s
      else startCheck .dev runDevCheck (s.updDev (fun d => { d with id := fallbackOf d, idValid := true, idSource := 2, en := true })))

/-! ### HELLO (R292 to R294) -/

/-- A fabric cell of a kind and SUB (Table FB-2). -/
def fabCell (cls kind sub ddev mgrp seq : Nat) (pay : Payload) : Cell := mkRouted cls kind 0 0 0 0 ddev 0 mgrp seq (sub * 2 ^ 34) pay

/-- The HELLO of a port (Table FB-3). -/
def helloCell (s : State) (n : Nat) : Cell :=
  let p := s.port n
  fabCell clsMgmt kDiscovery 0 0 0 0 (payOf (
    leBytes 2 (s.dev.id.toNat + 0x1000 * b2n s.dev.idValid + 0x2000 * b2n s.dev.twinSel) ++ leBytes 1 n ++
    leBytes 4 (p.adjDev.toNat + p.adjPort.toNat * 2 ^ 12 + b2n (p.adj ≠ .down) * 2 ^ 19) ++ leBytes 8 s.dev.serial.toNat ++
    leBytes 6 s.tide.now ++ leBytes 4 s.tide.len ++ leBytes 8 (s.tide.start / 5) ++
    leBytes 1 (b2n s.fabric.tlock + 2 * s.fabric.hops.toNat)))

/-- Less than an interval has passed since a time, if there is one. -/
def within (s : State) (last : Option Time) (d : Time) : Bool :=
  match last with
  | some a => decide (s.time < a + d)
  | none => false

/-- Link up, and not asleep or on the way. -/
def awake (p : PortS) : Bool := p.st = .up && p.slpMove = .none

def execHelloTimer (t : Time) (s : State) : Out :=
  let s := tick t s
  .next (if within s s.fabric.helloAt (us 100) || s.dev.st = .boot then s
    else
      let s := s.updFabric (fun f => { f with helloAt := some s.time })
      (List.range 128).foldl (fun s n => if awake (s.port n) then pushMgmt n (helloCell s n) s else s) s)

/-- A HELLO with a reserved field that is not 0 (0x0304). -/
def helloBad (c : Cell) : Bool :=
  bitsN c.ksf 0 34 ≠ 0 || bitsN (c.pn 0 2) 14 2 ≠ 0 || bitN (c.pbyte 2) 7 || bitsN (c.pn 3 4) 20 12 ≠ 0 || bitsN (c.pbyte 33) 5 3 ≠ 0 ||
  c.pn 34 62 ≠ 0

/-! ### Time lock and the count of tides (R305, R308, R341) -/

/-- PORT_STAT.OFFV falls on every port, until TIME has run again (R305, R341). -/
def clearOffv (s : State) : State :=
  (List.range 130).foldl (fun s n => if (s.port n).offV || (s.port n).timeRun then s.updPort n (fun p => { p with offV := false, timeRun := false }) else s) s

/-- The device leaves lock (R305). -/
def loseLock (s : State) : State :=
  if !s.fabric.tlock then s
  else clearOffv (devReason 0x030B (logCode 0x030B unitDev (s.updFabric (fun f => { f with tlock := false, slew := 0 }))))

/-- Fifths of 2^-16 ns that a tide of a length takes. -/
def tideDur (len : Nat) : Nat := len * slotFifths

/-- The count of a HELLO, whose TSTART drops fifths, is the device's own: the same tide, or one begun or ended between the HELLO and now (R308). -/
def sameCount (x : Tide) (tide len start : Nat) : Bool :=
  let near (a b : Nat) : Bool := a ≤ b && b < a + 5
  (tide = x.now && near start x.start) || (tide + 1 = x.now && near (start + tideDur len) x.start) ||
  (tide = x.now + 1 && near start (x.start + tideDur x.len))

/-- The device takes a count of tides (R308). -/
def setCount (tide len start : Nat) (s : State) : State :=
  s.updTide (fun x => Tide.advance s.time { x with now := tide, len := len, start := start, base := tide * (4 * len) })

/-- The device takes the count of tides from its parent (R308): on a fabric port that of the last HELLO, where its own differs; on the twin link, which
carries no count, a free value (log entry 74). -/
def adoptTide (n : Nat) (s : State) : State :=
  if n < 128 then
    match (s.port n).peerTide with
    | none => s
    | some (tide, len, start) =>
      if len = 0 || sameCount s.tide tide.toNat len.toNat (5 * start.toNat) then s else setCount tide.toNat len.toNat (5 * start.toNat) s
  else
    let v := (Config.freeWord s.free).toNat
    let len := 64 * (1 + v % 1024)
    setCount (v / 1024 % 2 ^ 48) len (5 * s.time - v / 2 ^ 58 % tideDur len) { s with free := s.free + 1 }

/-- The device gains lock: a short retrain on every port (R341), and the parent's count. -/
def gainLock (s : State) : State :=
  if s.fabric.tlock then s
  else
    let s := clearOffv (s.updFabric (fun f => { f with tlock := true }))
    let s := match s.fabric.parent with
      | some n => adoptTide n s
      | none => s
    (List.range 130).foldl (fun s n => owedRetrain n s) s

/-- What an accepted HELLO tells of the partner. OFFV stands only while both ends are locked and TIME has run since (R341). -/
def noteHello (n : Nat) (c : Cell) (s : State) : State :=
  let lock := bitN (c.pbyte 33) 0
  s.updPort n (fun p => { p with
    adjDev := BitVec.ofNat 12 (c.pn 0 2), adjPort := BitVec.ofNat 7 (c.pbyte 2), adjSerial := BitVec.ofNat 64 (c.pn 7 8)
    lastHello := s.time, kind := .device
    peerTide := some (BitVec.ofNat 48 (c.pn 15 6), BitVec.ofNat 32 (c.pn 21 4), BitVec.ofNat 64 (c.pn 25 8))
    peerLock := lock, peerHops := BitVec.ofNat 4 (bitsN (c.pbyte 33) 1 4)
    timeRun := lock && p.timeRun, offV := lock && (p.offV || (p.timeRun && s.fabric.tlock)) })

/-- A locked device follows its parent's count (R308). -/
def followTide (n : Nat) (s : State) : State := if s.fabric.tlock && s.fabric.parent = some n then adoptTide n s else s

/-- A received HELLO (R293, R294). -/
def hello (n : Nat) (c : Cell) (s : State) : State :=
  if helloBad c then devReason 0x0304 (logCode 0x0304 (unitPort n) s)
  else
    let p := s.port n
    let d := c.pn 0 2
    if bitN d 13 != s.dev.twinSel then
      devReason 0x0303 (logCode 0x0303 (unitPort n) (adjDown n (s.updPort n (fun p => { p with planeBad := true, kind := .device, lastHello := s.time }))))
    else
      let changed := p.adj ≠ .down && (!bitN d 12 || p.adjDev.toNat ≠ bitsN d 0 12 || p.adjSerial.toNat ≠ c.pn 7 8)
      let s := if changed then adjDown n s else s
      let s := followTide n (noteHello n c (s.updPort n (fun p => { p with planeBad := false })))
      if changed || !bitN d 12 then s
      else
        let peer := c.pn 3 4
        let sees := bitN peer 19 && bitsN peer 0 12 = s.dev.id.toNat && bitsN peer 12 7 = n
        if p.adj = .twoway then s
        else if sees then advertise (s.updPort n (fun p => { p with adj := .twoway }))
        else if p.adj = .init then s
        else advertise (s.updPort n (fun p => { p with adj := .init }))

def execHello (t : Time) (port : Port) (c : Cell) (s : State) : Out :=
  let s := tick t s
  .next (if c.cls ≠ clsMgmt || c.kind ≠ kDiscovery || bitsN c.ksf 34 3 ≠ 0 then s
    else match takeRx port.val c s with
      | none => s
      | some s => hello port.val c s)

def execAdjacencyTimeout (t : Time) (port : Port) (s : State) : Out :=
  let s := tick t s
  let p := s.port port.val
  .next (if p.adj ≠ .down && p.slp = .active && p.slpMove = .none && p.lastHello + us 300 ≤ s.time then adjDown port.val s else s)

def execEndpointDetect (t : Time) (port : Port) (s : State) : Out :=
  let s := tick t s
  let p := s.port port.val
  .next (if p.st = .up && p.kind = .unknown && p.upAt + ms 1 ≤ s.time then s.updPort port.val (fun p => { p with kind := .endpoint }) else s)

/-! ### The database (R295 to R298) -/

/-- A link as an LSA lists it. -/
structure LinkRec where
  port : Nat
  nbr : Nat
  nport : Nat
  width : Nat
  deriving DecidableEq, Repr

/-- Link records of an LSA part (Table FB-4). -/
def partLinks (p : Payload) : List LinkRec :=
  (List.range (min 20 (bitsN p.toNat 56 8))).map (fun k =>
    let r := bitsN p.toNat (128 + 32 * k) 32
    ⟨bitsN r 25 7, bitsN r 13 12, bitsN r 6 7, bitsN r 4 2⟩)

def Lsa.links (l : Lsa) : List LinkRec := (List.range l.np).flatMap (fun p => partLinks (Tbl.get 0 l.parts p))

/-- Every part of the LSA is held. -/
def Lsa.complete (l : Lsa) : Bool := (List.range l.np).all (fun p => Tbl.get 0 l.parts p ≠ 0)

/-- The LSA part cell for a neighbour. -/
def lsaCell (nbr : Nat) (lseq : Nat) (pay : Payload) : Cell := fabCell clsCtl kDiscovery 1 nbr 0 lseq pay

/-- Send an LSA part on a TWOWAY link, to be repeated until it is acknowledged (R297). -/
def sendPart (n : Nat) (lseq : Nat) (pay : Payload) (s : State) : State :=
  let c := lsaCell (s.port n).adjDev.toNat lseq pay
  pushCtl n [n] c (s.updPort n (fun p => { p with
    unacked := p.unacked.filter (fun u => bitsN u.cell.pay.toNat 0 16 ≠ bitsN pay.toNat 0 16 ||
      bitsN u.cell.pay.toNat 48 3 ≠ bitsN pay.toNat 48 3) ++ [⟨c, 1, s.time⟩] }))

/-- TWOWAY ports. -/
def twoway (s : State) : List Nat := (List.range 128).filter (fun n => (s.port n).adj = .twoway)

def flood (from_ : Option Nat) (lseq : Nat) (pay : Payload) (s : State) : State :=
  ((twoway s).filter (fun n => some n ≠ from_)).foldl (fun s n => sendPart n lseq pay s) s

/-- A complete LSA is the newest of its origin. -/
def setFull (l : Lsa) (s : State) : State :=
  s.updFabric (fun f => { f with full := f.full.filter (fun x => x.origin ≠ l.origin) ++ [l], dbAt := some s.time })

def setDb (l : Lsa) (s : State) : State :=
  s.updFabric (fun f => { f with db := f.db.filter (fun x => x.origin ≠ l.origin) ++ [l] })

/-- Payloads of the device's own LSA (R295, Table FB-4). -/
def ownParts (s : State) (lseq : Nat) : List Payload :=
  let recs := (twoway s).map (fun n =>
    let p := s.port n
    n * 2 ^ 25 + p.adjDev.toNat * 2 ^ 13 + p.adjPort.toNat * 2 ^ 6 + p.widthNow.toNat * 2 ^ 4)
  let np := max 1 ((recs.length + 19) / 20)
  (List.range np).map (fun k =>
    let r := (recs.drop (20 * k)).take 20
    payOf (leBytes 2 s.dev.id.toNat ++ leBytes 4 lseq ++ leBytes 1 (k + 16 * (np - 1)) ++ leBytes 1 r.length ++
      leBytes 8 s.dev.serial.toNat ++ r.flatMap (leBytes 4)))

/-- Originate the LSA with a sequence number. -/
def originate (lseq : Nat) (s : State) : State :=
  let ps := ownParts s lseq
  let l : Lsa := ⟨s.dev.id, BitVec.ofNat 32 lseq, s.dev.serial, ps.length, ps.zipIdx.map (fun q => (q.2, q.1)), s.time⟩
  let s := setFull l (setDb l (s.updFabric (fun f => { f with lseq := BitVec.ofNat 32 lseq, originAt := s.time, changedAt := none })))
  ps.foldl (fun s p => flood none lseq p s) s

/-- The device takes part: it originates LSAs and forwards (R291, R295). -/
def takesPart (s : State) : Bool := s.dev.idValid && forwards s

def execLsaOriginate (t : Time) (s : State) : Out :=
  let s := tick t s
  let f := s.fabric
  .next (if takesPart s && (f.lseq = 0 || (f.changedAt.isSome && f.originAt + us 20 ≤ s.time) || f.originAt + ms 100 ≤ s.time) then
      originate (f.lseq.toNat + 1) s
    else s)

/-- An LSA part with a reserved field that is not 0, or out of its ranges (0x0304). -/
def partBad (c : Cell) : Bool :=
  let n := c.pbyte 7
  bitsN c.ksf 0 34 ≠ 0 || bitsN (c.pn 0 2) 12 4 ≠ 0 || bitN (c.pbyte 6) 3 || bitN (c.pbyte 6) 7 || n > 20 ||
  bitsN (c.pbyte 6) 0 3 > bitsN (c.pbyte 6) 4 3 || bitsN (c.pbyte 6) 4 3 > 6 ||
  (List.range 20).any (fun k =>
    let r := c.pn (16 + 4 * k) 4
    if k < n then bitsN r 0 4 ≠ 0 || bitsN r 4 2 = 3 else r ≠ 0)

/-- A duplicate of this device's ID (R291): the higher serial number withdraws. -/
def duplicateId (serial : Nat) (s : State) : State :=
  let s := devReason 0x0302 (logCode 0x0302 unitDev (markDev 2 (s.updDev (fun d => { d with idDup := true }))))
  if s.dev.serial.toNat > serial then
    s.updDev (fun d => { d with
      idValid := false, en := false
      st := if d.st = .restart then .restart else .withdrawn
      before := if d.st = .restart then .withdrawn else d.before })
  else s

/-- A received LSA part (R296, R297). -/
def lsaPart (n : Nat) (c : Cell) (s : State) : State :=
  if partBad c then devReason 0x0304 (logCode 0x0304 (unitPort n) s)
  else
    let origin := bitsN (c.pn 0 2) 0 12
    let lseq := c.pn 2 4
    let part := bitsN (c.pbyte 6) 0 3
    let np := bitsN (c.pbyte 6) 4 3 + 1
    let serial := c.pn 8 8
    let s := if (s.port n).adj = .down then s
      else pushCtl n [n] (fabCell clsCtl kAck 1 (s.port n).adjDev.toNat 0 0 (payOf (leBytes 7 (c.pn 0 7)))) s
    let mine := s.dev.idValid && origin = s.dev.id.toNat
    if mine && serial = s.dev.serial.toNat then
      (if lseq > s.fabric.lseq.toNat && takesPart s then originate (lseq + 1) s else s)
    else
      let fresh : Lsa := ⟨BitVec.ofNat 12 origin, BitVec.ofNat 32 lseq, BitVec.ofNat 64 serial, np, [], s.time⟩
      let have_ := s.fabric.db.find? (fun l => l.origin.toNat = origin)
      let base := match have_ with
        | none => some fresh
        | some l => if lseq > l.lseq.toNat then some fresh
          else if lseq = l.lseq.toNat && Tbl.get 0 l.parts part = 0 then some l else none
      match base with
      | none => s
      | some l =>
        let l := { l with parts := Tbl.set 0 l.parts part c.pay, at_ := s.time }
        let s := flood (some n) lseq c.pay (setDb l s)
        if !l.complete then s
        else
          let s := setFull l s
          if mine then duplicateId serial s else s

/-- A control cell of a fabric exchange on a port. -/
def takeFab (n kind sub : Nat) (c : Cell) (s : State) : Option State :=
  if c.cls ≠ clsCtl || c.kind ≠ kind || bitsN c.ksf 34 3 ≠ sub then none else takeRx n c s

def execLsaPart (t : Time) (port : Port) (c : Cell) (s : State) : Out :=
  let s := tick t s
  .next (match takeFab port.val kDiscovery 1 c s with
    | none => s
    | some s => lsaPart port.val c s)

def execLsaAck (t : Time) (port : Port) (c : Cell) (s : State) : Out :=
  let s := tick t s
  .next (match takeFab port.val kAck 1 c s with
    | none => s
    | some s => s.updPort port.val (fun p => { p with unacked := p.unacked.filter (fun u => bitsN u.cell.pay.toNat 0 56 ≠ c.pn 0 7) }))

/-- Parts due again after 50 us; after 20 sends the adjacency goes DOWN (R297). On a port that sleeps they stay as they are (R311). -/
def execLsaRetransmit (t : Time) (port : Port) (s : State) : Out :=
  let s := tick t s
  let n := port.val
  let due (u : Unacked) : Bool := u.at_ + us 50 ≤ s.time
  let us_ := (s.port n).unacked
  .next (if (s.port n).slp ≠ .active || (s.port n).slpMove ≠ .none then s
    else if us_.any (fun u => due u && 20 ≤ u.sends) then adjDown n s
    else
      let s2 := s.updPort n (fun p => { p with unacked := us_.map (fun u => if due u then { u with sends := u.sends + 1, at_ := s.time } else u) })
      (us_.filter due).foldl (fun s u => pushCtl n [n] u.cell s) s2)

def execLsaExpiry (t : Time) (s : State) : Out :=
  let s := tick t s
  let old (l : Lsa) : Bool := decide (l.at_ + sec 1 ≤ s.time)
  .next (if s.fabric.full.any old || s.fabric.db.any old then
      s.updFabric (fun f => { f with
        dbAt := if f.full.any old then some s.time else f.dbAt
        full := f.full.filter (fun l => !old l), db := f.db.filter (fun l => !old l) })
    else s)

/-! ### Routing (R298, R299) -/

def lsaOf (s : State) (dev : Nat) : List LinkRec := ((s.fabric.full.find? (fun l => l.origin.toNat = dev)).map Lsa.links).getD []

/-- Links of a device that the LSAs of both ends list (R298). -/
def edges (s : State) (dev : Nat) : List LinkRec :=
  (lsaOf s dev).filter (fun e => (lsaOf s e.nbr).any (fun f => f.port = e.nport && f.nbr = dev && f.nport = e.port))

/-- Devices at each distance from a start, breadth first: known (device, hops). -/
def bfs (s : State) : Nat → Nat → List Nat → List (Nat × Nat) → List (Nat × Nat)
  | 0, _, _, known => known
  | k + 1, d, front, known =>
    let next := (dedupNat (front.flatMap (fun a => (edges s a).map (·.nbr)))).filter (fun b => !known.any (fun q => q.1 = b))
    if next.isEmpty then known else bfs s k (d + 1) next (known ++ next.map (fun b => (b, d + 1)))

/-- Hop counts from a device over the database. -/
def hopsFrom (s : State) (dev : Nat) : List (Nat × Nat) := bfs s (s.fabric.full.length + 1) 0 [dev] [(dev, 0)]

def hopTo (h : List (Nat × Nat)) (dev : Nat) : Option Nat := (h.find? (fun q => q.1 = dev)).map (·.2)

/-- The routing entry for a destination at a distance of at most 8 (Table FB-5). -/
def routeEntry (s : State) (dest hops : Nat) : DWord :=
  let h := hopsFrom s dest
  let ports := (((edges s s.dev.id.toNat).filter (fun e => (s.port e.port).adj = .twoway && hopTo h e.nbr = some (hops - 1))).map (·.port)).mergeSort
  let ports := ports.take 8
  BitVec.ofNat 64 (ports.length * 2 ^ 60 + hops * 2 ^ 56 + (ports.zipIdx.map (fun q => q.1 * 2 ^ (7 * q.2))).sum)

/-- The new table (R299). -/
def newRoutes (s : State) : Tbl DWord :=
  if !s.dev.idValid then []
  else (hopsFrom s s.dev.id.toNat).foldl (fun t q => if q.2 = 0 || q.2 > 8 then t else Tbl.set 0 t q.1 (routeEntry s q.1 q.2)) []

/-! ### Fabric time (R302 to R309) -/

/-- The parent link a device chooses: neighbour one hop nearer the root, lowest ID, then lowest local port (R303). -/
def parentOf (s : State) (h : List (Nat × Nat)) (dev : Nat) : Option LinkRec :=
  match hopTo h dev with
  | none => none
  | some 0 => none
  | some (k + 1) =>
    let c := (edges s dev).filter (fun e => hopTo h e.nbr = some k)
    (c.mergeSort (fun a b => a.nbr < b.nbr || (a.nbr = b.nbr && a.port ≤ b.port))).head?

/-- TIME_PPS pulses are present and enabled at the device of plane A with an ID. This device knows only its own input; of another device it is a free
value (log entry 74). -/
def ppsAt (s : State) (dev : Nat) : Bool :=
  if dev = s.dev.id.toNat && !s.dev.twinSel then s.clk.ppsInEn && s.clk.ppsPresent else bitN (Config.freeWord (s.free + dev)).toNat 0

/-- The root (R303): the lowest ID of the database whose device in plane A has PPS, else the lowest ID. -/
def chooseRoot (s : State) : Option Nat :=
  if !s.dev.idValid then none
  else
    let ids := s.dev.id.toNat :: s.fabric.full.map (·.origin.toNat)
    let pps := ids.filter (ppsAt s)
    some ((if pps.isEmpty then ids else pps).foldl Nat.min 4095)

/-- Half of the twin link that is UP, for plane B's root. -/
def twinHalf (s : State) : Option Nat := ([128, 129] : List Nat).find? (fun n => s.twin.dst = .moored && (s.port n).st = .up)

/-- Group 0x0001: the links to the device's time children, with LOCAL (R309). -/
def timeTree (s : State) (h : List (Nat × Nat)) : BitVec 256 :=
  let me := s.dev.id.toNat
  let kids := (edges s me).filter (fun e => match parentOf s h e.nbr with
    | some q => q.nbr = me && q.port = e.nport
    | none => false)
  BitVec.ofNat 256 (2 ^ 141 + 2 ^ 140 + ((dedupNat (kids.map (·.port))).map (fun p => 2 ^ p)).sum)

/-- Root, parent and time tree with a root chosen (R303, R309). -/
def takeRoot (root : Option Nat) (s : State) : State :=
  match root with
  | none => loseLock (s.updFabric (fun f => { f with root := none, parent := none, hops := 0xF, groups := Tbl.set 0 f.groups 1 0 }))
  | some r =>
    let h := hopsFrom s r
    let me := s.dev.id.toNat
    let link := (parentOf s h me).map (·.port)
    let parent := if r = me then (if s.dev.twinSel then twinHalf s else none) else link
    let s := s.updFabric (fun f => { f with
      root := some (BitVec.ofNat 12 r), parent := parent, hops := BitVec.ofNat 4 (min 15 ((hopTo h me).getD 15))
      groups := Tbl.set 0 f.groups 1 (timeTree s h) })
    if r = me && !s.dev.twinSel then gainLock s
    else if parent.isNone then loseLock s
    else s

/-- Choose root, parent and time tree again. -/
def retime (s : State) : State := takeRoot (chooseRoot s) { s with free := s.free + 4096 }

/-- The routing table is installed 200 us after the last change (R299); reachability is tested (R361) and the time tree kept. -/
def execRouteInstall (t : Time) (s : State) : Out :=
  let s := tick t s
  .next (match s.fabric.dbAt with
    | none => s
    | some a =>
      if s.time < a + us 200 then s
      else
        let far := (hopsFrom s s.dev.id.toNat).filter (fun q => q.2 > 8)
        let s := far.foldl (fun s _ => devReason 0x0305 (logCode 0x0305 unitDev s)) s
        let s := s.updFabric (fun f => { f with routes := newRoutes s, dbAt := none })
        let s := retime s
        (loadedSlots s).foldl (fun s j =>
          if (s.job j).twin = .paired && (s.job j).devset.any (fun d => d ≠ s.dev.id && bitsN (Tbl.get 0 s.fabric.routes d.toNat).toNat 60 4 = 0)
          then goOut j 0x0907 true s else s) s)

/-- The delay asymmetry of a port in units of 2^-16 ns (Table LN-12). -/
def asymOf (p : PortS) : Int := p.asym.toInt * 64

/-- theta and delay of an exchange (R304). -/
def exchange (x : Stamps) (a : Int) : Int × Int :=
  let f : Int := (x.t2.toNat : Int) - x.t1.toNat
  let b : Int := (x.t4.toNat : Int) - x.t3.toNat
  (Int.tdiv (f - b - a) 2, Int.tdiv (f + b + a) 2)

/-- REQ of the exchange last begun. -/
def timeReqCell (s : State) : Cell := fabCell clsMgmt kTime 0 0 0 s.fabric.exch.toNat 0

def execTimeExchange (t : Time) (s : State) : Out :=
  let s := tick t s
  .next (match s.fabric.parent with
    | none => s
    | some n =>
      if within s s.fabric.exchAt (ms 1) then s
      else
        let s := s.updFabric (fun f => { f with exch := f.exch + 1, reqSeq := f.exch + 1, exchAt := some s.time, sentT1 := none })
        pushMgmt n (timeReqCell s) s)

/-- A REQ is answered with T1 echoed, T2, and T3 as it leaves (R304). -/
def execTimeReq (t : Time) (set : PSet) (c : Cell) (arrival : BitVec 64) (s : State) : Out :=
  let s := tick t s
  .next (if c.cls ≠ clsMgmt || c.kind ≠ kTime || bitsN c.ksf 34 3 ≠ 0 then s
    else match takeRx set.val c s with
      | none => s
      | some s => pushMgmt set.val (fabCell clsMgmt kTime 1 0 0 c.seq (payOf (leBytes 8 (c.pn 0 8) ++ leBytes 8 arrival.toNat))) s)

/-- A job is RUNNING on the device. -/
def anyRunning (s : State) : Bool := (List.range 64).any (fun j => (s.job j).st = .running)

def clampInt (lo hi x : Int) : Int := max lo (min hi x)

/-- The device uses theta of an exchange with its parent (R305). -/
def discipline (theta : Int) (s : State) : State :=
  let big := theta > 65536000 || theta < -65536000
  let ppm := clampInt (-50) 50 (Int.tdiv theta 65536)
  if s.fabric.tlock then
    if big then loseLock s else s.updFabric (fun f => { f with slew := ppm })
  else if anyRunning s then
    (if big then s.updFabric (fun f => { f with slew := if theta < 0 then -50 else 50 })
     else gainLock (s.updFabric (fun f => { f with slew := ppm })))
  else gainLock { s with time := max s.time ((s.time : Int) + theta).toNat }

/-- The four stamps that a RESP closes. -/
def stampsOf (c : Cell) (arrival : BitVec 64) : Stamps := ⟨BitVec.ofNat 64 (c.pn 0 8), BitVec.ofNat 64 (c.pn 8 8), BitVec.ofNat 64 (c.pn 16 8), arrival⟩

/-- The offset record of a start-tide exchange (R307, Table RG-12). -/
def offsetRec (e : StartEx) (x : Stamps) (a : Int) : OffsetRec :=
  let r := exchange x a
  ⟨BitVec.ofInt 64 r.1, BitVec.ofInt 64 r.2, e.tag, e.tide, true⟩

/-- A RESP closes the exchange of a start tide on its port (R307), or the exchange with the parent (R305). -/
def takeResp (n : Nat) (c : Cell) (arrival : BitVec 64) (s : State) : State :=
  let a := asymOf (s.port n)
  let mine (seq : BitVec 16) (t1 : Option (BitVec 64)) : Bool := c.seq = seq.toNat && t1 = some (BitVec.ofNat 64 (c.pn 0 8))
  match (s.port n).startEx.filter (fun e => mine e.seq e.t1) with
  | some e => s.updPort n (fun p => { p with startEx := none, offset := offsetRec e (stampsOf c arrival) a })
  | none =>
    if s.fabric.parent = some n && mine s.fabric.reqSeq s.fabric.sentT1 then
      discipline (exchange (stampsOf c arrival) a).1 (s.updFabric (fun f => { f with sentT1 := none }))
    else s

def execTimeResp (t : Time) (set : PSet) (c : Cell) (arrival : BitVec 64) (s : State) : Out :=
  let s := tick t s
  .next (if c.cls ≠ clsMgmt || c.kind ≠ kTime || bitsN c.ksf 34 3 ≠ 1 then s
    else match takeRx set.val c s with
      | none => s
      | some s => takeResp set.val c arrival s)

/-- A link of the start-tide exchange: TWOWAY, or to an endpoint (R307). -/
def exchanges (p : PortS) : Bool := linkAlive p && (p.adj = .twoway || p.kind = .endpoint)

/-- The exchange of a job's start tide on a port (R307), once for each JOB_START: with no operand it begins, by a REQ at that tide; with the RESP and its
arrival it ends, and fills the port's offset record. -/
def execStartTideExchange (t : Time) (slot : Slot) (port : Port) (x : Option (Cell × BitVec 64)) (s : State) : Out :=
  let s := tick t s
  let n := port.val
  let j := s.job slot.val
  let p := s.port n
  let begun := p.startEx.any (fun e => e.tag = j.tag && e.tide = j.startTide) || (p.offset.valid && p.offset.job = j.tag && p.offset.tide = j.startTide)
  .next (match x with
    | none =>
      if j.st ≠ .running || begun || s.tide.now ≠ j.startTide.toNat || !exchanges p then s
      else
        let s := s.updFabric (fun f => { f with exch := f.exch + 1 })
        pushMgmt n (timeReqCell s) (s.updPort n (fun p => { p with startEx := some ⟨j.tag, j.startTide, s.fabric.exch, none⟩ }))
    | some (c, arrival) =>
      if !p.startEx.any (fun e => e.tag = j.tag && e.tide = j.startTide) || c.cls ≠ clsMgmt || c.kind ≠ kTime || bitsN c.ksf 34 3 ≠ 1 then s
      else match takeRx n c s with
        | none => s
        | some s => takeResp n c arrival s)

/-! ### PPS (R495, R303) -/

/-- An edge: PRESENT, the root chosen again, and the root's rate adjusted toward the nearest integer second. -/
def execPpsEdge (t : Time) (s : State) : Out :=
  let s := tick t s
  .next (if !s.clk.ppsInEn then s
    else
      let s := retime (s.updClk (fun c => { c with ppsPresent := true, ppsAt := s.time }))
      let r := s.time % sec 1
      let off : Int := if 2 * r ≥ sec 1 then (sec 1 : Int) - r else -(r : Int)
      if s.fabric.root = some s.dev.id && !s.dev.twinSel then s.updFabric (fun f => { f with slew := clampInt (-50) 50 (Int.tdiv off 65536) }) else s)

def execPpsLoss (t : Time) (s : State) : Out :=
  let s := tick t s
  .next (if s.clk.ppsPresent && s.clk.ppsAt + ms 1500 ≤ s.time then retime (s.updClk (fun c => { c with ppsPresent := false })) else s)

/-- The output is high for 1 ms from each integer second while OUTEN is 1. -/
def execPpsOut (t : Time) (s : State) : Out :=
  let s := tick t s
  .next (s.updClk (fun c => { c with ppsOut := c.ppsOutEn && decide (s.time % sec 1 < ms 1) }))

/-! ### Port sleep (R311, R312, R346) -/

/-- R311. -/
def maySleep (s : State) (n : Nat) : Bool :=
  let p := s.port n
  !carriesSlice s n && p.slipQ.isEmpty && p.ctlQ.isEmpty && p.mgmtQ.isEmpty && p.unsQ.isEmpty && p.st = .up && p.req.isNone &&
  p.fecReq.isNone && p.switchOut.isEmpty && p.switchIn.isEmpty

/-- A slot of the retry buffer carries a cell or a handshake code (R346; log entry 73). -/
def heldBusy (p : PortS) : Bool := p.held.any (fun x => x.ctl ≠ 0 || x.cells.any (fun c => !isIdle c))
/-- Sleep entry begins. -/
def enterSleep (n : Nat) (deep ackSent : Bool) (s : State) : State :=
  s.updPort n (fun p => { p with slpMove := .entering p.woken, slpDeep := deep, slpAckSent := ackSent, slpAt := s.time, woken := false })

/-- A request for sleep (Table FB-8). -/
def requestSleep (n : Nat) (deep : Bool) (s : State) : State :=
  let p := s.port n
  if p.slp ≠ .active || p.slpMove ≠ .none then s
  else if !maySleep s n then sleepReason n 0x0308 s
  else pushMgmt n (sleepCell 0 deep) (s.updPort n (fun p => { p with slp := .negotiating, slpDeep := deep, slpAt := s.time, woken := false }))

/-- A write of PORT_SLEEP (Table FB-7). -/
def writePortSleep (n : Nat) (v : Word) (s : State) : State :=
  let s := s.updPort n (fun p => { p with autowake := v.getLsbD 3 })
  match bitsN v.toNat 4 2 with
  | 1 => requestSleep n false s
  | 2 => requestSleep n true s
  | 3 => wakePort n s
  | _ => s

def execSleepRequestLight (t : Time) (port : Port) (v : Word) (s : State) : Out :=
  .next (bar0 t (writePortSleep port.val ((v &&& 0xFFFFFFCF) ||| 0x10)) s)
def execSleepRequestDeep (t : Time) (port : Port) (v : Word) (s : State) : Out :=
  .next (bar0 t (writePortSleep port.val ((v &&& 0xFFFFFFCF) ||| 0x20)) s)
def execWakeCommand (t : Time) (port : Port) (v : Word) (s : State) : Out :=
  .next (bar0 t (writePortSleep port.val (v ||| 0x30)) s)

/-- A sleep cell of a SUB on a port. -/
def takeSleep (n sub : Nat) (c : Cell) (s : State) : Option State :=
  if c.cls ≠ clsMgmt || c.kind ≠ kSleep || bitsN c.ksf 34 3 ≠ sub then none else takeRx n c s

/-- A received SLEEP (Table FB-8); NAK while the retry buffer is not empty (Table LN-13). -/
def sleepCome (n : Nat) (deep : Bool) (s : State) : State :=
  let p := s.port n
  match p.slp, p.slpMove with
  | .negotiating, .none =>
    if ownStands s n then s
    else
      let s := sleepReason n 0x030A (bump (portCtr n 0x0B8) 1 (logCode 0x030A (unitPort n) (s.updPort n (fun p => { p with slp := .active }))))
      enterSleep n deep true (pushMgmt n (sleepCell 1 deep) (s.updPort n (fun p => { p with woken := false })))
  | .active, .none =>
    if maySleep s n && !heldBusy p then enterSleep n deep true (pushMgmt n (sleepCell 1 deep) (s.updPort n (fun p => { p with woken := false })))
    else pushMgmt n (sleepCell 2 deep) s
  | _, _ => s

def execSleep (t : Time) (port : Port) (c : Cell) (s : State) : Out :=
  let s := tick t s
  .next (match takeSleep port.val 0 c s with
    | none => s
    | some s => sleepCome port.val (bitN c.ksf 33) s)

/-- SLEEP_ACK begins the entry; one that crosses a wake signal has entry finish and exit begin at once (R314). -/
def execSleepAck (t : Time) (port : Port) (c : Cell) (s : State) : Out :=
  let s := tick t s
  let n := port.val
  .next (match takeSleep n 1 c s with
    | none => s
    | some s => if ((s.port n).slp = .negotiating || (s.port n).woken) && (s.port n).slpMove = .none then enterSleep n (s.port n).slpDeep false s else s)

def execSleepNak (t : Time) (port : Port) (c : Cell) (s : State) : Out :=
  let s := tick t s
  let n := port.val
  .next (match takeSleep n 2 c s with
    | none => s
    | some s =>
      match (s.port n).slpMove with
      | .entering _ => if (s.port n).slpAckSent then s.updPort n (fun p => { p with slpMove := .entering true }) else s
      | .exiting => s
      | .none => if (s.port n).slp = .negotiating then sleepReason n 0x0308 (s.updPort n (fun p => { p with slp := .active })) else s)

def execSleepTimeout (t : Time) (port : Port) (s : State) : Out :=
  let s := tick t s
  let n := port.val
  let p := s.port n
  .next (if p.slp = .negotiating && p.slpMove = .none && p.slpAt + us 10 ≤ s.time then sleepReason n 0x0309 (s.updPort n (fun p => { p with slp := .active })) else s)

/-- Entry ends after its time, with nothing left to send and an empty retry buffer (R312, R346). -/
def execSleepEntryDone (t : Time) (port : Port) (s : State) : Out :=
  let s := tick t s
  let n := port.val
  let p := s.port n
  .next (match p.slpMove with
    | .entering wake =>
      if s.time < p.slpAt + (if p.slpDeep then ns 400 else ns 60) || heldBusy p || p.mgmtQ.any (fun c => c.kind = kSleep) then s
      else
        let s := s.updPort n (fun p => { p with slp := if p.slpDeep then .deep else .light, st := .sleep, slpMove := .none })
        if wake then wakePort n s else s
    | _ => s)

/-- Exit ends: light sleep goes on where it stopped, deep sleep runs the short retrain (R346). -/
def execSleepExitDone (t : Time) (port : Port) (s : State) : Out :=
  let s := tick t s
  let n := port.val
  .next (if (s.port n).slpMove ≠ .exiting then s
    else
      let deep := (s.port n).slp = .deep
      let s := s.updPort n (fun p => { p with slp := .active, slpMove := .none, wakeOut := false, lastHello := s.time, heldAt := s.time, st := .up })
      if deep then startShort n s else s)

/-- The partner's wake signal (Table LN-8): a port that enters sleep finishes first, and a negotiation is cancelled (Table FB-8). -/
def execWakeSignal (t : Time) (set : PSet) (s : State) : Out :=
  let s := tick t s
  let n := set.val
  let own := (s.port n).wakeOut
  let asks := (s.port n).slp = .negotiating && (s.port n).slpMove = .none
  .next ((wakePort n s).updPort n (fun p => { p with wakeOut := own, woken := p.woken || asks }))

end Sys2Proof.Machine
end

