-- ==== Sys2Proof/Machine/Gate.lean ====
section
/-! DEFINITION. The step gate: STAT cells, the verdict tile's decisions, VERDICTs and what a device does on them (05 R120, R121; 06 R149
to R163; 13 R363). -/

namespace Sys2Proof.Machine

/-! ### STAT fields (Tables UP-7, UP-8) -/

/-- A STAT or VERDICT cell of the device's own that R149 drops is counted as a header error of the tile that would take it. -/
def dropKsf (tile : Nat) (s : State) : State := bump (portCtr tile 0x080) 1 s

def payN (p : Payload) (lo n : Nat) : Nat := bitsN p.toNat (8 * lo) (8 * n)
def statTarget (p : Payload) : Nat := payN p 0 2
def statStep (p : Payload) : Nat := payN p 2 5
def statStatus (p : Payload) : Nat := payN p 7 1 % 16
def statSat (p : Payload) : Bool := bitN (payN p 7 1) 4
def statNfu (p : Payload) : Bool := bitN (payN p 7 1) 6
def statReason (p : Payload) : Nat := payN p 8 2
def statMissing (p : Payload) : Nat := payN p 10 3 % 2 ^ 18
def statC (p : Payload) : Option Nat := if payN p 13 1 = 0xFF then none else some (payN p 13 1)
def statWlsb (p : Payload) : Int := (BitVec.ofNat 16 (payN p 14 2)).toInt
def statNan (p : Payload) : Nat := payN p 16 4
def statInf (p : Payload) : Nat := payN p 20 4
def statSsq (p : Payload) : Nat := payN p 24 20

/-- The greatest c of a list of STATs. -/
def maxC (l : List Payload) : Option Nat :=
  l.foldl (fun a p => match a, statC p with
    | some x, some y => some (Nat.max x y)
    | none, y => y
    | x, none => x) none

/-- The lowest missing rank of a list of STATs. -/
def minMissing (l : List Payload) : Nat := l.foldl (fun a p => Nat.min a (statMissing p)) missNone

/-- The bound test of R64 fails. -/
def boundFails (e : Entry) (w : Nat) (c : Option Nat) : Bool :=
  match c with
  | none => false
  | some c => isSumming e.op && c + clog2 (e.m * e.k) + 2 > w

/-! ### The window planner (R67, R68) -/

/-- WTOP of the next instance. -/
def planNext (wtop : Int) (w : Nat) (c : Option Nat) (mk margin : Nat) : Int :=
  match c with
  | none => wtop
  | some c => min (max ((c : Int) + (wtop - w + 2) + clog2 mk + margin) (-126)) 127

/-- A plan word with another WTOP. -/
def setWtop (cfg : BitVec 1024) (t : Int) : BitVec 1024 :=
  (cfg &&& ~~~((0xFF : BitVec 1024) <<< 88)) ||| ((BitVec.ofInt 8 t).setWidth 1024 <<< 88)

/-- Run the planner for an entry with the global c of its instance; a plan that COLL_DEFINE has changed meanwhile stands. -/
def runPlanner (slot coll : Nat) (c : Option Nat) (s : State) : State :=
  s.updJob slot (fun x => x.updEntry coll (fun e =>
    if !planAuto e.plan || !isSumming e.op then e
    else
      let (wtop, w) := match e.inst with
        | some i => (i.wtop, i.w)
        | none => (planWtop e.plan, planW e.plan)
      let t := planNext wtop w c (e.m * e.k) (planMargin e.plan)
      { e with
        cfg := setWtop e.cfg t
        next := e.next.map (fun n => if bitsN n.toNat 64 32 = e.plan then setWtop n t else n) }))

/-! ### Who takes part (R101, R121) -/

/-- This device takes part in an entry's instances. -/
def hasPart (s : State) (slot coll : Nat) : Bool :=
  let x := s.job slot
  let e := x.entry coll
  !(localMembers s x e).isEmpty || !(homeChunks s x e).isEmpty ||
  (e.mgroup ≠ 0 && grpValid (Tbl.get 0 s.fabric.groups e.mgroup))

/-- Devices whose STATs an instance's verdict waits for: those of the member list and of the home map's chunks. -/
def statDevs (x : Job) (e : Entry) : List Nat :=
  dedupNat ((List.range e.m).map (fun i => (memberRec x e i).2.1) ++
    (if isSumming e.op || isSelecting e.op || e.op = 0xB then (List.range (min e.homes e.nchunks)).map (hmapDev x e) else []))

/-- Devices that home a chunk of an entry. -/
def homeDevs (x : Job) (e : Entry) : List Nat := dedupNat ((List.range (min e.homes e.nchunks)).map (hmapDev x e))

/-! ### The decision (R152 to R155, Table UP-9) -/

/-- A decision before its effect on the loss scale. -/
structure Ruling where
  dec : Nat
  reason : Nat
  cause : Nat
  halve : Bool
  plan : Bool
  deriving DecidableEq, Repr

/-- The deciding STAT: the lowest step position, then the lowest device (R154). -/
def deciding (l : List StatRec) (p : Payload → Bool) : Option StatRec :=
  (l.filter (fun r => p r.pay)).foldl (fun a r => match a with
    | none => some r
    | some b => if r.pos * 4096 + r.dev.toNat < b.pos * 4096 + b.dev.toNat then some r else some b) none

def causeOf (r : Option StatRec) : Nat := (r.map (fun q => statReason q.pay)).getD 0

/-- The global c of a step position. -/
def posC (l : List StatRec) (pos : Nat) : Option Nat := maxC ((l.filter (fun r => r.pos = pos)).map (·.pay))

/-- Rows 1 to 6 of Table UP-9 over the STATs of a round. -/
def rejectRow (x : Job) (l : List StatRec) (missing : Bool) : Option Ruling :=
  let row (p : Payload → Bool) (code : Nat) (halve plan : Bool) : Option Ruling :=
    (deciding l p).map (fun r => ⟨3, code, statReason r.pay, halve, plan⟩)
  let overflow := x.steps.zipIdx.any (fun q =>
    let e := x.entry q.1.1.toNat
    boundFails e (((e.inst.map (·.w))).getD (planW e.plan)) (posC l q.2))
  if missing then some ⟨3, 0x0701, 0, false, false⟩
  else (row (fun p => statStatus p = stAborted) 0x0702 false false).or
    ((row (fun p => statStatus p = stIncomplete) 0x0703 false false).or
    ((row (fun p => statNan p + statInf p > 0) 0x0704 true false).or
    ((row (fun p => statSat p || statStatus p = stSaturated) 0x0705 false true).or
    ((if overflow then some ⟨3, 0x0705, 0, false, true⟩ else none).or
    (row statNfu 0x0706 false false)))))

/-- The squared norm of R153, exactly. -/
def normSq (l : List StatRec) : Val := l.foldl (fun a r => a.add (.fin false (statSsq r.pay) (2 * statWlsb r.pay))) Val.zero

/-- Clipping applies (R153). -/
def clips (x : Job) (l : List StatRec) : Bool :=
  let c := encFp32.raw x.clipmax.toNat
  x.clipmax ≠ 0 && (c.mul c).lt (normSq l)

/-- α and NORM of round 0 (R153). -/
def alphaOf (x : Job) (l : List StatRec) : Nat :=
  let c := encFp32.raw x.clipmax.toNat
  if clips x l then toFp32 ((c.mul c).div (normSq l)).sqrt else 0x3F800000
def normOf (l : List StatRec) : Nat := toFp32 (normSq l).sqrt

/-- Round 0 by Table UP-9; decision 2 is a clip round. -/
def ruling0 (x : Job) (l : List StatRec) (missing : Bool) : Ruling :=
  match rejectRow x l missing with
  | some r => r
  | none => if clips x l then ⟨2, 0, 0, false, false⟩ else ⟨1, 0, 0, false, true⟩

/-- Round 1 (R155). -/
def ruling1 (x : Job) (l : List StatRec) (missing : Bool) : Ruling :=
  match rejectRow x l missing with
  | some r => ⟨3, 0x0707, r.cause, false, false⟩
  | none => ⟨2, 0, 0, false, true⟩

/-! ### Loss scale (R159) -/

/-- LSEXP as a signed number. -/
def Job.ls (x : Job) : Int := x.lsexp.toInt

/-- LSEXP, CLEAN and the FLAGS that a final ruling gives. -/
def lossScale (x : Job) (r : Ruling) : Int × Nat × Nat :=
  if r.dec ≠ 3 then
    if x.clean.toNat + 1 = x.grow.toNat then
      (if x.ls < 24 then (x.ls + 1, 0, 2) else (x.ls, 0, 0))
    else (x.ls, x.clean.toNat + 1, 0)
  else if r.halve then (if x.ls > -24 then (x.ls - 1, 0, 1) else (x.ls, 0, 16))
  else (x.ls, x.clean.toNat, 0)

/-- Step VERDICT part 0 (Table UP-10). A clip order, of which R155 says only that it has this payload with DECISION 2, carries LSEXP and CLEAN as they
are (DESIGN CHOICE, log entry 67). -/
def verdictPay (x : Job) (r : Ruling) (alpha norm missing : Nat) (simplex clipOrder : Bool) : Payload :=
  let (ls, clean, fl) := if clipOrder then (x.ls, x.clean.toNat, 0) else lossScale x r
  payOf (leBytes 5 x.attemptStep ++ leBytes 1 r.dec ++ leBytes 2 r.reason ++ leBytes 2 r.cause ++ leBytes 1 (toW 8 ls) ++ leBytes 2 (clean % 65536) ++
    leBytes 4 alpha ++ leBytes 4 norm ++ leBytes 1 (fl + 4 * b2n (r.plan && !clipOrder) + 8 * b2n simplex) ++ leBytes 3 missing ++
    leBytes 2 x.steps.length ++ leBytes 1 ((x.steps.length + 87) / 88))

/-! ### The verdict tile -/

def updVerd (slot : Nat) (f : Verd → Verd) (s : State) : State := s.updJob slot (fun x => { x with verd := x.verd.map f })

/-- The verdict tile begins to collect, where it does not already. -/
def openVerd (slot : Nat) (s : State) : State :=
  s.updJob slot (fun x => { x with verd := some (x.verd.getD ⟨[], 0, .collecting, none, 0x3F800000, 0, 0⟩) })

/-- A STAT of every device of every step position has come. -/
def full0 (x : Job) (v : Verd) : Bool :=
  x.steps.zipIdx.all (fun q => (v.stats.filter (fun r => r.pos = q.2 && !r.round)).length ≥ q.1.2)

/-- A round-1 STAT of every home device of every step position has come. -/
def full1 (x : Job) (v : Verd) : Bool :=
  x.steps.zipIdx.all (fun q => (homeDevs x (x.entry q.1.1.toNat)).all (fun d => v.stats.any (fun r => r.pos = q.2 && r.round && r.dev.toNat = d)))

/-- The verdict tile decides alone (R363, R156). -/
def alone (s : State) (slot : Nat) (v : Verd) : Bool :=
  (s.job slot).twin = .serving || s.twin.dst ≠ .moored || v.stats.any (fun r => statReason r.pay = 0x0902)

/-- A VERDICT cell of a job toward a device or a group. -/
def verdictCell (x : Job) (sub part ddev mgrp : Nat) (p : Payload) : Cell :=
  mkRouted clsCtl kVerdict 0 x.tag.toNat 0 0 ddev 0 mgrp 0 (sub * 2 ^ 34 + part * 2 ^ 24) p

/-- The parts of a step VERDICT (Tables UP-10, UP-11). -/
def verdictParts (x : Job) (v : Verd) (p0 : Payload) : List (Nat × Payload) :=
  (0, p0) :: (List.range ((x.steps.length + 87) / 88)).map (fun k =>
    (k + 1, payOf ((List.range 88).map (fun i =>
      if 88 * k + i < x.steps.length then BitVec.ofNat 8 ((posC (v.stats.filter (fun r => !r.round)) (88 * k + i)).getD 0xFF) else 0xFF))))

/-- Send a step VERDICT to CGROUP of position 0 and to every device of the job (R157). -/
def sendVerdict (slot : Nat) (p0 : Payload) (s : State) : State :=
  let x := s.job slot
  match x.verd with
  | none => s
  | some v =>
    let g := ((x.steps.head?).map (fun q => (x.entry q.1.toNat).cgroup)).getD 0
    let s := (verdictParts x v p0).foldl (fun s q =>
      let s := if g = 0 then s else sendCtlCell (verdictTile x) (verdictCell x 1 q.1 0 g q.2) s
      x.devset.foldl (fun s d => sendCtlCell (verdictTile x) (verdictCell x 1 q.1 d.toNat 0 q.2) s) s) s
    updVerd slot (fun v => { v with phase := .decided }) s

/-- Send the clip order to every device of the step's home maps, in ascending order (R155). -/
def sendClip (slot : Nat) (p0 : Payload) (s : State) : State :=
  let x := s.job slot
  let devs := (List.range 4096).filter (fun d => x.steps.any (fun q =>
    let e := x.entry q.1.toNat
    (List.range e.homes).any (fun h => hmapDev x e h = d)))
  let s := devs.foldl (fun s d => sendCtlCell (verdictTile x) (verdictCell x 2 0 d 0 p0) s) s
  updVerd slot (fun v => { v with phase := .clipping (s.time + us x.vmargin.toNat), alpha := BitVec.ofNat 32 (payN p0 13 4) }) s

/-- Act on an agreed decision of round 0 or 1. -/
def actOn (slot : Nat) (round : Bool) (p : Payload) (s : State) : State :=
  if !round && payN p 5 1 = 2 then sendClip slot p s
  else
    let s := if bitN (payN p 21 1) 4 then logCode 0x0704 (unitJob slot) s else s
    sendVerdict slot p s

/-- The decision with the FLAGS.SIMPLEX bit. -/
def withSimplex (p : Payload) : Payload := p ||| ((1 : Payload) <<< (8 * 21 + 3))

/-- Both verdict tiles decided: equal in bytes [20:0], or REJECT with 0x0708 (R156). -/
def agreeOn (slot : Nat) (round : Bool) (mine theirs : Payload) (s : State) : State :=
  let s := updVerd slot (fun v => { v with theirs := none }) s
  if payN mine 0 21 = payN theirs 0 21 then actOn slot round mine s
  else
    let x := s.job slot
    sendVerdict slot (verdictPay x ⟨3, 0x0708, 0, false, false⟩ (payN mine 13 4) (payN mine 17 4) (payN mine 22 3) false false) s

/-- The decision goes to the twin's verdict tile (R156). -/
def sendDecision (slot : Nat) (p : Payload) (s : State) : State :=
  sendTwin (mkRouted clsCtl kVerdict 0 (s.job slot).tag.toNat 0 0 s.dev.id.toNat 0 0 0 (3 * 2 ^ 34) p) s

/-- The verdict tile has decided: alone, or by exchange with its twin (R156). -/
def propose (slot : Nat) (round : Bool) (p : Payload) (s : State) : State :=
  match (s.job slot).verd with
  | none => s
  | some v =>
    if alone s slot v then actOn slot round (withSimplex p) s
    else
      let s := sendDecision slot p s
      updVerd slot (fun v => { v with phase := if round then .twin1 p else .twin0 p }) s

/-- One step of the verdict tile, as far as the STATs, the twin and the deadlines let it go; none in a brown-out hold (R426). -/
def verdictTry (slot : Nat) (s : State) : State :=
  let x := s.job slot
  match x.verd with
  | none => s
  | some v =>
    let r0 := v.stats.filter (fun r => !r.round)
    let r1 := v.stats.filter (fun r => r.round)
    if s.clk.hold || !(x.twin = .paired || x.twin = .serving) then s
    else match v.phase with
      | .collecting =>
        let full := full0 x v
        if !full && (v.deadline = 0 || s.time < v.deadline) then s
        else propose slot false (verdictPay x (ruling0 x r0 (!full)) (alphaOf x r0) (normOf r0) (minMissing (r0.map (·.pay))) false
          ((ruling0 x r0 (!full)).dec = 2)) s
      | .twin0 mine =>
        if alone s slot v then actOn slot false (withSimplex mine) s
        else match v.theirs with
          | some t => agreeOn slot false mine t s
          | none => s
      | .clipping d =>
        let full := full1 x v
        if !full && s.time < d then s
        else propose slot true (verdictPay x (ruling1 x r1 (!full)) v.alpha.toNat (normOf r0) (minMissing (r1.map (·.pay))) false false) s
      | .twin1 mine =>
        if alone s slot v then actOn slot true (withSimplex mine) s
        else match v.theirs with
          | some t => agreeOn slot true mine t s
          | none => s
      | .decided => s

/-- The verdict tile goes on while it can: at most a decision and an exchange in each round. -/
def verdictRun (slot : Nat) (s : State) : State := verdictTry slot (verdictTry slot (verdictTry slot (verdictTry slot s)))

/-! ### Instance verdicts (R121, R158) -/

/-- The STATs of an entry's instance by epoch. -/
def vstatsOf (e : Entry) (epoch : Nat) : List (BitVec 12 × Payload) := e.vstats.filter (fun q => statTarget q.2 / 4096 = epoch)

/-- The combined status and its reason: the highest wins, of the lowest device (R120). -/
def combined (l : List (BitVec 12 × Payload)) : Nat × Nat :=
  let top := l.foldl (fun a q => Nat.max a (statStatus q.2)) 0
  let first := (l.filter (fun q => statStatus q.2 = top)).foldl (fun (a : Option (BitVec 12 × Payload)) q => match a with
    | none => some q
    | some b => if q.1.toNat < b.1.toNat then some q else some b) none
  (top, (first.map (fun q => statReason q.2)).getD 0)

/-- Send the instance VERDICT to CGROUP once every STAT is in (R158, R65). -/
def instVerdict (slot coll epoch : Nat) (s : State) : State :=
  let x := s.job slot
  let e := x.entry coll
  let l := vstatsOf e epoch
  if !(statDevs x e).all (fun d => l.any (fun q => q.1.toNat = d)) then s
  else
    let c := maxC (l.map (·.2))
    let (st, why) := combined l
    let sat := l.any (fun q => statSat q.2) || boundFails e (((e.inst.map (·.w))).getD (planW e.plan)) c
    let st := if sat && st < stSaturated then stSaturated else st
    let wlsb := ((l.head?).map (fun q => payN q.2 14 2)).getD 0
    let p := payOf (leBytes 2 (coll + 4096 * epoch) ++ leBytes 1 st ++ leBytes 2 why ++ leBytes 3 (minMissing (l.map (·.2))) ++
      leBytes 1 (c.getD 0xFF) ++ leBytes 2 wlsb)
    let s := s.updJob slot (fun x => x.updEntry coll (fun e => { e with vstats := e.vstats.filter (fun q => statTarget q.2 / 4096 ≠ epoch) }))
    if e.cgroup = 0 then s
    else sendCtlCell (verdictTile x) (mkRouted clsCtl kVerdict 0 x.tag.toNat coll epoch 0 0 e.cgroup 0 0 p) s

/-- A STAT that repeats a (device, position, round) is dropped, but for the report of a second firing in the attempt, which replaces the one before it,
so that the attempt is rejected (R136, R152; log entry 66). -/
def supersedes (r : StatRec) : Bool := statStatus r.pay = stAborted && statReason r.pay = 0x070A

/-- STATs with one more. -/
def addStat (r : StatRec) (l : List StatRec) : List StatRec :=
  l.filter (fun q => !(q.dev = r.dev && q.pos = r.pos && q.round = r.round)) ++ [r]

/-- A STAT that reaches the verdict tile goes through the input queue of its VERDICT binding to the pilot core: none is UNBOUND, a full queue drops it
(R205). It is judged by R152 alone, since R118 and R136 have it carry epochs that the entry never had; it counts as a cell seen (R103; log entry 39). -/
def admitStat (slot : Nat) (c : Cell) (s : State) : Option State × State :=
  let n := verdictTile (s.job slot)
  if tileDown s n then (none, markCellInc c.job c.coll c.epoch 0x020F s)
  else match (bindingFor s n slot c.coll roleVerdict).bind (fun b => ((s.tile n).job slot).iq[bIq b]?) with
    | none => (none, bump (tileCtr n 0x080) 1 s)
    | some p =>
      let k := (iqCells s n p).length
      if k ≥ 1024 then (none, tileCause slot c.coll n stIncomplete 0x0813 (bump (tileCtr n 0x088) 1 s))
      else
        let s := bumpMax (tileCtr n (0x100 + 8 * p)) (k + 1) (s.updJob slot (fun x => x.updEntry c.coll (Entry.seen s.time c)))
        (some s, s)

/-- A STAT at the verdict tile (R149, R152). -/
def takeStat (dev : BitVec 12) (c : Cell) (s : State) : State :=
  match slotOf c.job s with
  | none => s
  | some slot =>
    let x := s.job slot
    let e := x.entry c.coll
    if ksfBad c then dropKsf (verdictTile x) s
    else if !isVerdict s slot || !(x.twin = .paired || x.twin = .serving) then s
    else match admitStat slot c s with
    | (none, s) => s
    | (some s, _) =>
    if e.op = opRum then
      match x.steps.findIdx? (fun q => q.1.toNat = c.coll) with
      | none => s
      | some pos =>
        let s := openVerd slot s
        let r : StatRec := ⟨dev, pos, ksfSub c = 1, c.pay⟩
        let v := ((s.job slot).verd).getD ⟨[], 0, .decided, none, 0, 0, 0⟩
        let late := match v.phase with
          | .collecting => decide (v.deadline ≠ 0 ∧ v.deadline ≤ s.time)
          | .clipping d => decide (d ≤ s.time)
          | _ => true
        let again := v.stats.any (fun q => q.dev = dev && q.pos = pos && q.round = r.round)
        let s := if again then updVerd slot (fun v => { v with dropped := v.dropped + 1 }) s else s
        if statStep c.pay ≠ x.attemptStep || late || (again && !supersedes r) then
          (if again then s else updVerd slot (fun v => { v with dropped := v.dropped + 1 }) s)
        else verdictRun slot (updVerd slot (fun v => { v with stats := addStat r v.stats }) s)
    else
      let epoch := statTarget c.pay / 4096
      let s := s.updJob slot (fun x => x.updEntry c.coll (fun e => { e with
        vstats := e.vstats.filter (fun q => !(q.1 = dev && statTarget q.2 / 4096 = epoch)) ++ [(dev, c.pay)] }))
      instVerdict slot c.coll epoch s

def execStatCell (t : Time) (dev : BitVec 12) (c : Cell) (s : State) : Out :=
  let s := tick t s
  .next (if c.kind ≠ kStat then s
    else match takeAny c s with
      | some s => takeStat dev c s
      | none => s)

/-- Nothing is decided before the deadline is known: the first firing sets it. -/
def execVerdictDeadline (t : Time) (slot : Slot) (s : State) : Out :=
  let s := tick t s
  .next (match (s.job slot.val).verd with
    | some v => if v.deadline = 0 then s else verdictRun slot.val s
    | none => s)

def execTwinDecision (t : Time) (c : Cell) (s : State) : Out :=
  let s := tick t s
  .next (if c.kind ≠ kVerdict || ksfSub c ≠ 3 then s
    else match takeTwin c s with
      | none => s
      | some s =>
        match slotOf c.job s with
        | none => s
        | some slot =>
          if ksfBad c then dropKsf 0 s
          else if !isVerdict s slot || payN c.pay 0 5 ≠ (s.job slot).attemptStep then s
          else verdictRun slot (updVerd slot (fun v => { v with theirs := some c.pay }) (openVerd slot s)))

/-! ### A device's part ends (R121, R150, R211) -/

/-- Posts of STAT mode 1 that a round of an entry waits for. -/
def postsIn (s : State) (slot coll : Nat) (round : Bool) : Bool :=
  match s.inst? slot coll, reporter s slot coll with
  | some i, some (_, b) => (if round then i.posts1 else i.posts0).length ≥ bNparts b
  | some _, none => true
  | none, _ => false

/-- The gate moves when the STATs of a round are sent for every step position of this device (Table UP-12). -/
def gateMove (slot : Nat) (s : State) : State :=
  let x := s.job slot
  let sent (round : Bool) : Bool := x.steps.all (fun q =>
    let c := q.1.toNat
    !(if round then !(homeChunks s x (x.entry c)).isEmpty else hasPart s slot c) ||
    (match s.inst? slot c with
      | some i => if round then i.sent1 else i.sent0
      | none => x.fired.any (fun p => (x.steps[p]?).map (·.1.toNat) = some c) && !((x.entry c).inst.any (·.owesStat))))
  match x.gate with
  | .opened => if sent false then s.updJob slot (fun x => { x with gate := .reported }) else s
  | .rerun => if sent true then s.updJob slot (fun x => { x with gate := .reported1 }) else s
  | _ => s

/-- Send a running instance's STAT when its part has ended; a device that takes no part sends none. -/
def statSend (slot coll : Nat) (s : State) : State :=
  let x := s.job slot
  let e := x.entry coll
  match s.inst? slot coll with
  | none => if comparing s slot coll || !e.inst.any (·.owesStat) then s else
      (let s := payStat slot coll s
       if e.op = opRum then gateMove slot s else s)
  | some i =>
    let round1 := x.gate = .rerun && e.op = opRum && i.sent0
    if e.op = 0xA || comparing s slot coll || !partEnded s slot coll i || queuesHold s slot coll then s
    else if !hasPart s slot coll then (if e.op = opRum then s else endInst slot coll s)
    else if round1 then
      (if i.sent1 || i.chunks.isEmpty || !postsIn s slot coll true then s
       else gateMove slot (s.updInst slot coll (fun i => { i with sent1 := true }) |> instStat slot coll true))
    else if i.sent0 || !postsIn s slot coll false then s
    else
      let s := instStat slot coll false (s.updInst slot coll (fun i => { i with sent0 := true }))
      if e.op = opRum then gateMove slot s else endInst slot coll s

def execStatSend (t : Time) (slot : Slot) (coll : BitVec 12) (s : State) : Out := .next (statSend slot.val coll.toNat (tick t s))

/-! ### Applying a step VERDICT (R161, R162) -/

/-- The global c of a step position from the c parts. -/
def partC (cs : List Cell) (pos : Nat) : Option Nat :=
  match cs.find? (fun c => ksfPart c = 1 + pos / 88) with
  | none => none
  | some c => if c.pbyte (pos % 88) = 0xFF then none else some (c.pbyte (pos % 88))

/-- The planner over the step list. -/
def planStep (slot : Nat) (cs : List Cell) (s : State) : State :=
  (s.job slot).steps.zipIdx.foldl (fun s q => runPlanner slot q.1.1.toNat (partC cs q.2) s) s

/-- A step VERDICT is applied by one plane alone: the job serves, and says so once (Table TW-7, R371). -/
def announce (slot : Nat) (simplex : Bool) (s : State) : State :=
  let was := (s.job slot).twin
  let s := if simplex && was = .paired then setJTwin slot .serving s else s
  if (s.job slot).twin = .serving && ((simplex && was = .paired) || (s.twin.dst = .moored && !(s.job slot).announced)) then
    sendNote (s.job slot).tag.toNat 1 0 0 (s.updJob slot (fun x => { x with announced := true }))
  else s

/-- A step VERDICT or clip order that the device ignores is counted (R161, Table UP-14). -/
def ignoreVerdict (slot : Nat) (s : State) : State := s.updJob slot (fun x => { x with ignored := x.ignored + 1 })

/-- A step VERDICT with all its parts (R161, R162); a device on which no attempt is open takes it as well. -/
def applyVerdict (slot : Nat) (cs : List Cell) (s : State) : State :=
  match cs.find? (fun c => ksfPart c = 0) with
  | none => s
  | some c =>
    let x := s.job slot
    let p := c.pay
    let dec := payN p 5 1
    let ls := payN p 10 1
    let clean := payN p 11 2
    if payN p 0 5 ≠ x.attemptStep || dec = 0 || dec > 3 then ignoreVerdict slot s
    else
      let s := if dec ≠ 3 then
          let s := planStep slot cs s
          let colls := x.steps.map (·.1.toNat)
          let s := colls.foldl (fun s c => endInst slot c s) s
          let s := colls.foldl (fun s c => jobEvent slot c evCommit 0 s) s
          let mark := (s.job slot).mark dec
          writeCommit slot (payN p 0 5) ls clean (if x.attempt then some mark else none) (if x.attempt then closeGate slot s else s)
        else
          let s := if x.attempt then closeAttempt slot 3 (rejectAttempt slot s) else rejectAttempt slot s
          let s := if ls ≠ x.lsexp.toNat || clean ≠ x.clean.toNat then writeCommit slot x.step.toNat ls clean none s else s
          if bitN (payN p 21 1) 2 then planStep slot cs s else s
      announce slot (bitN (payN p 21 1) 3) s

/-- A part of a step VERDICT; applied when all are in. -/
def verdictPart (slot : Nat) (c : Cell) (s : State) : State :=
  let x := s.job slot
  if ksfPart c = 0 then
    if payN c.pay 0 5 ≠ x.attemptStep then ignoreVerdict slot s
    else
      let s := s.updJob slot (fun x => { x with vparts := [c] })
      if payN c.pay 27 1 = 0 then applyVerdict slot [c] (s.updJob slot (fun x => { x with vparts := [] })) else s
  else match x.vparts.find? (fun q => ksfPart q = 0) with
    | none => s
    | some c0 =>
      if x.vparts.any (fun q => ksfPart q = ksfPart c) then s
      else
        let l := x.vparts ++ [c]
        if l.length < payN c0.pay 27 1 + 1 then s.updJob slot (fun x => { x with vparts := l })
        else applyVerdict slot l (s.updJob slot (fun x => { x with vparts := [] }))

/-- A step VERDICT reaches the device: held in a brown-out hold, ignored while the job is OUT or FROZEN (R362, R426). -/
def takeVerdict (c : Cell) (s : State) : State :=
  match slotOf c.job s with
  | none => s
  | some slot =>
    let x := s.job slot
    if ksfBad c then dropKsf 0 s
    else if !(x.twin = .paired || x.twin = .serving) then s
    else if s.clk.hold then s.updJob slot (fun x => { x with heldVerdicts := x.heldVerdicts ++ [c] })
    else verdictPart slot c s

def execStepVerdict (t : Time) (c : Cell) (s : State) : Out :=
  let s := tick t s
  .next (if c.kind ≠ kVerdict || ksfSub c ≠ 1 then s
    else match takeAny c s with
      | some s => takeVerdict c s
      | none => s)

/-- An instance VERDICT (R67, R117): judged as a cell of its instance, whose end it is, so that only another epoch, an entry that has not fired and a
time before the start drop it; it runs the planner of its entry (log entry 39). -/
def takeInstVerdict (slot : Nat) (c : Cell) (s : State) : State :=
  let coll := payN c.pay 0 2 % 4096
  let st := payN c.pay 2 1
  let e := (s.job slot).entry c.coll
  if ksfBad c then dropKsf 0 s
  else if (s.job slot).away || !(s.job slot).ids.contains (BitVec.ofNat 12 c.coll) then s
  else
    let early := e.inst.any (fun i => decide (s.time < i.start))
    let s := s.updJob slot (fun x => x.updEntry c.coll (Entry.seen s.time c))
    if !e.fired || c.epoch ≠ e.epoch.toNat || early then s.updJob slot (fun x => x.updEntry c.coll (fun e => { e with stale := satInc e.stale }))
    else if coll = c.coll && (st = stComplete || st = stSaturated) then
      runPlanner slot coll (if payN c.pay 8 1 = 0xFF then none else some (payN c.pay 8 1)) s
    else s

def execInstanceVerdict (t : Time) (c : Cell) (s : State) : Out :=
  let s := tick t s
  .next (if c.kind ≠ kVerdict || ksfSub c ≠ 0 then s
    else match takeAny c s with
      | none => s
      | some s =>
        match slotOf c.job s with
        | none => s
        | some slot => takeInstVerdict slot c s)

/-- The commit word is acknowledged: the gradient hold is released, the attempt is marked, and a pending rejoin of the next step takes
place (R161, R366). -/
def commitAck (slot : Nat) (s : State) : State :=
  let x := s.job slot
  match x.commitPend with
  | none => s
  | some mark =>
    let s := s.updJob slot (fun x => { x with commitPend := none })
    let s := match mark with
      | none => s
      | some m => markManifest slot m (s.updJob slot (fun x => { x with gradHold := [] }.touch .hold 0 x.holdLen))
    if x.twin = .serving && x.rejoin = some (x.step + 1) then
      sendXfer x.tag.toNat 3 (setJTwin slot .paired (s.updJob slot (fun x => { x with rejoin := none })))
    else s

def execCommitWordAck (t : Time) (slot : Slot) (s : State) : Out := .next (commitAck slot.val (tick t s))

/-- A clip order at a home device: the rerun begins (R155, Table UP-12); without home chunks, or at another moment, it is ignored. -/
def clipOrder (c : Cell) (s : State) : State :=
  match slotOf c.job s with
  | none => s
  | some slot =>
    let x := s.job slot
    if ksfBad c then dropKsf 0 s
    else if x.away then s
    else if x.gate ≠ .reported || payN c.pay 0 5 ≠ x.attemptStep || x.steps.all (fun q => (homeChunks s x (x.entry q.1.toNat)).isEmpty) then
      ignoreVerdict slot s
    else
      let s := s.updJob slot (fun x => { x with gate := .rerun, alpha := BitVec.ofNat 32 (payN c.pay 13 4) })
      let fresh (i : Inst) : Inst := { i with parts := i.parts.map (fun q => (q.1, { q.2 with digest := 0, pcells := 0 })) }
      x.steps.foldl (fun s q => jobEvent slot q.1.toNat evClip 0 (s.updInst slot q.1.toNat fresh)) s

def execClipOrder (t : Time) (c : Cell) (s : State) : Out :=
  let s := tick t s
  .next (if c.kind ≠ kVerdict || ksfSub c ≠ 2 then s
    else match takeAny c s with
      | some s => clipOrder c s
      | none => s)

/-! ### The end of a brown-out hold (R426) -/

/-- Held step VERDICTs are applied in arrival order, and the verdict tiles decide. -/
def releaseHold (s : State) : State :=
  let s := s.updClk (fun c => { c with hold := false })
  let s := (List.range 136).foldl (fun s p => fromFloor p s) s
  (List.range 64).foldl (fun s j =>
    let held := (s.job j).heldVerdicts
    let s := s.updJob j (fun x => { x with heldVerdicts := [] })
    verdictRun j (held.foldl (fun s c => verdictPart j c s) s)) s

def execBrownoutHoldEnd (t : Time) (s : State) : Out :=
  let s := tick t s
  .next (if s.clk.hold && s.clk.holdEnd ≤ s.time then releaseHold s else s)

end Sys2Proof.Machine
end

