-- ==== Sys2Proof/Machine/Load.lean ====
section
/-! DEFINITION. JOB_LOAD: the load package, the admission checks of Table JB-3, and the making of a job; and its unloading (09 R236 to
R247, 14 R385, 05 R104 and R105, 06 R134, R142 and R143, 08 R225). -/

namespace Sys2Proof.Machine

/-! ### Byte records -/

/-- n bytes from lo of a byte list, little-endian (R3). -/
def bsN (bs : List Byte) (lo n : Nat) : Nat := leNat ((bs.drop lo).take n)

def allZero (bs : List Byte) : Bool := bs.all (· = 0)

/-- Records of n bytes. -/
def recsOf (n : Nat) (bs : List Byte) : List (List Byte) := chunksOf n (bs.length / n + 1) bs

/-- Memory of a byte list from address 0. -/
def memOf (bs : List Byte) : Mem := bs.zipIdx.filterMap (fun q => if q.1 = 0 then none else some (q.2, q.1))

/-- The first code of a list of checks. -/
def firstCode (l : List (Option Nat)) : Option Nat := l.findSome? id

/-- A code where a condition holds. -/
def codeIf (b : Bool) (c : Nat) : Option Nat := if b then some c else none

/-! ### The load package (R385, Tables HI-7 and HI-8) -/

/-- A section: type, count, bytes from the package start. -/
structure Sect where
  typ : Nat
  count : Nat
  off : Nat
  len : Nat
  deriving DecidableEq, Repr

/-- What a load package asks for. -/
structure Pkg where
  seed : Nat
  e : Nat
  u : Nat
  shardb : Nat
  hold : Bool
  devset : List Nat
  entries : List (BitVec 1024)
  steps : List (Nat × Nat)
  hparam : List Byte
  control : List Byte
  stepblk : List Byte
  groups : List (Nat × BitVec 256)
  tiles : List Grant
  images : List (List Byte)
  slices : List Slice
  deriving DecidableEq, Repr

/-- Bytes of one record of a section type; none for an image. -/
def recLen : Nat → Nat
  | 1 => 2 | 2 => 128 | 3 => 4 | 4 => 64 | 5 => 64 | 6 => 64 | 7 => 48 | 8 => 16 | 10 => 16 | _ => 0

def sectOf (bs : List Byte) (k : Nat) : Sect :=
  let d := 64 + 16 * k
  ⟨bsN bs d 2, bsN bs (d + 2) 2, bsN bs (d + 4) 4, bsN bs (d + 8) 4⟩

def sectBytes (bs : List Byte) (x : Sect) : List Byte := (bs.drop x.off).take x.len

/-- A directory entry's own faults: TYPE, COUNT, LENGTH, place, RSVD. -/
def sectBad (bs : List Byte) (nsec k : Nat) : Bool :=
  let x := sectOf bs k
  bsN bs (64 + 16 * k + 12) 4 ≠ 0 || x.typ = 0 || x.typ > 10 || x.off % 64 ≠ 0 || x.off < 64 + 16 * nsec || x.off + x.len > bs.length ||
  (if x.typ = 9 then x.count ≠ 1 else x.len ≠ recLen x.typ * x.count) || (x.typ = 6 && x.count ≠ 1)

/-- Two sections share a byte. -/
def sectsMeet (a b : Sect) : Bool := a.off < b.off + b.len && b.off < a.off + a.len

/-- No two sections overlap, and each type but IMAGE appears exactly once. -/
def sectsOk (l : List Sect) : Bool :=
  decide (l.Pairwise (fun a b => sectsMeet a b = false)) &&
  ([1, 2, 3, 4, 5, 6, 7, 8, 10] : List Nat).all (fun t => (l.filter (fun x => x.typ = t)).length = 1)

def headerBad (bs : List Byte) : Bool :=
  bs.length < 64 || bsN bs 0 4 ≠ 0x4B504A4C || bsN bs 4 2 ≠ 1 || bsN bs 28 4 ≠ (crc32c (bs.drop 64)).toNat || bsN bs 32 1 > 1 ||
  !allZero ((bs.take 64).drop 33) || bsN bs 16 2 = 0 || 64 + 16 * bsN bs 6 2 > bs.length

def ascending : List Nat → Bool
  | a :: b :: l => a < b && ascending (b :: l)
  | _ => true

def grantOf (r : List Byte) : Grant :=
  ⟨bsN r 0 1, bsN r 1 1, bsN r 2 1, bsN r 3 1, bsN r 4 1, bsN r 6 2, bsN r 8 2, 0, bsN r 10 2, 0, 0, []⟩

def sliceOf (r : List Byte) : Slice := ⟨bsN r 0 1, bsN r 1 1 = 1, bsN r 8 4, bsN r 12 4⟩

/-- Faults of the records that Table HI-8 defines. -/
def recordsBad (tag : Nat) (p : Pkg) (raw : Nat → List (List Byte)) : Bool :=
  (raw 1).any (fun r => bsN r 0 2 ≥ 4096) || !ascending p.devset ||
  (raw 3).any (fun r => bitsN (bsN r 0 4) 12 4 ≠ 0 || bitsN (bsN r 0 4) 29 3 ≠ 0) ||
  (raw 7).any (fun r => !allZero ((r.take 16).drop 2) || bitsN (bsN r 16 32) 142 114 ≠ 0) || p.groups.any (fun g => grpJob g.2 ≠ tag) ||
  (raw 8).any (fun r => bsN r 5 1 ≠ 0 || bsN r 12 4 ≠ 0 || bsN r 0 1 > 127) || !decide (p.tiles.map (·.tile)).Nodup ||
  (raw 10).any (fun r => !allZero ((r.take 8).drop 2) || bsN r 0 1 > 127 || bsN r 1 1 > 1 || bsN r 12 4 > bsN r 8 4) ||
  !decide (p.slices.map (fun x => (x.port, x.tx))).Nodup

/-- The package of a byte list; none is a format error, 0x040A (R385). -/
def parsePkg (tag : Nat) (bs : List Byte) : Option Pkg :=
  if headerBad bs then none
  else
    let nsec := bsN bs 6 2
    let sects := (List.range nsec).map (sectOf bs)
    if (List.range nsec).any (sectBad bs nsec) || !sectsOk sects then none
    else
      let body (t : Nat) : List Byte := ((sects.find? (fun x => x.typ = t)).map (sectBytes bs)).getD []
      let raw (t : Nat) : List (List Byte) := recsOf (recLen t) (body t)
      let p : Pkg := {
        seed := bsN bs 8 8
        e := bsN bs 16 2
        u := bsN bs 18 2
        shardb := bsN bs 20 8
        hold := bsN bs 32 1 = 1
        devset := (raw 1).map (fun r => bsN r 0 2)
        entries := (raw 2).map (fun r => BitVec.ofNat 1024 (leNat r))
        steps := (raw 3).map (fun r => (bitsN (bsN r 0 4) 0 12, bitsN (bsN r 0 4) 16 13))
        hparam := body 4
        control := body 5
        stepblk := body 6
        groups := (raw 7).map (fun r => (bsN r 0 2, BitVec.ofNat 256 (bsN r 16 32)))
        tiles := (raw 8).map grantOf
        images := (sects.filter (fun x => x.typ = 9)).map (sectBytes bs)
        slices := (raw 10).map sliceOf }
      if p.entries.length ≠ p.e || p.steps.length ≠ p.u || p.hparam.length ≠ 64 * p.u || recordsBad tag p raw then none else some p

/-! ### Collective entries (Table CO-2, R104, R105) -/

/-- Field places of the RW fields. -/
def entryFields : List (Nat × Nat) :=
  [(0, 12), (16, 4), (24, 4), (32, 8), (40, 8), (48, 8), (56, 8), (64, 32), (96, 24), (128, 32), (160, 24), (192, 32), (224, 18), (256, 32),
   (288, 32), (320, 32), (352, 12), (368, 14), (384, 14), (400, 16), (416, 16), (432, 16), (448, 16), (464, 18), (512, 40), (576, 32)]

/-- Bits of the places of STATUS, REASON, the counters and LASTSEEN, which are ignored (R103). -/
def entryIgnored : List (Nat × Nat) := [(640, 8), (656, 272)]

def maskOf (l : List (Nat × Nat)) : Nat := (l.map (fun f => (2 ^ f.2 - 1) * 2 ^ f.1)).sum

/-- A nonzero RSVD bit of an entry's data. -/
def entryRsvd (r : BitVec 1024) : Bool := r &&& ~~~(BitVec.ofNat 1024 (maskOf (entryFields ++ entryIgnored))) ≠ 0

/-- The RW fields of an entry's data. -/
def entryCfg (r : BitVec 1024) : BitVec 1024 := r &&& BitVec.ofNat 1024 (maskOf entryFields)

def Entry.id (e : Entry) : Nat := e.f 0 12
def Entry.ofCfg (r : BitVec 1024) : Entry := { Entry.reset with cfg := entryCfg r }

/-- The kind homes chunks (R104). -/
def homesChunks (op : Nat) : Bool := isSumming op || isSelecting op || op = 0xB

/-- Elements of the chunks at home-map index h (R108). -/
def Entry.homeElems (e : Entry) (h : Nat) : Nat :=
  let n := e.nchunks
  if h ≥ n then 0
  else ((n - 1 - h) / e.homes + 1) * e.chunkElems - (if (n - 1) % e.homes = h then n * e.chunkElems - e.sumElems else 0)

/-- Elements of an entry homed on a device. -/
def elemsOn (x : Job) (e : Entry) (dev : Nat) : Nat :=
  (((List.range e.homes).filter (fun h => hmapDev x e h = dev)).map e.homeElems).sum

/-- The fused operand is a tensor, and bytes of one of its elements. -/
def tensorFuse (e : Entry) : Bool := isSumming e.op && 3 ≤ e.fuse && e.fuse ≤ 6
def fuseBytes (e : Entry) : Nat := if e.fuse ≤ 4 then 4 else 2

/-- Cells of one sender's sequence in each format that carries the instance (R107). -/
def cellCounts (e : Entry) : List Nat :=
  let up (a b : Nat) : Nat := (a + b - 1) / b
  if isSumming e.op then [up e.elems (fmtElems e.cfmt), up e.sumElems (768 / planW e.plan), up e.elems (fmtElems e.rfmt)]
  else if isSelecting e.op then [up e.elems (fmtElems e.cfmt), up (if e.rowScope then e.elems / e.rowlen else e.elems) 8]
  else if e.op = 2 then [e.block]
  else if e.op = 8 then [e.m * e.block]
  else if e.op = 9 || e.op = 0xB then []
  else [up e.elems (fmtElems e.cfmt)]

/-- A cell of a format would span two chunks (R107). -/
def spans (e : Entry) (n : Nat) : Bool := e.chunkElems % n ≠ 0 && (n = 384 || e.nchunks > 1)

/-- R107 is broken: 0x0605. -/
def sizeBad (e : Entry) : Bool :=
  (cellCounts e).any (· > 1048576) ||
  (isSumming e.op && (spans e (fmtElems e.cfmt) || spans e (fmtElems e.rfmt) || spans e (768 / planW e.plan))) ||
  (isSelecting e.op && spans e (fmtElems e.cfmt))

def planBad (p : Nat) : Bool := planWtop p = -127 || planWtop p = -128 || bitsN p 22 2 = 3 || bitN p 20 || bitsN p 0 16 ≠ 0

def fmtReserved (f : Nat) : Bool := f = 0xB || f = 0xF

/-- Format codes not allowed: 0x0604. -/
def fmtBad (e : Entry) : Bool :=
  fmtReserved e.cfmt || fmtReserved e.rfmt || ((isSumming e.op || isSelecting e.op) && !fmtIsFloat e.cfmt) ||
  (e.op = opRum && !fmtIsFloat e.rfmt) || (isSumming e.op && e.op ≠ opRum && fmtIsW e.rfmt && e.fuse ≠ 0)

/-- A field reserved or out of range: 0x0606. -/
def rangeBad (e : Entry) : Bool :=
  e.op = 0xF || e.cshift > 10 || e.fuse > 6 || e.k = 0 || e.elems = 0 || e.elems % e.rowlen ≠ 0 || e.late < 10 ||
  ((e.op = 2 || e.op = 8) ≠ (e.block ≠ 0)) || (e.op = 9 && e.domain = 0)

/-- R105 and R95: the lowest code that refuses an entry; `rsvd`: an RSVD bit of its data; `dup`: its identifier is repeated. -/
def entryCode (x : Job) (e : Entry) (rsvd dup : Bool) : Option Nat :=
  firstCode [
    codeIf (planBad e.plan) 0x0601,
    codeIf (tensorFuse e && (List.range e.homes).any (fun h => elemsOn x e (hmapDev x e h) * fuseBytes e > 67108864)) 0x0602,
    codeIf (isSumming e.op && e.sr && !(1 ≤ e.rfmt && e.rfmt ≤ 0xA)) 0x0603,
    codeIf (fmtBad e) 0x0604,
    codeIf (sizeBad e) 0x0605,
    codeIf (rsvd || dup || rangeBad e) 0x0606,
    codeIf (if e.launched then e.period ≠ 0 || e.phase ≠ 0 else e.period = 0 || e.phase ≥ e.period) 0x0612,
    codeIf (isMetric e.op && (e.k ≠ 1 || (3 ≤ e.fuse && e.fuse ≤ 6) || planAuto e.plan)) 0x0614]

/-- Check 2 for one entry: its member list, and its home map where the kind homes chunks (R104). -/
def memberListBad (x : Job) (e : Entry) : Bool :=
  let recs := (List.range e.m).map (memberRec x e)
  e.mlist + 8 * e.m > x.ctlLen || (List.range e.m).any (fun i => bitsN (leNat (x.control.readN (e.mlist + 8 * i) 8)) 37 27 ≠ 0) ||
  recs.any (fun r => !x.devset.contains (BitVec.ofNat 12 r.2.1)) || !decide (recs.map (·.1)).Nodup || !decide (recs.map (·.2)).Nodup

def homeMapBad (x : Job) (e : Entry) : Bool :=
  homesChunks e.op && (e.hmap + 2 * e.homes > x.ctlLen ||
    (List.range e.homes).any (fun h => leNat (x.control.readN (e.hmap + 2 * h) 2) ≥ 4096 || !x.devset.contains (BitVec.ofNat 12 (hmapDev x e h))))

/-! ### Step list, HPARAM and step block (R134, R142, R143, R147) -/

/-- A nonfinite FP32 word. -/
def nonfinite (w : Nat) : Bool := bitsN w 23 8 = 255

/-- An optimizer parameter block that R143 refuses. -/
def hparamBad (r : List Byte) : Bool :=
  let algo := bsN r 0 1
  let ns := bsN r 1 1
  algo > 3 || (if algo = 3 then ns = 0 || ns > 15 else ns ≠ 0) || bsN r 2 2 ≠ 0 ||
  (List.range 11).any (fun k => nonfinite (bsN r (4 + 4 * k) 4)) || !allZero (r.drop 48)

/-- A commit word that R142 refuses: LSEXP outside -24 to +24. -/
def commitBad (w : Nat) : Bool := let l := bitsN w 16 8
                                  24 < l && l < 232

/-- A CLIPMAX that R142 refuses. -/
def clipBad (w : Nat) : Bool := w ≠ 0 && (bitN w 31 || nonfinite w)

/-- A job step block that R142 refuses; `hold`: the job has a gradient hold. -/
def blockBad (r : List Byte) (hold : Bool) : Bool :=
  commitBad (bsN r 0 8) || clipBad (bsN r 8 4) || bsN r 12 2 = 0 || bsN r 14 2 = 0 || !allZero (r.drop 16) || (bsN r 8 4 ≠ 0 && !hold)

/-- Check 4. -/
def stepsBad (x : Job) (p : Pkg) : Bool :=
  !decide (p.steps.map (·.1)).Nodup ||
  p.steps.zipIdx.any (fun q =>
    let e := x.entry q.1.1
    let h := (p.hparam.drop (64 * q.2)).take 64
    !x.ids.contains (BitVec.ofNat 12 q.1.1) || e.op ≠ opRum || hparamBad h || (bsN h 0 1 = 3 && e.homes ≠ 1)) ||
  blockBad p.stepblk x.holdGrant

/-! ### Program images (R222, R225, R239) -/

def imgTile (i : List Byte) : Nat := bsN i 6 1
def imgNb (i : List Byte) : Nat := bsN i 8 2
def imgNt (i : List Byte) : Nat := bsN i 10 2
def imgNi (i : List Byte) : Nat := bsN i 12 4
def imgNc (i : List Byte) : Nat := bsN i 16 4
def imgLen (i : List Byte) : Nat := 64 + 32 * imgNb i + 16 * imgNt i + 8 * imgNi i + 8 * imgNc i
/-- Units of 1 KiB that an image needs. -/
def imgUnits (i : List Byte) : Nat := (imgLen i + 1023) / 1024
def imgBinds (i : List Byte) : List (BitVec 256) :=
  (List.range (imgNb i)).map (fun k => BitVec.ofNat 256 (bsN i (64 + 32 * k) 32))
def imgTrigs (i : List Byte) : List (BitVec 128) :=
  (List.range (imgNt i)).map (fun k => BitVec.ofNat 128 (bsN i (64 + 32 * imgNb i + 16 * k) 16))
def imgInsnOff (i : List Byte) : Nat := 64 + 32 * imgNb i + 16 * imgNt i
def imgInsns (i : List Byte) : List DWord :=
  (List.range (imgNi i)).map (fun k => BitVec.ofNat 64 (bsN i (imgInsnOff i + 8 * k) 8))
def imgCdir (i : List Byte) : List DWord :=
  (List.range (imgNc i)).map (fun k => BitVec.ofNat 64 (bsN i (imgInsnOff i + 8 * imgNi i + 8 * k) 8))

/-- A binding record with a reserved code, an RSVD bit, a value out of range, or a directory beyond NCDIR or not ascending. -/
def bindBad (nc : Nat) (dir : List DWord) (b : BitVec 256) : Bool :=
  bF b 12 4 ≠ 0 || bRole b > 5 || bF b 20 4 ≠ 0 || bF b 28 3 ≠ 0 || bF b 33 7 ≠ 0 || b.getLsbD 47 || bF b 144 112 ≠ 0 ||
  bWspan b > 2048 || bNchunk b > 2048 || bOrows b > 2048 || bOcols b > 2048 || bGbase b > 127 || bGidx b ≥ bGsize b ||
  bCdir b + bNchunk b > nc || !ascending (((dir.drop (bCdir b)).take (bNchunk b)).map (fun d => bitsN d.toNat 0 20))

/-- A trigger that names what does not exist, or holds a reserved code or RSVD bit. -/
def trigBad (nb ni : Nat) (t : BitVec 128) : Bool :=
  let f := bitsN t.toNat
  f 0 4 = 0 || f 0 4 > 6 || f 5 3 ≠ 0 || f 8 8 ≥ nb || f 32 16 + f 48 16 + 1 > ni || f 96 32 ≠ 0

/-- The code that refuses an image (R225), given the job's binding slots on its tile. -/
def imageCode (bslots : Nat) (i : List Byte) : Option Nat :=
  firstCode [
    codeIf (i.length < 64 || bsN i 0 4 ≠ 0x54504749 || bsN i 4 2 ≠ 1 || bsN i 20 4 ≠ (crc32c (i.drop 64)).toNat ||
      !allZero ((i.take 64).drop 24) || i.length ≠ imgLen i || imgTile i > 127) 0x0819,
    codeIf (imgNb i > bslots) 0x081A,
    codeIf (imgNt i > 1024 || (imgBinds i).any (bindBad (imgNc i) (imgCdir i)) || (imgTrigs i).any (trigBad (imgNb i) (imgNi i)) ||
      (imgCdir i).any (fun d => bitsN d.toNat 44 20 ≠ 0)) 0x081B,
    codeIf (bsN i 7 1 ≥ 8) 0x081C]

/-! ### Tile resources (R239 to R243) -/

/-- The job's images of a tile. -/
def imagesOf (p : Pkg) (tile : Nat) : List (List Byte) := p.images.filter (fun i => imgTile i = tile)

/-- The grants asked for: every TILEREQ record, and tiles that only an image names. -/
def grantsOf (p : Pkg) : List Grant :=
  let extra := (dedupNat (p.images.map imgTile)).filter (fun n => !p.tiles.any (·.tile = n))
  (p.tiles ++ extra.map (fun n => (⟨n, 0, 0, 0, 0, 0, 0, 0, 0, 0, 0, []⟩ : Grant))).map (fun g : Grant =>
    { g with prog := ((imagesOf p g.tile).map imgUnits).sum })

/-- Loaded jobs of a tile. -/
def tileJobs (s : State) (n : Nat) : List TJob := ((s.tile n).jobs.map (·.2)).filter (·.loaded)

def queuesBad (s : State) (g : Grant) : Bool :=
  let l := tileJobs s g.tile
  let used (f : TJob → List Nat) : Nat := (l.map (fun t => (f t).length)).sum
  g.iq > 16 || g.vq > 8 || g.oq > 8 || g.bs > 64 || used (·.iq) + g.iq > 64 || used (·.vq) + g.vq > 32 || used (·.oq) + g.oq > 32 ||
  used (·.bslots) + g.bs > 256

/-- The lowest free range of a accumulator tiles of a tile (R241). -/
def accRange (s : State) (n a : Nat) : Option Nat :=
  let used := ((tileJobs s n).filter (fun t => t.accCount ≠ 0)).map (fun t => (t.accBase, t.accCount))
  (List.range 2048).find? (fun b => b + a ≤ 2048 && !used.any (fun u => u.1 < b + a && b < u.1 + u.2))

/-- The opcode uses ACC (Table TP-6). -/
def usesAcc (i : DWord) : Bool :=
  let o := iOpc i
  (o = 0x03 && (isAp3 (iSrc i) || isAp3 (iDst i))) || (o = 0x04 && isAp01 (iDst i)) || (0x05 ≤ o && o ≤ 0x0B) ||
  (o = 0x0D && 1 ≤ iMod i 14 3 && iMod i 14 3 ≤ 5) || o = 0x0E || o = 0x10 || o = 0x11

/-- The entry of an instruction's binding in an image. -/
def imgEntry (x : Job) (i : List Byte) (k : DWord) : Option (BitVec 256 × Entry) :=
  ((imgBinds i)[iBind k]?).bind (fun b => if x.ids.contains (BitVec.ofNat 12 (bColl b)) then some (b, x.entry (bColl b)) else none)

/-- An ELEM whose entry has a tensor FUSE: its OPACC is relocated (R241). -/
def usesOpacc (x : Job) (i : List Byte) (k : DWord) : Bool :=
  iOpc k = 0x0B && ((imgEntry x i k).map (fun q => 3 ≤ q.2.fuse && q.2.fuse ≤ 6)).getD false

/-- An instruction relocated by a difference; none past 0 to 2,047 (R241). -/
def relocInsn (x : Job) (i : List Byte) (d : Int) (k : DWord) : Option DWord :=
  let move (on : Bool) (lo : Nat) (w : DWord) : Option DWord :=
    if !on then some w
    else
      let v : Int := (bitsN w.toNat lo 11 : Nat) + d
      if v < 0 || v > 2047 then none
      else some ((w &&& ~~~((0x7FF#64) <<< lo)) ||| (BitVec.ofInt 64 v <<< lo))
  (move (usesAcc k) 29 k).bind (move (usesOpacc x i k) 0)

/-- Segments of chunk j of an entry. -/
def Entry.chunkSegs (e : Entry) (j : Nat) : Nat := (min e.chunkElems (e.sumElems - j * e.chunkElems) + 191) / 192

/-- Segments of optimizer state homed with chunk j: those of the gradient's rows where the instance is projected (R190). -/
def Entry.stateSegs (e : Entry) (j : Nat) : Nat :=
  if e.rank = 0 then e.chunkSegs j
  else
    let n := e.chunkElems / e.rank * e.rowlen
    (min n (e.elems - j * n) + 191) / 192

/-- Operand tiles of an entry on a tile (R242). -/
def operandTiles (s : State) (x : Job) (c : Nat) (tile : Nat) : Nat :=
  let e := x.entry c
  if !tensorFuse e then 0
  else
    let segs := (((homeChunks s x e).filter (fun j => homeTile x.tag.toNat c j = tile)).map e.chunkSegs).sum
    if e.fuse ≤ 4 then (segs + 2) / 3 else (segs + 5) / 6

/-- HPARAM.ALGO of an entry of the step list. -/
def Job.algo (x : Job) (coll : Nat) : Option Nat :=
  (x.steps.findIdx? (fun q => q.1.toNat = coll)).map (fun k => bitsN (x.hparam.read (64 * k)).toNat 0 4)

/-- Accumulator tiles of a group band's working set (R192, R193). -/
def workingSet (b : BitVec 256) : Nat :=
  let r := min (bOrows b) (bOcols b)
  let c := max (bOrows b) (bOcols b)
  let band := (r + bGsize b - 1) / bGsize b
  let rows := min r ((bGidx b + 1) * band) - bGidx b * band
  (rows * (6 * c + 6 * r) + 2303) / 2304

def isGroupBand (x : Job) (b : BitVec 256) : Bool := bRole b = roleGroup && x.algo (bColl b) = some 3

/-- Tiles that R242 asks for on a tile. -/
def heldNeed (s : State) (x : Job) (p : Pkg) (tile : Nat) : Nat :=
  (x.ids.map (fun c => operandTiles s x c.toNat tile)).sum +
  ((imagesOf p tile).map (fun i => (((imgBinds i).filter (isGroupBand x)).map workingSet).sum)).sum

/-- Tiles that the images of a tile name for these uses, after relocation by d (R242). -/
def heldTiles (s : State) (x : Job) (p : Pkg) (tile : Nat) (d : Int) : List Int :=
  (imagesOf p tile).flatMap (fun i => (imgInsns i).flatMap (fun k =>
    let run (first n : Nat) : List Int := (List.range n).map (fun j => (first + j : Nat) + d)
    match imgEntry x i k with
    | none => []
    | some (b, _) =>
      if usesOpacc x i k then run (iMod k 0 11) (operandTiles s x (bColl b) tile)
      else if isGroupBand x b && (iOpc k = 0x0E || (iOpc k = 0x0D && 1 ≤ iMod k 14 3 && iMod k 14 3 ≤ 5)) then run (iAcc k) (workingSet b)
      else []))

/-- The base granted to a tile's request, or its requested base where it asks for none. -/
def accBaseOf (s : State) (g : Grant) : Nat := if g.acc = 0 then g.reqBase else (accRange s g.tile g.acc).getD 0

/-- Check 8 on one tile. -/
def accCode (s : State) (x : Job) (p : Pkg) (g : Grant) : Option Nat :=
  let base := accBaseOf s g
  let d : Int := (base : Int) - g.reqBase
  if g.acc ≠ 0 && (accRange s g.tile g.acc).isNone then some 0x0505
  else if (imagesOf p g.tile).any (fun i => (imgInsns i).any (fun k => (relocInsn x i d k).isNone)) then some 0x0505
  else if heldNeed s x p g.tile > g.acc || (heldTiles s x p g.tile d).any (fun t => t < base || t ≥ base + g.acc) then some 0x0506
  else none

/-- The grant made on a tile. -/
def madeGrant (s : State) (x : Job) (p : Pkg) (g : Grant) : Grant :=
  let base := accBaseOf s g
  let recs := (imagesOf p g.tile).flatMap (fun i => ((imgInsns i).filter (fun k => iOpc k = 0x10 || iOpc k = 0x11)).map (fun k => iMod k 0 17 + iCnt k))
  { g with
    base := base
    records := recs.foldl Nat.max 0
    held := dedupNat ((heldTiles s x p g.tile ((base : Int) - g.reqBase)).map Int.toNat) }

/-! ### HBM, slices and groups (R244 to R247, R429) -/

def hbmLimit : Nat := 204010946560

/-- Segments, contribution digests and sum digests of the step list on this device (R244). -/
def stateCounts (s : State) (x : Job) : Nat × Nat × Nat :=
  let per := x.steps.map (fun q =>
    let e := x.entry q.1.toNat
    let mine := homeChunks s x e
    ((mine.map e.stateSegs).sum, (localMembers s x e).length * e.k * e.ngroups,
      ((List.range e.ngroups).filter (fun g => mine.any (fun j => j / 64 = g))).length))
  ((per.map (·.1)).sum, (per.map (·.2.1)).sum, (per.map (·.2.2)).sum)

/-- This device is a home device of the step list. -/
def isHome (s : State) (x : Job) : Bool :=
  x.steps.any (fun q => (List.range (x.entry q.1.toNat).homes).any (fun h => hmapDev x (x.entry q.1.toNat) h = s.dev.id.toNat))

/-- Committed state size (Table JB-4). -/
def Job.stateLen (x : Job) : Nat := x.imageLen + align64 x.shardb

def jobsSum (s : State) (f : Job → Nat) : Nat := ((loadedSlots s).map (fun j => f (s.job j))).sum

def slicesBad (s : State) (p : Pkg) : Bool :=
  p.slices.any (fun x => (s.bank.len + 63) / 64 +
    jobsSum s (fun y => ((y.slices.filter (fun z => z.port = x.port && z.tx = x.tx)).map (·.slots)).sum) + x.slots > s.bank.len)

/-- Groups that the entries name. -/
def namedGroups (p : Pkg) : List Nat :=
  (p.entries.flatMap (fun r => [(Entry.ofCfg r).mgroup, (Entry.ofCfg r).cgroup])).filter (· ≠ 0)

/-- The group's tree has a branch on the device. -/
def hasBranch (g : BitVec 256) : Bool := grpValid g && (grpLocal g || !(grpPorts g).isEmpty)

def groupsBad (s : State) (p : Pkg) : Bool :=
  let all := dedupNat (namedGroups p ++ p.groups.map (·.1))
  all.any (fun g => g < 0x40) || all.any (fun g => (loadedSlots s).any (fun j => (s.job j).groups.contains g)) ||
  all.any (fun g => g ≥ 16384) ||
  (s.fabric.groups.filter (fun g => g.1 ≥ 0x40 && hasBranch g.2)).length + (dedupNat ((p.groups.filter (fun g => hasBranch g.2)).map (·.1))).length > 16320

/-! ### Admission (R236, Table JB-3) -/

/-- The rank at which the package's images project an entry (R188); 0 for none. -/
def rankIn (p : Pkg) (c : Nat) : Nat :=
  (p.images.findSome? (fun i => (imgInsns i).findSome? (fun k =>
    if (iOpc k = 0x09 || iOpc k = 0x0A) && iMod k 14 3 ≤ 4 && (((imgBinds i)[iBind k]?).map bColl) = some c then some (2 ^ iMod k 14 3)
    else none))).getD 0

/-- An entry of the package, with its projection. -/
def entryIn (p : Pkg) (r : BitVec 1024) : Entry := { Entry.ofCfg r with rank := rankIn p (Entry.ofCfg r).id }

/-- The job a package describes, before its grants. -/
def candidate (tag uprio : Nat) (p : Pkg) (bs : List Byte) : Job :=
  let es := p.entries.map (entryIn p)
  let x : Job := { Job.reset with
    st := .loaded
    tag := BitVec.ofNat 12 tag
    uprio := BitVec.ofNat 2 uprio
    seed := BitVec.ofNat 64 p.seed
    devset := p.devset.map (BitVec.ofNat 12)
    entries := es.foldl (fun t e => Tbl.set Entry.reset t e.id e) []
    ids := es.map (fun e => BitVec.ofNat 12 e.id)
    steps := p.steps.map (fun q => (BitVec.ofNat 12 q.1, q.2))
    control := memOf p.control
    ctlLen := p.control.length
    hparam := memOf p.hparam
    holdGrant := p.hold || bsN p.stepblk 8 4 ≠ 0
    shardb := p.shardb
    slices := p.slices
    groups := dedupNat (namedGroups p ++ p.groups.map (·.1))
    package := bs }
  x.setBlock p.stepblk

/-- The bank record of a bank that no step has written: every B1P and B2P 1.0 (Table UP-2). -/
def freshBank (u : Nat) : Mem := memOf (List.replicate 64 0 ++ (List.range (2 * u)).flatMap (fun _ => leBytes 4 0x3F800000))

/-- The job with its areas sized (R244). -/
def sized (s : State) (x : Job) : Job :=
  let (n, dc, ds) := stateCounts s x
  let home := isHome s x
  let x := { x with
    segs := n, dc := dc, ds := ds, home := home, holdGrant := x.holdGrant
    bank0 := if home then freshBank x.u else [], bank1 := if home then freshBank x.u else [] }
  { x with stateBytes := x.stateLen }

/-- The checks of Table JB-3, in order; the first code that refuses (R236). -/
def admitCode (s : State) (tag : Nat) (x : Job) (p : Pkg) (n : Nat) : Option Nat :=
  let gs := grantsOf p
  let y := sized s x
  let spill := 2368 * ((gs.map (fun g => (madeGrant s x p g).records)).sum)
  firstCode [
    codeIf ((loadedSlots s).length ≥ 64) 0x0502,
    codeIf ((slotOf tag s).isSome || s.jobs.gone.any (fun g => g.1.toNat = tag && g.2 ≠ 0 && s.time < g.2 + us 50)) 0x0501,
    codeIf (p.entries.any (fun r => memberListBad x (Entry.ofCfg r) || homeMapBad x (Entry.ofCfg r))) 0x050F,
    codeIf (p.e > 4096) 0x050E,
    p.entries.zipIdx.findSome? (fun q =>
      entryCode x (entryIn p q.1) (entryRsvd q.1) ((p.entries.take q.2).any (fun r => (Entry.ofCfg r).id = (Entry.ofCfg q.1).id))),
    codeIf (p.u > 4096) 0x050E,
    codeIf (stepsBad x p) 0x070B,
    codeIf (gs.any (fun g => ((tileJobs s g.tile).map (fun t => t.progUnits.length)).sum + g.prog > 256)) 0x0507,
    codeIf (gs.any (queuesBad s)) 0x0508,
    p.images.findSome? (fun i => imageCode (((gs.find? (fun g => g.tile = imgTile i)).map (·.bs)).getD 0) i),
    codeIf (!decide (p.images.map imgTile).Nodup) 0x0819,
    gs.findSome? (accCode s x p),
    codeIf (gs.any (fun g => ((tileJobs s g.tile).map (·.cells)).sum + g.cells > 14336)) 0x0509,
    codeIf (jobsSum s (·.stateBytes) + y.stateBytes > hbmLimit || jobsSum s (·.package.length) + n > 1073741824) 0x050A,
    codeIf (jobsSum s (fun j => j.stateBytes + j.spillGrant) + y.stateBytes + spill > hbmLimit) 0x050B,
    codeIf (slicesBad s p) 0x050C,
    codeIf (groupsBad s p) 0x050D]

/-! ### Making and unmaking a job -/

/-- The lowest n free numbers below a limit. -/
def lowestFree (limit : Nat) (used : List Nat) (n : Nat) : List Nat := ((List.range limit).filter (fun k => !used.contains k)).take n

/-- The image of a tile with its fields relocated (R241). -/
def relocImage (x : Job) (i : List Byte) (d : Int) : List Byte :=
  i.take (imgInsnOff i) ++ (imgInsns i).flatMap (fun k => leBytes 8 ((relocInsn x i d k).getD k).toNat) ++ i.drop (imgInsnOff i + 8 * imgNi i)

/-- Make the job's grants on one tile (R239 to R243). -/
def grantTile (slot : Nat) (x : Job) (p : Pkg) (g : Grant) (s : State) : State :=
  let l := tileJobs s g.tile
  let img := ((imagesOf p g.tile).head?).map (fun i => relocImage x i ((g.base : Int) - g.reqBase))
  let units := lowestFree 256 (l.flatMap (·.progUnits)) g.prog
  let bs := lowestFree 256 (l.flatMap (·.bslots)) g.bs
  let i := img.getD []
  let t : TJob := { TJob.reset with
    loaded := true
    iq := lowestFree 64 (l.flatMap (·.iq)) g.iq
    vq := lowestFree 32 (l.flatMap (·.vq)) g.vq
    oq := lowestFree 32 (l.flatMap (·.oq)) g.oq
    bslots := bs
    accBase := g.base
    accCount := g.acc
    cells := g.cells
    progUnits := units
    nbind := imgNb i
    ntrig := imgNt i
    ninsn := imgNi i
    ncdir := imgNc i
    mset := BitVec.ofNat 3 (bsN i 7 1) }
  s.updTile g.tile (fun y => { y with
    jobs := Tbl.set TJob.reset y.jobs slot t
    prog := units.zipIdx.foldl (fun m q => m.writeN (1024 * q.1) ((i.drop (1024 * q.2)).take 1024)) y.prog
    bind := (imgBinds i).zipIdx.foldl (fun m q => Tbl.set 0 m (bs.getD q.2 0) q.1) y.bind
    cdir := (imgCdir i).zipIdx.foldl (fun m q => Tbl.set 0 m (2 ^ 17 * slot + q.2) q.1) y.cdir })

/-- JOB_LOAD clears the slot's job counters on every tile (R459). -/
def clearJobCtrs (slot : Nat) (s : State) : State :=
  s.updObs (fun o => { o with ctrs := o.ctrs.filter (fun c => !(0x500000 ≤ c.1 && c.1 < 0x600000 && c.1 % 0x2000 / 0x80 = slot)) })

/-- Make the job in a slot: grants, images, groups, and ports of its slices woken (R230, R312). -/
def makeJob (slot : Nat) (x : Job) (p : Pkg) (s : State) : State :=
  let gs := (grantsOf p).map (madeGrant s x p)
  let y := { sized s x with grants := gs }
  let s := gs.foldl (fun s g => grantTile slot y p g s) s
  let s := s.updJob slot (fun _ => y)
  let s := { s with jobs := { s.jobs with gone := s.jobs.gone.filter (fun g => g.1 ≠ x.tag) } }
  let s := s.updFabric (fun f => { f with groups := p.groups.foldl (fun t g => Tbl.set 0 t g.1 g.2) f.groups })
  (dedupNat ((p.slices.filter (fun z => z.slots ≠ 0)).map (·.port))).foldl (fun s n => wakePort n s) s

/-- The 128 base records of RESADDR (R385). -/
def baseRecords (gs : List Grant) : List Byte :=
  (List.range 128).flatMap (fun n => leBytes 2 (match gs.find? (fun g => g.tile = n && g.acc ≠ 0) with
    | some g => 0x8000 + g.base % 2048
    | none => 0))

/-- JOB_LOAD (R236, R385). -/
def jobLoad (x : Exec) (data : List Byte) (ok : Bool) (s : State) : State :=
  let tag := descJob x.desc
  let res := descN x.desc 40 8
  if res = 0 then refuse x 0x040F s
  else match parsePkg tag data with
    | none => refuse x 0x040A s
    | some p =>
      let y := candidate tag (descN x.desc 24 1) p data
      match admitCode s tag y p data.length with
      | some c => refuse x c s
      | none =>
        match (List.range 64).find? (fun j => (s.job j).st = .free) with
        | none => refuse x 0x0502 s
        | some j =>
          let s := clearJobCtrs j (makeJob j y p s)
          let gs := (s.job j).grants
          let s := hostWrite res (baseRecords gs) s
          finish x stDone 0 (leBytes 4 (jobWord s j) ++ leBytes 2 (gs.filter (fun g => g.acc ≠ 0)).length) ok s

def execJobLoad (t : Time) (h : HostCmd) (s : State) : Out := .next (hostCmd 0x01 t h (fun x s => jobLoad x h.data h.writeOk s) s)

/-- What unloading takes from one tile. -/
def releaseTile (slot tile : Nat) (s : State) : State :=
  let t := (s.tile tile).job slot
  s.updTile tile (fun y => { y with
    jobs := Tbl.set TJob.reset y.jobs slot TJob.reset
    prog := t.progUnits.foldl (fun m u => m.writeN (1024 * u) (List.replicate 1024 0)) y.prog
    bind := t.bslots.foldl (fun m b => Tbl.set 0 m b 0) y.bind
    cdir := y.cdir.filter (fun q => q.1 / 2 ^ 17 ≠ slot) })

/-- The job leaves its slot: every grant is released, its tag waits out its last cells (R231, R233). -/
def unloadJob (slot : Nat) (s : State) : State :=
  let x := s.job slot
  let s := jobReset slot s
  let s := (jobTiles s slot).foldl (fun s n => releaseTile slot n s) s
  let s := s.updFabric (fun f => { f with groups := f.groups.filter (fun g => !x.groups.contains g.1) })
  { s with jobs := ⟨Tbl.set Job.reset s.jobs.slots slot Job.reset,
      (x.tag, x.lastCell) :: s.jobs.gone.filter (fun g => g.1 ≠ x.tag)⟩ }

end Sys2Proof.Machine
end

