-- ==== Sys2Proof/Machine/Tides.lean ====
section
/-! DEFINITION. Tide switches: the consistency check, agreement, the switch and the hold (10 R269 to R274, 11 R308 to R310). -/

namespace Sys2Proof.Machine

/-! ### The consistency check (R272, Table SW-9) -/

/-- Entries of a bank with a nonzero word: column, slot, entry. -/
def TideBank.uses (b : TideBank) : List (Nat × Nat × Word) := b.ents.map (fun q => (q.1 / b.len, q.1 % b.len, q.2))

/-- The entry gives scheduled use (Table SW-7). -/
def usesDest (e : Word) : Bool := teRx e = rxPass || teTx e = 1
def usesSlice (e : Word) : Bool := teRx e = rxLocal || usesDest e

/-- Ports an entry's cells leave by. -/
def destPorts (s : State) (n : Nat) (e : Word) : List Nat :=
  if teMc e then (grpPorts (Tbl.get 0 s.fabric.groups (teDest e))).filter (fun p => teRx e ≠ rxPass || p ≠ n)
  else if teTile e then [] else [teUnit e]

/-- Units other than by the own port that an entry's cells reach over the exchange (Table SW-8). -/
def crossTo (s : State) (n : Nat) (e : Word) : List Nat :=
  if teMc e then (destPorts s n e).filter (· ≠ n) else if teTile e then [teUnit e] else (destPorts s n e).filter (· ≠ n)

/-- Four positions from a start, in a tide of 4 T. -/
def quad (b : TideBank) (pos : Nat) : List Nat := (List.range 4).map (fun k => (pos + k) % (4 * b.len))

/-- Transmit positions claimed on ports by an entry (Table SW-8). -/
def txClaims (s : State) (b : TideBank) (q : Nat × Nat × Word) : List (Nat × Nat) :=
  let (n, t, e) := q
  if !usesDest e then []
  else (destPorts s n e).flatMap (fun p =>
    let off := if teRx e = rxPass then passOffset n p else if p = n then 1 else oqOffset n p
    (quad b (4 * t + off)).map (fun x => (p, x)))

/-- Exchange positions claimed by an entry: out of tile n, or into the units reached. -/
def exchClaims (s : State) (b : TideBank) (out : Bool) (q : Nat × Nat × Word) : List (Nat × Nat) :=
  let (n, t, e) := q
  if !usesDest e then []
  else
    let units := crossTo s n e
    let pos := quad b (4 * t + (if teRx e = rxPass then 5 else 0))
    if units.isEmpty then [] else if out then pos.map (fun x => (n, x)) else units.flatMap (fun m => pos.map (fun x => (m, x)))

def hasDup (l : List (Nat × Nat)) : Bool := !decide l.Nodup

/-- Row 2: a run of 64 slots with no CONTROL entry. -/
def noControl (b : TideBank) : Bool :=
  (List.range 128).any (fun n => (List.range b.len).any (fun t =>
    (List.range 64).all (fun k => teRx (b.ent n ((t + k) % b.len)) ≠ rxControl)))

/-- Row 3. -/
def txClash (s : State) (b : TideBank) : Bool :=
  let c := b.uses.flatMap (txClaims s b)
  hasDup c || c.any (fun x => teRx (b.ent x.1 (x.2 / 4)) = rxControl)

/-- Row 4. -/
def exchClash (s : State) (b : TideBank) : Bool :=
  hasDup (b.uses.flatMap (exchClaims s b true)) || hasDup (b.uses.flatMap (exchClaims s b false)) ||
  b.uses.any (fun q => 2 ≤ teTx q.2.2 || (teTx q.2.2 = 1 && (teRx q.2.2 = rxPass || teRx q.2.2 = rxControl)))

/-- Row 5, for one entry. -/
def destBad (s : State) (b : TideBank) (q : Nat × Nat × Word) : Bool :=
  let (n, _, e) := q
  let g := Tbl.get 0 s.fabric.groups (teDest e)
  (!teMc e && bitsN (teDest e) 8 6 ≠ 0) || (teMc e && teDest e < 0x40) || (!usesDest e && teDest e ≠ 0) ||
  (usesDest e && (if teMc e then !grpValid g || some (grpJob g) ≠ b.sliceJob (teSlice e)
    else if teTile e then teUnit e = n
    else (teRx e = rxPass && teUnit e = n) || !(s.port (teUnit e)).en))

/-- Row 6. -/
def sliceBad (s : State) (b : TideBank) : Bool :=
  b.uses.any (fun q => if usesSlice q.2.2 then (b.sliceJob (teSlice q.2.2)).isNone else teSlice q.2.2 ≠ 0 || teOq q.2.2 ≠ 0) ||
  (List.range 64).any (fun k => match b.sliceJob k with
    | some tag => (slotOf tag s).isNone
    | none => false)

/-- Slots that a bank marks for a job on a port and direction. -/
def slotCount (s : State) (b : TideBank) (tag port : Nat) (tx : Bool) : Nat :=
  (b.uses.filter (fun q => b.sliceJob (teSlice q.2.2) = some tag &&
    (if tx then usesDest q.2.2 && (destPorts s q.1 q.2.2).contains port else q.1 = port && (teRx q.2.2 = rxLocal || teRx q.2.2 = rxPass)))).length

/-- Slots of a job's admitted slice on a port and direction. -/
def Job.sliceSlots (x : Job) (port : Nat) (tx : Bool) : Nat :=
  ((x.slices.filter (fun y => y.port = port && y.tx = tx)).map (·.slots)).sum

/-- The admitted slices leave room in a tide of T slots (R246). -/
def slicesFit (s : State) (len : Nat) : Bool :=
  (List.range 128).all (fun p => [false, true].all (fun tx =>
    (len + 63) / 64 + ((loadedSlots s).map (fun j => (s.job j).sliceSlots p tx)).sum ≤ len))

/-- Row 7 (R246). -/
def slicesDiffer (s : State) (b : TideBank) : Bool :=
  !slicesFit s b.len || (loadedSlots s).any (fun j =>
    (List.range 128).any (fun p => [false, true].any (fun tx => slotCount s b (s.job j).tag.toNat p tx ≠ (s.job j).sliceSlots p tx)))

/-- Row 8: the switch tide has begun or begins within 10 us. -/
def switchLate (s : State) : Bool := tideStart5 s s.tide.switchAt.toNat ≤ 5 * (s.time + us 10 : Nat)

/-- The code of the first failing row. -/
def tideCheck (s : State) : Option Nat :=
  let b := s.otherBank
  if !s.tide.staged || s.tide.pending || s.tide.hold then some 0x0209
  else if noControl b then some 0x0204
  else if txClash s b then some 0x0205
  else if exchClash s b then some 0x0206
  else if b.uses.any (destBad s b) then some 0x0207
  else if sliceBad s b then some 0x0208
  else if slicesDiffer s b then some 0x0514
  else if switchLate s then some 0x020A
  else none

/-! ### Agreement cells (R310, Table FB-2) -/

/-- Payload of READY, GO and CANCEL; READY carries TABLEID. -/
def tidePay (tide len tableid : Nat) : Payload := payOf (leBytes 6 tide ++ leBytes 4 len ++ leBytes 4 tableid)

def payTide (c : Cell) : Nat := c.pn 0 6
def payLen (c : Cell) : Nat := c.pn 6 4
def payTable (c : Cell) : Nat := c.pn 10 4

/-- Send a cell to the tide coordinator, the plane's time root (R309). -/
def toCoordinator (sub : Nat) (pay : Payload) (s : State) : State :=
  match s.fabric.root with
  | some r => sendCtlCell 0 (fabCell clsCtl kDiscovery sub r.toNat 0 0 pay) s
  | none => s

/-- A tile to which a bank gives use is not yet at OPP 4. -/
def raising (s : State) (b : TideBank) : Bool :=
  (List.range 128).any (fun n => bankUses b n && ((physOf s n).map (fun p => (s.island p).pst ≠ .on || (s.island p).cur < 4)).getD false)

/-- Run the check of TIDE_CTL.EN: floors rise first, and it does not pass until they have (R421); PENDING and TIDE_READY, or a refusal (R272, R273). -/
def runTideCheck (s : State) : State :=
  let b := s.otherBank
  let s := if s.tide.staged then (List.range 128).foldl (fun s n => if bankUses b n then raiseTile n s else s) s else s
  match tideCheck s with
  | some code => tideReason code (s.updTide (fun x => { x with en := false }))
  | none => if raising s b then s.updDev (fun d => { d with waiting := d.waiting ++ [.tide] }) else toCoordinator 2 (tidePay s.tide.switchAt.toNat b.len b.tableid.toNat)
      (s.updTide (fun x => { x with en := true, pending := true, go := false }))

/-- The pending switch is cancelled. -/
def cancelSwitch (s : State) : State := s.updTide (fun x => { x with en := false, pending := false, go := false })

/-- A write of TIDE_CTL (Table SW-10, R406). -/
def writeTideCtl (v : Word) (s : State) : State :=
  if v.getLsbD 0 then
    (if s.tide.en then s else startCheck .tide runTideCheck (s.updTide (fun x => { x with en := true })))
  else if checking .tide s then cancelCheck .tide (cancelSwitch s)
  else if s.tide.pending then
    cancelSwitch (toCoordinator 5 (tidePay s.tide.switchAt.toNat s.otherBank.len s.otherBank.tableid.toNat) s)
  else s

def execTideEnable (t : Time) (v : Word) (s : State) : Out := .next (bar0 t (writeTideCtl (v ||| 1)) s)
def execTideDisable (t : Time) (v : Word) (s : State) : Out := .next (bar0 t (writeTideCtl (v &&& 0xFFFFFFFE)) s)

/-- The check of TIDE_CTL.EN that waits for islands runs again (R421). -/
def retryTideCheck (s : State) : State :=
  if checking .tide s && s.dev.st ≠ .boot && s.dev.st ≠ .restart then runTideCheck (cancelCheck .tide s) else s

def execOppChangeDone (t : Time) (p : Phys) (s : State) : Out := .next (retryTideCheck (oppDone p.val (tick t s)))

/-- A spare that a move woke is raised to the old position's point, or held at its floor by a brown-out hold, and its test begins (R446, R426). -/
def spareAwake (p : Nat) (s : State) : State :=
  match s.dev.moves.find? (fun m => m.new = p && m.stage = .waking) with
  | none => s
  | some m =>
    let o := (s.island m.old).cur
    let s := s.updIsland p (fun i => if s.clk.hold then { i with saved := some o } else { i with cur := Nat.max i.cur.toNat o.toNat })
    s.updDev (fun d => { d with moves := d.moves.map (fun x => if x = m then { m with stage := .testing } else x) })

/-- An island has woken, at the lowest point that its neighbours and its floor allow; a check that waits for it goes on (R421, R424). -/
def execIslandWakeDone (t : Time) (p : Phys) (s : State) : Out :=
  let s := tick t s
  .next (if (s.island p.val).pst ≠ .waking then s
    else
      let s := s.updIsland p.val (fun i => { i with pst := .on, cur := BitVec.ofNat 3 (Nat.max (wakePoint s p.val) (floorOf s p.val)), busy := false })
      let s := match ltileOf s p.val with
        | some n => pilotRestart n s
        | none => s
      retryTideCheck (spareAwake p.val s))

/-- A tide agreement cell of a SUB. -/
def isTideCell (sub : Nat) (c : Cell) : Bool := c.cls = clsCtl && c.kind = kDiscovery && bitsN c.ksf 34 3 = sub

/-- READY of a device of this plane, or of the twin coordinator over the twin link. -/
def execTideReady (t : Time) (dev : BitVec 12) (c : Cell) (s : State) : Out :=
  let s := tick t s
  let r : ReadyRec := ⟨dev, BitVec.ofNat 48 (payTide c), BitVec.ofNat 32 (payLen c), BitVec.ofNat 32 (payTable c)⟩
  .next (if !isTideCell 2 c then s
    else match takeTwin c s with
      | some s => s.updTide (fun x => { x with twinReady := some r })
      | none =>
        match takeAny c s with
        | some s => s.updTide (fun x => { x with ready := x.ready.filter (fun y => y.dev ≠ dev) ++ [r] })
        | none => s)

def execTideWithdraw (t : Time) (dev : BitVec 12) (c : Cell) (s : State) : Out :=
  let s := tick t s
  .next (if !isTideCell 5 c then s
    else match takeAny c s with
      | some s => s.updTide (fun x => { x with
          ready := x.ready.filter (fun y => y.dev ≠ dev)
          withdrawn := if x.decided = some (BitVec.ofNat 48 (payTide c)) || x.withdrawn.contains dev then x.withdrawn else x.withdrawn ++ [dev] })
      | none => s)

/-- The switch tide that a coordinator decides about. -/
def decisionTide (s : State) : Option (BitVec 48) :=
  if s.tide.pending then some s.tide.switchAt else (s.tide.ready.head?).map (·.tide)

/-- Every device of the database is ready for a tide, with one T (Table FB-6). -/
def planeReady (s : State) (tide : BitVec 48) : Option Word :=
  let devs := s.dev.id :: s.fabric.full.map (·.origin)
  let recs := devs.map (fun d => s.tide.ready.find? (fun r => r.dev = d && r.tide = tide))
  match recs with
  | some r :: rest =>
    if s.tide.withdrawn.isEmpty && rest.all (fun q => match q with
      | some y => y.len = r.len
      | none => false) then some r.len else none
  | _ => none

/-- GO or CANCEL to group 0x0001. -/
def decide_ (tide : BitVec 48) (len : Word) (go : Bool) (s : State) : State :=
  let s := s.updTide (fun x => { x with decided := some tide, ready := [], withdrawn := [], twinReady := none })
  sendCtlCell 0 (fabCell clsCtl kDiscovery (if go then 3 else 4) 0 1 0 (tidePay tide.toNat len.toNat 0)) s

/-- The coordinator at S - 100 us: readiness goes to the twin once; the decision follows with the twin's, or at the next call. -/
def tideDecision (s : State) : State :=
  match decisionTide s with
  | none => s
  | some tide =>
    if s.fabric.root ≠ some s.dev.id || !s.dev.idValid || s.tide.decided = some tide ||
        decide (5 * (s.time + us 100 : Nat) < tideStart5 s tide.toNat) then s
    else
      let moored : Bool := s.twin.dst = .moored
      match planeReady s tide with
      | none => decide_ tide ((s.tide.ready.head?.map (·.len)).getD 0) false s
      | some len =>
        let first := moored && s.tide.asked ≠ some tide
        let s := if first then sendTwin (twinCell s kDiscovery 2 (tidePay tide.toNat len.toNat s.otherBank.tableid.toNat))
            (s.updTide (fun x => { x with asked := some tide })) else s
        match moored, s.tide.twinReady with
        | false, _ => decide_ tide len true s
        | true, some r => decide_ tide len (r.tide = tide && r.len = len) s
        | true, none => if first then s else decide_ tide len false s

def execTideDecision (t : Time) (s : State) : Out := .next (tideDecision (tick t s))

/-- The slot of a time before S, counted from S. -/
def beforeSwitch (s : State) (d : Nat) : Bool :=
  decide ((5 * s.time : Int) / slotFifths < (tideStart5 s s.tide.switchAt.toNat - 5 * (d : Int)) / slotFifths)

def execTideGo (t : Time) (c : Cell) (s : State) : Out :=
  let s := tick t s
  .next (if !isTideCell 3 c then s
    else match takeAny c s with
      | none => s
      | some s =>
        if s.tide.pending && payTide c = s.tide.switchAt.toNat && payLen c = s.otherBank.len && beforeSwitch s (us 20) then
          s.updTide (fun x => { x with go := true })
        else s)

def execTideCancel (t : Time) (c : Cell) (s : State) : Out :=
  let s := tick t s
  .next (if !isTideCell 4 c then s
    else match takeAny c s with
      | none => s
      | some s => if s.tide.pending && payTide c = s.tide.switchAt.toNat then tideReason 0x0307 (cancelSwitch s) else s)

/-- S - 20 us without GO (Table FB-6). -/
def execTideGoDeadline (t : Time) (s : State) : Out :=
  let s := tick t s
  .next (if s.tide.pending && !s.tide.go && !beforeSwitch s (us 20) then tideReason 0x0306 (cancelSwitch s) else s)

/-! ### The switch (R273) -/

/-- The staged bank comes into force at the first position of tide TIDE_SWITCH. -/
def bankSwitch (s : State) : State :=
  let n := s.tide.switchAt.toNat
  let begins := tideStart5 s n
  let len := s.otherBank.len
  let k := ((5 * s.time : Int) - begins) / (len * slotFifths)
  let at_ := ((s.tide.base : Int) + ((n : Int) - s.tide.now) * (4 * s.tide.len)).toNat
  s.updTide (fun x => { x with
    active := !x.active, en := false, pending := false, staged := false, go := false, hold := true
    switchPos := at_, base := at_ + k.toNat * (4 * len), switchedAt := ((begins + 4) / 5).toNat
    len := len, now := n + k.toNat, start := (begins + k * (len * slotFifths)).toNat })

def execTideBankSwitch (t : Time) (s : State) : Out :=
  let s := tick t s
  .next (if s.tide.pending && s.tide.go && decide (tideStart5 s s.tide.switchAt.toNat ≤ 5 * s.time) then bankSwitch s else s)

/-- The old bank is held for 2,048 slots. -/
def execTideHoldEnd (t : Time) (s : State) : Out :=
  let s := tick t s
  .next (if s.tide.hold && 5 * s.tide.switchedAt + 2048 * slotFifths ≤ 5 * s.time then s.updTide (fun x => { x with hold := false }) else s)

end Sys2Proof.Machine
end

