-- ==== Sys2Proof/Machine/Jobs.lean ====
section
/-! DEFINITION. Host commands on jobs and tides: start, stop, quotas, entries, tide images, state access, shards and replay (09, 14, 05 R103
and R105, 06 R142 and R169, 10 R269, 13 R364, 17 R451 to R453). -/

namespace Sys2Proof.Machine

/-! ### Starting a job (R232, R364) -/

/-- The command of an operation that has begun for a job. -/
def begunFor (op slot : Nat) (s : State) : Option Exec :=
  s.host.exec.find? (fun e => descOp e.desc = op && e.started && descJob e.desc = (s.job slot).tag.toNat)

/-- A tide bank carries a job's slices. -/
def carries (s : State) (b : TideBank) (x : Job) : Bool :=
  x.slices.all (fun z => slotCount s b x.tag.toNat z.port z.tx = z.slots)

/-- The tide that carries the job's slices is staged, and begins after the start tide or is not yet scheduled (Table JB-7). -/
def startsEarly (s : State) (slot start : Nat) : Bool :=
  let x := s.job slot
  s.tide.staged && !carries s s.bank x && carries s s.otherBank x && !(s.tide.pending && s.tide.switchAt.toNat ≤ start)

/-- The job runs from its start tide in a twin state; its floors rise (R421). A job with the STALE mark starts OUT and keeps it (R364). -/
def startJob (slot : Nat) (tw : JTwin) (notice : Bool) (s : State) : State :=
  let tw := if (s.job slot).stale then .out else tw
  let s := setJTwin slot tw (s.updJob slot (fun x => { x with st := .running, announced := false, query := none }))
  let s := if notice && tw = .serving then sendNote (s.job slot).tag.toNat 1 0 0 (s.updJob slot (fun x => { x with announced := true })) else s
  (jobTiles s slot).foldl (fun s n => raiseTile n s) s

/-- The twin state of a starting job is decided; its JOB_START completes. -/
def decideStart (slot : Nat) (tw : JTwin) (notice : Bool) (s : State) : State :=
  let x := begunFor 0x02 slot s
  let s := startJob slot tw notice s
  match x with
  | some x => finish x stDone 0 (leBytes 4 (jobWord s slot)) true s
  | none => s

def jobStart (x : Exec) (s : State) : State :=
  match slotOf (descJob x.desc) s with
  | none => refuse x 0x0503 s
  | some slot =>
    let start := descN x.desc 24 6
    if (s.job slot).st ≠ .loaded && (s.job slot).st ≠ .stopped then refuse x 0x0504 s
    else if start ≤ s.tide.now then refuse x 0x0515 s
    else if startsEarly s slot start then refuse x 0x0504 s
    else
      let s := beginExec x (s.updJob slot (fun y => { y with startTide := BitVec.ofNat 48 start }))
      if s.twin.dst = .moored then
        sendNote (descJob x.desc) 2 0 start (s.updJob slot (fun y => { y with query := some (0, false, s.time) }))
      else decideStart slot .serving false s

def execJobStart (t : Time) (h : HostCmd) (s : State) : Out := .next (hostCmd 0x02 t h (fun x s => jobStart x s) s)

/-! ### Stopping a job (R231, R20) -/

/-- Commands of a job in execution with one of these operations complete with a status and code. -/
def failCmds (slot : Nat) (ops : List Nat) (st code : Nat) (s : State) : State :=
  (s.host.exec.filter (fun e => ops.contains (descOp e.desc) && descJob e.desc = (s.job slot).tag.toNat)).foldl
    (fun s e => if st = stRefused then refuse e code s else finish e st code [] true s) s

/-- The verdict tile of a job with an open attempt sends REJECT with 0x0709 (Table UP-14); its decision goes to its twin first, whose own cannot change the
outcome, since any other pair of decisions rejects (R19, R156; log entry 59). -/
def stopVerdict (slot : Nat) (s : State) : State :=
  let x := s.job slot
  if !x.attempt || !isVerdict s slot || !(x.twin = .paired || x.twin = .serving) then s
  else
    let s := openVerd slot s
    match (s.job slot).verd with
    | some v =>
      let p := verdictPay x ⟨3, 0x0709, 0, false, false⟩ v.alpha.toNat 0 missNone false false
      if v.phase = .decided then s
      else if alone s slot v then sendVerdict slot (withSimplex p) s
      else sendVerdict slot p (sendDecision slot p s)
    | none => s

/-- A replay in progress ends with 0x070F (Table JB-7). -/
def stopReplay (slot : Nat) (s : State) : State :=
  match (s.job slot).replay with
  | none => s
  | some r => finish r.x stFailed 0x070F (leBytes 2 r.positions.length) true (endReplay slot s)

/-- A RUNNING job stops: its replay and shard commands end, its open attempt is rejected, its instances are aborted, a job reset follows. -/
def stopJob (slot : Nat) (unload : Bool) (s : State) : State :=
  let s := stopReplay slot s
  let s := failCmds slot [0x09, 0x0A] stFailed 0x040E s
  let s := if (s.twin.xfer.map (·.job)) = some (s.job slot).tag then abortXfer s else s
  let s := uncompareJob slot s
  let s := stopVerdict slot s
  let s := (runningColls s slot).foldl (fun s c => abortInst slot c 0x0613 true s) s
  let s := jobReset slot (dropAttempt slot s)
  s.updJob slot (fun x => { x with
    st := .stopping, unload := unload, stale := x.stale || x.away, rejoin := none, ready := false })

def jobStop (x : Exec) (s : State) : State :=
  let tag := descJob x.desc
  let unload := bitN (descN x.desc 24 1) 0
  match slotOf tag s with
  | none => refuse x 0x0503 s
  | some slot =>
    match (s.job slot).st, unload with
    | .running, _ => beginExec x (stopJob slot unload s)
    | .loaded, true =>
      let s := unloadJob slot (failCmds slot [0x02] stRefused 0x0504 s)
      finish x stDone 0 (leBytes 4 (jobWordOf tag s)) true s
    | .stopped, true =>
      let s := unloadJob slot (failCmds slot [0x02] stRefused 0x0504 s)
      finish x stDone 0 (leBytes 4 (jobWordOf tag s)) true s
    | _, _ => refuse x 0x0504 s

def execJobStop (t : Time) (h : HostCmd) (s : State) : Out := .next (hostCmd 0x03 t h (fun x s => jobStop x s) s)

/-- Nothing of a stopping job is under way any more (Table JB-1). -/
def allStopped (s : State) (slot : Nat) : Bool :=
  (runningColls s slot).isEmpty && (s.job slot).commitPend.isNone &&
  (jobTiles s slot).all (fun n =>
    let x := s.tile n
    x.accs.all (fun a => tagState a.2.tag = accFree || tagSlot a.2.tag ≠ slot) &&
    x.spilling.all (fun q => q.2.1 ≠ slot) && x.resuming.all (fun r => r.slot ≠ slot))

/-- The job enters STOPPED or, where JOB_STOP asked, FREE; the JOB_STOP completes. -/
def jobStopped (slot : Nat) (s : State) : State :=
  let x := s.job slot
  if x.st ≠ .stopping || !allStopped s slot then s
  else
    let cmd := begunFor 0x03 slot s
    let s := s.updJob slot (fun x => { x with st := .stopped, unload := false })
    let s := if x.unload then unloadJob slot s else s
    match cmd with
    | some c => finish c stDone 0 (leBytes 4 (jobWordOf x.tag.toNat s)) true s
    | none => s

def execJobStopped (t : Time) (slot : Slot) (s : State) : Out := .next (jobStopped slot.val (tick t s))

/-! ### Quotas (R248, R249) -/

/-- Grant, quota and setter of a quota kind on a scope. -/
def quotaGrant (x : Job) (kind tile : Nat) : Nat :=
  match kind with
  | 0 => ((x.grant tile).map (·.acc)).getD 0
  | 1 => ((x.grant tile).map (·.cells)).getD 0
  | 2 => x.spillGrant
  | _ => x.stateBytes

def quotaNow (x : Job) (kind tile : Nat) : Nat :=
  match kind with
  | 0 => x.accQuota tile
  | 1 => x.cbufQuota tile
  | 2 => x.spillQuota
  | _ => x.stateQuota

def setQuota (kind tile q : Nat) (x : Job) : Job :=
  match kind with
  | 0 => { x with quotaAcc := Tbl.set 0 x.quotaAcc tile (q + 1) }
  | 1 => { x with quotaCbuf := Tbl.set 0 x.quotaCbuf tile (q + 1) }
  | 2 => { x with quotaSpill := some q }
  | _ => { x with quotaState := some q }

def jobQuota (x : Exec) (s : State) : State :=
  let kind := descN x.desc 24 1
  let tile := descN x.desc 25 1
  let q := descN x.desc 32 8
  match slotOf (descJob x.desc) s with
  | none => refuse x 0x0503 s
  | some slot =>
    let y := s.job slot
    if kind > 3 || (kind ≥ 2 && tile ≠ 0) then refuse x 0x0401 s
    else if tile > 127 then refuse x 0x040B s
    else if y.st = .stopping then refuse x 0x0504 s
    else if q > quotaGrant y kind tile then refuse x 0x0511 s
    else if kind = 3 && q < y.stateBytes then refuse x 0x0512 s
    else
      let s := if quotaGrant y kind tile = 0 then s else s.updJob slot (setQuota kind tile q)
      finish x stDone 0 (leBytes 4 (jobWord s slot) ++ leBytes 4 0 ++ leBytes 8 (quotaNow y kind tile)) true s

def execJobQuota (t : Time) (h : HostCmd) (s : State) : Out := .next (hostCmd 0x04 t h (fun x s => jobQuota x s) s)

/-! ### COLL_DEFINE (R103, R105, R235) -/

/-- Fields that may change while the job runs: PLAN, TAU, SCALAR, LATE, ESCAL, DEPOCH. -/
def runFields : List (Nat × Nat) := [(48, 8), (64, 32), (192, 32), (256, 32), (400, 16), (576, 32)]

/-- The lower of two refusal codes (R105). -/
def lowerCode (a b : Option Nat) : Option Nat :=
  match a, b with
  | some x, some y => some (Nat.min x y)
  | some x, none => some x
  | none, y => y

/-- Fields of the fixed mapping (R235): MEMBERS, MLIST, HMAP, HOMES, MGROUP, CGROUP. -/
def mapFields : List (Nat × Nat) := [(224, 18), (288, 32), (320, 32), (352, 12), (368, 14), (384, 14)]

def masked (l : List (Nat × Nat)) (r : BitVec 1024) : BitVec 1024 := r &&& BitVec.ofNat 1024 (maskOf l)

/-- A change of an entry would change its mapping or a grant: the step list, the verdict tile, HBM areas,
operand tiles. -/
def remaps (s : State) (slot coll : Nat) (new : BitVec 1024) : Bool :=
  let x := s.job slot
  let old := (x.entry coll).next.getD (x.entry coll).cfg
  let y := x.updEntry coll (fun e => { e with cfg := new, next := none })
  masked mapFields old ≠ masked mapFields new || ((x.stepPos coll).isSome && (y.entry coll).op ≠ opRum) || verdictDev y ≠ verdictDev x ||
  (sized s y).stateBytes ≠ x.stateBytes ||
  (List.range 128).any (fun n => operandTiles s y coll n ≠ operandTiles s x coll n)

/-- The code that refuses a COLL_DEFINE: the lowest of area 0x06 that applies, else 0x0513 for a change of what R235 fixes, CGROUP among it. -/
def defineCode (s : State) (slot : Nat) (raw : BitVec 1024) : Option Nat :=
  let x := s.job slot
  let new := entryCfg raw
  let e : Entry := Entry.ofCfg raw
  let old := (x.entry e.id).next.getD (x.entry e.id).cfg
  let others : BitVec 1024 := ~~~(BitVec.ofNat 1024 (maskOf (runFields ++ mapFields)))
  firstCode [
    codeIf (!x.ids.contains (BitVec.ofNat 12 e.id)) 0x040B,
    lowerCode (entryCode x { e with rank := (x.entry e.id).rank } (entryRsvd raw) false)
      (codeIf (x.st = .running && old &&& others ≠ new &&& others) 0x0609),
    codeIf (remaps s slot e.id new) 0x0513]

/-- The entry after COLL_DEFINE: counters cleared; with an instance RUNNING the fields wait for the next one. -/
def Entry.define (new : BitVec 1024) (e : Entry) : Entry :=
  let e := { e with stale := 0, latec := 0, order := 0, shdrop := 0, escn := 0, escdeny := 0 }
  if e.status.toNat = stRunning then { e with next := some new } else { e with cfg := new, next := none, status := 0 }

def collDefine (x : Exec) (data : List Byte) (s : State) : State :=
  let raw : BitVec 1024 := BitVec.ofNat 1024 (leNat (data.take 128))
  match slotOf (descJob x.desc) s with
  | none => refuse x 0x0503 s
  | some slot =>
    if (s.job slot).st = .stopping then refuse x 0x0504 s
    else match defineCode s slot raw with
      | some c => refuse x c s
      | none =>
        let id := (Entry.ofCfg raw).id
        let k := ((s.job slot).ids.findIdx? (fun c => c.toNat = id)).getD 0
        let s := s.updJob slot (fun y => (y.updEntry id (Entry.define (entryCfg raw))).touch .entries (128 * k) 128)
        let e := (s.job slot).entry id
        finish x stDone 0 (leBytes 2 id ++ leBytes 1 (e.epoch.toNat * 16 + e.status.toNat)) true s

def execCollDefine (t : Time) (h : HostCmd) (s : State) : Out := .next (hostCmd 0x05 t h (fun x s => collDefine x h.data s) s)

/-! ### TIDE_LOAD (R269, R272, R246) -/

/-- The bank of an image (Tables SW-5 to SW-7). -/
def bankOf (bs : List Byte) : TideBank where
  len := bsN bs 8 4
  device := BitVec.ofNat 12 (bsN bs 12 2)
  crc := BitVec.ofNat 32 (bsN bs 16 4)
  tableid := BitVec.ofNat 32 (bsN bs 20 4)
  slices := (List.range 64).filterMap (fun k => let w := bsN bs (64 + 4 * k) 4
                                                if w = 0 then none else some (k, BitVec.ofNat 32 w))
  ents := ((recsOf 4 (bs.drop 320)).zipIdx).filterMap (fun q => let w := leNat q.1
                                                              if w = 0 then none else some (q.2, BitVec.ofNat 32 w))

/-- MAGIC, VERSION, CRC and reserved fields. -/
def tideFormBad (bs : List Byte) : Bool :=
  bs.length < 320 || bsN bs 0 4 ≠ 0x45444954 || bsN bs 4 2 ≠ 1 || bsN bs 6 2 ≠ 0 || bsN bs 12 2 ≥ 4096 || bsN bs 14 2 ≠ 0 ||
  !allZero ((bs.take 64).drop 24) || bsN bs 16 4 ≠ (crc32c (bs.drop 64)).toNat ||
  (bankOf bs).slices.any (fun q => q.2.toNat ≥ 2 ^ 13) || (bankOf bs).ents.any (fun q => teRsvd q.2 ≠ 0 || (!teMc q.2 && teDest q.2 ≥ 256))

def tideLenBad (bs : List Byte) : Bool :=
  let n := bsN bs 8 4
  n % 64 ≠ 0 || n < 64 || n > 65536 || bs.length ≠ 320 + 512 * n

def tideLoad (x : Exec) (data : List Byte) (s : State) : State :=
  let b := bankOf data
  if s.tide.pending || s.tide.hold then refuse x 0x0209 s
  else if tideFormBad data then refuse x 0x0201 s
  else if !s.dev.idValid || b.device ≠ s.dev.id then refuse x 0x0202 s
  else if tideLenBad data then refuse x 0x0203 s
  else if slicesDiffer s b then refuse x 0x0514 s
  else
    let s := s.updTide (fun d => if d.active then { d with bank0 := b, staged := true } else { d with bank1 := b, staged := true })
    finish x stDone 0 (leBytes 4 b.tableid.toNat ++ leBytes 4 b.len) true s

def execTideLoad (t : Time) (h : HostCmd) (s : State) : Out := .next (hostCmd 0x06 t h (fun x s => tideLoad x h.data s) s)

end Sys2Proof.Machine
end

