-- ==== Sys2Proof/Machine/Access.lean ====
section
/-! DEFINITION. State access and parity shards (14 R386, 06 R142 and R143, 04 R96, 17 R451 to R453). -/

namespace Sys2Proof.Machine

/-! ### State targets (Table HI-10) -/

/-- The image area of a target. -/
def targetArea : Nat → Option Area
  | 1 => some .block
  | 2 => some .block
  | 3 => some .bank0
  | 4 => some .bank1
  | 5 => some .hold
  | 6 => some .hparam
  | 8 => some .manifest
  | _ => none

/-- Bytes of a fused-operand tensor, in element order. -/
def Entry.operandLen (e : Entry) : Nat := if tensorFuse e then e.sumElems * fuseBytes e else 0

/-- Bytes of a target. -/
def targetLen (x : Job) (target coll : Nat) : Nat :=
  match target with
  | 1 => 8
  | 7 => 128
  | 9 => (x.entry coll).operandLen
  | 0xA => 8
  | 0xB => x.shardb
  | t => match targetArea t with
    | some a => x.areaLen a
    | none => 0

/-- TARGET, COLL, OFFSET and LEN of a state command. -/
def stTarget (d : BitVec 512) : Nat := descN d 24 1
def stColl (d : BitVec 512) : Nat := descN d 26 2
def stOff (d : BitVec 512) : Nat := descN d 32 8

/-- What R386 refuses of both commands. -/
def accessCode (x : Job) (d : BitVec 512) : Option Nat :=
  let t := stTarget d
  let named := t = 7 || t = 9
  firstCode [
    codeIf (t = 0 || t > 0xB || (!named && stColl d ≠ 0)) 0x040C,
    codeIf (named && !x.ids.contains (BitVec.ofNat 12 (stColl d))) 0x040B,
    codeIf (stOff d % 8 ≠ 0 || descLen d % 8 ≠ 0 || stOff d + descLen d > targetLen x t (stColl d)) 0x040C]

/-! ### STATE_WRITE -/

/-- The job step block with a range of it replaced. -/
def newBlock (x : Job) (off : Nat) (bs : List Byte) : List Byte := x.blockBytes.take off ++ bs ++ x.blockBytes.drop (off + bs.length)

/-- The HPARAM table with a range of it replaced. -/
def newHparam (x : Job) (off : Nat) (bs : List Byte) : Mem := (x.hparamNext.getD x.hparam).writeN off bs

/-- A block of the table that R143 or R147 refuses. -/
def hparamTableBad (x : Job) (m : Mem) : Bool :=
  x.steps.zipIdx.any (fun q =>
    let h := m.readN (64 * q.2) 64
    hparamBad h || (bsN h 0 1 = 3 && (x.entry q.1.1.toNat).homes ≠ 1))

/-- What R142 and Table HI-10 refuse of a write. -/
def writeCode (x : Job) (d : BitVec 512) (bs : List Byte) : Option Nat :=
  let t := stTarget d
  let stopped := x.st = .loaded || x.st = .stopped
  firstCode [
    codeIf (t = 7 || t = 8 || t = 0xA) 0x040C,
    accessCode x d,
    codeIf (!stopped && (t = 1 || (t = 2 && stOff d < 8) || t = 3 || t = 4 || t = 5 || t = 0xB)) 0x070C,
    codeIf (t = 1 && commitBad (leNat bs)) 0x070B,
    codeIf (t = 2 && blockBad (newBlock x (stOff d) bs) x.holdGrant) 0x070B,
    codeIf (t = 6 && hparamTableBad x (newHparam x (stOff d) bs)) 0x070B]

/-- CLIPMAX, GROW and VMARGIN of a step block. -/
def blockTail (bs : List Byte) : Word × BitVec 16 × BitVec 16 :=
  (BitVec.ofNat 32 (bsN bs 8 4), BitVec.ofNat 16 (bsN bs 12 2), BitVec.ofNat 16 (bsN bs 14 2))

/-- A write into a bank from an offset on; the reserved bytes of its bank record stay 0 (Table UP-2). -/
def bankWrite (u off : Nat) (bs : List Byte) : List Byte :=
  bs.zipIdx.map (fun q =>
    let p := off + q.2
    if p < 8 || (13 ≤ p && p < 64) || (64 + 8 * u ≤ p && p < 64 * (1 + (u + 7) / 8)) then 0 else q.1)

/-- The write itself: during a step attempt, block and HPARAM values wait for the next attempt (R142); a write of the commit word
clears the STALE mark (R364). -/
def applyWrite (d : BitVec 512) (bs : List Byte) (x : Job) : Job :=
  let off := stOff d
  match stTarget d with
  | 1 => { x.writeArea .block 0 bs with stale := false }
  | 2 =>
    if x.attempt then { x with blkNext := some (blockTail (newBlock x off bs)) }.touch .block off bs.length
    else { (x.setBlock (newBlock x off bs)).touch .block off bs.length with stale := x.stale && decide (off ≥ 8) }
  | 3 => { x with bank0 := x.bank0.writeN off (bankWrite x.u off bs) }.touch .bank0 off bs.length
  | 4 => { x with bank1 := x.bank1.writeN off (bankWrite x.u off bs) }.touch .bank1 off bs.length
  | 5 => { x with gradHold := x.gradHold.writeN off bs }.touch .hold off bs.length
  | 6 =>
    if x.attempt then { x with hparamNext := some (newHparam x off bs) }.touch .hparam off bs.length
    else { x with hparam := newHparam x off bs, hparamNext := none }.touch .hparam off bs.length
  | 0xB => { x with shards := x.shards.writeN off bs }
  | _ => x

/-- The write of a target; the fused operand goes to where its elements are held (R94). -/
def writeTarget (slot : Nat) (d : BitVec 512) (bs : List Byte) (s : State) : State :=
  if stTarget d = 9 then writeOperand slot (stColl d) (stOff d) bs s else s.updJob slot (applyWrite d bs)

/-- A write of the operand that reaches the device while an instance runs is held to its end; one that had begun before the firing is not (R96). -/
def holdsWrite (x : Exec) (slot : Nat) (s : State) : Bool :=
  match s.inst? slot (stColl x.desc) with
  | some i => !i.opWrites.contains (x.ring, x.index)
  | none => false

def stateWrite (x : Exec) (data : List Byte) (s : State) : State :=
  let d := x.desc
  let bs := data.take (descLen d)
  match slotOf (descJob d) s with
  | none => refuse x 0x0503 s
  | some slot =>
    let y := s.job slot
    if y.st = .stopping then refuse x 0x0504 s
    else match writeCode y d bs with
      | some c => refuse x c s
      | none =>
        if stTarget d = 1 && s.clk.hold then s
        else if stTarget d = 9 && holdsWrite x slot s then
          beginExec x (s.updJob slot (fun y => y.updEntry (stColl d) (fun e => { e with opNew := some (stOff d, bs) })))
        else finish x stDone 0 (leBytes 8 bs.length) true (writeTarget slot d bs s)

def execStateWrite (t : Time) (h : HostCmd) (s : State) : Out := .next (hostCmd 0x07 t h (fun x s => stateWrite x h.data s) s)

/-! ### STATE_READ -/

/-- Bytes of a target. -/
def targetBytes (s : State) (slot : Nat) (d : BitVec 512) : List Byte :=
  let x := s.job slot
  let off := stOff d
  let n := descLen d
  match stTarget d with
  | 7 => (((x.entry (stColl d)).bytes true).drop off).take n
  | 9 => readOperand s slot (stColl d) off n
  | 0xA => (leBytes 8 (jobWord s slot)).drop off |>.take n
  | 0xB => x.shards.readN off n
  | t => match targetArea t with
    | some a => x.areaBytes a off n
    | none => []

def stateRead (x : Exec) (ok : Bool) (s : State) : State :=
  let d := x.desc
  match slotOf (descJob d) s with
  | none => refuse x 0x0503 s
  | some slot =>
    if (s.job slot).st = .stopping then refuse x 0x0504 s
    else match accessCode (s.job slot) d with
      | some c => refuse x c s
      | none =>
        let bs := targetBytes s slot d
        finish x stDone 0 (leBytes 8 bs.length ++ leBytes 4 (jobWord s slot)) ok (writeBuffer x.ents bs s)

def execStateRead (t : Time) (h : HostCmd) (s : State) : Out := .next (hostCmd 0x08 t h (fun x s => stateRead x h.writeOk s) s)

/-! ### GF(2^8) (R451) -/

/-- Multiplication by g = 0x02 modulo x^8 + x^4 + x^3 + x^2 + 1. -/
def gdouble (b : Byte) : Byte := if b.getLsbD 7 then (b <<< 1) ^^^ 0x1D else b <<< 1

/-- Product of n low bits of a with b. -/
def gmulN : Nat → Byte → Byte → Byte
  | 0, _, _ => 0
  | n + 1, a, b => (if a.getLsbD 0 then b else 0) ^^^ gmulN n (a >>> 1) (gdouble b)

def gmul (a b : Byte) : Byte := gmulN 8 a b

/-- g to the power i. -/
def gexp : Nat → Byte
  | 0 => 1
  | n + 1 => gdouble (gexp n)

/-- a to the power n. -/
def gpow (a : Byte) : Nat → Byte
  | 0 => 1
  | n + 1 => gmul a (gpow a n)

/-- The inverse: a to the power 254. -/
def ginv (a : Byte) : Byte := gpow a 254

def xorBytes (a b : List Byte) : List Byte := List.zipWith (· ^^^ ·) a b
def scaleBytes (c : Byte) (a : List Byte) : List Byte := a.map (gmul c)
def padTo (n : Nat) (a : List Byte) : List Byte := (a ++ List.replicate (n - a.length) 0).take n

/-- P and Q of data shards given with their positions. -/
def pOf (n : Nat) (ds : List (Nat × List Byte)) : List Byte := ds.foldl (fun a d => xorBytes a d.2) (List.replicate n 0)
def qOf (n : Nat) (ds : List (Nat × List Byte)) : List Byte := ds.foldl (fun a d => xorBytes a (scaleBytes (gexp d.1) d.2)) (List.replicate n 0)

/-- A lost data shard i, from the others, P and Q: by P; by Q; or, with data position j lost as well, by both. -/
def solveP (n : Nat) (ds : List (Nat × List Byte)) (p : List Byte) : List Byte := xorBytes p (pOf n ds)
def solveQ (n i : Nat) (ds : List (Nat × List Byte)) (q : List Byte) : List Byte := scaleBytes (ginv (gexp i)) (xorBytes q (qOf n ds))
def solvePQ (n i j : Nat) (ds : List (Nat × List Byte)) (p q : List Byte) : List Byte :=
  scaleBytes (ginv (gexp i ^^^ gexp j)) (xorBytes (xorBytes q (qOf n ds)) (scaleBytes (gexp j) (xorBytes p (pOf n ds))))

/-! ### Shards (R451) -/

/-- Segments of step-list entries homed on a device. -/
def segsOn (x : Job) (dev : Nat) : Nat :=
  (x.steps.map (fun q =>
    let e := x.entry q.1.toNat
    (((List.range e.nchunks).filter (fun j => hmapDev x e j = dev)).map e.stateSegs).sum)).sum

/-- A bank's bytes on a device of the job. -/
def bankLenOn (x : Job) (dev : Nat) : Nat :=
  if x.steps.any (fun q => (List.range (x.entry q.1.toNat).homes).any (fun h => hmapDev x (x.entry q.1.toNat) h = dev)) then
    x.bankRec + 1216 * segsOn x dev
  else 0

/-- L: the longest data shard of the group. -/
def shardLen (x : Job) (devs : List Nat) (k : Nat) : Nat := ((devs.take k).map (fun d => bankLenOn x d + 64)).foldl Nat.max 0

/-- This device's data shard, padded. -/
def ownShard (x : Job) (n : Nat) : List Byte :=
  let bank := if x.step.toNat % 2 = 0 then x.bank0 else x.bank1
  padTo n (bank.readN 0 x.bankLen ++ leBytes 8 x.commitWord)

/-- Slot w of the parity area (log entry 29): header MAGIC [3:0], STEP [8:4], K [9], POS [10], L [15:12], CRC [19:16]. -/
def shardAt (x : Job) (w : Nat) : Nat := w * (x.shardb / 2)
def shardStep (x : Job) (w : Nat) : Nat := leNat (x.shards.readN (shardAt x w + 4) 5)
def shardValid (x : Job) (w : Nat) : Bool :=
  let a := shardAt x w
  let n := leNat (x.shards.readN (a + 12) 4)
  leNat (x.shards.readN a 4) = 0x44524853 && 64 + n ≤ x.shardb / 2 &&
  (crc32c (x.shards.readN (a + 64) n)).toNat = leNat (x.shards.readN (a + 16) 4)

/-- The older slot: an invalid one, or the one of the lower STEP. -/
def olderSlot (x : Job) : Nat :=
  if !shardValid x 0 then 0 else if !shardValid x 1 then 1 else if shardStep x 1 < shardStep x 0 then 1 else 0

def writeShard (w step k pos : Nat) (bs : List Byte) (x : Job) : Job :=
  let a := shardAt x w
  let hdr := leBytes 4 0x44524853 ++ leBytes 5 step ++ leBytes 1 k ++ leBytes 1 pos ++ leBytes 1 0 ++ leBytes 4 bs.length ++
    leBytes 4 (crc32c bs).toNat ++ leBytes 44 0
  { x with shards := (x.shards.writeN (a + 64) bs).writeN a hdr }

/-- Devices of a group list. -/
def groupDevs (data : List Byte) : List Nat := (recsOf 2 data).map leNat

/-- What both shard commands refuse: K, POS, list length, devices and area. -/
def shardCode (x : Job) (d : BitVec 512) (data : List Byte) : Option Nat :=
  let k := descN d 24 1
  let devs := groupDevs data
  firstCode [
    codeIf (k = 0 || k > 14 || descN d 25 1 ≥ k + 2) 0x040B,
    codeIf (descLen d ≠ 2 * (k + 2)) 0x0403,
    codeIf (devs.any (fun v => v ≥ 4096 || !x.devset.contains (BitVec.ofNat 12 v)) || x.shardb < 2 * (64 + shardLen x devs k)) 0x0B40]

/-- The peers' shards at data positions, padded. -/
def dataShards (n k : Nat) (peers : List ShardIn) : List (Nat × List Byte) :=
  (List.range k).filterMap (fun i => (peers.find? (fun p => p.pos = i)).map (fun p => (i, padTo n p.bytes)))

def shardEncode (x : Exec) (data : List Byte) (peers : List ShardIn) (lost : Bool) (s : State) : State :=
  let d := x.desc
  let k := descN d 24 1
  let pos := descN d 25 1
  match slotOf (descJob d) s with
  | none => refuse x 0x0503 s
  | some slot =>
    let y := s.job slot
    if y.st ≠ .running && y.st ≠ .stopped then refuse x 0x0504 s
    else match shardCode y d data with
      | some c => refuse x c s
      | none =>
        if pos < k then
          (if lost then finish x stFailed 0x0B42 [] true s else finish x stDone 0 (leBytes 5 y.step.toNat) true s)
        else
          let n := shardLen y (groupDevs data) k
          let ds := dataShards n k peers
          let steps := (peers.filter (fun p => p.pos < k)).map (fun p => p.step.toNat)
          let step := steps.headD 0
          if lost || ds.length < k then finish x stFailed 0x0B42 [] true s
          else if steps.any (· ≠ step) then finish x stFailed 0x0B41 [] true s
          else finish x stDone 0 (leBytes 5 step) true
            (s.updJob slot (fun y => writeShard (olderSlot y) step k pos (if pos = k then pOf n ds else qOf n ds) y))

def execShardEncode (t : Time) (h : HostCmd) (peers : List ShardIn) (lost : Bool) (s : State) : Out :=
  .next (hostCmd 0x09 t h (fun x s => shardEncode x h.data peers lost s) s)

/-- The rebuilt shard is written: the bank that its STEP selects, then the commit word (R453, R142). -/
def writeRebuilt (bs : List Byte) (x : Job) : Job :=
  let w := (bs.drop x.bankLen).take 8
  let a : Area := if bitsN (leNat w) 24 40 % 2 = 0 then .bank0 else .bank1
  (x.writeArea a 0 (bs.take x.bankLen)).writeArea .block 0 w

/-- The data shard at position i from the survivors. -/
def rebuildAt (n k i : Nat) (lost : List Nat) (peers : List ShardIn) : Option (List Byte) :=
  let ds := (dataShards n k peers).filter (fun q => !lost.contains q.1)
  let par (w : Nat) : Option (List Byte) :=
    if lost.contains (k + w) then none else (peers.find? (fun p => p.pos = k + w)).map (fun p => padTo n p.bytes)
  match lost.filter (fun j => j < k && j ≠ i) with
  | [] =>
    if ds.length + 1 < k then none
    else match par 0, par 1 with
      | some p, _ => some (solveP n ds p)
      | none, some q => some (solveQ n i ds q)
      | none, none => none
  | [j] =>
    if ds.length + 2 < k then none
    else match par 0, par 1 with
      | some p, some q => some (solvePQ n i j ds p q)
      | _, _ => none
  | _ => none

def shardRebuild (x : Exec) (data : List Byte) (peers : List ShardIn) (peerLost : Bool) (s : State) : State :=
  let d := x.desc
  let k := descN d 24 1
  let pos := descN d 25 1
  let lost := dedupNat (descN d 26 1 :: (if descN d 27 1 = 0xFF then [] else [descN d 27 1]))
  match slotOf (descJob d) s with
  | none => refuse x 0x0503 s
  | some slot =>
    let y := s.job slot
    if y.st ≠ .loaded && y.st ≠ .stopped then refuse x 0x0504 s
    else if lost.any (· ≥ k + 2) then refuse x 0x040B s
    else match shardCode y d data with
      | some c => refuse x c s
      | none =>
        let survivors := peers.filter (fun p => !lost.contains p.pos)
        let step := ((survivors.head?).map (fun p => p.step.toNat)).getD y.step.toNat
        if peerLost then finish x stFailed 0x0B42 [] true s
        else if survivors.any (fun p => p.pos ≥ k && !p.valid) then finish x stFailed 0x0B44 [] true s
        else if survivors.any (fun p => p.step.toNat ≠ step) then refuse x 0x0B43 s
        else if !lost.contains pos || pos ≥ k then finish x stDone 0 (leBytes 5 step) true s
        else match rebuildAt (shardLen y (groupDevs data) k) k pos lost survivors with
          | none => refuse x 0x0B43 s
          | some bs => finish x stDone 0 (leBytes 5 step) true (s.updJob slot (writeRebuilt bs))

def execShardRebuild (t : Time) (h : HostCmd) (peers : List ShardIn) (lost : Bool) (s : State) : Out :=
  .next (hostCmd 0x0A t h (fun x s => shardRebuild x h.data peers lost s) s)

end Sys2Proof.Machine
end

