-- ==== Sys2Proof/Machine/Collect.lean ====
section
/-! DEFINITION. Cells at their tiles, firing, and the late limit (05; 08 R205; 06 R135, R136). -/

namespace Sys2Proof.Machine

/-! ### What the entry says of a cell (R102, R106, R109, R117) -/

/-! ### Into an input queue (R205, R243, R283) -/

/-- A cell goes to its binding's input queue: a full queue or pool drops it, and its instance is INCOMPLETE. -/
def toIq (tile slot : Nat) (b : BitVec 256) (c : Cell) (s : State) : State :=
  match ((s.tile tile).job slot).iq[bIq b]? with
  | none => bump (tileCtr tile 0x080) 1 s
  | some p =>
    if (iqCells s tile p).length ≥ 1024 then tileCause slot c.coll tile stIncomplete 0x0813 (bump (tileCtr tile 0x088) 1 s)
    else match allocSched tile slot s with
      | (none, s) => tileCause slot c.coll tile stIncomplete 0x020B s
      | (some k, s) =>
        let s := s.updTile tile (fun x => { x with iqs := Tbl.upd [] x.iqs p (· ++ [⟨c, some k⟩]) })
        bumpMax (tileCtr tile (0x100 + 8 * p)) (iqCells s tile p).length (bump (tileCtr tile 0x058) 112 s)

/-- A cell for a role of a tile's programs; none with that role is UNBOUND. -/
def toRole (tile slot role : Nat) (c : Cell) (s : State) : State :=
  match bindingFor s tile slot c.coll role with
  | none => bump (tileCtr tile 0x080) 1 s
  | some b => toIq tile slot b c s

/-! ### Pass boundaries (R87, R112) -/

/-- A cell or entry of a chunk and parity still stands in the tile's queues before it is added. -/
def stillQueued (s : State) (tile slot coll : Nat) (e : Entry) (chunk parity : Nat) : Bool :=
  let x := s.tile tile
  let t := x.job slot
  t.iq.any (fun p => (iqCells s tile p).any (fun q =>
    q.cell.coll = coll && (q.cell.kind = kContribution || q.cell.kind = kPartial) && e.cellChunk q.cell = chunk && b2n q.cell.parity = parity)) ||
  t.vq.any (fun p => (Tbl.get [] x.vqs p).any (fun v =>
    fmtIsW v.fmt.toNat && v.par = (parity = 1) && ((x.binding slot v.bind.toNat).map bColl) = some coll && v.idx.toNat / e.chunkElems = chunk))

/-- The chunks of an instance homed on one tile. -/
def tileChunks (s : State) (tile slot coll : Nat) : List Chunk :=
  match s.inst? slot coll with
  | none => []
  | some i => i.chunks.filter (fun c => homeTile (s.job slot).tag.toNat coll c.num = tile)

/-- Passes that every chunk of the tile has reached the end of. -/
def settledOn (s : State) (tile slot coll : Nat) : Nat :=
  match (tileChunks s tile slot coll).map (·.settled) with
  | [] => 0
  | k :: ks => ks.foldl Nat.min k

/-- A chunk's next pass has come to its boundary. -/
def settleChunk (s : State) (tile slot coll : Nat) (e : Entry) (c : Chunk) : Chunk :=
  if c.settled < c.passes && !stillQueued s tile slot coll e c.num (c.settled % 2) then { c with settled := c.settled + 1 } else c

/-- Chunks of a tile come to their pass boundaries; the tile's programs see each boundary of the tensor (R87, R222). -/
def settle (tile slot coll : Nat) (s : State) : State :=
  let e := (s.job slot).entry coll
  let tag := (s.job slot).tag.toNat
  let before := settledOn s tile slot coll
  let f (c : Chunk) : Chunk := if homeTile tag coll c.num = tile then settleChunk s tile slot coll e c else c
  let s := s.updInst slot coll (fun i => { i with chunks := i.chunks.map f })
  let s := if e.op = 0xB then s.updInst slot coll (fun i => { i with
      chunks := i.chunks.map (fun c => if c.settled ≥ 1 then { c with drained := true } else c) }) else s
  (List.range (settledOn s tile slot coll - before)).foldl (fun s k => tileEvent tile slot coll evPass (before + k) s) s

/-! ### Home counts (R111, R112) -/

/-- One last-of-chunk cell counted toward its parity; whether the count overran. -/
def Chunk.count (m c : Nat) (parity : Bool) (x : Chunk) : Chunk × Bool :=
  let n := (if parity then x.count1 else x.count0) + c
  let bad := n > m
  let n := if bad then m else n
  let x := if parity then { x with count1 := n } else { x with count0 := n }
  (if n = m then (if parity then { x with count1 := 0, passes := x.passes + 1 } else { x with count0 := 0, passes := x.passes + 1 }) else x, bad)

/-- The member contributions that a cell carries (R111). -/
def foldCount (c : Cell) : Nat := if c.kind = kPartial then c.rank + 1 else 1

def updChunk (slot coll num : Nat) (f : Chunk → Chunk) (s : State) : State :=
  s.updInst slot coll (fun i => { i with chunks := i.chunks.map (fun c => if c.num = num then f c else c) })

/-- A contribution or partial cell at its home tile: counted and queued, or dropped as an overrun with 0x0611. -/
def homeCell (tile slot : Nat) (b : BitVec 256) (c : Cell) (s : State) : State :=
  let e := (s.job slot).entry c.coll
  let num := e.cellChunk c
  match (tileChunks s tile slot c.coll).find? (fun k => k.num = num) with
  | none => toIq tile slot b c s
  | some k =>
    if k.passes ≥ e.passes then tileCause slot c.coll tile stIncomplete 0x0611 s
    else if !c.last then toIq tile slot b c s
    else
      let (k', bad) := k.count e.m (foldCount c) c.parity
      let s := if bad then tileCause slot c.coll tile stIncomplete 0x0611 s else toIq tile slot b c s
      settle tile slot c.coll (updChunk slot c.coll num (fun _ => k') s)

/-- A contribution or partial cell for a tile: its home, or a stage on the way (Table TP-4). -/
def sumCell (tile slot : Nat) (c : Cell) (s : State) : State :=
  let e := (s.job slot).entry c.coll
  let homed := (tileChunks s tile slot c.coll).any (fun k => k.num = e.cellChunk c)
  let first := if homed then roleHome else roleStage
  let other := if homed then roleStage else roleHome
  match (bindingFor s tile slot c.coll first).or (bindingFor s tile slot c.coll other) with
  | none => bump (tileCtr tile 0x080) 1 s
  | some b => if bRole b = roleHome then homeCell tile slot b c s else toIq tile slot b c s

/-! ### Members (R110, R251) -/

/-- The member of an entry whose endpoint port this is: its position and rank. -/
def memberAt (s : State) (x : Job) (e : Entry) (port : Nat) : Option (Nat × Nat) :=
  ((localMembers s x e).find? (fun m => m.2.2 = port)).map (fun m => (m.1, m.2.1))

/-- A port of this device that stands in some member list of the job. -/
def inLists (s : State) (x : Job) (port : Nat) : Bool :=
  x.ids.any (fun c => (memberAt s x (x.entry c.toNat) port).isSome)

def updMember (slot coll port : Nat) (f : Member → Member) (s : State) : State :=
  s.updInst slot coll (fun i => { i with members := i.members.map (fun m => if m.port = port then f m else m) })

/-- A member cell that fails R110. -/
def orderFault (port slot : Nat) (c : Cell) (s : State) : State :=
  tileCause slot c.coll port stIncomplete 0x060F
    (s.updJob slot (fun x => x.updEntry c.coll (fun e => { e with order := satInc e.order })))

/-- The checks of R110 over R109. -/
def memberOk (e : Entry) (pos : Nat) (m : Member) (c : Cell) : Bool :=
  c.rank = m.rank && m.pass < e.passes && c.chunk = m.ord && m.ord < e.passCells pos && c.parity = (m.pass % 2 = 1) &&
  c.last = e.lastOf (fmtElems e.cfmt) (e.passCells pos) m.ord && !c.esc && !c.prov

/-- The member's progress after an accepted cell. -/
def Member.next (e : Entry) (pos : Nat) (m : Member) : Member :=
  let wrap := m.ord + 1 = e.passCells pos
  { m with
    ord := if wrap then 0 else m.ord + 1
    pass := if wrap then m.pass + 1 else m.pass
    sent := m.sent + 1
    done := wrap && m.pass + 1 = e.passes }

/-- A tile's image has a DIGEST of SET 1 for a collective (R209). -/
def digestsIn (x : TileS) (slot coll : Nat) : Bool :=
  (List.range (x.job slot).ninsn).any (fun n =>
    let i := x.imgInsn slot n
    iOpc i = 0x0F && iMod i 15 2 = 1 && (x.binding slot (iBind i)).map bColl = some coll)

/-- The contribution's digest in the manifest (R168): folded where the member's tile has a DIGEST of SET 1 for it, else here (log entry 26). -/
def digestContribution (slot port : Nat) (m : Member) (c : Cell) (s : State) : State :=
  let x := s.job slot
  let e := x.entry c.coll
  match x.stepPos c.coll, (localMembers s x e).findIdx? (fun q => q.2.2 = port) with
  | some pos, some k =>
    let w := contribIdx s x pos k m.pass (min (e.chunkOfOrd (fmtElems c.fmt) c.chunk / 64) (e.ngroups - 1))
    if digestsIn (s.tile port) slot c.coll then s.updTile port (fun y => y.updJob slot (fun t => { t with contribs := t.contribs ++ [(w, c)] }))
    else s.updJob slot (fun x => x.digestMore true w c.bytes)
  | _, _ => s

/-- A member's cell at its ingress tile. -/
def ingressCell (port slot pos : Nat) (c : Cell) (s : State) : State :=
  let e := (s.job slot).entry c.coll
  match (s.inst? slot c.coll).bind (fun i => i.members.find? (fun m => m.port = port)) with
  | none => orderFault port slot c s
  | some m =>
    if !memberOk e pos m c then orderFault port slot c s
    else
      let s := updMember slot c.coll port (Member.next e pos) (digestContribution slot port m c s)
      match bindingFor s port slot c.coll roleIngress with
      | some b => toIq port slot b c s
      | none => sumCell port slot c s

/-- An endpoint port that stands in none of a job's member lists: its contributions and records are foreign cells (R251). -/
def foreignPort (s : State) (slot port : Nat) : Bool := (s.port port).kind = .endpoint && !inLists s (s.job slot) port

/-- What comes of a member cell's source port: a member's ingress, a wrong port, or a link between devices. -/
inductive Source where
  | member (pos : Nat) | wrong | link
  deriving DecidableEq, Repr

def sourceOf (s : State) (slot port : Nat) (c : Cell) : Source :=
  let x := s.job slot
  match memberAt s x (x.entry c.coll) port with
  | some (pos, _) => .member pos
  | none =>
    if (s.port port).kind ≠ .endpoint then .link else .wrong

/-- A cell for a tile whose island is down is dropped: its instance misses it with 0x020F. -/
def dropDown (c : Cell) (s : State) : State := markCellInc c.job c.coll c.epoch 0x020F s

/-- A contribution or relay cell received on a tile's port (R110, R117, R251). -/
def contribution (port : Nat) (c : Cell) (s : State) : State :=
  match slotOf c.job s with
  | none => s
  | some slot =>
    if foreignPort s slot port then bump (jobCtr port slot 0x60) 1 s
    else if !(s.job slot).ids.contains (BitVec.ofNat 12 c.coll) then bump (tileCtr port 0x080) 1 s
    else if tileDown s port then dropDown c s
    else
      let (ok, s') := judge slot c s
      if !ok then s'
      else match sourceOf s slot port c with
          | .member pos => ingressCell port slot pos c s'
          | .wrong => orderFault port slot c s'
          | .link => sumCell port slot c s'

/-- A relay cell of the member that sends the RELAY comes as a contribution does (R129). -/
def isMemberCell (s : State) (port : Nat) (c : Cell) : Bool :=
  c.cls = clsSched && (c.kind = kContribution ||
    (c.kind = kRelay && match slotOf c.job s with
      | some slot => (match sourceOf s slot port c with
        | .member pos => pos = 0
        | _ => false)
      | none => false))

def execContributionCell (t : Time) (port : Port) (c : Cell) (s : State) : Out :=
  let s := tick t s
  .next (if !isMemberCell s port.val c then s
    else match takeRx port.val c s with
      | none => s
      | some s => contribution port.val c s)

/-! ### Partial and egress cells -/

/-- A partial, or a contribution that the exchange brings, at a staging or home tile. -/
def partialAt (tile : Nat) (c : Cell) (s : State) : State :=
  match slotOf c.job s with
  | none => s
  | some slot =>
    if !(s.job slot).ids.contains (BitVec.ofNat 12 c.coll) then bump (tileCtr tile 0x080) 1 s
    else if tileDown s tile then dropDown c s
    else
      let (ok, s) := judge slot c s
      if ok then sumCell tile slot c s else s

/-- Contributions on the tile's own port come by CONTRIBUTION_CELL. -/
def execPartialCell (t : Time) (tile : LTile) (c : Cell) (s : State) : Out :=
  let s := tick t s
  let n := tile.val
  .next (if c.cls ≠ clsSched || !(c.kind = kPartial || (c.kind = kContribution && (s.tile n).inbox.contains c)) then s
    else match takeTile n c s with
      | none => s
      | some s => partialAt n c s)

/-! ### SHUFFLE (R124 to R127) -/

/-- Fields of a record header (Table CO-6). -/
def recIndex (c : Cell) : Nat := c.pn 0 5
def recLength (c : Cell) : Nat := c.pn 5 3
def recFrags (c : Cell) : Nat := c.pn 8 2
def recRsvd (c : Cell) : Nat := c.pn 10 6

/-- F of R124. -/
def fragsOf (l : Nat) : Nat := if l ≤ 80 then 1 else 1 + (l - 80 + 95) / 96

/-- Round function of R126. -/
def shufRound (v i : Nat) (seed : BitVec 64) (depoch : Word) : Nat :=
  let h : Word := BitVec.ofNat 32 v + seed.extractLsb' 0 32 + BitVec.ofNat 32 i * 0x9E3779B9
  let h := h ^^^ (seed.extractLsb' 32 32).rotateLeft (8 * i + 5)
  let h := (h ^^^ depoch) * 0x85EBCA6B
  (h ^^^ (h >>> 16)).toNat

/-- The Feistel network of R126. -/
def feistel (x hw : Nat) (seed : BitVec 64) (depoch : Word) : Nat :=
  let m := 2 ^ hw
  let q := (List.range 4).foldl (fun (q : Nat × Nat) i => (q.2, q.1 ^^^ (shufRound q.2 i seed depoch % m))) (x / m, x % m)
  q.1 * m + q.2

/-- Cycle walking, with a bound on the rounds. -/
def shufWalk : Nat → Nat → Nat → Nat → BitVec 64 → Word → Nat
  | 0, x, _, _, _, _ => x
  | k + 1, x, n, hw, seed, d =>
    let y := feistel x hw seed d
    if y < n then y else shufWalk k y n hw seed d

/-- The position a record goes to (R126): the walk ends within as many rounds as the network has values. -/
def shufDest (idx : Nat) (seed : BitVec 64) (depoch : Word) (n m : Nat) : Nat :=
  let hw := max 1 ((clog2 n + 1) / 2)
  shufWalk (2 ^ (2 * hw)) idx n hw seed depoch % m

/-- A record is dropped under R125. -/
def dropRecord (port slot : Nat) (c : Cell) (s : State) : State :=
  let s := s.updJob slot (fun x => x.updEntry c.coll (fun e => { e with shdrop := satInc e.shdrop }))
  tileCause slot c.coll port stIncomplete 0x0610 s

/-- A fragment 0 that R125 drops with its record. -/
def headBad (e : Entry) (c : Cell) : Bool :=
  recLength c > 65536 || recFrags c ≠ fragsOf (recLength c) || (recLength c ≠ 0 && recIndex c ≥ e.domain) || recRsvd c ≠ 0 ||
  c.last ≠ (recFrags c = 1)

/-- The end record of a member is in (R127). -/
def endRecord (slot : Nat) (c : Cell) (s : State) : State :=
  s.updInst slot c.coll (fun i => { i with ends := if i.ends.contains c.rank then i.ends else i.ends ++ [c.rank] })

/-- A record begins with an accepted fragment 0; one of a single fragment is whole at once. An end record goes on through the INGRESS queue like any
record, so that the programs can bring it to the other devices (log entry 65). -/
def recordBegins (port slot : Nat) (c : Cell) (s : State) : State :=
  let e := (s.job slot).entry c.coll
  if headBad e c then dropRecord port slot c (updMember slot c.coll port (fun m => { m with record := [], dropping := true }) s)
  else if recLength c = 0 then
    toRole port slot roleIngress c (updMember slot c.coll port (fun m => { m with record := [], dropping := false, done := true }) (endRecord slot c s))
  else if c.last then
    toRole port slot roleIngress c (updMember slot c.coll port (fun m => { m with record := [], dropping := false, sent := m.sent + 1 }) s)
  else updMember slot c.coll port (fun m => { m with record := [c], dropping := false }) s

/-- A SHUFFLE fragment of a member (R124, R125). DESIGN CHOICE where these name no outcome: a nonzero format code fails R110 (0x060F), and a fragment
after the end record is dropped as a record is (0x0610), each counted in SHDROP (log entry 68). -/
def fragment (port slot : Nat) (m : Member) (c : Cell) (s : State) : State :=
  if c.rank ≠ m.rank || c.fmt ≠ 0 || c.parity || c.esc || c.prov then orderFault port slot c s
  else if m.done then dropRecord port slot c s
  else if c.chunk = 0 then
    recordBegins port slot c (if m.record.isEmpty then s else dropRecord port slot c s)
  else if m.dropping then s
  else
    let frags := ((m.record.head?).map recFrags).getD 0
    if c.chunk ≠ m.record.length || c.last ≠ (c.chunk + 1 = frags) then
      dropRecord port slot c (updMember slot c.coll port (fun m => { m with record := [], dropping := true }) s)
    else if c.last then
      let s := updMember slot c.coll port (fun m => { m with record := [], sent := m.sent + 1 }) s
      (m.record ++ [c]).foldl (fun s q => toRole port slot roleIngress q s) s
    else updMember slot c.coll port (fun m => { m with record := m.record ++ [c] }) s

def shuffleIn (port : Nat) (c : Cell) (s : State) : State :=
  match slotOf c.job s with
  | none => s
  | some slot =>
    if foreignPort s slot port then bump (jobCtr port slot 0x60) 1 s
    else if ((s.job slot).entry c.coll).op ≠ 9 then bump (tileCtr port 0x080) 1 s
    else if tileDown s port then dropDown c s
    else
      let src := sourceOf s slot port c
      let (ok, s) := judge slot c s
      if !ok then s
      else match src, (s.inst? slot c.coll).bind (fun i => i.members.find? (fun m => m.port = port)) with
        | .member _, some m => fragment port slot m c s
        | _, _ => orderFault port slot c s

/-- A SHUFFLE cell of a member; over a link between devices it comes by EGRESS_CELL. -/
def execShuffleFragment (t : Time) (port : Port) (c : Cell) (s : State) : Out :=
  let s := tick t s
  let n := port.val
  let link : Bool := match slotOf c.job s with
    | some slot => sourceOf s slot n c = .link
    | none => true
  .next (if c.cls ≠ clsSched || c.kind ≠ kShuffle || link then s
    else match takeRx n c s with
      | none => s
      | some s => shuffleIn n c s)

/-- A record's destination is the member on this tile's port (R126). -/
def recordHere (s : State) (tile slot : Nat) (c : Cell) : Bool :=
  let x := s.job slot
  let e := x.entry c.coll
  let d : Word := ((s.inst? slot c.coll).map (·.depoch)).getD 0
  match memberAt s x e tile with
  | some (pos, _) => shufDest (recIndex c) x.seed d e.domain e.m = pos
  | none => false

/-- Fragments of a record gather at the destination's egress tile; the whole record enters the queue (R127). -/
def gather (tile slot : Nat) (c : Cell) (s : State) : State :=
  let key := 2 ^ 18 * tile + c.rank
  let recs := ((s.inst? slot c.coll).map (·.recs)).getD []
  let held := ((recs.find? (fun r => r.1 = key)).map (·.2)).getD []
  let put (l : List Cell) (s : State) : State := s.updInst slot c.coll (fun i => { i with
    recs := i.recs.filter (fun r => r.1 ≠ key) ++ (if l.isEmpty then [] else [(key, l)]) })
  if c.chunk = 0 && recLength c = 0 then endRecord slot c s
  else if c.chunk = 0 && !recordHere s tile slot c then s
  else if c.chunk ≠ 0 && held.isEmpty then s
  else
    let l := if c.chunk = 0 then [c] else held ++ [c]
    if c.last then l.foldl (fun s q => toRole tile slot roleEgress q s) (put [] s) else put l s

/-- A result, parameter, relay, frame or SHUFFLE cell for the tile's port (R205). -/
def egress (tile : Nat) (c : Cell) (s : State) : State :=
  match slotOf c.job s with
  | none => s
  | some slot =>
    if !(s.job slot).ids.contains (BitVec.ofNat 12 c.coll) then bump (tileCtr tile 0x080) 1 s
    else if tileDown s tile then dropDown c s
    else
      let (ok, s) := judge slot c s
      if !ok then s
      else if c.kind = kShuffle then gather tile slot c s
      else if c.kind = kRelay && c.chunk + 1 = ((s.job slot).entry c.coll).passCells 0 then
        toRole tile slot roleEgress c (s.updInst slot c.coll (fun i => { i with ends := [0] }))
      else toRole tile slot roleEgress c s

/-- A cell that a member's port received goes to its ingress, not here. -/
def execEgressCell (t : Time) (tile : LTile) (c : Cell) (s : State) : Out :=
  let s := tick t s
  let n := tile.val
  let fromMember : Bool := !(s.tile n).inbox.contains c && (isMemberCell s n c || (c.kind = kShuffle && match slotOf c.job s with
    | some slot => sourceOf s slot n c ≠ .link
    | none => true))
  .next (if c.cls ≠ clsSched || fromMember || !([kResult, kParameter, kRelay, kShuffle, kContribution] : List Nat).contains c.kind ||
        (c.kind = kContribution && !isBytes ((slotOf c.job s).elim 0 (fun j => ((s.job j).entry c.coll).op))) then s
    else match takeTile n c s with
      | none => s
      | some s => egress n c s)

/-! ### Firing (R114 to R118, R135, R136) -/

/-- The STATE_WRITEs of an entry's operand that the device has begun (R96). -/
def operandWrites (s : State) (slot coll : Nat) : List (Nat × Word) :=
  (s.host.exec.filter (fun q => descOp q.desc = 0x07 && descJob q.desc = (s.job slot).tag.toNat && descN q.desc 24 1 = 9 && descN q.desc 26 2 = coll)).map
    (fun q => (q.ring, q.index))

/-- A new instance of an entry (R118). -/
def newInst (s : State) (slot coll : Nat) (start : Time) (deadline : Time) (depoch : Word) : Inst :=
  let x := s.job slot
  let e := x.entry coll
  { start := start
    deadline := deadline
    worst := 0
    why := 0
    wtop := planWtop e.plan
    w := planW e.plan
    auto := planAuto e.plan
    margin := planMargin e.plan
    s := if e.op = opRum then x.ls else 0
    step := if e.op = opRum then x.attemptStep else 0
    depoch := depoch
    members := (localMembers s x e).map (fun m =>
      ⟨BitVec.ofNat 18 m.2.1, m.2.2, 0, 0, 0, e.op ≠ 9 && e.passCells m.1 = 0, [], false⟩)
    chunks := (homeChunks s x e).map (fun j => ⟨j, 0, 0, 0, 0, 0, false⟩)
    parts := []
    posts0 := []
    posts1 := []
    sent0 := false
    sent1 := false
    postDrops := 0
    egress := 0
    left := []
    ends := []
    owesStat := false
    recs := []
    ended := false
    missing := BitVec.ofNat 18 missNone
    rowCells := []
    opWrites := operandWrites s slot coll
    fast := false
    exact := false }

/-- Bindings' own records of the last instance of an entry are cleared on a tile. -/
def freshOnTile (slot coll tile : Nat) (s : State) : State :=
  s.updTile tile (fun x =>
    let mine (k : Nat) : Bool := match x.binding slot k with
      | some b => bColl b = coll
      | none => false
    x.updJob slot (fun t => { t with
      escUsed := t.escUsed.filter (fun q => !mine (q.1 / 2 ^ 20))
      digs := t.digs.filter (fun d => !mine d.bind.toNat)
      runs := t.runs.filter (fun q => !mine q.1)
      streams := t.streams.filter (fun q => !mine (q.1 / 2 ^ 20))
      groupAt := t.groupAt.filter (fun q => q.1.toNat ≠ coll)
      contribs := t.contribs.filter (fun q => q.2.coll ≠ coll)
      ghat := t.ghat.filter (fun q => !mine q.1)
      sqs := t.sqs.filter (fun q => !mine (q.1 / 2))
      rows := t.rows.filter (fun r => !mine r.1) }))

/-- The epoch advances and the instance starts: RUNNING, and FIRE to the tile programs. -/
def startInst (slot coll epoch : Nat) (start deadline : Time) (depoch : Word) (s : State) : State :=
  let s := (payStat slot coll s).updJob slot (fun x => x.updEntry coll (fun e => { e with cfg := e.next.getD e.cfg, next := none }))
  let i := newInst s slot coll start deadline depoch
  let s := s.updJob slot (fun x => x.updEntry coll (fun e => { e with
    epoch := BitVec.ofNat 4 epoch, status := BitVec.ofNat 4 stRunning, fired := true, inst := some i }))
  let s := s.updTwin (fun w => { w with theirs := w.theirs.filter (fun d =>
    d.job ≠ (s.job slot).tag || d.coll.toNat ≠ coll || d.epoch.toNat = epoch) })
  jobEvent slot coll evFire 0 ((jobTiles s slot).foldl (fun s n => freshOnTile slot coll n s) s)

/-- The verdict tile's deadline follows the latest deadline of the attempt (R152). -/
def setVerdictDeadline (slot : Nat) (s : State) : State :=
  if !isVerdict s slot then s
  else updVerd slot (fun v => { v with deadline := (s.job slot).deadline + us (s.job slot).vmargin.toNat }) (openVerd slot s)

/-- The committed bank (R137). -/
def Job.committed (x : Job) : Mem := if x.step.toNat % 2 = 0 then x.bank0 else x.bank1

/-- Bytes of the alternate bank. -/
def Job.alternate (x : Job) : Mem := if x.step.toNat % 2 = 0 then x.bank1 else x.bank0

/-- Bytes written to the alternate bank. -/
def Job.writeAlt (off : Nat) (bs : List Byte) (x : Job) : Job :=
  if x.step.toNat % 2 = 0 then { x with bank1 := x.bank1.writeN off bs }.touch .bank1 off bs.length
  else { x with bank0 := x.bank0.writeN off bs }.touch .bank0 off bs.length

/-- An FP32 field of position p's HPARAM (Table UP-5). -/
def Job.hp (x : Job) (p off : Nat) : Nat := leNat (x.hparam.readN (64 * p + off) 4)

/-- The bias terms and the step of the attempt go to the alternate bank's record (R145), once an attempt. -/
def biasRecord (slot : Nat) (s : State) : State :=
  let x := s.job slot
  if x.biasDone || !x.home || !x.attempt || x.replay.isSome || x.optWaits then s
  else
    let c := x.committed
    let terms := (List.range x.u).flatMap (fun p =>
      leBytes 4 (fmul (leNat (c.readN (64 + 8 * p) 4)) (x.hp p 8)) ++ leBytes 4 (fmul (leNat (c.readN (68 + 8 * p) 4)) (x.hp p 12)))
    s.updJob slot (fun x => { (x.writeAlt 8 (leBytes 5 x.attemptStep)).writeAlt 64 terms with biasDone := true })

/-- The first firing of a step-list entry opens an attempt (R135, Table UP-12): its manifest record is cleared. -/
def openAttempt (slot : Nat) (s : State) : State :=
  if (s.job slot).attempt then s
  else biasRecord slot <| s.updJob slot (fun x =>
    let r := x.attempts.toNat % 8 * x.manRec
    { x with
      attempt := true
      fired := []
      gate := .opened
      biasDone := false
      manifest := x.manifest.filter (fun q => q.1 < r || r + x.manRec ≤ q.1) }.touch .manifest r x.manRec)

/-- A step position has fired, or been refused: its start and LATE count toward the deadline (R136, R152). -/
def countFiring (slot pos : Nat) (deadline : Time) (s : State) : State :=
  setVerdictDeadline slot (s.updJob slot (fun x => { x with
    fired := if x.fired.contains pos then x.fired else x.fired ++ [pos], deadline := max x.deadline deadline }))

/-- A firing is refused: REASON keeps the cause, the target instance is reported ABORTED (R118). -/
def refuseFiring (slot coll epoch code : Nat) (s : State) : State :=
  let s := s.updJob slot (fun x => x.updEntry coll (fun e => { e with reason := BitVec.ofNat 16 code }))
  let x := s.job slot
  if ((x.entry coll).op = 0xA) || !hasPart s slot coll then s
  else
    let e := x.entry coll
    sendStat slot coll epoch false { Part.reset with status := BitVec.ofNat 4 stAborted, reason := BitVec.ofNat 16 code, home := !(homeChunks s x e).isEmpty }
      missNone (planWtop e.plan - planW e.plan + 2) s

/-- The code that refuses a firing (R118), late: the LAUNCH came after its START. Where several causes apply, the spec gives no order: late comes first
(DESIGN CHOICE, log entry 69). -/
def firingCode (s : State) (e : Entry) (late : Bool) : Option Nat :=
  if late then some 0x060D
  else if e.status.toNat = stRunning then some 0x060A
  else if e.fired && s.time < e.lastSeen + us 50 then some 0x060B
  else none

/-- A firing of an entry toward an epoch, by a LAUNCH or by the tide (R118, R136). -/
def fire (slot coll epoch : Nat) (start : Time) (depoch : Word) (late : Bool) (s : State) : State :=
  let x := s.job slot
  let e := x.entry coll
  if x.st ≠ .running || !(x.twin = .paired || x.twin = .serving) then s
  else if e.fired && e.epoch.toNat = epoch then s.updJob slot (fun x => x.updEntry coll (fun e => { e with stale := satInc e.stale }))
  else
    let deadline := start + us ({ e with cfg := e.next.getD e.cfg }.late)
    match x.stepPos coll with
    | none => (match firingCode s e late with
      | some c => refuseFiring slot coll epoch c s
      | none => startInst slot coll epoch start deadline depoch s)
    | some pos =>
      let again := x.attempt && x.fired.contains pos
      let s := countFiring slot pos deadline (openAttempt slot s)
      if again then refuseFiring slot coll epoch 0x070A s
      else match firingCode s e late with
        | some c => gateMove slot (refuseFiring slot coll epoch c s)
        | none => startInst slot coll epoch start deadline depoch s

/-- Fabric time of the present tide's start, rounded up. -/
def tideStartTime (s : State) : Time := (s.tide.start + 4) / 5

def execPrearmedFiring (t : Time) (slot : Slot) (coll : BitVec 12) (s : State) : Out :=
  let s := tick t s
  let x := s.job slot.val
  let e := x.entry coll.toNat
  let n := s.tide.now
  .next (if !x.ids.contains coll || e.launched || e.period = 0 || n < x.startTide.toNat || n % e.period ≠ e.phase then s
    else fire slot.val coll.toNat (n / e.period % 16) (tideStartTime s) (BitVec.ofNat 32 { e with cfg := e.next.getD e.cfg }.depoch) false s)

/-! ### LAUNCH (R115, R116) -/

def launchStart (c : Cell) : Nat := c.pn 2 8
def launchRank (c : Cell) : Nat := c.pn 14 3 % 2 ^ 18

/-- A LAUNCH that R116 ignores. -/
def launchIgnored (s : State) (x : Job) (e : Entry) (port : Nat) (c : Cell) : Bool :=
  let recs := (List.range e.m).map (memberRec x e)
  launchRank c ≠ e.launcher || !e.launched || c.coll ≠ c.pn 0 2 % 4096 || c.epoch ≠ c.pn 0 2 / 4096 || c.pn 14 3 ≥ 2 ^ 18 || c.pn 17 79 ≠ 0 ||
  ((s.port port).kind = .endpoint && recs.any (fun r => r.1 = e.launcher && (r.2.1 ≠ s.dev.id.toNat || r.2.2 ≠ port)))

def launch (port : Nat) (c : Cell) (s : State) : State :=
  match slotOf c.job s with
  | none => s
  | some slot =>
    let coll := c.pn 0 2 % 4096
    let x := s.job slot
    if x.away then s
    else if !x.ids.contains (BitVec.ofNat 12 coll) then logCode 0x060C (unitJob slot) s
    else if launchIgnored s x (x.entry coll) port c then
      logCode 0x060C (unitJob slot) (s.updJob slot (fun x => x.updEntry coll (fun e => { e with reason := 0x060C })))
    else fire slot coll (c.pn 0 2 / 4096) (launchStart c) (BitVec.ofNat 32 (c.pn 10 4)) (decide (launchStart c < s.time)) s

def execLaunch (t : Time) (port : Port) (c : Cell) (s : State) : Out :=
  let s := tick t s
  .next (if c.kind ≠ kLaunch then s
    else match takeRx port.val c s with
      | none => s
      | some s => launch port.val c s)

/-! ### The late limit (R122, R129) -/

/-- A chunk is incomplete, a member unfinished, in what it sends or in what is still to come for it, or a SHUFFLE (R122; log entry 64). -/
def unfinished (s : State) (slot coll : Nat) (e : Entry) (i : Inst) : Bool :=
  i.chunks.any (fun c => c.passes < e.passes) || i.members.any (fun m => !m.done) || !shuffled e i || (i.egress = 0 && !delivered s slot coll i)

def lateLimit (slot coll : Nat) (s : State) : State :=
  let e := (s.job slot).entry coll
  match s.inst? slot coll with
  | none => s
  | some i =>
    if e.op = 0xA || s.time < i.deadline || i.sent0 || !unfinished s slot coll e i then s
    else
      let miss := (i.members.filter (fun m => !m.done)).foldl (fun a m => Nat.min a m.rank.toNat) missNone
      let s := abortInst slot coll 0x060E true (s.updInst slot coll (fun i => { i with missing := BitVec.ofNat 18 miss }))
      if e.op = opRum then gateMove slot s else s

def execLateDeadline (t : Time) (slot : Slot) (coll : BitVec 12) (s : State) : Out :=
  .next (lateLimit slot.val coll.toNat (tick t s))

end Sys2Proof.Machine
end

