-- ==== Sys2Proof/Machine/Obs.lean ====
section
/-! DEFINITION. Counters, attribution, branch trace and the event recorder (18). -/

namespace Sys2Proof.Machine

/-! ### Branch trace (R464, R465) -/

/-- Word of Table OB-8 from its type, tile and 53 bits of body. -/
def traceWord (type tile body : Nat) : DWord := BitVec.ofNat 64 (type * 2 ^ 60 + tile % 128 * 2 ^ 53 + body % 2 ^ 53)

def traceSync (pc tile : Nat) : DWord := traceWord 1 tile (pc / 2 * 2 ^ 22)
def traceTime (time tile : Nat) : DWord := traceWord 4 tile (time / 65536 % 2 ^ 48 * 32)
def traceLost (n tile : Nat) : DWord := traceWord 5 tile (min n 0x7FFFFFFF * 2 ^ 22)
def traceDispatch (layer oper slot tile : Nat) : DWord :=
  traceWord 6 tile (layer % 65536 * 2 ^ 37 + oper % 65536 * 64 + slot % 64)

/-- A die's buffer holds 131,072 messages. -/
def traceCap : Nat := 131072

/-- Write messages into a die's buffer: with WRAP they overwrite the oldest, without it the full buffer stops (R465). -/
def TraceDie.write (wrap : Bool) (time : Time) (ms : List DWord) (d : TraceDie) : TraceDie :=
  ms.foldl (fun d m =>
    if d.msgs.length < traceCap then { d with msgs := (m, time) :: d.msgs, full := !wrap && d.msgs.length + 1 = traceCap }
    else if wrap then { d with msgs := ((m, time) :: d.msgs).take traceCap }
    else { d with full := true }) d

/-- A cycle of 0.6 ns in fifths of 2^-16 ns. -/
def cycleFifths : Nat := 196608

/-- A tile writes a message of its trace (R464): lost while the die's write port is busy, else after a LOST message and a
SYNC when some were lost, and before a SYNC and a TIME after every 1,024 messages. -/
def traceMsg (tile : Nat) (m : DWord) (s : State) : State :=
  let die := tile / 32
  let d := Tbl.get TraceDie.reset s.obs.trace die
  let x := (s.tile tile).trace
  if !(d.armed && d.mask.getLsbD (tile % 32) && x.on) then s
  else if 5 * s.time < d.free then
    let s := s.updTile tile (fun y => { y with trace := { x with lost := x.lost + 1, pendLost := x.pendLost + 1 } })
    let s := s.updObs (fun o => { o with trace := Tbl.upd TraceDie.reset o.trace die (fun d => { d with lost := d.lost + 1 }) })
    trcReason 0x0C06 (logCode 0x0C06 (unitTile tile) s)
  else
    let pc := (Tbl.get 0 (s.tile tile).csrs 0).toNat
    let pre := if x.pendLost > 0 then [traceLost x.pendLost tile, traceSync pc tile, traceTime s.time tile] else []
    let n := x.since + pre.length + 1
    let post := if n ≥ 1024 then [traceSync pc tile, traceTime s.time tile] else []
    let ms := pre ++ [m] ++ post
    let s := s.updObs (fun o => { o with trace := Tbl.upd TraceDie.reset o.trace die (fun d =>
      { d.write o.wrap s.time ms with free := 5 * s.time + ms.length * cycleFifths }) })
    s.updTile tile (fun y => { y with trace := { x with pendLost := 0, since := if n ≥ 1024 then 0 else n, lastAt := s.time } })

/-- DISPATCH messages are written only while TRC_CTL.DISP is 1. -/
def traceDisp (tile layer oper slot : Nat) (s : State) : State :=
  if s.obs.disp then traceMsg tile (traceDispatch layer oper slot tile) s else s

/-- Dies of a descriptor's DIEMASK, and the tile mask of each (R465). -/
def traceDies (d : BitVec 512) : List Nat := (List.range 4).filter (fun k => bitN (descN d 25 1) k)
def traceMask (d : BitVec 512) (die : Nat) : Nat := descN d (40 + 4 * die) 4

/-- A nonzero tile mask of a die outside DIEMASK: 0x0C05 (R465). -/
def traceBad (d : BitVec 512) : Bool :=
  (List.range 4).any (fun k => !bitN (descN d 25 1) k && traceMask d k ≠ 0)

/-- Arm one die: its buffer is cleared, and each selected tile writes SYNC and TIME. -/
def armDie (die mask : Nat) (s : State) : State :=
  let tiles := (List.range 32).filter (fun k => bitN mask k) |>.map (fun k => 32 * die + k)
  let ms := tiles.flatMap (fun n => [traceSync (Tbl.get 0 (s.tile n).csrs 0).toNat n, traceTime s.time n])
  let d := TraceDie.reset.write s.obs.wrap s.time ms
  let d := { d with armed := true, mask := BitVec.ofNat 32 mask, free := 5 * s.time + ms.length * cycleFifths }
  let s := s.updObs (fun o => { o with trace := Tbl.set TraceDie.reset o.trace die d })
  (List.range 32).foldl (fun s k => s.updTile (32 * die + k) (fun y => { y with trace :=
    { TraceT.reset with on := bitN mask k, lastAt := s.time } })) s

/-- A trace time of a device in a reference device's time, along a path of offset records, each on the nearer device (R466). -/
def toRef (t : Int) (path : List OffsetRec) : Int := path.foldl (fun t r => t - r.theta.toInt) t

def execTraceArm (t : Time) (h : HostCmd) (s : State) : Out :=
  .next (hostCmd 0x0F t h (fun x s =>
    if descN x.desc 24 1 ≠ 1 then s
    else if traceBad x.desc then refuse x 0x0C05 (trcReason 0x0C05 s)
    else finish x stDone 0 [] h.writeOk ((traceDies x.desc).foldl (fun s d => armDie d (traceMask x.desc d) s) s)) s)

def execTraceStop (t : Time) (h : HostCmd) (s : State) : Out :=
  .next (hostCmd 0x0F t h (fun x s =>
    if descN x.desc 24 1 ≠ 0 then s
    else if traceBad x.desc then refuse x 0x0C05 (trcReason 0x0C05 s)
    else
      let stop (tr : Tbl TraceDie) (d : Nat) : Tbl TraceDie := Tbl.upd TraceDie.reset tr d (fun y => { y with armed := false })
      finish x stDone 0 [] h.writeOk (s.updObs (fun o => { o with trace := (traceDies x.desc).foldl stop o.trace }))) s)

/-- Bytes of a die's copy: a 64-byte header and its messages, oldest first (R465). -/
def traceImage (die : Nat) (d : TraceDie) : List Byte :=
  leBytes 4 0x43525454 ++ leBytes 4 die ++ leBytes 4 d.msgs.length ++ leBytes 4 d.lost.toNat ++
  leBytes 8 ((d.msgs.getLast?.map (·.2)).getD 0) ++ leBytes 40 0 ++ d.msgs.reverse.flatMap (fun m => leBytes 8 m.1.toNat)

def execTraceCopyOut (t : Time) (h : HostCmd) (s : State) : Out :=
  .next (hostCmd 0x0F t h (fun x s =>
    let dies := traceDies x.desc
    let img := dies.flatMap (fun d => traceImage d (Tbl.get TraceDie.reset s.obs.trace d))
    if descN x.desc 24 1 ≠ 2 then s
    else if traceBad x.desc then refuse x 0x0C05 (trcReason 0x0C05 s)
    else if dies.any (fun d => (Tbl.get TraceDie.reset s.obs.trace d).armed) then refuse x 0x0C04 (trcReason 0x0C04 s)
    else if img.length > descLen x.desc then refuse x 0x0C07 (trcReason 0x0C07 s)
    else finish x stDone 0 (leBytes 8 img.length) h.writeOk (writeBuffer x.ents img s)) s)

/-! ### Counter and attribution registers (R458 to R463) -/

/-- The level an HWM counter follows (Table OB-3). -/
def hwmLevel (s : State) (tile off : Nat) : Option Nat :=
  let x := s.tile tile
  if off % 8 ≠ 0 then none
  else if 0x100 ≤ off && off < 0x300 then some (Tbl.get [] x.iqs ((off - 0x100) / 8)).length
  else if 0x300 ≤ off && off < 0x400 then some (Tbl.get [] x.vqs ((off - 0x300) / 8)).length
  else if 0x400 ≤ off && off < 0x500 then some (Tbl.get [] x.oqs ((off - 0x400) / 8)).length
  else if off = 0x500 then some (x.bufs.filter (fun b => b.2.state)).length
  else if off = 0x508 then some x.evq.length
  else if off = 0x510 then some (dedupNat ((s.twin.mine.filter (fun r => r.tile.toNat = tile)).map (fun r =>
    r.job.toNat * 2 ^ 16 + r.coll.toNat * 16 + r.epoch.toNat))).length
  else none

/-- A write to a tile counter that HWM marks sets it to the present level (R458); other counters are read only. -/
def writeHwm (addr : Nat) (s : State) : State :=
  if 0x480000 ≤ addr && addr < 0x4C0000 then
    let tile := (addr - 0x480000) / 0x800
    match hwmLevel s tile ((addr - 0x480000) % 0x800 / 8 * 8) with
    | some v => s.updObs (fun o => { o with ctrs := Tbl.set 0 o.ctrs (addr / 8 * 8) (BitVec.ofNat 64 v) })
    | none => s
  else s

def execHwmCounterWrite (t : Time) (addr : Word) (_v : Word) (s : State) : Out :=
  .next (bar0 t (writeHwm addr.toNat) s)

/-- A write of TRC_CTL (Table OB-13): CLR clears the whole counter space, ACLR the attribution table. -/
def writeTrcCtl (v : Word) (s : State) : State :=
  s.updObs (fun o => { o with
    afreeze := v.getLsbD 2
    disp := v.getLsbD 1
    wrap := v.getLsbD 0
    ctrs := if v.getLsbD 3 then [] else o.ctrs
    bins := if v.getLsbD 4 then [] else o.bins })

def execCounterClear (t : Time) (v : Word) (s : State) : Out := .next (bar0 t (writeTrcCtl (v ||| 8)) s)
def execAttributionClear (t : Time) (v : Word) (s : State) : Out := .next (bar0 t (writeTrcCtl (v ||| 16)) s)

/-- A write of TRC_PSEL k (R461): a reserved EVENT is refused with 0x0C05; else counter k is cleared on every tile. -/
def writePsel (k : Nat) (v : Word) (s : State) : State :=
  if v.toNat % 256 > 0x0F then trcReason 0x0C05 s
  else s.updObs (fun o => { o with
    psel := Tbl.set 0 o.psel k (v &&& 0x7FFF)
    ctrs := (List.range 128).foldl (fun c n => Tbl.set 0 c (profCtr n k) 0) o.ctrs })

def execProfileSelect (t : Time) (k : Fin 8) (v : Word) (s : State) : Out := .next (bar0 t (writePsel k.val v) s)

/-! ### The event recorder (R471 to R474) -/

/-- Fields of a record (Table OB-11). -/
def recCode (r : BitVec 512) : Nat := bitsN r.toNat 0 16
def recSeq (r : BitVec 512) : Nat := bitsN r.toNat 32 32

/-- A flash slot holds a valid record (R472). -/
def recOk (r : BitVec 512) : Bool :=
  recCode r ≠ 0xFFFF && (crc32c (leBytes 60 r.toNat)).toNat = bitsN r.toNat 480 32

/-- The records of a source: 0 on-chip, 1 flash. -/
def sourceRecs (s : State) (flash : Bool) : List (BitVec 512) :=
  if flash then (s.flash.evr.map (·.2)).filter recOk else s.obs.onchip

/-- The record of a SEQ, or 64 zero bytes (R473). -/
def recOf (rs : List (BitVec 512)) (seq : Nat) : BitVec 512 := (rs.find? (fun r => recSeq r = seq)).getD 0

/-- The window of 64 records from a SEQ on. -/
def windowOf (rs : List (BitVec 512)) (seq : Nat) : List (BitVec 512) :=
  (List.range 64).map (fun i => recOf rs ((seq + i) % 2 ^ 32))

/-- Fill the window from the cursor's source and set WREADY. -/
def loadWindow (s : State) : State :=
  let w := windowOf (sourceRecs s (s.obs.cursor.getLsbD 63)) (s.obs.cursor.toNat % 2 ^ 32)
  s.updObs (fun o => { o with window := w, wready := true })

/-- A write of EVR_CURSOR (R473): WREADY clears; the on-chip source is loaded at once. -/
def writeCursor (v : DWord) (s : State) : State :=
  let s := s.updObs (fun o => { o with cursor := v &&& 0x80000000FFFFFFFF, wready := false })
  if v.getLsbD 63 then s else loadWindow s

def execEvrCursorWrite (t : Time) (v : DWord) (s : State) : Out := .next (bar0 t (writeCursor v) s)

def execEvrWindowLoaded (t : Time) (s : State) : Out :=
  let s := tick t s
  .next (if s.obs.wready || !s.obs.cursor.getLsbD 63 then s else loadWindow s)

/-- A sealed clear (R474): refused with 0x0C08 when the signature does not verify; else the scopes are emptied and a record
of code 0x0C09 with the scope as VALUE is written. The nonce takes a new value after every attempt. -/
def sealedClear (verifies : Bool) (s : State) : State :=
  let s := s.updObs (fun o => { o with nonceNo := o.nonceNo + 1 })
  if !verifies then evrReason 0x0C08 (logCode 0x0C08 unitDev s)
  else
    let sc := s.obs.scope
    let s := if sc.getLsbD 0 then s.updObs (fun o => { o with
        onchip := [], toFlash := [], aggs := (o.aggs.map (fun e => (e.1, e.2.restart))).filter (fun e => decide (e.2 ≠ Agg.reset)) }) else s
    let s := if sc.getLsbD 1 then s.updObs (fun o => { o with clearing := true }) else s
    evrReason 0x0C09 (logEv 0x0C09 unitDev sc.toNat 0 s)

def execSealedClear (t : Time) (v : Word) (verifies : Bool) (s : State) : Out :=
  .next (bar0 t (fun s => if v.getLsbD 0 then sealedClear verifies s else s) s)

def execEvrClearEraseDone (t : Time) (s : State) : Out :=
  let s := tick t s
  .next (if s.obs.clearing then
      (s.updObs (fun o => { o with clearing := false })).updFlash (fun f => { f with evr := [], evrNext := 0 })
    else s)

/-- A token of a code's bucket that is due returns (R471): an aggregate that waits is recorded at once. -/
def tokenReturn (time : Time) (code : Nat) (o : Obs) : Obs :=
  let a := o.agg code
  if a.rate = 0 || a.tokens = 0 || time < a.nextToken then o
  else
    let b := { a with tokens := a.tokens - 1, gainAt := a.nextToken }
    if b.count ≠ 0 && b.tokens < b.rate.toNat then
      { o with aggs := Tbl.set Agg.reset o.aggs code (b.useToken b.gainAt) }.writeRecord code
    else { o with aggs := Tbl.set Agg.reset o.aggs code b }

def execTokenArrival (t : Time) (code : BitVec 16) (s : State) : Out :=
  let s := tick t s
  .next { s with obs := (tokenReturn s.time code.toNat s.obs).logLoss s.time }

/-- The next sector from k on that has not failed to program; 128 sectors of 1,024 records (R472). -/
def goodSector (bad : List Nat) (k : Nat) : Nat :=
  (((List.range 128).map (fun i => (k + i) % 128)).find? (fun i => !bad.contains i)).getD (k % 128)

/-- A sector is erased. -/
def eraseSector (k : Nat) (t : Tbl (BitVec 512)) : Tbl (BitVec 512) := t.filter (fun e => e.1 / 1024 ≠ k)

/-- The write point enters sector k: the sector after it is erased first (R472). -/
def enterSector (k : Nat) (f : Flash) : Flash :=
  { f with evr := eraseSector (goodSector f.evrBad (k + 1)) f.evr, evrNext := 1024 * k }

/-- Program the oldest queued record (R472): a sector that fails is skipped and 0x0C0A logged. -/
def programRecord (ok : Bool) (s : State) : State :=
  match s.obs.toFlash with
  | [] => s
  | r :: rest =>
    if s.obs.clearing || !s.obs.flashOk then s
    else if !ok then
      let k := s.flash.evrNext / 1024 % 128
      let bad := if s.flash.evrBad.contains k then s.flash.evrBad else s.flash.evrBad ++ [k]
      evrReason 0x0C0A (logCode 0x0C0A unitDev (s.updFlash (fun f =>
        enterSector (goodSector bad (k + 1)) { f with evrBad := bad })))
    else
      let n := s.flash.evrNext + 1
      let s := s.updFlash (fun f => { f with evr := Tbl.set 0 f.evr f.evrNext r, evrNext := n % 131072 })
      let s := if n % 1024 = 0 then s.updFlash (fun f => enterSector (goodSector f.evrBad (n / 1024)) f) else s
      s.updObs (fun o => { o with toFlash := rest })

def execFlashRecordProgram (t : Time) (ok : Bool) (s : State) : Out := .next (programRecord ok (tick t s))

/-! ### Telemetry (R469) -/

/-- Offset record bytes (Table RG-12). -/
def offsetBytes (o : OffsetRec) : List Byte :=
  leBytes 8 o.theta.toNat ++ leBytes 8 o.delay.toNat ++ leBytes 2 o.job.toNat ++ leBytes 6 o.tide.toNat ++ leBytes 8 (b2n o.valid)

/-- Bytes of an attribution bin (Table OB-7); the issue-cycle fields are 0 in this model (log entry 11). -/
def binBytes (b : Bin) : List Byte :=
  leBytes 2 b.key.toNat ++ leBytes 2 b.layer.toNat ++ leBytes 4 b.operator.toNat ++ leBytes 8 b.insn.toNat ++ leBytes 24 0 ++
  leBytes 8 b.stall.toNat ++ leBytes 8 b.accb.toNat ++ leBytes 8 b.hbmb.toNat

/-- Offsets of the counters that a table assigns. -/
def portOffs : List Nat := (List.range 27).map (8 * ·)
def tileOffs : List Nat :=
  (List.range 27).map (8 * ·) ++ (List.range 64).map (fun i => 0x100 + 8 * i) ++ (List.range 32).map (fun i => 0x300 + 8 * i) ++
  (List.range 32).map (fun i => 0x400 + 8 * i) ++ [0x500, 0x508, 0x510]
def jobOffs : List Nat := (List.range 16).map (8 * ·)
def devOffs : List Nat :=
  (List.range 4).flatMap (fun d => (List.range 7).map (fun k => 0x40 * d + 8 * k)) ++ [0x100, 0x108, 0x110, 0x118, 0x120, 0x128]

def ctrBytes (s : State) (addrs : List Nat) : List Byte := addrs.flatMap (fun a => leBytes 8 (Tbl.get 0 s.obs.ctrs a).toNat)

/-- Addresses of the counters of sets 0 to 4, in counter-space order (Table OB-10). -/
def telemAddrs (set : Nat) (slots : List Nat) : List Nat :=
  match set with
  | 0 => (List.range 130).flatMap (fun n => portOffs.map (portCtr n))
  | 1 => (List.range 128).flatMap (fun n => tileOffs.map (tileCtr n))
  | 2 => (List.range 128).flatMap (fun n => slots.flatMap (fun j => jobOffs.map (jobCtr n j)))
  | 3 => devOffs.map devCtr
  | 4 => (List.range 128).flatMap (fun n => (List.range 8).map (profCtr n))
  | _ => []

/-- The body of a set. -/
def telemBody (set : Nat) (slots : List Nat) (s : State) : List Byte :=
  match set with
  | 5 => (List.range 1024).flatMap (fun b => binBytes (Tbl.get Bin.reset s.obs.bins b))
  | 6 => (List.range 128).flatMap (fun p => offsetBytes (s.port p).offset)
  | 7 => s.obs.aggs.flatMap (fun e => if e.2.count = 0 then [] else leBytes 64 (e.2.record e.1 0).toNat)
  | _ => ctrBytes s (telemAddrs set slots)

/-- A telemetry copy: header and body (R469). -/
def telemImage (set : Nat) (slots : List Nat) (s : State) : List Byte :=
  let body := telemBody set slots s
  leBytes 4 0x4D4C4554 ++ leBytes 4 set ++ leBytes 8 s.time ++ leBytes 8 s.time ++ leBytes 4 body.length ++
  leBytes 4 (crc32c body).toNat ++ leBytes 32 0 ++ body

def execTelemDrain (t : Time) (h : HostCmd) (s : State) : Out :=
  .next (hostCmd 0x11 t h (fun x s =>
    let set := descN x.desc 24 1
    let slots := if descJob x.desc = 0 then List.range 64 else (slotOf (descJob x.desc) s).toList
    if set > 7 then refuse x 0x0C05 (trcReason 0x0C05 s)
    else if (s.ring 9).st ≠ .running then refuse x 0x0407 s
    else if !outIdle s 9 then s
    else startOut 9 x h.writeOk (telemImage set slots s) s) s)

end Sys2Proof.Machine
end

