-- ==== Sys2Proof/Machine/Dump.lean ====
section
/-! DEFINITION. Snapshots and dump records of a tile (18 R467, R468). -/

namespace Sys2Proof.Machine

/-- Occupancy of a physical input queue (TPQOCC; log entry 27). -/
def queueOcc (x : TileS) (q : Nat) : Nat := (Tbl.get [] x.iqs q).length

/-- TPCQFREE: free entries of the command queues of TPRUNA's job slot, a nibble each, saturating at 15 (Table TP-14). -/
def cqFree (x : TileS) : Nat :=
  ((List.range 8).map (fun k => min 15 (32 - (Tbl.get [] (x.job (bitsN x.tpruna.toNat 16 6)).cqs k).length) * 16 ^ k)).sum

/-- What a read of each custom CSR gives, TPEVQ without its pop (Table TP-14). -/
def csrWords (x : TileS) : List Nat :=
  [x.tpcmdlo.toNat, 0, x.tpruna.toNat, 0, x.tplop.toNat, ((x.evq.head?).map (·.toNat)).getD 0, 0, 0, x.tpcellsel.toNat, 0, 0, 0, x.tpqsel.toNat,
   cqFree x, x.tpskip.toNat, queueOcc x x.tpqsel.toNat]

/-- pc, mstatus, mie, mip, mcause, mepc, mtval by number; the tile event line is mip bit 11. -/
def pilotCsr (x : TileS) (k : Nat) : Nat := (Tbl.get 0 x.csrs k).toNat ||| (if k = 3 && !x.evq.isEmpty then 0x800 else 0)

/-- Section 1: registers and CSRs. -/
def dumpRegs (x : TileS) : List Byte :=
  let ws := (List.range 31).map (fun k => (Tbl.get 0 x.xregs (k + 1)).toNat) ++ (List.range 7).map (pilotCsr x) ++ csrWords x
  ws.flatMap (leBytes 4) ++ List.replicate (256 - 4 * ws.length) 0

/-- Section 3: the command queues of each job with a program on the tile. -/
def dumpCqs (x : TileS) : List Byte :=
  (x.jobs.filter (fun j => j.2.ninsn ≠ 0)).flatMap (fun j =>
    leBytes 4 j.1 ++ (List.range 8).flatMap (fun k =>
      let l := (Tbl.get [] j.2.cqs k).take 32
      l.flatMap (fun e => leBytes 8 e.insn.toNat ++ leBytes 4 e.lop.toNat) ++ List.replicate (12 * (32 - l.length)) 0))

/-- Section 4: occupancy of the data queues. -/
def dumpOcc (x : TileS) : List Byte :=
  (List.range 64).flatMap (fun q => leBytes 4 (Tbl.get [] x.iqs q).length) ++ (List.range 32).flatMap (fun q => leBytes 4 (Tbl.get [] x.vqs q).length) ++
  (List.range 4).flatMap (fun q => leBytes 4 (Tbl.get [] x.mqs q).length) ++ (List.range 32).flatMap (fun q => leBytes 4 (Tbl.get [] x.oqs q).length)

/-- Section 8: the event FIFO, oldest first. -/
def dumpEvq (x : TileS) : List Byte :=
  let l := x.evq.take 256
  l.flatMap (fun e => leBytes 4 e.toNat) ++ List.replicate (4 * (256 - l.length)) 0

/-- The skip log, oldest record first (R216, Table RG-10). -/
def dumpSkips (x : TileS) : List Byte :=
  let l := (x.skips.take 32).reverse
  l.flatMap (fun e => leBytes 16 e.toNat) ++ List.replicate (16 * (32 - l.length)) 0

/-- Section 9: accumulator memory, 192 elements of 12 bytes a tile. -/
def dumpAccs (x : TileS) : List Byte :=
  (List.range 2048).flatMap (fun a => (List.range 192).flatMap (fun i => leBytes 12 (Tbl.get 0 (x.acc a).elems i).toNat))

/-- Sections 1 to 8 (Table OB-9), or all nine. -/
def dumpSections (live : Bool) (x : TileS) : List (Nat × List Byte) :=
  [(1, dumpRegs x), (2, x.dmem.readN 0 65536), (3, dumpCqs x), (4, dumpOcc x),
   (5, (List.range 2048).flatMap (fun a => leBytes 4 (x.acc a).tag.toNat)),
   (6, (List.range 256).flatMap (fun b => leBytes 32 (Tbl.get 0 x.bind b).toNat)), (7, dumpSkips x), (8, dumpEvq x)] ++
  (if live then [(9, dumpAccs x)] else [])

/-- Sections as a record carries them: 16-byte section headers and bytes. -/
def sectionBytes (l : List (Nat × List Byte)) : List Byte :=
  l.flatMap (fun q => leBytes 2 q.1 ++ leBytes 2 0 ++ leBytes 4 q.2.length ++ leBytes 8 0 ++ q.2)

/-- A dump record (R468). -/
def dumpRecord (tile phys source cause time n : Nat) (body : List Byte) : List Byte :=
  leBytes 4 0x504D5544 ++ leBytes 1 tile ++ leBytes 1 phys ++ leBytes 1 source ++ leBytes 1 0 ++ leBytes 2 cause ++ leBytes 6 0 ++ leBytes 8 time ++
  leBytes 4 (64 + body.length) ++ leBytes 4 (crc32c body).toNat ++ leBytes 1 n ++ leBytes 31 0 ++ body

/-- A tile takes a snapshot: one that overwrites an undumped snapshot logs 0x0C03 (R468). -/
def snapshot (tile cause : Nat) (s : State) : State :=
  let s := if (s.tile tile).snap.isSome then trcReason 0x0C03 (logCode 0x0C03 (unitTile tile) s) else s
  s.updTile tile (fun x => { x with snap := some ⟨BitVec.ofNat 16 cause, s.time, sectionBytes (dumpSections false x)⟩ })

/-- A tile under live sparing, or whose island is gated (R468). -/
def dumpBarred (s : State) (tile : Nat) : Bool :=
  s.dev.moves.any (·.tile = tile) ||
  (match physOf s tile with
    | some p => (s.island p).pst = .gated
    | none => true)

/-- DUMP (R468, R391). -/
def dump (x : Exec) (ok : Bool) (s : State) : State :=
  let n := descN x.desc 24 1
  if n > 127 then refuse x 0x040B s
  else if dumpBarred s n then refuse x 0x0C0D (trcReason 0x0C0D s)
  else if (s.ring 8).st ≠ .running then refuse x 0x0407 s
  else if !outIdle s 8 then s
  else
    let phys := (physOf s n).getD 0
    match (s.tile n).snap with
    | some q => startOut 8 x ok (dumpRecord n phys 1 q.cause.toNat q.at_ 8 q.bytes) (s.updTile n (fun y => { y with snap := none }))
    | none => startOut 8 x ok (dumpRecord n phys 0 0 s.time 9 (sectionBytes (dumpSections true (s.tile n)))) s

def execDump (t : Time) (h : HostCmd) (s : State) : Out := .next (hostCmd 0x10 t h (fun x s => dump x h.writeOk s) s)

end Sys2Proof.Machine
end

