-- ==== Sys2Proof/Machine/Twin.lean ====
section
/-! DEFINITION. Twin operation: mooring, digest comparison, twin states of jobs, resynchronisation (13). -/

namespace Sys2Proof.Machine

/-! ### Mooring (R354 to R356, Table TW-1) -/

/-- Every open comparison of the device ends uncompared (Table TW-6). -/
def uncompareAll (s : State) : State := uncompare (fun _ => true) s

/-- The device leaves MOORED: comparisons and a transfer end. -/
def leaveMoored (s : State) : State := abortXfer (uncompareAll s)

/-- SIMPLEX (Tables TW-1, TW-7): PAIRED jobs serve alone and their verdict tiles decide, OUT jobs are FROZEN; plane B's time root holds over (Table TW-12). -/
def enterSimplex (s : State) : State :=
  let s := s.updTwin (fun w => { w with dst := .simplex })
  let s := leaveMoored (twinReason 0x0906 (logCode 0x0906 unitDev s))
  (loadedSlots s).foldl (fun s j => match (s.job j).twin with
    | .paired => verdictRun j (setJTwin j .serving s)
    | .out => freeze j s
    | _ => s) (if s.dev.twinSel then retime s else s)

/-- A twin-link half is set to a mode R317 does not allow. -/
def halfBad (p : PortS) : Bool := p.coding || p.clk || p.width ≠ 0

/-- The check of TWIN_CTL.EN (R354): a refusal, or both halves train. -/
def runTwinCheck (s : State) : State :=
  if !s.dev.idValid then twinReason 0x0901 (s.updTwin (fun w => { w with en := false }))
  else if halfBad (s.port 128) || halfBad (s.port 129) then twinReason 0x090C (s.updTwin (fun w => { w with en := false }))
  else portGo 129 (portGo 128 ((s.updPort 128 (fun p => { p with en := true })).updPort 129 (fun p => { p with en := true })))

/-- TWIN_CTL.EN cleared: UNMOORED, the halves stop. -/
def twinOff (s : State) : State :=
  let s := leaveMoored (s.updTwin (fun w => { w with en := false, dst := .unmoored }))
  portOff 129 (portOff 128 s)

/-- The job that TWIN_JOB.TAG names. -/
def namedJob (s : State) : Option Nat := slotOf s.twin.jobTag.toNat s

/-- CMD OUT (Table TW-7). -/
def cmdOut (s : State) : State :=
  match namedJob s with
  | some j => if (s.job j).twin = .paired then goOut j 0x0908 true s else twinReason 0x090D s
  | none => twinReason 0x090D s

/-- Ask the twin for the link (R367). -/
def requestXfer (tag : BitVec 12) (s : State) : State :=
  sendXfer tag.toNat 0 (s.updTwin (fun w => { w with xfer := some ⟨tag, true, false, 0, [], false⟩, wanted := none }))

/-- CMD RESYNC (R366, R367): while a transfer holds the link the request is made after its END. -/
def cmdResync (s : State) : State :=
  match namedJob s with
  | some j =>
    if s.twin.dst ≠ .moored || (s.job j).twin ≠ .serving then twinReason 0x090D s
    else if s.twin.xfer.isSome then s.updTwin (fun w => { w with wanted := some (s.job j).tag })
    else requestXfer (s.job j).tag s
  | none => twinReason 0x090D s

/-- CMD REJOIN for step S (R366). -/
def cmdRejoin (s : State) : State :=
  match namedJob s with
  | some j =>
    let x := s.job j
    match x.twin with
    | .serving => if x.step.toNat + 1 ≥ s.twin.jobStep.toNat then twinReason 0x090E s
      else s.updJob j (fun x => { x with rejoin := some s.twin.jobStep })
    | .out => if !x.ready then twinReason 0x090E s else s.updJob j (fun x => { x with rejoin := some s.twin.jobStep })
    | _ => twinReason 0x090D s
  | none => twinReason 0x090D s

/-- The CMD field (Table TW-8). -/
def twinCmd (c : Nat) (s : State) : State :=
  match c with
  | 0 => s
  | 1 => cmdOut s
  | 2 => cmdResync s
  | 3 => cmdRejoin s
  | _ => twinReason 0x0911 s

/-- A write of TWIN_CTL (Table TW-8, R406). -/
def writeTwinCtl (v : Word) (s : State) : State :=
  if checking .twin s then
    (if v.getLsbD 0 then s else cancelCheck .twin (s.updTwin (fun w => { w with en := false })))
  else
    let s := if v.getLsbD 0 then
        (if s.twin.en then s else startCheck .twin runTwinCheck (s.updTwin (fun w => { w with en := true })))
      else if s.twin.en then twinOff s else s
    twinCmd (bitsN v.toNat 28 4) s

def execTwinEnable (t : Time) (v : Word) (s : State) : Out := .next (bar0 t (writeTwinCtl (v ||| 1)) s)
def execTwinDisable (t : Time) (v : Word) (s : State) : Out := .next (bar0 t (writeTwinCtl (v &&& 0xFFFFFFFE)) s)
def execTwinCmdOut (t : Time) (v : Word) (s : State) : Out := .next (bar0 t (writeTwinCtl ((v &&& 0x0FFFFFFF) ||| 0x10000000)) s)
def execTwinCmdResync (t : Time) (v : Word) (s : State) : Out := .next (bar0 t (writeTwinCtl ((v &&& 0x0FFFFFFF) ||| 0x20000000)) s)
def execTwinCmdRejoin (t : Time) (v : Word) (s : State) : Out := .next (bar0 t (writeTwinCtl ((v &&& 0x0FFFFFFF) ||| 0x30000000)) s)

/-- A MOOR that fails a test of R356. -/
def moorCode (s : State) (c : Cell) : Option Nat :=
  let w := c.pn 0 2
  if w % 4096 ≠ s.dev.id.toNat || !bitN w 12 || !s.dev.idValid then some 0x0903
  else if bitN w 13 = s.dev.twinSel then some 0x0904
  else if c.pn 10 1 ≠ s.dev.numlvl.toNat then some 0x0905
  else none

/-- With AUTOSPARE, the move of a tile that is predicted to fail is asked for again after a MOOR (Table DP-12). -/
def askAgain (s : State) : State :=
  if !s.clk.autospare then s
  else (List.range 128).foldl (fun s n => match physOf s n with
    | some p => if (s.island p).pred then requestMove n s else s
    | none => s) s

/-- A MOOR is received (R356): jobs that still serve alone owe a SERVE notice after their next step VERDICT, and in plane B the time root is chosen again
(Table TW-12). -/
def moor (c : Cell) (s : State) : State :=
  if !s.twin.en then s
  else match moorCode s c with
    | some code => twinReason code (logCode code unitDev s)
    | none =>
      let s := if s.twin.dst = .moored then s
        else (loadedSlots s).foldl (fun s j => s.updJob j (fun x => { x with announced := false })) s
      let was := s.twin.dst
      let s := s.updTwin (fun w => { w with dst := .moored, lastMoor := s.time, twinSerial := BitVec.ofNat 64 (c.pn 2 8), stateOfTwin := BitVec.ofNat 2 (c.pn 11 1) })
      let s := if s.dev.twinSel && was ≠ .moored then retime s else s
      if was ≠ .moored then askAgain s else s

def execMoor (t : Time) (half : Fin 2) (c : Cell) (s : State) : Out :=
  let s := tick t s
  .next (if c.cls ≠ clsMgmt || c.kind ≠ kDiscovery || bitsN c.ksf 34 3 ≠ 0 then s
    else match takeRx (128 + half.val) c s with
      | some s => moor c s
      | none => s)

def DState.code : DState → Nat
  | .unmoored => 0
  | .moored => 1
  | .simplex => 2

/-- The MOOR of this device (Table TW-3). -/
def moorCell (s : State) : Cell :=
  mkRouted clsMgmt kDiscovery 0 0 0 0 0 0 0 0 0 (payOf (
    leBytes 2 (s.dev.id.toNat + 0x1000 * b2n s.dev.idValid + 0x2000 * b2n s.dev.twinSel) ++ leBytes 8 s.dev.serial.toNat ++
    leBytes 1 s.dev.numlvl.toNat ++ leBytes 1 s.twin.dst.code))

def execMoorTimer (t : Time) (s : State) : Out :=
  let s := tick t s
  .next (if !s.twin.en || within s s.twin.moorAt (us 100) then s
    else
      let c := moorCell s
      ([128, 129] : List Nat).foldl (fun s n => if (s.port n).st = .up then pushMgmt n c s else s)
        (s.updTwin (fun w => { w with moorAt := some s.time })))

/-- A half whose link is lost. -/
def halfDown (p : PortS) : Bool := p.st = .down || p.st = .disabled

def execMoorTimeout (t : Time) (s : State) : Out :=
  let s := tick t s
  .next (if s.twin.dst = .moored && ((halfDown (s.port 128) && halfDown (s.port 129)) || s.twin.lastMoor + us 300 ≤ s.time) then enterSimplex s else s)

/-! ### Digest comparison (R358, R359, Tables TW-4, TW-6) -/

/-- A digest record of a payload. -/
def digRec (p : Payload) (k : Nat) : DigRec :=
  let f (lo n : Nat) : Nat := payN p (16 * k + lo) n
  ⟨BitVec.ofNat 12 (f 0 2), BitVec.ofNat 12 (f 2 2), BitVec.ofNat 4 (f 2 2 / 4096), BitVec.ofNat 7 (f 4 1), bitN (f 4 1) 7,
   BitVec.ofNat 7 (f 5 1), bitN (f 5 1) 7, BitVec.ofNat 16 (f 6 2), BitVec.ofNat 32 (f 8 4)⟩

/-- Two records of one stream. -/
def sameStream (a b : DigRec) : Bool := a.job = b.job && a.coll = b.coll && a.epoch = b.epoch && a.tile = b.tile && a.round = b.round

/-- A comparison ends: matched, or a mismatch that marks the instance (R358). -/
def judgeDig (slot : Nat) (mine theirs : DigRec) (s : State) : State :=
  let s := s.updTwin (fun w => { w with mine := dropFirst (· = mine) w.mine })
  let tile := mine.tile.toNat
  if mine.count = theirs.count && mine.crc = theirs.crc then bump (jobCtr tile slot 0x70) 1 s
  else
    let s := logCode 0x090A (unitJob slot) (twinReason 0x090A s)
    addPart slot mine.coll.toNat tile (fun p => { p with dig := true }) (tileCause slot mine.coll.toNat tile stIncomplete 0x090A s)

/-- Comparisons that the twin's END leaves without a partner are unmatched (Table TW-6). -/
def endTheirs (slot : Nat) (d : DigRec) (s : State) : State :=
  let lost := s.twin.mine.filter (fun m => sameStream m d && m.group.toNat ≥ d.group.toNat)
  let s := s.updTwin (fun w => { w with mine := w.mine.filter (fun m => !lost.contains m), theirs := w.theirs ++ [d] })
  lost.foldl (fun s m => bump (jobCtr m.tile.toNat slot 0x78) 1 s) s

/-- A record of the twin; an empty one says nothing. -/
def takeDig (d : DigRec) (s : State) : State :=
  if d.count = 0 && !d.fin then s
  else match slotOf d.job.toNat s with
    | none => s
    | some slot =>
      if !compares s slot then s
      else if d.fin then endTheirs slot d s
      else match s.twin.mine.find? (fun m => sameStream m d && m.group = d.group) with
        | some m => judgeDig slot m d s
        | none => s.updTwin (fun w => { w with theirs := w.theirs ++ [d] })

/-- A group of this tile closes: its record is sent and its comparison opens, or ends at once (R358). -/
def openDig (slot : Nat) (d : DigRec) (s : State) : State :=
  if !compares s slot then bump (jobCtr d.tile.toNat slot 0x78) 1 s
  else
    let s := sendDig slot d (s.updTwin (fun w => { w with mine := w.mine ++ [d] }))
    match s.twin.theirs.find? (fun q => sameStream q d && !q.fin && q.group = d.group) with
    | some q => judgeDig slot d q (s.updTwin (fun w => { w with theirs := dropFirst (· = q) w.theirs }))
    | none =>
      if s.twin.theirs.any (fun q => sameStream q d && q.fin && q.group.toNat ≤ d.group.toNat) then
        bump (jobCtr d.tile.toNat slot 0x78) 1 (s.updTwin (fun w => { w with mine := dropFirst (· = d) w.mine }))
      else s

def execDigestCell (t : Time) (c : Cell) (s : State) : Out :=
  let s := tick t s
  .next (if c.cls ≠ clsCtl || c.kind ≠ kAck || bitsN c.ksf 34 3 ≠ 2 then s
    else match takeTwin c s with
      | some s => (List.range 6).foldl (fun s k => takeDig (digRec c.pay k) s) s
      | none => s)

/-- Comparisons of an instance that are open past its late deadline plus VMARGIN are unmatched. -/
def digTimeout (slot coll : Nat) (s : State) : State :=
  let x := s.job slot
  match (x.entry coll).inst with
  | none => s
  | some i =>
    if s.time < i.deadline + us x.vmargin.toNat then s
    else
      let lost := s.twin.mine.filter (fun d => d.job = x.tag && d.coll.toNat = coll && d.epoch = (x.entry coll).epoch)
      let s := s.updTwin (fun w => { w with mine := w.mine.filter (fun m => !lost.contains m) })
      lost.foldl (fun s d => bump (jobCtr d.tile.toNat slot 0x78) 1 s) s

def execDigestCompareTimeout (t : Time) (slot : Slot) (coll : BitVec 12) (s : State) : Out :=
  .next (digTimeout slot.val coll.toNat (tick t s))

/-! ### Notices (R360, R364, Tables TW-5 and TW-7) -/

/-- Take a JOBNOTE of one kind. -/
def takeNote (note : Nat) (c : Cell) (s : State) : Option State :=
  if c.cls ≠ clsCtl || c.kind ≠ kAck || bitsN c.ksf 34 3 ≠ 3 || c.pn 2 1 % 4 ≠ note then none else takeTwin c s

def noteTagOf (c : Cell) : Nat := c.pn 0 2 % 4096

/-- An OUT notice. -/
def noteOut (slot : Nat) (s : State) : State :=
  match (s.job slot).twin with
  | .paired => verdictRun slot (setJTwin slot .serving s)
  | .out => freeze slot s
  | _ => s

/-- A SERVE notice. -/
def noteServe (slot : Nat) (s : State) : State :=
  match (s.job slot).twin with
  | .paired => goOut slot 0 false s
  | .serving => if s.dev.twinSel then goOut slot 0 false s else s
  | .frozen => goOut slot 0 false s
  | .out => s

def JTwin.code : JTwin → Nat
  | .paired => 0
  | .serving => 1
  | .out => 2
  | .frozen => 3

/-- A QUERY: the REPLY gives the job's twin state, job state and, of a running job, its start tide. -/
def noteQuery (tag : Nat) (s : State) : State :=
  match slotOf tag s with
  | none => sendNote tag 3 7 0 s
  | some j =>
    let x := s.job j
    sendNote tag 3 (x.twin.code + 16 * x.st.code) (if x.st = .running then x.startTide.toNat else 0) s

/-- A REPLY decides the starting twin state (R364). -/
def noteReply (slot : Nat) (c : Cell) (s : State) : State :=
  let x := s.job slot
  match x.query with
  | none => s
  | some (n, _, at_) =>
    let tw := bitsN (c.pn 3 1) 0 3
    let js := bitsN (c.pn 3 1) 4 3
    if tw = 7 || js = 0 then decideStart slot .serving false s
    else if js = 3 then
      (if n ≥ 20 then decideStart slot .paired false s else s.updJob slot (fun x => { x with query := some (n, true, at_) }))
    else if js = 1 || js = 4 then decideStart slot .paired false s
    else if js ≠ 2 || tw > 3 then s
    else if tw = 0 then decideStart slot (if c.pn 4 6 = x.startTide.toNat then .paired else .out) false s
    else if tw = 1 then decideStart slot .out false s
    else decideStart slot .serving true s

/-- An effect on the job that a notice names, if it is loaded. -/
def onNoted (c : Cell) (f : Nat → State → State) (s : State) : State :=
  match slotOf (noteTagOf c) s with
  | some j => f j s
  | none => s

def execJobnoteOut (t : Time) (c : Cell) (s : State) : Out :=
  let s := tick t s
  .next (match takeNote 0 c s with
    | some s => onNoted c noteOut s
    | none => s)
def execJobnoteServe (t : Time) (c : Cell) (s : State) : Out :=
  let s := tick t s
  .next (match takeNote 1 c s with
    | some s => onNoted c noteServe s
    | none => s)
def execJobnoteQuery (t : Time) (c : Cell) (s : State) : Out :=
  let s := tick t s
  .next (match takeNote 2 c s with
    | some s => noteQuery (noteTagOf c) s
    | none => s)
def execJobnoteReply (t : Time) (c : Cell) (s : State) : Out :=
  let s := tick t s
  .next (match takeNote 3 c s with
    | some s => onNoted c (fun j s => noteReply j c s) s
    | none => s)

/-- 100 us after a QUERY: it is repeated while the twin is STOPPING, else the job serves alone. -/
def queryTimeout (slot : Nat) (s : State) : State :=
  let x := s.job slot
  match x.query with
  | none => s
  | some (n, stopping, at_) =>
    if s.time < at_ + us 100 then s
    else if stopping then
      sendNote x.tag.toNat 2 0 x.startTide.toNat (s.updJob slot (fun x => { x with query := some (n + 1, false, s.time) }))
    else decideStart slot .serving false s

def execQueryTimeout (t : Time) (slot : Slot) (s : State) : Out := .next (queryTimeout slot.val (tick t s))

/-! ### Transfers (R365 to R367) -/

/-- n bytes of the image from an offset (R365). -/
def Job.imageByte (x : Job) (k : Nat) : Byte :=
  match areas.find? (fun a => x.areaOff a ≤ k && k < x.areaOff a + x.areaLen a) with
  | some a => x.areaByte a (k - x.areaOff a)
  | none => 0

/-- A byte of the image written. -/
def Job.setImageByte (k : Nat) (b : Byte) (x : Job) : Job :=
  match areas.find? (fun a => x.areaOff a ≤ k && k < x.areaOff a + x.areaLen a) with
  | some a => x.setByte a (k - x.areaOff a) b
  | none => x

/-- A COPY cell (Table TW-2). -/
def copyCell (s : State) (x : Job) (g i : Nat) : Cell :=
  mkRouted clsUns kRelay 0 0 0 0 s.dev.id.toNat 0 0 i (2 ^ 36 + x.tag.toNat * 2 ^ 24 + g)
    (payOf ((List.range 96).map (fun k => x.imageByte (granule * g + 96 * i + k))))

def isCopy (tag : BitVec 12) (c : Cell) : Bool :=
  c.cls = clsUns && c.kind = kRelay && bitN c.ksf 36 && bitsN c.ksf 24 12 = tag.toNat

/-- A pass: the cells of granules in ascending order are queued for the twin; what is written from here on is dirty (R366). -/
def sendPass (slot : Nat) (gs : List Nat) (s : State) : State :=
  let x := s.job slot
  let s := s.updJob slot (fun x => { x with dirty := some [] })
  gs.foldl (fun s g => (List.range 128).foldl (fun s i =>
    if granule * g + 96 * i < x.imageLen then sendTwin (copyCell s x g i) s else s) s) s

/-- Take an XFER of one operation. -/
def takeXfer (op : Nat) (c : Cell) (s : State) : Option State :=
  if c.cls ≠ clsCtl || c.kind ≠ kAck || bitsN c.ksf 34 3 ≠ 4 || c.pn 2 1 ≠ op then none else takeTwin c s

/-- GRANT a transfer of a job that is OUT here. -/
def grantXfer (tag : Nat) (s : State) : State :=
  match slotOf tag s with
  | some j =>
    if (s.job j).twin ≠ .out then s
    else
      let s := s.updJob j (fun x => { x with ready := false, copied := 0 })
      sendXfer tag 1 (s.updTwin (fun w => { w with xfer := some ⟨BitVec.ofNat 12 tag, false, true, 0, [], false⟩ }))
  | none => s

/-- A REQ (R367): granted when the link is free; of crossing requests twin A's proceeds and twin B withdraws. -/
def xferReq (tag : Nat) (s : State) : State :=
  match s.twin.xfer with
  | none => grantXfer tag s
  | some x =>
    if !x.src || x.granted || !s.dev.twinSel then s
    else
      let s := s.updTwin (fun w => { w with xfer := none, wanted := some x.job, withdrawn := w.withdrawn + 1 })
      grantXfer tag (twinReason 0x090B (logCode 0x090B unitDev (sendXfer x.job.toNat 2 s)))

def execXferReq (t : Time) (c : Cell) (s : State) : Out :=
  let s := tick t s
  .next (match takeXfer 0 c s with
    | some s => if s.twin.dst = .moored then xferReq (noteTagOf c) s else s
    | none => s)

/-- A GRANT: the first pass sends every granule. -/
def xferGrant (tag : Nat) (s : State) : State :=
  match s.twin.xfer, slotOf tag s with
  | some x, some j =>
    if !x.src || x.granted || x.job.toNat ≠ tag then s
    else sendPass j (s.job j).granules (s.updTwin (fun w => { w with xfer := some { x with granted := true } }))
  | _, _ => s

def execXferGrant (t : Time) (c : Cell) (s : State) : Out :=
  let s := tick t s
  .next (match takeXfer 1 c s with
    | some s => xferGrant (noteTagOf c) s
    | none => s)

/-- A WITHDRAW tells that the twin's REQ stands back, which twin A's own transfer does not wait for (R367). -/
def execXferWithdraw (t : Time) (c : Cell) (s : State) : Out :=
  let s := tick t s
  .next (match takeXfer 2 c s with
    | some s => s
    | none => s)

/-- A REJOIN: a READY OUT target with REJOIN pending is PAIRED, its image no longer stale; its OPTs wait for END (R366). -/
def xferRejoin (slot : Nat) (s : State) : State :=
  let x := s.job slot
  if x.twin = .out && x.ready && x.rejoin.isSome then
    setJTwin slot .paired (s.updJob slot (fun x => { x with rejoin := none, ready := false, optWaits := true, stale := false }))
  else s

def execXferRejoin (t : Time) (c : Cell) (s : State) : Out :=
  let s := tick t s
  .next (match takeXfer 3 c s with
    | some s => onNoted c xferRejoin s
    | none => s)

/-- The link is free again: a withdrawn request is repeated (R367). -/
def xferFreed (s : State) : State :=
  match s.twin.wanted with
  | none => s
  | some tag =>
    match slotOf tag.toNat s with
    | some j => if s.twin.dst = .moored && (s.job j).twin = .serving then requestXfer tag s else s.updTwin (fun w => { w with wanted := none })
    | none => s.updTwin (fun w => { w with wanted := none })

/-- An END at the target: its image is whole, its OPTs go on. -/
def xferEnd (tag : Nat) (s : State) : State :=
  match s.twin.xfer with
  | some x =>
    if x.src || x.job.toNat ≠ tag then s
    else
      let s := s.updTwin (fun w => { w with xfer := none })
      xferFreed (match slotOf tag s with
        | some j => s.updJob j (fun y => { y with optWaits := false, copied := 0 })
        | none => s)
  | none => s

def execXferEnd (t : Time) (c : Cell) (s : State) : Out :=
  let s := tick t s
  .next (match takeXfer 4 c s with
    | some s => xferEnd (noteTagOf c) s
    | none => s)

/-- A COPY cell is written into the target's image. -/
def copy (c : Cell) (s : State) : State :=
  match s.twin.xfer with
  | some x =>
    if x.src || !isCopy x.job c then s
    else match slotOf x.job.toNat s with
      | none => s
      | some j =>
        let g := bitsN c.ksf 0 24
        let off := granule * g + 96 * (c.seq % 128)
        let s := s.updJob j (fun y => { (List.range 96).foldl (fun y k => y.setImageByte (off + k) (BitVec.ofNat 8 (c.pbyte k))) y with copied := y.copied + 1 })
        s.updTwin (fun w => { w with xfer := some { x with cur := if x.cur.contains g then x.cur else g :: x.cur } })
  | none => s

def execCopy (t : Time) (c : Cell) (s : State) : Out :=
  let s := tick t s
  .next (if c.cls ≠ clsUns || c.kind ≠ kRelay then s
    else match takeTwin c s with
      | some s => copy c s
      | none => s)

/-- Every cell of the source's pass has been sent. -/
def passSent (s : State) (tag : BitVec 12) : Bool :=
  !(s.port 128).unsQ.any (isCopy tag) && !(s.port 129).unsQ.any (isCopy tag)

/-- The granules below a limit that a list holds, ascending. -/
def ascGranules (x : Job) (d : List Nat) : List Nat := x.granules.filter (fun g => d.contains g)

/-- The end of a pass (R366): at the source the next pass of dirty granules begins, or END follows the pass that began after the rejoin
commit; at the target a pass of fewer than 4,096 granules, after or being the first, makes it READY (log entry 28). -/
def passEnd (s : State) : State :=
  match s.twin.xfer with
  | none => s
  | some x =>
    match slotOf x.job.toNat s with
    | none => s
    | some j =>
      let y := s.job j
      if x.src then
        if !x.granted || !passSent s x.job then s
        else if x.ending then
          xferFreed (sendXfer x.job.toNat 4 ((s.updTwin (fun w => { w with xfer := none })).updJob j (fun y => { y with dirty := none })))
        else
          sendPass j (ascGranules y (y.dirty.getD [])) (s.updTwin (fun w => { w with xfer := some { x with passes := x.passes + 1, ending := decide (y.twin = .paired) } }))
      else if x.passes = 0 && !y.granules.all (fun g => x.cur.contains g) then s
      else
        let s := s.updTwin (fun w => { w with xfer := some { x with passes := x.passes + 1, cur := [] } })
        if x.cur.length < 4096 && y.twin = .out then s.updJob j (fun y => { y with ready := true }) else s

def execResyncPassEnd (t : Time) (s : State) : Out := .next (passEnd (tick t s))

end Sys2Proof.Machine
end

