-- ==== Sys2Proof/Machine/Firm.lean ====
section
/-! DEFINITION. Firmware images and harbourmaster restarts (17 R442 to R444, 14 R395, 15 R406). -/

namespace Sys2Proof.Machine

/-! ### Staging (R443) -/

def fwWhich (d : BitVec 512) : Bool := bitN (descN d 24 1) 0

/-- Slot that an image kind runs from, and the other one: 0 A, 1 B. -/
def runSlot (s : State) (pc : Bool) : Nat := b2n (if pc then s.dev.pcslot else s.dev.hmslot)
def idleSlot (s : State) (pc : Bool) : Nat := 1 - runSlot s pc

/-- Record and image number of a slot: 0 harbourmaster A, 1 B, 2 pilot core A, 3 B. -/
def slotNo (pc : Bool) (slot : Nat) : Nat := 2 * b2n pc + slot

/-- Bytes of a slot (Table CP-8). -/
def slotSize (pc : Bool) : Nat := if pc then 4194304 else 8388608

/-- MAGIC, WHICH and size (0x0B11). -/
def fwFormBad (pc : Bool) (bs : List Byte) : Bool :=
  bs.length < 256 || bsN bs 0 4 ≠ 0x57464D54 || bsN bs 8 1 ≠ b2n pc || 256 + bsN bs 12 4 > slotSize pc || bs.length > slotSize pc

def imageOf (bs : List Byte) : Image := ⟨BitVec.ofNat 32 (bsN bs 4 4), BitVec.ofNat 8 (bsN bs 9 1), bs.length, false⟩

def fwStage (x : Exec) (data : List Byte) (s : State) : State :=
  let pc := fwWhich x.desc
  if s.flash.fw.isSome then refuse x 0x0B17 s
  else if fwFormBad pc data then
    refuse x 0x0B11 (s.updFlash (fun f => { f with recs := Tbl.set CommitRec.reset f.recs (slotNo pc (idleSlot s pc)) CommitRec.reset }))
  else
    let n := slotNo pc (idleSlot s pc)
    let x' := { x with started := true }
    beginExec x (s.updFlash (fun f => { f with
      recs := Tbl.set CommitRec.reset f.recs n CommitRec.reset
      images := Tbl.set Image.reset f.images n Image.reset
      fw := some (.stage pc (imageOf data) x') }))

def execFwStage (t : Time) (h : HostCmd) (s : State) : Out := .next (hostCmd 0x0D t h (fun x s => fwStage x h.data s) s)

/-- Programming, read-back and verification end: 0x0B12, 0x0B10, or the image is staged. -/
def fwStageDone (programmed verifies : Bool) (s : State) : State :=
  match s.flash.fw with
  | some (.stage pc im x) =>
    let s := s.updFlash (fun f => { f with fw := none })
    if !programmed then finish x stFailed 0x0B12 [] true s
    else if !verifies then finish x stFailed 0x0B10 [] true s
    else
      let slot := idleSlot s pc
      finish x stDone 0 (leBytes 4 im.version.toNat ++ leBytes 1 slot) true
        (s.updFlash (fun f => { f with images := Tbl.set Image.reset f.images (slotNo pc slot) { im with verified := true } }))
  | _ => s

def execFwStageDone (t : Time) (programmed : Bool) (verifies : Bool) (s : State) : Out := .next (fwStageDone programmed verifies (tick t s))

/-! ### Activation (R444) -/

/-- The staged image of a kind. -/
def stagedImage (s : State) (pc : Bool) : Image := Tbl.get Image.reset s.flash.images (slotNo pc (idleSlot s pc))

def fwActivateCode (s : State) (pc : Bool) (tide : Nat) : Option Nat :=
  firstCode [
    codeIf s.flash.fw.isSome 0x0B17,
    codeIf (!(stagedImage s pc).verified) 0x0B13,
    codeIf (tideStart5 s tide ≤ 5 * (s.time + ms 10 : Nat)) 0x0B15,
    codeIf ((stagedImage s pc).numlvl ≠ s.dev.numlvl && !(loadedSlots s).isEmpty) 0x0B16]

def fwActivate (x : Exec) (s : State) : State :=
  let pc := fwWhich x.desc
  let tide := descN x.desc 26 6
  match fwActivateCode s pc tide with
  | some c => refuse x c s
  | none => beginExec x (s.updFlash (fun f => { f with fw := some (.activate pc (BitVec.ofNat 48 tide) { x with started := true }) }))

def execFwActivate (t : Time) (h : HostCmd) (s : State) : Out := .next (hostCmd 0x0E t h (fun x s => fwActivate x s) s)

/-- The new image runs: its slot's commit record is written last, SEQ one above the running slot's (R432). -/
def commitImage (pc : Bool) (s : State) : State :=
  let old := slotNo pc (runSlot s pc)
  let new := slotNo pc (idleSlot s pc)
  let im := stagedImage s pc
  let s := s.updDev (fun d => if pc then { d with pcslot := !d.pcslot, fwPc := im.version } else { d with hmslot := !d.hmslot, fwHm := im.version, numlvl := im.numlvl })
  s.updFlash (fun f => { f with recs := Tbl.set CommitRec.reset f.recs new ⟨true, (Tbl.get CommitRec.reset f.recs old).seq + 1, im.version⟩ })

/-- Every powered tile's pilot core restarts. -/
def restartPilots (s : State) : State :=
  (List.range 128).foldl (fun s n => match physOf s n with
    | some p => if powered (s.island p) then pilotRestart n s else s
    | none => s) s

/-- The activation, at its tide and once the commands picked up before it have ended; a brown-out hold and a live move defer it (R444, R395,
R426, Table DP-12). -/
def fwActivation (started : Bool) (s : State) : State :=
  match s.flash.fw with
  | some (.activate pc tide x) =>
    if s.tide.now < tide.toNat || !(before x s).isEmpty || s.clk.hold || !s.dev.moves.isEmpty || s.dev.st = .restart || s.dev.st = .boot then s
    else if pc then
      let im := stagedImage s true
      let s := restartPilots (s.updFlash (fun f => { f with fw := none }))
      if started then finish x stDone 0 (leBytes 4 im.version.toNat) true (commitImage true s)
      else finish x stFailed 0x0B14 [] true s
    else enterRestart (s.updFlash (fun f => { f with fw := some (.restarting false x s.time) }))
  | _ => s

def execFwActivation (t : Time) (started : Bool) (s : State) : Out := .next (fwActivation started (tick t s))

/-- 200 ms without the new image: the old one is restarted (R444). -/
def activationTimeout (s : State) : State :=
  match s.flash.fw with
  | some (.restarting _ x since) =>
    if s.time < since + ms 200 then s else finish x stFailed 0x0B14 [] true (s.updFlash (fun f => { f with fw := none }))
  | _ => s

def execActivationTimeout (t : Time) (s : State) : Out := .next (activationTimeout (tick t s))

/-! ### Restarts (R395, R406) -/

def execHarbourmasterRestart (t : Time) (s : State) : Out := .next (hmRestart (tick t s))

/-- A check that waited runs. -/
def runWaiting (c : WaitCheck) (s : State) : State :=
  match c with
  | .dev => runDevCheck s
  | .port n => runPortCheck n s
  | .ring r => runRingCheck r s
  | .tide => runTideCheck s
  | .twin => runTwinCheck s

/-- A restart ends: STATE returns, rings leave PAUSED and write what waits, the checks that waited run, a planned activation has its new
image running. -/
def restartEnd (s : State) : State :=
  if s.dev.st ≠ .restart then s
  else
    let checks := s.dev.waiting
    let s := s.updDev (fun d => { d with st := d.before, waiting := [] })
    let s := (List.range 10).foldl (fun s r =>
      if (s.ring r).st = .paused then s.updRing r (fun x => { x with st := x.before }) else s) s
    let s := match s.flash.fw with
      | some (.restarting _ x _) =>
        let im := stagedImage s false
        finish x stDone 0 (leBytes 4 im.version.toNat) true (commitImage false (s.updFlash (fun f => { f with fw := none })))
      | _ => s
    let s := (List.range 10).foldl (fun s r => flushRing r s) s
    checks.foldl (fun s c => runWaiting c s) s

def execHarbourmasterRestartEnd (t : Time) (s : State) : Out := .next (restartEnd (tick t s))

end Sys2Proof.Machine
end

