-- ==== Sys2Proof/Machine/Switch.lean ====
section
/-! DEFINITION. Slots received and sent, tides, the matcher, unscheduled cells, buffers (10; 12 R324 to R331). -/

namespace Sys2Proof.Machine

/-! ### A received slot (R325 to R336) -/

/-- A cell that a twin-link half does not carry (Table TW-2). -/
def twinBad (s : State) (c : Cell) : Bool :=
  let sub := bitsN c.ksf 34 3
  let mgmt := c.cls = clsMgmt && c.ddev = 0 && c.dport = 0 && c.mgrp = 0
  let ctl := c.ddev = s.dev.id.toNat && c.dport = 0 && c.mgrp = 0
  !((mgmt && ((c.kind = kDiscovery && sub = 0) || (c.kind = kTime && sub ≤ 1))) ||
    (ctl && c.cls = clsCtl && ((c.kind = kDiscovery && sub = 2) || (c.kind = kVerdict && sub = 3) ||
      (c.kind = kAck && 2 ≤ sub && sub ≤ 4))) ||
    (ctl && c.cls = clsUns && c.kind = kRelay && bitN c.ksf 36))

/-- A scheduled cell at its label's entry (R265, R270, R251); the cells of a job that this plane does not serve are dropped, and counted with those of jobs
not loaded (R362; log entry 39). -/
def schedArrive (n : Nat) (label : BitVec 14) (c : Cell) (s : State) : State :=
  let pos := labelPos s label.toNat
  let (e, bank) := entryAt s n pos
  if teRx e = rxFree || teRx e = rxControl then bump (portCtr n 0x0D0) 1 s
  else if (slotOf c.job s).isNone then bump (portCtr n 0x0A0) 1 s
  else match bank.sliceJob (teSlice e) with
    | some tag =>
      if tag = c.job then
        (if (slotOf tag s).any (fun j => (s.job j).away) then bump (portCtr n 0x0A0) 1 s
         else if teRx e = rxPass then s.updPort n (fun p => { p with passCells := p.passCells ++ [⟨label, pos, e, c⟩] })
         else s.updPort n (fun p => { p with rxCells := p.rxCells ++ [(label, c)] }))
      else (match slotOf tag s with
        | some j => bump (jobCtr n j 0x60) 1 s
        | none => s)
    | none => s

/-- One cell of an accepted slot: header checks, counters, then by class (R260, R251, R270). -/
def acceptCell (n : Nat) (label : BitVec 14) (c : Cell) (s : State) : State :=
  if isIdle c && !hdrBad c then s
  else if cellBad c || (n ≥ 128 && twinBad s c) then bump (portCtr n 0x080) 1 s
  else
    let s := bump (portCtr n 0x000) 1 (bump (portCtr n (0x020 + 8 * c.cls)) 1 s)
    let s := noteTag c.job s
    if n ≥ 128 then s.updPort n (fun p => { p with rxCells := p.rxCells ++ [(0, c)] })
    else if c.cls = clsSched then schedArrive n label c s
    else if c.cls = clsCtl then ctlArrive n c s
    else s.updPort n (fun p => { p with rxCells := p.rxCells ++ [(0, c)] })

/-- A slot that failed (R329, R330): NAK until the expected slot comes. Once the own SWITCH slot has gone out, it counts as the loss of the partner's: a short
retrain at the new setting (R342; log entry 77). -/
def slotFailed (n : Nat) (s : State) : State :=
  let s := bump (portCtr n 0x070) 1 (s.updPort n (fun p => { p with nak := true }))
  let p := s.port n
  match p.switchIn with
  | [] => s
  | c :: rest => if p.switchOut.length < p.switchIn.length then startShort n (s.updPort n (fun p => { switchTx c (switchRx c p) with switchIn := rest })) else s

/-- A slot that passed its check: ACK and NAK, then the sequence, credits, handshake code and cells (R327, R330). -/
def slotPassed (n : Nat) (k : Checked) (s : State) : State :=
  let w := k.word.ctlw
  let s := takeAck n (ctlwAck w) (ctlwNak w) s
  if ctlwCtl w = ctlVoid then s
  else
    let p := s.port n
    if ctlwSeq w ≠ p.rxSeq + 1 then
      (if (p.rxSeq - ctlwSeq w).toNat < 2048 then s else s.updPort n (fun p => { p with nak := true }))
    else
      let s := s.updPort n (fun p => { p with
        rxSeq := ctlwSeq w, nak := false, credits := min 256 (p.credits + (ctlwCredit w).toNat),
        rxCtl := if ctlwCtl w = 0 then p.rxCtl else p.rxCtl ++ [ctlwCtl w] })
      (k.cells.zip k.word.labels).foldl (fun s x => acceptCell n x.2 x.1 s) s

/-- The frames of the lanes in use, and the port's lanes after them: native symbols destuffed and descrambled. -/
def nativeFrames (p : PortS) (lanes : List (List (BitVec 2))) : Option (List Frame × PortS) :=
  let set := lanesIn p.rxLanes
  let w := set.length
  if lanes.length ≠ w || w = 0 || lanes.any (fun l => l.length ≠ frameLen * (8 / w)) then none
  else
    let got := (set.zip lanes).map (fun x =>
      let l := p.lane x.1
      (x.1, laneUnframes (8 / w) x.2 ⟨l.rxScr, l.rxRun⟩))
    let p := got.foldl (fun p g => p.updLane g.1 (fun l => { l with rxScr := g.2.2.scr, rxRun := g.2.2.run })) p
    some (framesBack (got.map (·.2.1)) w, p)

/-- The frames of a compatibility slot; every lane must have block lock (R335). -/
def compatFrames (p : PortS) (lanes : List (List (BitVec 66))) : Option (List Frame) × PortS :=
  if lanes.length ≠ 8 then (none, p)
  else
    let got := lanes.zipIdx.map (fun x => (x.2, recvBlocks x.1 (p.lane x.2).rx58))
    let p := got.foldl (fun p g => p.updLane g.1 (fun l => countHdrs (g.2.1.map (·.1)) { l with rx58 := g.2.2 })) p
    let fs := got.map (fun g => if (p.lane g.1).locked && (p.lane g.1).badHdrs < 16 then blocksFrame g.2.1 else none)
    (if fs.any (·.isNone) then none else some (fs.filterMap id), p)

/-- The checker of a loopback takes symbols of lanes (R348): errors and bits are counted. -/
def checkLoop (n : Nat) (lanes : List (Nat × List (BitVec 2))) (s : State) : State :=
  lanes.foldl (fun s x =>
    let l := (s.port n).lane x.1
    let r := prbsCheck (x.2.flatMap (fun y => [y.getLsbD 1, y.getLsbD 0])) (l.rxScr, l.rxRun.2)
    bump (portCtr n 0x0C0) r.1 (bump (portCtr n 0x0C8) r.2.1
      (s.updPort n (fun p => p.updLane x.1 (fun l => { l with rxScr := r.2.2.1, rxRun := (0, r.2.2.2) }))))) s

/-- What a port in a loopback receives (R348): at the far end it goes back as it came; the end that asked checks it. -/
def loopReceive (n : Nat) (rx : SlotRx) (s : State) : State :=
  let p := s.port n
  match rx with
  | .native lanes =>
    if p.loop = 0 then s.updPort n (fun p => { p with symbols := lanes })
    else if p.loop = 3 && p.trainOut.isNone then checkLoop n ((lanesIn (setFor p p.nextWidth)).zip lanes) s
    else s
  | .compat lanes =>
    if p.loop = 0 then s.updPort n (fun p => { p with blocks := lanes, symbols := lanes.map blockSymbols })
    else if p.loop = 3 && p.trainOut.isNone then checkLoop n (lanes.zipIdx.map (fun x => (x.2, blockSymbols x.1))) s
    else s

/-- A slot time on a port's lanes. -/
def receiveSlot (n : Nat) (rx : SlotRx) (s : State) : State :=
  let p := s.port n
  if p.st = .loopback then loopReceive n rx s
  else if p.st ≠ .up then s
  else
    let s := bump (portCtr n 0x010) 480 s
    match rx with
    | .native lanes =>
      if p.coding then slotFailed n s
      else match nativeFrames p lanes with
        | none => slotFailed n s
        | some (fs, p) =>
          let s := bump (portCtr n 0x078) (slotFixes p.rxFec fs) (s.updPort n (fun _ => p))
          match checkSlot p.rxFec fs with
          | none => slotFailed n s
          | some k => slotPassed n k s
    | .compat lanes =>
      if !p.coding then slotFailed n s
      else
        let (fs, p) := compatFrames p lanes
        let s := s.updPort n (fun _ => p)
        match fs with
        | none => slotFailed n s
        | some fs =>
          match checkSlot false fs with
          | none => slotFailed n s
          | some k => slotPassed n k s

def execSlotReceived (t : Time) (set : PSet) (rx : SlotRx) (s : State) : Out := .next (receiveSlot set.val rx (tick t s))

/-! ### Sending a slot (R278, R324 to R331) -/

/-- Fabric time of a position, with a port's transmit phase (R263): τ is 0 or 0.2 ns. -/
def posTime (s : State) (n pos : Nat) : Int :=
  ((s.tide.start : Int) + ((pos : Int) - s.tide.base) * 196608) / 5 + (if (s.port n).tau then 13107 else 0)

/-- A payload with 8 bytes from byte lo on replaced. -/
def setStamp (lo : Nat) (v : Int) (p : Payload) : Payload :=
  payOf ((leBytes 96 p.toNat).take lo ++ leBytes 8 (v % 2 ^ 64).toNat ++ (leBytes 96 p.toNat).drop (lo + 8))

/-- T1 of a REQ, remembered by the exchange it belongs to: that of a start tide on its port (R307), or that with the parent. -/
def noteT1 (n seq : Nat) (v : BitVec 64) (s : State) : State :=
  match (s.port n).startEx with
  | some e => if e.seq.toNat = seq then s.updPort n (fun p => { p with startEx := some { e with t1 := some v } })
      else s.updFabric (fun f => { f with sentT1 := some v })
  | none => s.updFabric (fun f => { f with sentT1 := some v })

/-- A time cell takes its stamp as it is placed (R304): T1 of a REQ, which the device remembers, and T3 of a RESP. -/
def stampCell (n pos : Nat) (c : Cell) (s : State) : Cell × State :=
  if c.kind ≠ kTime then (c, s)
  else
    let v := posTime s n pos
    if bitsN c.ksf 34 3 = 0 then
      ({ c with pay := setStamp 0 v c.pay }, noteT1 n c.seq (BitVec.ofInt 64 v) s)
    else ({ c with pay := setStamp 16 v c.pay }, s)

/-- While a port enters sleep, only cells of the sleep exchange leave (Table FB-9). -/
def pickSleep (n : Nat) (s : State) : (BitVec 14 × Cell) × State :=
  match (s.port n).mgmtQ.find? (fun c => c.kind = kSleep) with
  | some c => ((0, c), s.updPort n (fun p => { p with mgmtQ := dropFirst (· = c) p.mgmtQ }))
  | none => ((0, idleCell), s)

/-- The cell for one transmit position (R278): scheduled, slipped outside control slots, control, management, unscheduled with a
credit (R275), idle. A compatibility port sends no scheduled cell (R318). -/
def pickCell (n pos : Nat) (s : State) : (BitVec 14 × Cell) × State :=
  let p := s.port n
  let lab (x : SchedCell) : BitVec 14 := BitVec.ofNat 14 (x.pos + p.txOff.toNat)
  if p.slpMove ≠ .none then pickSleep n s
  else match (if p.coding then none else p.schedQ.find? (·.pos = pos)) with
  | some x => ((lab x, x.cell), cellLeft n x (s.updPort n (fun p => { p with schedQ := dropFirst (· = x) p.schedQ })))
  | none =>
    match (if ctlSlot s n pos || p.coding then [] else p.slipQ) with
    | x :: rest => ((lab x, x.cell), cellLeft n x (s.updPort n (fun p => { p with slipQ := rest })))
    | [] =>
      match p.ctlQ, p.mgmtQ, p.unsQ with
      | c :: rest, _, _ => ((0, c), ctlGone c (s.updPort n (fun p => { p with ctlQ := rest })))
      | [], c :: rest, _ =>
        let (c, s) := stampCell n pos c (s.updPort n (fun p => { p with mgmtQ := rest }))
        ((0, c), s)
      | [], [], c :: rest =>
        if p.credits = 0 then ((0, idleCell), s)
        else ((0, c), profEvent 0x0A (n % 128) (slotOf c.job s) 1 (s.updPort n (fun p => { p with unsQ := rest, credits := p.credits - 1 })))
      | [], [], [] => ((0, idleCell), s)

/-- Cells that are late for their transmit position slip, in label order (R266). -/
def slipLate (n pos : Nat) (s : State) : State :=
  let late := (s.port n).schedQ.filter (fun x => x.pos < pos)
  if late.isEmpty then s
  else bump (portCtr n 0x0A8) late.length (s.updPort n (fun p => { p with
    schedQ := p.schedQ.filter (fun x => !(x.pos < pos))
    slipQ := (p.slipQ ++ late).mergeSort (fun a b => a.pos ≤ b.pos) }))

/-- A new slot: four cells, the next sequence number, up to four credits, one handshake code; held for retry (R327, R330). -/
def newSlot (n : Nat) (s : State) : TxSlot × State :=
  let p0 := 4 * slotNow s
  let (a, s) := pickCell n p0 s
  let (b, s) := pickCell n (p0 + 1) s
  let (c, s) := pickCell n (p0 + 2) s
  let (d, s) := pickCell n (p0 + 3) s
  let p := s.port n
  let cs := [a, b, c, d]
  let own := cs.zipIdx.filter (fun q => q.1.2.cls = clsSched && !isIdle q.1.2 && q.1.1 = BitVec.ofNat 14 (p0 + q.2 + p.txOff.toNat))
  let x : TxSlot := ⟨cs.map (·.2), cs.map (·.1), p.txSeq, BitVec.ofNat 3 (min 4 p.owed), p.ctlOut.headD 0, 0, own.length⟩
  let busy := (cs.map (·.2)).filter (fun c => !isIdle c)
  let s := s.updPort n (fun p => { p with
    txSeq := p.txSeq + 1, owed := p.owed - 4, ctlOut := p.ctlOut.tail, held := p.held ++ [x] })
  (x, busy.foldl (fun s c => bump (portCtr n 0x008) 1 (bump (portCtr n (0x040 + 8 * c.cls)) 1 s)) s)

/-- The VOID slot (R324, R327). -/
def voidSlot : TxSlot := ⟨List.replicate 4 ⟨0, 0⟩, [0, 0, 0, 0], 0, 0, ctlVoid, 0, 0⟩

/-- CTLW of a slot with the present ACK and NAK. -/
def txWord (p : PortS) (x : TxSlot) : SlotWord := ⟨mkCtlw x.seq p.rxSeq p.nak x.credit x.ctl, x.labels⟩

/-- Put a slot on the lanes: symbols of each lane in use and the lanes after it, or none where a frame needs more than 4 stuff
symbols. -/
def encodeSlot (p : PortS) (x : TxSlot) : Option (List (List (BitVec 2)) × PortS) :=
  let fs := slotFrames p.fecOn x.cells (txWord p x)
  let set := lanesIn p.laneSet
  let w := set.length
  let got := set.zipIdx.map (fun l => (l.1, laneFrames (framesOfLane fs w l.2) ⟨(p.lane l.1).txScr, (p.lane l.1).txRun⟩))
  if got.any (fun g => g.2.2.1) then none
  else some (got.map (fun g => g.2.1), got.foldl (fun p g => p.updLane g.1 (fun l => { l with txScr := g.2.2.2.scr, txRun := g.2.2.2.run })) p)

/-- Put a slot on the lanes of a compatibility port (R336). -/
def encodeCompat (p : PortS) (x : TxSlot) : PortS := putBlocks ((slotFrames false x.cells (txWord p x)).map frameBlocks) p

/-- The slot goes out, or a VOID slot in its place and the slot again in the next slot time, its scheduled cells slipped (R324). -/
def transmit (n : Nat) (x : TxSlot) (s : State) : State :=
  let p := s.port n
  let s := bump (portCtr n 0x018) 480 s
  if p.coding then s.updPort n (fun p => { encodeCompat p x with wire := some x, again := none, void := x.ctl = ctlVoid })
  else match encodeSlot p x with
    | some (ys, q) => s.updPort n (fun _ => { q with wire := some x, symbols := ys, again := none, void := x.ctl = ctlVoid })
    | none =>
      let s := slotSlips n x (bump (portCtr n 0x060) 1 (bump (portCtr n 0x068) 1 s))
      let x := { x with onTime := 0 }
      match encodeSlot (s.port n) voidSlot with
      | some (ys, q) => s.updPort n (fun _ => { q with wire := some voidSlot, symbols := ys, again := some x, void := true })
      | none => s.updPort n (fun p => { p with again := some x })

/-- A SWITCH slot has been sent: the following slots use the new setting (R342, R333). -/
def sentSwitch (n : Nat) (x : TxSlot) (s : State) : State :=
  if x.ctl ≠ ctlSwitch then s
  else match (s.port n).switchOut with
    | [] => s
    | c :: rest => advertise (s.updPort n (fun p => switchTx c { p with switchOut := rest }))

/-- The time one slot takes on a port, in fifths of 2^-16 ns (Table LN-1, R326). -/
def slotTime (p : PortS) : Nat := if p.coding then 1628242 else slotFifths * (8 / lanesOfWidth p.widthNow)

/-- A loopback's slot time (R348): the end that asked sends PRBS31; at a near-end loopback nothing leaves and its own checker takes it. -/
def loopSend (n : Nat) (s : State) : State :=
  let p := s.port n
  if p.loop = 0 || p.trainOut.isSome then s
  else
    let got := (lanesIn (setFor p p.nextWidth)).map (fun l => (l, prbsSend frameLen (p.lane l).txScr))
    let s := s.updPort n (fun p => got.foldl (fun p g => p.updLane g.1 (fun l => { l with txScr := g.2.2 })) p)
    if p.loop = 3 then s.updPort n (fun p => { p with symbols := got.map (·.2.1) })
    else checkLoop n (got.map (fun g => (g.1, g.2.1))) s

/-- A slot leaves for the first time: its handshake code takes effect once it is on the lanes. -/
def sendFirst (n : Nat) (x : TxSlot) (s : State) : State :=
  let s := transmit n x s
  if (s.port n).again.isSome then s else sentSwitch n x s

/-- The slot of a slot time: one that a stuff overrun put back, a replayed one, a new one, or VOID while 64 are held (R324, R330, R331). -/
def nextSlot (n : Nat) (s : State) : State :=
  let p := s.port n
  match p.again, p.replay with
  | some x, _ => if p.held.any (fun y => y.seq = x.seq && y.replays ≠ 0) then retryLimit n x (transmit n x s) else sendFirst n x s
  | none, x :: rest =>
    let s := updHeld n x.seq (fun y => { y with replays := y.replays + 1 }) (s.updPort n (fun p => { p with replay := rest }))
    retryLimit n x (transmit n { x with onTime := 0 } (slotSlips n x s))
  | none, [] =>
    if p.held.length ≥ 64 then transmit n voidSlot s
    else
      let (x, s) := newSlot n s
      sendFirst n x (if p.held.isEmpty then s.updPort n (fun p => { p with heldAt := s.time }) else s)

/-- The retrain that lock gained calls for, as soon as the port can ask for it (R341). -/
def payRetrain (n : Nat) (s : State) : State :=
  let p := s.port n
  if p.owesRetrain && p.st = .up && p.req.isNone && p.slpMove = .none then
    writeRetrain n (s.updPort n (fun p => { p with owesRetrain := false }))
  else s

/-- A port's slot time begins (R278). -/
def sendSlot (n : Nat) (s : State) : State :=
  let s := payRetrain n (slipLate n (4 * slotNow s) s)
  let p := s.port n
  if 5 * s.time < p.txFree then s
  else if p.st = .loopback then loopSend n (s.updPort n (fun p => { p with txFree := 5 * s.time + slotTime p }))
  else if !(p.st = .up || (p.st = .retrain && p.ctlOut.contains ctlRtack)) || p.slpMove = .exiting then s
  else nextSlot n (s.updPort n (fun p => { p with txFree := 5 * s.time + slotTime p }))

/-! ### Launching from output queues (R203, R270, R271, R129) -/

/-- k cells cross the exchange from tile n to the units ds, and the bridges to the other dies among theirs once each (Tables OB-3 and OB-5; log
entry 11). -/
def crossExchange (n k : Nat) (ds : List Nat) (s : State) : State :=
  let ds := ds.filter (· ≠ n)
  if ds.isEmpty then s
  else
    let s := ds.foldl (fun s m => bump (tileCtr m 0x070) k s) (bump (tileCtr n 0x078) k s)
    ((List.range 4).filter (fun d => d ≠ n / 32 && ds.any (fun m => m / 32 = d))).foldl (fun s d =>
      bump (devCtr (0x40 * d + 0x28)) k (bump (devCtr (0x40 * (n / 32) + 0x20)) k s)) s

/-- A scheduled cell goes toward a tide entry's DEST from tile or port n; off gives each port's transmit offset. -/
def toDest (n pos : Nat) (off : Nat → Nat → Nat) (own : Bool) (e : Word) (c : Cell) (s : State) : State :=
  if teMc e then
    let g := Tbl.get 0 s.fabric.groups (teDest e)
    if !grpValid g || grpJob g ≠ c.job then countForeign n c s
    else
      let ps := (grpPorts g).filter (fun p => own || p ≠ n)
      let s := ps.foldl (fun s p => pushSched p (pos + off n p) own c s) s
      crossExchange n 1 ps (if grpLocal g then s.updTile n (fun x => { x with inbox := x.inbox ++ [c] }) else s)
  else if teTile e then crossExchange n 1 [teUnit e] (s.updTile (teUnit e) (fun x => { x with inbox := x.inbox ++ [c] }))
  else pushSched (teUnit e) (pos + (if teUnit e = n then 1 else off n (teUnit e))) own c (crossExchange n 1 [teUnit e] s)

/-- The copies of an own cell that will leave the device by ports. -/
def portCopies (s : State) (e : Word) : Nat :=
  if teMc e then (grpPorts (Tbl.get 0 s.fabric.groups (teDest e))).length else if teTile e then 0 else 1

/-- The instance of an own cell counts its copies in place of the queued cell. -/
def copiesMade (c : Cell) (k : Nat) (s : State) : State :=
  match slotOf c.job s with
  | none => s
  | some j => s.updJob j (fun y => y.updEntry c.coll (fun e =>
      if e.epoch.toNat = c.epoch then { e with inst := e.inst.map (fun i => { i with egress := i.egress + k - 1 }) } else e))

/-- Launch the k-th cell of a tile's slot. -/
def launchOne (n u : Nat) (e : Word) (q : QCell) (k : Nat) (s : State) : State :=
  let s := copiesMade q.cell (portCopies s e) s
  toDest n (4 * u + k) oqOffset true e q.cell (freeBuf n q.buf s)

/-- Tile n's output-queue use of the present slot (R270). -/
def launchTile (n : Nat) (s : State) : State :=
  let u := slotNow s
  let (e, bank) := entryAt s n (4 * u)
  if teTx e ≠ 1 then s
  else match (bank.sliceJob (teSlice e)).bind (fun tag => slotOf tag s) with
    | none => s
    | some j =>
      match ((s.tile n).job j).oq[teOq e]? with
      | none => s
      | some q =>
        let cells := Tbl.get [] (s.tile n).oqs q
        let go := (cells.take 4).takeWhile (fun x => (x.cell.kind = kRelay) == teRelay e)
        let s := s.updTile n (fun x => { x with oqs := Tbl.set [] x.oqs q (cells.drop go.length) })
        let s := profEvent 0x0B n (some j) (4 - go.length) s
        go.zipIdx.foldl (fun s x => launchOne n u e x.1 x.2 s) s

/-- One slot of the device: output queues launch, then every port and twin-link half sends its slot; a RELAY whose last cell has left ends. -/
def tideSlot (s : State) : State :=
  let s := (List.range 128).foldl (fun s n => launchTile n s) s
  endRelays ((List.range 130).foldl (fun s n => sendSlot n s) s)

def execTideSlot (t : Time) (s : State) : Out := .next (tideSlot (tick t s))

/-- A slipped cell 8,192 positions late is dropped: its instance becomes INCOMPLETE with 0x020F (R266). -/
def execSlipLimit (t : Time) (set : PSet) (s : State) : Out :=
  let s := tick t s
  let n := set.val
  .next (match (s.port n).slipQ.find? (fun x => x.pos + 8192 ≤ posNow s) with
    | none => s
    | some x =>
      let s := s.updPort n (fun p => { p with slipQ := dropFirst (· = x) p.slipQ })
      schedLost n x (bump (portCtr n 0x0B0) 1 s))

/-! ### PASS cells (R270, R271) -/

/-- A cell of an RX PASS slot is forwarded unchanged toward DEST at the position its label named when it came. -/
def passCell (n : Nat) (label : BitVec 14) (c : Cell) (s : State) : State :=
  match takePass n label c s with
  | none => s
  | some (q, s) => toDest n q.pos passOffset false q.entry c s

def execPassCell (t : Time) (port : Port) (lbl : BitVec 14) (c : Cell) (s : State) : Out :=
  .next (passCell port.val lbl c (tick t s))

/-! ### Unscheduled cells (R275, R276) -/

/-- The job slot of a cell, none for a cell of no job. -/
def cellSlot (s : State) (c : Cell) : Option Nat := slotOf c.job s

/-- Enter copies of a cell into the VOQs of its source tile (R276), and deliver the harbourmaster's, which leaves its buffer at once. -/
def enterVoqs (n : Nat) (ports : List Nat) (here : Bool) (q : QCell) (s : State) : State :=
  let prio := ((cellSlot s q.cell).map (fun j => (s.job j).uprio.toNat)).getD 0
  let s := ports.foldl (fun s p => autoWake p (s.updTile n (fun x => { x with
    voqs := Tbl.upd [] x.voqs (4 * p + prio) (· ++ [q]) }))) s
  if here then deliverHere q.cell (freeBuf n q.buf s) else s

/-- Where an unscheduled cell goes: the ports, and whether the harbourmaster takes it (Table SW-4). -/
def unsRoute (arr : Option Nat) (tile : Nat) (c : Cell) (s : State) : RouteTo :=
  match route s arr tile c with
  | .go ps here =>
    if here && c.mgrp = 0 && c.kind = kRelay && !bitN c.ksf 36 then .go [c.dport] false else .go ps here
  | r => r

/-- Where an unscheduled cell that arrived on port n goes. -/
def unsTargets (n : Nat) (c : Cell) (s : State) : RouteTo := unsRoute (some n) 0 c s

/-- An unscheduled cell with its destinations takes a buffer and enters the VOQs; copies for a lost link are discarded and counted (R280); none where
the allocation fails. -/
def enterUns (n : Nat) (ps : List Nat) (here : Bool) (c : Cell) (s : State) : Option State :=
  let live := ps.filter (fun p => linkAlive (s.port p))
  let lost (s : State) : State := (ps.filter (fun p => !linkAlive (s.port p))).foldl (fun s p => bump (portCtr p 0x088) 1 s) s
  if live.isEmpty && !here then some (lost s)
  else match allocUns n (cellSlot s c) (live.length + b2n here) s with
    | (some b, s') => some (enterVoqs n live here ⟨c, some b⟩ (lost s'))
    | (none, _) => none

/-- Staged cells move on, oldest first, each after its buffer is allocated; a failed allocation is the credit hold (R275). -/
def moveStaged : Nat → Nat → State → State
  | 0, _, s => s
  | k + 1, n, s =>
    match (s.port n).staged with
    | [] => s.updPort n (fun p => { p with creditHold := false })
    | q :: rest =>
      let gone (s : State) : State := s.updPort n (fun p => { p with staged := rest, owed := p.owed + 1 })
      if noTag q.cell s then moveStaged k n (bump (portCtr n 0x0A0) 1 (gone s))
      else match unsTargets n q.cell s with
        | .unreach => moveStaged k n (bump (portCtr n 0x088) 1 (gone s))
        | .foreign => moveStaged k n (countForeign n q.cell (gone s))
        | .go ps here =>
          (match enterUns n ps here q.cell s with
            | some s => moveStaged k n (gone s)
            | none => (bump (tileCtr n 0x0C0) 1 s).updPort n (fun p => { p with creditHold := true }))

/-- An unscheduled cell is staged on its credit; none of the 256 staging buffers free is a credit violation (R275). -/
def stageCell (n : Nat) (c : Cell) (s : State) : State :=
  match takeRx n c s with
  | none => s
  | some s =>
    if (s.port n).staged.length ≥ 256 then bump (portCtr n 0x090) 1 s
    else
      let hold := (s.port n).creditHold
      let s := s.updPort n (fun p => { p with staged := p.staged ++ [⟨c, none⟩] })
      if hold then s else moveStaged ((s.port n).staged.length + 1) n s

def execUnscheduledCell (t : Time) (port : Port) (c : Cell) (s : State) : Out :=
  let s := tick t s
  .next (if c.cls = clsUns then stageCell port.val c s else s)

def execCreditHoldRetry (t : Time) (tile : LTile) (s : State) : Out :=
  let s := tick t s
  let n := tile.val
  .next (if (s.port n).creditHold then
      moveStaged ((s.port n).staged.length + 1) n (bump (portCtr n 0x098) 1 s)
    else s)

/-! ### The matcher (R277) -/

/-- The other units that the scheduled cells of a tide entry of column n reach over the exchange (Table SW-8, R280). -/
def entryDests (s : State) (n : Nat) (e : Word) : List Nat :=
  (if teMc e then grpPorts (Tbl.get 0 s.fabric.groups (teDest e)) else [teUnit e]).filter (· ≠ n)

/-- Cells wait on port n in an RX PASS slot whose exchange positions fall into slot u, k slots later (Table SW-8, R253; log entry 63). -/
def passed (s : State) (n u k : Nat) : Bool := (s.port n).passCells.any (fun q => q.pos / 4 + k = u && !(entryDests s n q.entry).isEmpty)

/-- Tile n's output queue of slot u has a cell ready that the slot may carry, toward another unit (R253, R270). -/
def oqReady (s : State) (u n : Nat) : Bool :=
  let (e, bank) := entryAt s n (4 * u)
  let ready := match (bank.sliceJob (teSlice e)).bind (fun tag => slotOf tag s) with
    | none => false
    | some j => match ((s.tile n).job j).oq[teOq e]? with
      | none => false
      | some q => ((Tbl.get [] (s.tile n).oqs q).head?).any (fun x => (x.cell.kind = kRelay) == teRelay e)
  teTx e = 1 && ready && !(entryDests s n e).isEmpty

/-- A tile's exchange-out carries scheduled cells in slot u: its output queue's, or PASS cells that cross then (Table SW-8). A slot without one is left
to unscheduled cells (R253). -/
def exchOut (s : State) (u n : Nat) : Bool := oqReady s u n || passed s n u 1 || passed s n u 2

/-- Units whose exchange-in carries scheduled cells in slot u. -/
def exchIns (s : State) (u : Nat) : List Nat :=
  (List.range 128).flatMap (fun n =>
    let e := (entryAt s n (4 * u)).1
    (if oqReady s u n then entryDests s n e else []) ++
      ((s.port n).passCells.filter (fun q => q.pos / 4 + 1 = u || q.pos / 4 + 2 = u)).flatMap (fun q => entryDests s n q.entry))

def voq (s : State) (i o p : Nat) : List QCell := Tbl.get [] (s.tile i).voqs (4 * o + p)

/-- The highest priority with a cell from i for o. -/
def topPrio (s : State) (i o : Nat) : Option Nat := ([3, 2, 1, 0] : List Nat).find? (fun p => !(voq s i o p).isEmpty)

/-- The first of a list of units at or after a pointer, modulo 128. -/
def firstFrom (ptr : Nat) (l : List Nat) : Option Nat :=
  ((List.range 128).map (fun k => (ptr + k) % 128)).find? (fun n => l.contains n)

/-- The greatest number of a list. -/
def maxOf (l : List Nat) : Nat := l.foldl Nat.max 0

/-- Grants of one iteration: for each free destination the source and priority granted. -/
def grants (s : State) (srcs dsts : List Nat) : List (Nat × Nat × Nat) :=
  dsts.filterMap (fun o =>
    let reqs := srcs.filterMap (fun i => (topPrio s i o).map (fun p => (i, p)))
    if reqs.isEmpty then none
    else
      let p := maxOf (reqs.map (·.2))
      (firstFrom (Tbl.get 0 s.fabric.gptr (4 * o + p)) ((reqs.filter (fun r => r.2 = p)).map (·.1))).map (fun i => (o, i, p)))

/-- Accepts of one iteration. -/
def accepts (s : State) (srcs : List Nat) (gs : List (Nat × Nat × Nat)) : List (Nat × Nat × Nat) :=
  srcs.filterMap (fun i =>
    let mine := gs.filter (fun g => g.2.1 = i)
    if mine.isEmpty then none
    else
      let p := maxOf (mine.map (·.2.2))
      (firstFrom (Tbl.get 0 s.fabric.aptr (4 * i + p)) ((mine.filter (fun g => g.2.2 = p)).map (·.1))).map (fun o => (o, i, p)))

/-- Three iterations of the matcher (R277): the pairs of destination, source and priority; pointers move in the first. -/
def matchIters : Nat → Bool → List Nat → List Nat → State → List (Nat × Nat × Nat) × State
  | 0, _, _, _, s => ([], s)
  | k + 1, first, srcs, dsts, s =>
    let as := accepts s srcs (grants s srcs dsts)
    let s := if first then s.updFabric (fun f => { f with
        gptr := as.foldl (fun t a => Tbl.set 0 t (4 * a.1 + a.2.2) ((a.2.1 + 1) % 128)) f.gptr
        aptr := as.foldl (fun t a => Tbl.set 0 t (4 * a.2.1 + a.2.2) ((a.1 + 1) % 128)) f.aptr }) else s
    let (rest, s) := matchIters k false (srcs.filter (fun i => !as.any (fun a => a.2.1 = i)))
      (dsts.filter (fun o => !as.any (fun a => a.1 = o))) s
    (as ++ rest, s)

/-- A matched pair moves up to four cells of its highest-priority VOQ into the destination's unscheduled transmit queue. -/
def moveMatched (o i : Nat) (s : State) : State :=
  match topPrio s i o with
  | none => s
  | some p =>
    let cells := (voq s i o p).take 4
    let s := s.updTile i (fun x => { x with voqs := Tbl.upd [] x.voqs (4 * o + p) (List.drop 4) })
    let s := cells.foldl (fun s q => freeBuf i q.buf s) s
    let s := crossExchange i cells.length [o] s
    profEvent 0x09 o none 1 (s.updPort o (fun p => { p with unsQ := p.unsQ ++ cells.map (·.cell) }))

/-- A group tile that expects band cells takes no part in a matcher quad as a destination (R196). -/
def bandsDue (s : State) (o : Nat) : Bool := (List.range 128).any (fun n => (s.tile n).bands.any (fun q => q.dest = o))

/-- The next cell of a band: 48 BF16 elements of the sender's rows, in row order; its ordinal counts the cells of all bands of the matrix
(log entry 32). -/
def bandCell (s : State) (n : Nat) (r : BandRun) : Cell :=
  let x := s.tile n
  let b := (x.binding r.slot r.bind).getD 0
  let k := blockOf b
  let w := k.width r.phase
  let row0 := if r.phase = 1 then 4 * k.rows * k.c + 2 * k.rows * k.c + 4 * k.rows * k.r else 4 * k.rows * k.c
  let codes := (List.range 48).map (fun m =>
    let p := 48 * r.next + m
    if p < k.rows * w then accN x r.acc (row0 + 2 * p) 2 else 0)
  mkColl kRelay 1 false (r.next + 1 = r.total) false false (s.job r.slot).tag.toNat (bColl b) ((s.job r.slot).entry (bColl b)).epoch.toNat
    (k.cellsBefore r.phase k.g + r.next) 0 0 (payPack 1 codes)

/-- A band cell enters the input queue of the destination's GROUP binding, where that has a place and a buffer (R196, R205). -/
def bandArrives (r : BandRun) (c : Cell) (s : State) : Option State :=
  let y := s.tile r.dest
  match (y.binding r.slot r.peer).bind (fun b => if bEn b then (y.job r.slot).iq[bIq b]? else none) with
  | none => some (bump (tileCtr r.dest 0x080) 1 s)
  | some p =>
    if tileDown s r.dest || (iqCells s r.dest p).length ≥ 1024 then none
    else match allocSched r.dest r.slot s with
      | (none, _) => none
      | (some k, s) =>
        let s := s.updTile r.dest (fun x => { x with iqs := Tbl.upd [] x.iqs p (· ++ [⟨c, some k⟩]) })
        some (bumpMax (tileCtr r.dest (0x100 + 8 * p)) (iqCells s r.dest p).length (bump (tileCtr r.dest 0x058) 112 s))

/-- Up to k cells of a band leave a tile; how the band stands then. -/
def sendBand' : Nat → Nat → BandRun → State → BandRun × State
  | 0, _, r, s => (r, s)
  | k + 1, n, r, s =>
    if r.next ≥ r.total then (r, s)
    else match bandArrives r (bandCell s n r) s with
      | none => (r, s)
      | some s => sendBand' k n { r with next := r.next + 1 } (crossExchange n 1 [r.dest] s)

/-- The first band of a tile whose destination is free in this quad and can take a cell sends up to four: the tile that received them. -/
def moveBand (n : Nat) (taken : List Nat) : List BandRun → List BandRun → State → Option Nat × State
  | [], _, s => (none, s)
  | r :: rs, before, s =>
    let (r', s') := sendBand' 4 n r s
    if taken.contains r.dest || r'.next = r.next then moveBand n taken rs (before ++ [r]) s
    else (some r.dest, s'.updTile n (fun x => { x with bands := before ++ (if r'.next ≥ r'.total then rs else r' :: rs) }))

/-- Band cells take the exchange positions of a quad that scheduled cells leave (R196): each source and destination once. The tiles that sent, and those
that received or take scheduled cells. -/
def moveBands (u : Nat) (ins : List Nat) (s : State) : List Nat × List Nat × State :=
  (List.range 128).foldl (fun (q : List Nat × List Nat × State) n =>
    if (q.2.2.tile n).bands.isEmpty || exchOut q.2.2 u n then q
    else match moveBand n q.2.1 (q.2.2.tile n).bands [] q.2.2 with
      | (none, _) => q
      | (some d, s) => (n :: q.1, d :: q.2.1, s)) ([], ins, s)

/-- A tile moves all four cells of a quad only at operating points 4 to 6 (R423). -/
def fullRate (s : State) (n : Nat) : Bool :=
  match (s.dev.place[n]?).join with
  | some p => (s.island p).pst = .on && 4 ≤ (s.island p).cur.toNat
  | none => false

/-- The matcher for the quad two slots ahead (R277). -/
def matchQuad (s : State) : State :=
  let u := slotNow s + 2
  let (sent, ins, s') := moveBands u (exchIns s u) s
  let srcs := (List.range 128).filter (fun n => !exchOut s u n && !sent.contains n && !(s.tile n).voqs.isEmpty && fullRate s n)
  let dsts := (List.range 128).filter (fun n => !ins.contains n && !bandsDue s n && (s.port n).unsQ.length ≤ 60 && fullRate s n)
  let (pairs, s) := matchIters 3 true srcs dsts s'
  pairs.foldl (fun s a => moveMatched a.1 a.2.1 s) s

def execMatchQuad (t : Time) (s : State) : Out := .next (matchQuad (tick t s))

/-! ### Buffers (R282, R284) -/

def execBufferFree (t : Time) (tile : LTile) (addr : Word) (s : State) : Out :=
  .next (freeAddr tile.val addr.toNat (tick t s))

/-- A buffer that some queue, staging place or window of the tile holds (Table SW-14). -/
def bufHeld (s : State) (n b : Nat) : Bool :=
  let x := s.tile n
  let inQ (qs : Tbl (List QCell)) : Bool := qs.any (fun e => e.2.any (fun q => q.buf = some b))
  inQ x.iqs || inQ x.oqs || inQ x.voqs || (s.port n).staged.any (fun q => q.buf = some b)

/-- A finding of the auditor is counted and logged (R284). -/
def auditFound (n : Nat) (s : State) : State := bump (tileCtr n 0x0D0) 1 (logCode 0x020E (unitTile n) s)

/-- A free list with one link of buffer b, its first. -/
def oneLink (b : Nat) : List Nat → List Nat
  | [] => []
  | x :: xs => if x = b then b :: xs.filter (· ≠ b) else x :: oneLink b xs

/-- The auditor examines the next buffer (Table SW-14). -/
def auditStep (n : Nat) (s : State) : State :=
  let x := s.tile n
  let b := x.audit
  let y := x.buf b
  let links := (x.free.filter (· = b)).length
  let s := s.updTile n (fun x => { x with audit := (b + 1) % 16384 })
  let setFree (on : Bool) (l : List Nat) (s : State) : State :=
    s.updTile n (fun x => { x with freeList := some l }.updBuf b (fun z => { z with onList := on }))
  if !y.state && links = 0 then auditFound n (setFree true (x.free ++ [b]) s)
  else if y.state && links > 0 then auditFound n (setFree false (x.free.filter (· ≠ b)) s)
  else if links > 1 then auditFound n (setFree true (oneLink b x.free) s)
  else if y.state && !bufHeld s n b then
    if y.suspect then auditFound n (releaseBuf n b s)
    else s.updTile n (fun x => x.updBuf b (fun z => { z with suspect := true }))
  else if y.state then s.updTile n (fun x => x.updBuf b (fun z => { z with suspect := false }))
  else s

def execAuditorStep (t : Time) (tile : LTile) (s : State) : Out := .next (auditStep tile.val (tick t s))

end Sys2Proof.Machine
end

