-- ==== Sys2Proof/Machine/Engine.lean ====
section
/-! DEFINITION. How an engine instruction runs at the head of its command queue: legality, units, pops and pushes, skips, and the
accumulator window (08 R198 to R217; 04 R77 to R82). -/

namespace Sys2Proof.Machine

/-! ### Legality (R208, R210, Table TP-12) -/

/-- MOD bits that an opcode uses (Table TP-7). DESIGN CHOICE: GID counts as used only with GRP = 1, and every bit of a WAIT's ARG as used whatever its
EVENT (log entry 57). -/
def modMask (i : DWord) : Nat :=
  match iOpc i with
  | 0x00 => 0x1C000
  | 0x01 => if iMod i 8 1 = 1 then 0x1FFFF else 0x1FE00
  | 0x02 => 0x1FFFF
  | 0x03 => if isAp3 (iSrc i) then 0x1FFFF - 0x1E000 - 0x7F else 0x1FFFF - 0x7F
  | 0x09 => 0x1FF80
  | 0x0A => 0x1FF80
  | 0x0B => 0x7FF
  | 0x0C => 0x18000
  | 0x0D => 0x1C7FF
  | 0x0E => 0x18000
  | 0x0F => 0x1C000
  | 0x10 => 0x1FFFF
  | 0x11 => 0x1FFFF
  | 0x12 => 0x1FFC0
  | 0x13 => 0x1FF80
  | _ => 0

/-- The opcode uses ACC (Table TP-6). -/
def insnAcc (i : DWord) : Bool :=
  match iOpc i with
  | 0x03 => isAp3 (iSrc i) || isAp3 (iDst i)
  | 0x04 => isAp01 (iDst i)
  | 0x0D => 1 ≤ iMod i 14 3
  | 0x00 => false | 0x01 => false | 0x02 => false | 0x0C => false | 0x0F => false | 0x12 => false | 0x13 => false
  | _ => true

/-- The opcode uses CNT. -/
def insnCnt (i : DWord) : Bool := 3 ≤ iOpc i && !(iOpc i = 0x0C && bitN (iMod i 16 1) 0)

/-- The opcode uses SRC, DST. -/
def insnSrc (i : DWord) : Bool :=
  3 ≤ iOpc i && iOpc i ≠ 0x0C && iOpc i ≠ 0x11
def insnDst (i : DWord) : Bool :=
  3 ≤ iOpc i && iOpc i ≠ 0x0E && iOpc i ≠ 0x10

/-- RSVD fields and unused queue fields (0x0802). -/
def fieldsBad (i : DWord) : Bool :=
  (iMod i 0 17 &&& modMask i) ≠ iMod i 0 17 || (!insnAcc i && iAcc i ≠ 0) || (!insnCnt i && iBits i 17 12 ≠ 0) ||
  ((bindName i).isNone && iOpc i ≠ 0x02 && iBind i ≠ 0) || (!insnSrc i && iSrc i ≠ qNone) || (!insnDst i && iDst i ≠ qNone)

def isNone' (q : Nat) : Bool := q = qNone

/-- SRC and DST that Table TP-6 allows. -/
def srcOk (i : DWord) : Bool :=
  let q := iSrc i
  match iOpc i with
  | 0x03 => isVq q || isIq q || isAp3 q
  | 0x04 => isIq q
  | 0x05 => isIq q || isVq q | 0x06 => isIq q || isVq q | 0x07 => isIq q || isVq q | 0x08 => isIq q || isVq q | 0x09 => isIq q || isVq q
  | 0x0A => isVq q
  | 0x0B => isAp3 q
  | 0x0D => isVq q || isNone' q
  | 0x0E => isIq q || isMq q
  | 0x0F => isVq q
  | 0x10 => isAp3 q
  | 0x12 => isVq q || isIq q | 0x13 => isVq q || isIq q
  | _ => isNone' q
def dstOk (i : DWord) : Bool :=
  let q := iDst i
  match iOpc i with
  | 0x03 => isVq q || isMq q || isAp3 q
  | 0x04 => isVq q || isAp01 q
  | 0x05 => isAp01 q | 0x06 => isAp01 q | 0x07 => isAp01 q | 0x08 => isAp01 q
  | 0x09 => isAp2 q | 0x0A => isAp2 q
  | 0x0B => isVq q
  | 0x0C => if bitN (iMod i 16 1) 0 then isNone' q else isOq q
  | 0x0D => isVq q || isNone' q
  | 0x0F => isVq q
  | 0x11 => isAp3 q
  | 0x12 => isOq q | 0x13 => isOq q
  | _ => isNone' q

/-- A queue name outside the job's grant (R201). -/
def queueOut (t : TJob) (q : Nat) : Bool :=
  (isIq q && (t.iq[q]?).isNone) || (isVq q && (t.vq[q - 0x10]?).isNone) || (isOq q && (t.oq[q - 0x20]?).isNone)

/-- ND against R212 (0x0804). -/
def ndBad (i : DWord) (role op : Nat) : Bool := iNd i ≠ (iOpc i = 0x08 || (iOpc i = 0x12 && role = roleEgress && op = 9))

/-- A CVT's conversion path is in Table NF-5, or a drain, or a raw move (R209). -/
def pathOk (i : DWord) : Bool :=
  let a := iMod i 13 4
  let b := iMod i 9 4
  if iMod i 7 1 = 1 then isAp3 (iDst i) && !isAp3 (iSrc i) && (a = 0 || a = 1) && a = b
  else if isAp3 (iDst i) then false
  else if isAp3 (iSrc i) then b = 0 || fmtIsW b
  else (b = 0 && a ≠ 0 && (fmtIsFloat a || fmtIsW a)) || (a = 0 && 1 ≤ b && b ≤ 0xA) || (fmtIsW a && fmtIsW b && a ≠ b)

/-- Reserved codes in MOD (0x0805). -/
def modBad (i : DWord) : Bool :=
  match iOpc i with
  | 0x02 => iMod i 11 3 = 0 || 5 ≤ iMod i 11 3
  | 0x03 => !pathOk i
  | 0x09 => 4 < iMod i 14 3
  | 0x0A => 4 < iMod i 14 3
  | 0x0D => 6 ≤ iMod i 14 3
  | 0x0E => iMod i 15 2 = 3
  | 0x12 => !(kindClasses (iMod i 13 4)).contains (iMod i 11 2) || iMod i 7 4 = 0xB || iMod i 7 4 = 0xF
  | 0x13 => !(kindClasses (iMod i 13 4)).contains clsSched || iMod i 9 4 = 0xB || iMod i 9 4 = 0xF
  | _ => false

/-- CNT is not a whole number of destination units (0x0817). -/
def cntBad (i : DWord) (e : Entry) : Bool :=
  match iOpc i with
  | 0x03 => !isAp3 (iSrc i) && !isAp3 (iDst i) && iCnt i % groupIn (fmtElems (iMod i 13 4)) (fmtElems (iMod i 9 4)) ≠ 0
  | 0x04 => isVq (iDst i) && iCnt i % groupIn (fmtElems e.cfmt) (768 / planW e.plan) ≠ 0
  | _ => false

/-- A gang is configured: array 0 and MQ0 alone are present (R222). -/
def ganged (t : TJob) : Bool := t.mset.toNat % 4 ≠ 0
def arrayBad (i : DWord) (t : TJob) : Bool :=
  ganged t && (((iOpc i = 0x09 || iOpc i = 0x0A) && iMod i 7 2 ≠ 0) || (isMq (iSrc i) && iSrc i ≠ 0x18) || (isMq (iDst i) && iDst i ≠ 0x18))

/-- A program on a tile gives a collective's result to OPT, ELEM or SPILL. -/
def usesResult (x : TileS) (slot coll : Nat) : Bool :=
  (List.range (x.job slot).ninsn).any (fun k =>
    let j := x.imgInsn slot k
    (iOpc j = 0x0D || iOpc j = 0x0B || iOpc j = 0x10) && (x.binding slot (iBind j)).map bColl = some coll)

/-- FASTSUM where R74 forbids it: a step-list collective, or one whose result a program of the job on this device gives to OPT, ELEM or SPILL. -/
def fastBad (s : State) (slot : Nat) (i : DWord) (b : BitVec 256) (e : Entry) : Bool :=
  iOpc i = 0x08 && (e.op = opRum || (jobTiles s slot).any (fun n => usesResult (s.tile n) slot (bColl b)))

/-- HPARAM.ALGO of an entry (Table UP-5). -/
def algoOf (x : Job) (coll : Nat) : Nat := (x.hparam.read (64 * (x.stepPos coll).getD 0)).toNat % 16

/-- The opcode is not allowed for the binding (0x080A): its role, the STAGE of OPT, the group of an MCAST (log entry 31). -/
def insnBindBad (x : Job) (i : DWord) (b : BitVec 256) (e : Entry) : Bool :=
  (bRole b = roleVerdict && 3 ≤ iOpc i) ||
  (iOpc i = 0x0D && (bRole b ≠ roleHome && bRole b ≠ roleGroup || (algoOf x (bColl b) = 3) ≠ (1 ≤ iMod i 14 3))) ||
  (iOpc i = 0x0E && bRole b ≠ roleGroup) ||
  (iOpc i = 0x0C && iMod i 16 1 = 0 && !e.rowstat) ||
  (iOpc i = 0x13 && (if iMod i 7 1 = 0 then e.mgroup else e.cgroup) = 0)

/-- The code of an illegal instruction, the lowest that applies (R210, R228). -/
def illegalCode (s : State) (tile slot : Nat) (ent : CqEnt) : Option Nat :=
  let i := ent.insn
  let ts := s.tile tile
  let t := ts.job slot
  let x := s.job slot
  let b := (bindName i).map (fun k => ts.binding slot k)
  let bd : BitVec 256 := (b.join).getD 0
  let e := x.entry (bColl bd)
  firstCode [
    codeIf (iOpc i ≥ 0x14) 0x0801,
    codeIf (fieldsBad i || (iOpc i = 0x0B && e.fuse ≤ 2 && iMod i 0 11 ≠ 0)) 0x0802,
    codeIf (!srcOk i || !dstOk i || queueOut t (iSrc i) || queueOut t (iDst i)) 0x0803,
    codeIf (ndBad i (bRole bd) e.op) 0x0804,
    codeIf (modBad i) 0x0805,
    codeIf (iOpc i = 0x03 && iMod i 8 1 = 1 && !(iMod i 13 4 = 0 && !isAp3 (iSrc i) && 1 ≤ iMod i 9 4 && iMod i 9 4 ≤ 0xA)) 0x0806,
    codeIf (fastBad s slot i bd e) 0x0807,
    codeIf (iOpc i = 0x09 && !(e.cfmt = 1 || (3 ≤ e.cfmt && e.cfmt ≤ 9))) 0x0808,
    codeIf (arrayBad i t) 0x0809,
    codeIf (b = some none || (b.isSome && insnBindBad x i bd e)) 0x080A,
    codeIf (iOpc i = 0x10 && settledOn s tile slot (bColl bd) ≥ e.passes && (s.inst? slot (bColl bd)).isSome &&
      !(tileChunks s tile slot (bColl bd)).isEmpty) 0x0812,
    codeIf (ent.bad || cntBad i e) 0x0817,
    codeIf (iOpc i = 0x01 && iMod i 9 8 = 0) 0x0818]

/-! ### Running an instruction (R199, R200, R214, R215, R217) -/

/-- How a unit of an instruction ends. -/
inductive Res where
  | wait
  | done (s : State)
  | skip (code : Nat)
  | void
  deriving DecidableEq, Repr

/-- Cells or entries that stand at a source queue end. -/
def srcLen (s : State) (tile slot q : Nat) : Nat :=
  match ((s.tile tile).job slot).iqOf q with
  | some p => (iqCells s tile p).length
  | none => if isVq q || isMq q then (entsOf s tile slot q).length else 0

def srcCells (s : State) (tile slot q n : Nat) : List Cell :=
  match ((s.tile tile).job slot).iqOf q with
  | some p => ((iqCells s tile p).take n).map (·.cell)
  | none => []

/-- Pop n from a source queue end. -/
def popSrc (tile slot q n : Nat) (s : State) : State :=
  match ((s.tile tile).job slot).iqOf q with
  | some p => popIq tile p n slot s
  | none => if isVq q || isMq q then popEnts tile slot q n s else s

/-- The first index of an element of ordinal n of a kind (R106). -/
def firstIdx (e : Entry) (c : Cell) : Nat :=
  if isSelecting e.op && (c.kind = kPartial || c.kind = kResult) then e.triplePlace c.chunk
  else c.chunk * fmtElems c.fmt

/-- A cell seen as an entry (R202). -/
def entOfCell (e : Entry) (bind : Nat) (c : Cell) : Ent :=
  let idx := firstIdx e c
  let total := if fmtIsW c.fmt then e.sumElems else e.elems
  let trip := isSelecting e.op && c.kind ≠ kContribution
  ⟨c.pay, BitVec.ofNat 48 c.scale, BitVec.ofNat 6 bind, BitVec.ofNat 20 (idx / e.chunkElems), BitVec.ofNat 40 idx,
    if trip then min 8 (e.results (idx / 192) - idx % 192) else min (fmtElems c.fmt) (total - idx), BitVec.ofNat 4 c.fmt, c.parity, none, 0,
    if c.last then foldCount c else 0, trip, false⟩

/-- The first n of a source as entries. -/
def srcEnts (s : State) (tile slot : Nat) (i : DWord) (e : Entry) (n : Nat) : List Ent :=
  if isIq (iSrc i) then (srcCells s tile slot (iSrc i) n).map (entOfCell e (iBind i)) else (entsOf s tile slot (iSrc i)).take n

/-- A cell's chunk has no entry in the directory of the binding whose instruction pops it (R207); a band cell belongs to no chunk. -/
def dirMiss (x : TileS) (slot bind : Nat) (e : Entry) (b : BitVec 256) (c : Cell) : Bool :=
  bNchunk b ≠ 0 && bRole b ≠ roleGroup && (x.dirOrd slot b (entOfCell e bind c).chunk.toNat).isNone

/-- What is wrong with the first n of a source before any arithmetic: VOID, another binding, a stale epoch, a chunk outside the directory. -/
def srcFault (s : State) (tile slot : Nat) (i : DWord) (coll n : Nat) : Option Res :=
  if isIq (iSrc i) then
    let l := srcCells s tile slot (iSrc i) n
    let e := (s.job slot).entry coll
    if l.any (fun c => c.coll ≠ coll) then some (.skip 0x0816)
    else if l.any (fun c => c.epoch ≠ e.epoch.toNat) then some (.skip 0x080D)
    else if l.any (dirMiss (s.tile tile) slot (iBind i) e (bindingOf s tile slot i)) then some (.skip 0x080F)
    else none
  else
    let l := (entsOf s tile slot (iSrc i)).take n
    if l.any (·.void) then some .void
    else if l.any (fun v => v.bind.toNat ≠ iBind i) then some (.skip 0x0816)
    else none

/-- Push outputs of group item j, and pop the group's sources with its last output. -/
def emit (tile slot : Nat) (i : DWord) (p : Plan) (j : Nat) (outs : List Ent) (s : State) : Res :=
  if roomOf s tile slot (iDst i) < outs.length then .wait
  else
    let s := pushEnts tile slot (iDst i) outs s
    .done (if j + 1 ≥ p.pushN then popSrc tile slot (iSrc i) p.popN s else s)

/-- Entries that count as one at a source: the parts of an escalated cell (R209). -/
def partsAt (s : State) (tile slot q : Nat) : Nat :=
  if isIq q then 1 else match (entsOf s tile slot q).head? with
    | some v => if v.esc = some 0 then v.part else 1
    | none => 1

/-- The source that an instruction names exists and is one that its opcode pops; an instruction illegal by its source pops nothing (R214). -/
def popsSrc (s : State) (tile slot : Nat) (i : DWord) : Bool :=
  srcOk i && (((s.tile tile).job slot).iqOf (iSrc i) |>.isSome) || (srcOk i && (isMq (iSrc i) || (((s.tile tile).job slot).vqOf (iSrc i)).isSome))

/-- What unit g of a skipped instruction pops: the counted cells or entries that it would have popped. -/
def skipPops (s : State) (tile slot : Nat) (i : DWord) (p : Plan) (g : Nat) : Nat :=
  if !popsSrc s tile slot i || !popsAt s tile slot i g then 0
  else if p.popN = 1 then partsAt s tile slot (iSrc i)
  else if iOpc i = 0x03 || iOpc i = 0x04 then min p.popN (iCnt i - p.popN * g)
  else p.popN

/-- One unit of a skipped instruction: its pops, and VOID entries for its pushes, one VOID entry where DIGEST would have passed on a counted entry;
output queues take nothing. A skipped RECON uses up the entries of its next tile (R214, R215). -/
def skipUnit (tile slot : Nat) (i : DWord) (p : Plan) (g j : Nat) (s : State) : Res :=
  if iOpc i = 0x0A && popsSrc s tile slot i then
    (let b := bindingOf s tile slot i
     if (nextTile s tile slot i ((s.job slot).entry (bColl b)) (entsOf s tile slot (iSrc i))).isNone then .wait
     else .done (reconPops tile slot i 1 s))
  else
    let n := skipPops s tile slot i p g
    if srcLen s tile slot (iSrc i) < n then .wait
    else if (p.pushN = 0 && iOpc i ≠ 0x0F) || isOq (iDst i) then .done (if n = 0 then s else popSrc tile slot (iSrc i) n s)
    else emit tile slot i { p with popN := n } j [voidEnt (iBind i)] s

/-- Kind of a code in Table TP-12: illegal, else inconsistent (R210). -/
def illegalKind (code : Nat) : Bool := (0x0801 ≤ code && code ≤ 0x080A) || code = 0x0812 || code = 0x0817 || code = 0x0818

/-- Mark the head of a queue as skipped, with its code logged. -/
def skipHead (tile slot q : Nat) (e : CqEnt) (code : Nat) (illegal : Bool) (s : State) : State :=
  updHead tile slot q (fun e => { e with skipped := true }) (logSkip tile slot e code illegal s)

/-- A secondary skip (R215). -/
def skipAgain (tile slot q : Nat) (s : State) : State :=
  updHead tile slot q (fun e => { e with skipped := true }) (bump (tileCtr tile 0x098) 1 (bump (jobCtr tile slot 0x50) 1 s))

/-- Run units of the head of a command queue until it waits, is held or completes. `hold`: its completion waits for an event; `first`: the state in
which the instruction came to the head, if its units began in this run: a fault or a VOID entry that one of them meets skips the instruction whole, with
no operation (R214; log entry 58). -/
def runUnits : Nat → Nat → Nat → Nat → Plan → (CqEnt → Nat → Nat → State → Res) → Bool → Option State → State → State
  | 0, _, _, _, _, _, _, _, s => s
  | k + 1, tile, slot, q, p, unit, hold, first, s =>
    match cqHead s tile slot q with
    | none => s
    | some e =>
      if e.done ≥ p.units then
        (if hold && !e.skipped then updHead tile slot q (fun e => { e with held := true }) s else completeHead tile slot q e s)
      else
        let m := max 1 p.pushN
        match (if e.skipped then skipUnit tile slot e.insn p (e.done / m) (e.done % m) s else unit e (e.done / m) (e.done % m) s) with
        | .wait => s
        | .done s => runUnits k tile slot q p unit hold first (updHead tile slot q (fun e => { e with done := e.done + 1 }) s)
        | .skip code => runUnits k tile slot q p unit hold none (skipHead tile slot q e code (illegalKind code) (first.getD s))
        | .void => runUnits k tile slot q p unit hold none (skipAgain tile slot q (first.getD s))

/-- The instruction at a queue's head names a binding without a running instance: it is discarded (R217). -/
def discards (s : State) (tile slot : Nat) (i : DWord) : Bool :=
  match (bindName i).bind ((s.tile tile).binding slot) with
  | some b => (s.inst? slot (bColl b)).isNone
  | none => false

/-- The head of a queue is discarded with what it would pop, and counted as flushed. -/
def discardHead (tile slot q : Nat) (e : CqEnt) (s : State) : State :=
  let s := bump (jobCtr tile slot 0x58) 1 (discardSrc tile slot e s)
  pumpTile tile (s.updTile tile (fun x => x.updJob slot (fun t => { t with cqs := Tbl.upd [] t.cqs q List.tail })))

/-- A unit of an instruction, given its entry, group and place in the group. -/
abbrev Unit' := CqEnt → Nat → Nat → State → Res

/-- The head of a job's command queue runs, when it has this opcode and the tile is at work: first its legality, then its units. -/
def runHead (tile slot q : Nat) (opc : Nat → Bool) (plan : State → CqEnt → Plan) (hold : CqEnt → Bool) (unit : Unit') (s : State) : State :=
  match cqHead s tile slot q with
  | none => s
  | some e =>
    if !opc (iOpc e.insn) || e.held || tileDown s tile then s
    else if e.done = 0 && !e.skipped && discards s tile slot e.insn && ((bindName e.insn).bind ((s.tile tile).binding slot)).isSome then
      discardHead tile slot q e s
    else
      let p := plan s e
      let s := if e.done = 0 && !e.skipped then
          (match illegalCode s tile slot e with
            | some c => skipHead tile slot q e c true s
            | none => s)
        else s
      let s := runUnits (2 * p.units + 3) tile slot q p unit (hold e) (if e.done = 0 && !e.skipped then some s else none) s
      match (bindName e.insn).bind ((s.tile tile).binding slot) with
      | some b => settle tile slot (bColl b) s
      | none => s

/-! ### The accumulator window (R77, R80 to R82, R206) -/

/-- A range of accumulator tiles lies in the job's grant. -/
def inGrant (t : TJob) (a n : Nat) : Bool := t.accBase ≤ a && a + n ≤ t.accBase + t.accCount

/-- The window is within the grant, and holds the directory's segments. -/
def windowBad (t : TJob) (b : BitVec 256) (e : Entry) (acc : Nat) : Bool :=
  bWspan b = 0 || !inGrant t acc (bWspan b) || bNchunk b * 2 ^ e.cshift > bWspan b

/-- What an operand for a segment meets at an accumulator tile. -/
inductive Meet where
  | ready | wait | bad (code : Nat)
  deriving DecidableEq, Repr

def meetAcc (s : State) (tile slot coll a seg : Nat) : Meet :=
  let y := (s.tile tile).acc a
  let w := y.tag
  let epoch := ((s.job slot).entry coll).epoch.toNat
  if tagState w = accFree then .ready
  else if tagSlot w ≠ slot || tagColl w ≠ coll then .bad 0x080C
  else if tagState w = accActive then
    (if tagEpoch w ≠ epoch then .bad 0x080D else if y.seg ≠ seg then .bad 0x080C else .ready)
  else .wait

/-- A FREE tile becomes ACTIVE for an instance and segment (R81). -/
def openAcc (tile slot coll a seg : Nat) (hat : Bool) (s : State) : State :=
  let epoch := ((s.job slot).entry coll).epoch.toNat
  s.updTile tile (fun x => x.updAcc a (fun y =>
    if tagState y.tag = accFree then { Acc.reset with tag := mkTag accActive false epoch coll slot, seg := seg, hat := hat } else y))

/-- One element reaches an accumulator element: stored, or joined with what is there; whether SAT is set. -/
def Acc.put (f : BitVec 96 → BitVec 96 × Bool) (first : BitVec 96) (k : Nat) (y : Acc) : Acc :=
  if y.written.getLsbD k then
    let (v, sat) := f (Tbl.get 0 y.elems k)
    { y with elems := Tbl.set 0 y.elems k v, tag := if sat then y.tag ||| 0x10000000 else y.tag }
  else { y with elems := Tbl.set 0 y.elems k first, written := y.written ||| ((1 : BitVec 192) <<< k) }

/-- Put one element of a segment into its tile. -/
def putElem (tile a k : Nat) (f : BitVec 96 → BitVec 96 × Bool) (first : BitVec 96) (s : State) : State :=
  s.updTile tile (fun x => x.updAcc a (Acc.put f first k))

/-- Put W-form integers at element indices of a tensor: the exact sum (R57, R84). `at_` gives the tile of a segment. -/
def addElems (tile : Nat) (at_ : Nat → Nat) (vals : List (Nat × Int)) (s : State) : State :=
  vals.foldl (fun s q => putElem tile (at_ (q.1 / 192)) (q.1 % 192) (fun o => addW96 o.toInt q.2) (BitVec.ofInt 96 q.2) s) s

/-- Segments that element indices touch. -/
def segsOf (idxs : List Nat) : List Nat := dedupNat (idxs.map (· / 192))

/-- Tiles that would leave FREE meet the job's ceiling (R249). -/
def accFull (s : State) (tile slot : Nat) (tiles : List Nat) : Bool :=
  let held := (((s.job slot).grant tile).map (·.held)).getD []
  let fresh := tiles.filter (fun a => tagState ((s.tile tile).acc a).tag = accFree && !held.contains a)
  !fresh.isEmpty && accUse s slot tile + fresh.length > (s.job slot).accQuota tile

/-- Check every tile a unit adds to, and open those that are FREE. -/
def enterWindow (tile slot : Nat) (i : DWord) (b : BitVec 256) (e : Entry) (segs : List Nat) (s : State) : Res :=
  let x := s.tile tile
  if windowBad (x.job slot) b e (iAcc i) then .skip 0x080B
  else
    let tiles := segs.map (fun g => (g, windowTile x slot b e (iAcc i) g))
    if tiles.any (fun q => q.2.isNone) then .skip 0x080F
    else
      let ms := tiles.map (fun q => meetAcc s tile slot (bColl b) (q.2.getD 0) q.1)
      match ms.findSome? (fun m => match m with
        | .bad c => some c
        | _ => none) with
      | some c => .skip c
      | none =>
        if ms.any (· = .wait) then .wait
        else if accFull s tile slot (tiles.map (fun q => q.2.getD 0)) then .skip 0x0510
        else .done (tiles.foldl (fun s q => openAcc tile slot (bColl b) (q.2.getD 0) q.1 false s) s)

/-- The tile of a segment in an instruction's window, once checked. -/
def accAt (s : State) (tile slot : Nat) (i : DWord) (b : BitVec 256) (e : Entry) (seg : Nat) : Nat :=
  (windowTile (s.tile tile) slot b e (iAcc i) seg).getD 0

/-- The pass, counted from 1, of an operand of a chunk and parity: at a home tile, the chunk's next pass to settle or the one after it (R112); elsewhere
the parity alone tells. -/
def passOf (s : State) (tile slot coll chunk : Nat) (par : Bool) : Nat :=
  let k := (((tileChunks s tile slot coll).find? (fun c => c.num = chunk)).map (·.settled)).getD 0
  if par = decide (k % 2 = 1) then k + 1 else k + 2

/-- An operand has been added to a segment's tile: its parity and pass (R88). -/
def notePass (tile slot coll a chunk : Nat) (par : Bool) (s : State) : State :=
  let p := passOf s tile slot coll chunk par
  s.updTile tile (fun x => x.updAcc a (fun y => { y with par := par, top := Nat.max y.top p }))

/-- Folded contributions of an added operand, kept by the tile of its last segment (R111). -/
def noteFold (tile a fold : Nat) (s : State) : State :=
  s.updTile tile (fun x => x.updAcc a (fun y => { y with folds := y.folds + fold }))

/-- An operand has been added to the tiles of its segments, in ascending order: their passes, and its folds at the last (R88, R111). -/
def noteAdd (tile slot : Nat) (i : DWord) (b : BitVec 256) (e : Entry) (segs : List Nat) (fold : Nat) (par : Bool) (s : State) : State :=
  let s := segs.foldl (fun s g => notePass tile slot (bColl b) (accAt s tile slot i b e g) (g / 2 ^ e.cshift) par s) s
  match segs.getLast? with
  | some g => noteFold tile (accAt s tile slot i b e g) fold s
  | none => s

/-- A tile that is read out returns to FREE; SAT reaches the instance (R81, R84). -/
def freeAcc (tile slot coll a : Nat) (s : State) : State :=
  let w := ((s.tile tile).acc a).tag
  setSat slot coll tile (tagSat w) (s.updTile tile (fun x => x.updAcc a (fun y => { Acc.reset with tag := retag accFree y.tag })))

/-- A direct instruction meets the tile it reads (R77, R81). -/
def directFault (s : State) (tile slot coll a : Nat) : Option Nat :=
  let w := ((s.tile tile).acc a).tag
  if !inGrant ((s.tile tile).job slot) a 1 then some 0x080B
  else if tagState w ≠ accActive || tagSlot w ≠ slot || tagColl w ≠ coll then some 0x080C
  else if tagEpoch w ≠ ((s.job slot).entry coll).epoch.toNat then some 0x080D
  else none

end Sys2Proof.Machine
end

