-- ==== Sys2Proof/Machine/Reduce.lean ====
section
/-! DEFINITION. The reduce engine: QNT, ADDW, MAXL, MINL, FASTSUM (03; 08 R209). -/

namespace Sys2Proof.Machine

/-- The W-form code of a width. -/
def wFmt (w : Nat) : Nat := if w = 32 then 0xC else if w = 48 then 0xD else 0xE

/-- The scale byte of element k of an entry. -/
def Ent.scaleOf (v : Ent) (k : Nat) : Nat := if fmtBlock v.fmt.toNat = 0 then 0 else bitsN v.scale.toNat (8 * (k / fmtBlock v.fmt.toNat)) 8

/-- The exact values of an entry's valid elements, with their decode events and tensor indices. -/
def Ent.values (v : Ent) : List (Nat × Val × Ev) :=
  (List.range v.valid).map (fun k =>
    let (x, ev) := decElem v.fmt.toNat (payElem v.fmt.toNat v.pay k) (v.scaleOf k)
    (v.idx.toNat + k, x, ev))

/-- The W-form integers of an entry, and which were -2^(w-1) (R29). -/
def Ent.wvalues (v : Ent) : List (Nat × Int × Bool) :=
  (List.range v.valid).map (fun k =>
    let (x, m) := decW (wBits v.fmt.toNat) (payElem v.fmt.toNat v.pay k)
    (v.idx.toNat + k, x, m))

/-- Quantised elements of an instance: index, integer, saturation, whether it counts toward m (R55, R62). -/
structure Quant where
  idx : Nat
  x : Int
  sat : Bool
  counts : Bool
  deriving DecidableEq, Repr

def quantise (n : Inst) (l : List (Nat × Val × Ev)) : List Quant × Ev :=
  let q := l.map (fun v =>
    let (x, sat, ev) := qnt v.2.1 n.wtop n.w n.s
    ((⟨v.1, x, sat, v.2.1.isFin⟩ : Quant), v.2.2.add ev))
  (q.map (·.1), Ev.sum (q.map (·.2)))

/-- The magnitude exponent of a list of integers (R62). -/
def magExp (l : List Quant) : Option Nat :=
  let m := (l.filter (·.counts)).foldl (fun a q => Nat.max a q.x.natAbs) 0
  if m = 0 then none else some (clog2 m)

/-- The greater of two magnitude exponents. -/
def maxOpt (a b : Option Nat) : Option Nat :=
  match a, b with
  | some x, some y => some (Nat.max x y)
  | none, y => y
  | x, none => x

/-- The effects of quantisation beside the integers: counts, STAT, saturation, c. -/
def noteQuant (tile slot coll : Nat) (l : List Quant) (ev : Ev) (s : State) : State :=
  let s := setSat slot coll tile (l.any (·.sat)) (statEv slot coll tile ev (countEv tile slot ev s))
  addPart slot coll tile (fun p => { p with c := maxOpt p.c (magExp l) }) s

/-- A W-form entry of an instance from integers at consecutive indices. -/
def wEnt (bind w idx chunk : Nat) (par : Bool) (fold : Nat) (xs : List Int) : Ent :=
  ⟨payPack (wFmt w) (xs.map (toW w)), 0, BitVec.ofNat 6 bind, BitVec.ofNat 20 chunk, BitVec.ofNat 40 idx, xs.length, BitVec.ofNat 4 (wFmt w), par,
    none, 0, fold, false, false⟩

/-- The tensor uses one summation only (R74). -/
def mixes (n : Inst) (fast : Bool) : Bool := if fast then n.exact else n.fast
def useSum (slot coll : Nat) (fast : Bool) (s : State) : State :=
  s.updInst slot coll (fun i => if fast then { i with fast := true } else { i with exact := true })

/-- Add integers into the window, with a contribution's or partial's fold. -/
def addToWindow (tile slot : Nat) (i : DWord) (b : BitVec 256) (e : Entry) (v : Ent) (vals : List (Nat × Int)) (s : State) : Res :=
  let segs := segsOf (vals.map (·.1))
  match enterWindow tile slot i b e segs s with
  | .done s => .done (profEvent 0x07 tile (some slot) vals.length (noteAdd tile slot i b e segs v.fold v.par (addElems tile (accAt s tile slot i b e) vals s)))
  | r => r

/-- The running instance of a binding's entry, with the entry. -/
def instOf (s : State) (slot : Nat) (b : BitVec 256) : Option Inst := s.inst? slot (bColl b)

/-! ### QNT (R55, R56) -/

/-- Quantise a contribution into the window. -/
def quantInto (tile slot : Nat) (i : DWord) (b : BitVec 256) (e : Entry) (n : Inst) (v : Ent) (s : State) : Res :=
  let (l, ev) := quantise n v.values
  if mixes n false then .skip 0x0814
  else match addToWindow tile slot i b e v (l.map (fun q => (q.idx, q.x))) s with
    | .done s => .done (noteQuant tile slot (bColl b) l ev (useSum slot (bColl b) false s))
    | r => r

def qntUnit (tile slot : Nat) (p : Plan) (c : CqEnt) (j : Nat) (s : State) : Res :=
  let i := c.insn
  let b := bindingOf s tile slot i
  let coll := bColl b
  let e := (s.job slot).entry coll
  if srcLen s tile slot (iSrc i) < p.popN then .wait
  else match srcFault s tile slot i coll p.popN, instOf s slot b with
    | some r, _ => r
    | none, none => .wait
    | none, some n =>
      let vs := srcEnts s tile slot i e p.popN
      if vs.any (fun v => v.fmt.toNat ≠ e.cfmt) then .skip 0x0810
      else if p.pushN = 0 then
        match quantInto tile slot i b e n (vs.headD (voidEnt 0)) s with
        | .done s => .done (popSrc tile slot (iSrc i) 1 s)
        | r => r
      else
        let (l, ev) := quantise n (vs.flatMap Ent.values)
        let d := 768 / n.w
        let xs := (l.drop (d * j)).take d
        let base := ((vs.head?).map (·.idx.toNat)).getD 0 + d * j
        let fold := if j + 1 = p.pushN then ((vs.getLast?).map (·.fold)).getD 0 else 0
        let out := wEnt (iBind i) n.w base (base / e.chunkElems) (((vs.head?).map (·.par)).getD false) fold (xs.map (·.x))
        match emit tile slot i p j [out] s with
        | .done s => .done (if j + 1 = p.pushN then noteQuant tile slot coll l ev s else s)
        | r => r

def execQnt (t : Time) (tile : LTile) (slot : Slot) (s : State) : Out :=
  let n := tile.val
  let j := slot.val
  .next (runHead n j 0 (· = 0x04) (fun s c => qntPlan s n j c) (fun _ => false)
    (fun c _ k s => qntUnit n j (qntPlan s n j c) c k s) (tick t s))

/-! ### ADDW (R57, R60, R84) -/

/-- Values -2^(w-1) in an entry: counted, and SAT of the tiles they reach (R29). -/
def noteWmin (tile slot : Nat) (at_ : Nat → Nat) (l : List (Nat × Int × Bool)) (s : State) : State :=
  (l.filter (·.2.2)).foldl (fun s q =>
    bump (jobCtr tile slot 0x30) 1 (s.updTile tile (fun x => x.updAcc (at_ (q.1 / 192)) (fun y => { y with tag := y.tag ||| 0x10000000 })))) s

def addwUnit (tile slot : Nat) (c : CqEnt) (s : State) : Res :=
  let i := c.insn
  let b := bindingOf s tile slot i
  let coll := bColl b
  let e := (s.job slot).entry coll
  if srcLen s tile slot (iSrc i) < 1 then .wait
  else match srcFault s tile slot i coll 1, instOf s slot b, (srcEnts s tile slot i e 1).head? with
    | some r, _, _ => r
    | none, some n, some v =>
      let popped (r : Res) : Res := match r with
        | .done s => .done (chargeAcc tile slot c (12 * v.valid) (12 * v.valid) (popSrc tile slot (iSrc i) 1 s))
        | r => r
      if e.op = 0xB then popped (addToWindow tile slot i b e { v with valid := 1, idx := 0 } [(0, 0)] s)
      else if fmtIsFloat v.fmt.toNat then
        (if v.fmt.toNat ≠ e.cfmt || !isIq (iSrc i) then .skip 0x0810 else popped (quantInto tile slot i b e n v s))
      else if v.fmt.toNat ≠ wFmt n.w then .skip 0x0810
      else if mixes n false then .skip 0x0814
      else match addToWindow tile slot i b e v (v.wvalues.map (fun q => (q.1, q.2.1))) s with
        | .done s => popped (.done (useSum slot coll false (noteWmin tile slot (accAt s tile slot i b e) v.wvalues s)))
        | r => r
    | none, _, _ => .wait

def execAddw (t : Time) (tile : LTile) (slot : Slot) (s : State) : Out :=
  .next (runHead tile.val slot.val 0 (· = 0x05) (fun _ c => onePlan c) (fun _ => false)
    (fun c _ _ s => addwUnit tile.val slot.val c s) (tick t s))

/-! ### MAXL and MINL (R69 to R72, R79) -/

/-- A candidate: FP32 value, rank, index within its row. -/
structure Cand where
  value : Nat
  rank : Nat
  index : Nat
  deriving DecidableEq, Repr

/-- The triple of Table XR-6. -/
def Cand.bits (c : Cand) : BitVec 96 := BitVec.ofNat 96 (c.value % 2 ^ 32 + c.rank % 2 ^ 18 * 2 ^ 32 + c.index % 2 ^ 24 * 2 ^ 64)
def Cand.of (w : BitVec 96) : Cand := ⟨bitsN w.toNat 0 32, bitsN w.toNat 32 18, bitsN w.toNat 64 24⟩

/-- The triple of a result without a winner (R71). -/
def noWinner : Cand := ⟨0x7FC00000, 0x3FFFF, 0xFFFFFF⟩

/-- Candidate a wins over b (R70); a NaN never wins (R71). -/
def Cand.beats (most : Bool) (a b : Cand) : Bool :=
  let x := fp32v a.value
  let y := fp32v b.value
  let win := if most then y.lt x else x.lt y
  let lose := if most then x.lt y else y.lt x
  if fisNan a.value then false
  else if fisNan b.value then true
  else win || (!lose && (a.rank < b.rank || (a.rank = b.rank && a.index < b.index)))

/-- Where the result of an element's position or row stands (R69): its segment, and the element in its tile. In row scope a row's result stands at the
row's first element in the element's chunk, so that a row that spans chunks leaves one result in each of them (log entry 54). -/
def resultPlace (e : Entry) (idx : Nat) : Nat × Nat :=
  if e.rowScope then
    let r := idx / e.rowlen
    let g := Nat.max (r * e.rowlen) (idx / e.chunkElems * e.chunkElems) / 192
    (g, r - e.firstRow g)
  else (idx / 192, idx % 192)

/-- Rank of the member on a tile's port, for candidates that come by a vector queue. -/
def portRank (s : State) (slot tile : Nat) (e : Entry) : Nat := ((memberAt s (s.job slot) e tile).map (·.2)).getD 0x3FFFF

/-- The candidates of an entry: segment, element, candidate; and the events of their decoding. An entry of triples names a segment and the first of
its results. A NaN is stored like any first candidate and counted where it is decoded (R71, R79). -/
def candidates (e : Entry) (rank : Nat) (v : Ent) : List (Nat × Nat × Cand) × Ev :=
  if v.trip then
    ((List.range v.valid).map (fun k => (v.idx.toNat / 192, v.idx.toNat % 192 + k, Cand.of (v.pay.extractLsb' (96 * k) 96))), Ev.zero)
  else
    let l := (List.range v.valid).map (fun k =>
      let (w, ev) := decFp32 v.fmt.toNat (payElem v.fmt.toNat v.pay k) (v.scaleOf k)
      let idx := v.idx.toNat + k
      let (g, n) := resultPlace e idx
      ((g, n, (⟨w, rank, idx % e.rowlen⟩ : Cand)), ev))
    (l.map (·.1), Ev.sum (l.map (·.2)))

/-- Select a candidate into its tile. -/
def putCand (most : Bool) (tile a n : Nat) (c : Cand) (s : State) : State :=
  putElem tile a n (fun o => (if c.beats most (Cand.of o) then c.bits else o, false)) c.bits s

def locUnit (most : Bool) (tile slot : Nat) (c : CqEnt) (s : State) : Res :=
  let i := c.insn
  let b := bindingOf s tile slot i
  let coll := bColl b
  let e := (s.job slot).entry coll
  if srcLen s tile slot (iSrc i) < 1 then .wait
  else match srcFault s tile slot i coll 1, (srcEnts s tile slot i e 1).head? with
    | some r, _ => r
    | none, some v =>
      let rank := if isIq (iSrc i) then (((srcCells s tile slot (iSrc i) 1).head?).map (·.rank)).getD 0 else portRank s slot tile e
      let (l, ev) := candidates e rank v
      if !v.trip && isIq (iSrc i) && v.fmt.toNat ≠ e.cfmt then .skip 0x0810
      else if fmtIsW v.fmt.toNat then .skip 0x0810
      else match enterWindow tile slot i b e (dedupNat (l.map (·.1))) s with
        | .done s =>
          let s := l.foldl (fun s q => putCand most tile (accAt s tile slot i b e q.1) q.2.1 q.2.2 s) s
          let s := noteAdd tile slot i b e (dedupNat (l.map (·.1))) v.fold v.par s
          let s := statEv slot coll tile ev (countEv tile slot ev s)
          .done (chargeAcc tile slot c (12 * l.length) (12 * l.length) (popSrc tile slot (iSrc i) 1 s))
        | r => r
    | none, none => .wait

def execMaxl (t : Time) (tile : LTile) (slot : Slot) (s : State) : Out :=
  .next (runHead tile.val slot.val 0 (· = 0x06) (fun _ c => onePlan c) (fun _ => false)
    (fun c _ _ s => locUnit true tile.val slot.val c s) (tick t s))

def execMinl (t : Time) (tile : LTile) (slot : Slot) (s : State) : Out :=
  .next (runHead tile.val slot.val 0 (· = 0x07) (fun _ c => onePlan c) (fun _ => false)
    (fun c _ _ s => locUnit false tile.val slot.val c s) (tick t s))

/-! ### FASTSUM (R73, R74) -/

/-- Events of an FP32 result: NaN, infinity. -/
def fp32Ev (w : Nat) : Ev :=
  match encFp32.raw w with
  | .nan => { Ev.zero with nan := 1 }
  | .inf _ => { Ev.zero with inf := 1 }
  | _ => Ev.zero

/-- Add one FP32 value to an element: the sum stands in bytes [3:0] of the element slot. What the addition counts: a NaN or an infinity that it gives,
and a result flushed (R34, R73). DESIGN CHOICE: every addition whose result is infinite or NaN counts it, also where the running sum was so before, and
the operand's own decoding counts besides; the first operand, which is stored, counts only so (log entry 52). -/
def fastPut (tile a k w : Nat) (s : State) : Ev × State :=
  let y := (s.tile tile).acc a
  let r := faddC (bitsN (Tbl.get 0 y.elems k).toNat 0 32) w
  (if y.written.getLsbD k then { fp32Ev r.v with flush := r.n } else Ev.zero,
    putElem tile a k (fun _ => (BitVec.ofNat 96 r.v, false)) (BitVec.ofNat 96 w) s)

def fastUnit (tile slot : Nat) (c : CqEnt) (s : State) : Res :=
  let i := c.insn
  let b := bindingOf s tile slot i
  let coll := bColl b
  let e := (s.job slot).entry coll
  if srcLen s tile slot (iSrc i) < 1 then .wait
  else match srcFault s tile slot i coll 1, instOf s slot b, (srcEnts s tile slot i e 1).head? with
    | some r, _, _ => r
    | none, some n, some v =>
      if v.fmt.toNat ≠ 0 && v.fmt.toNat ≠ e.cfmt then .skip 0x0810
      else if mixes n true then .skip 0x0814
      else
        let l := (List.range v.valid).map (fun k => (v.idx.toNat + k, decFp32 v.fmt.toNat (payElem v.fmt.toNat v.pay k) (v.scaleOf k)))
        let segs := segsOf (l.map (·.1))
        match enterWindow tile slot i b e segs s with
        | .done s =>
          let s := useSum slot coll true s
          let (ev, s) := l.foldl (fun (q : Ev × State) x =>
            let (ev, s) := fastPut tile (accAt q.2 tile slot i b e (x.1 / 192)) (x.1 % 192) x.2.1 q.2
            ((q.1.add x.2.2).add ev, s)) (Ev.zero, s)
          let s := noteAdd tile slot i b e segs v.fold v.par s
          let s := statEv slot coll tile ev (countEv tile slot ev s)
          .done (chargeAcc tile slot c (12 * v.valid) (12 * v.valid) (popSrc tile slot (iSrc i) 1 s))
        | r => r
    | none, _, _ => .wait

def execFastsum (t : Time) (tile : LTile) (slot : Slot) (s : State) : Out :=
  .next (runHead tile.val slot.val 0 (· = 0x08) (fun _ c => onePlan c) (fun _ => false)
    (fun c _ _ s => fastUnit tile.val slot.val c s) (tick t s))

end Sys2Proof.Machine
end

