-- ==== Sys2Proof/Machine/Vector.lean ====
section
/-! DEFINITION. The vector engine: drains, conversions, fusion, row statistics, STAT and digests (02 R36 to R50; 04 R91 to R100; 08 R209,
R211). -/

namespace Sys2Proof.Machine

/-! ### Drains (R58, R59, R91 to R93) -/

/-- Element k of an accumulator tile as a signed integer; an element not reached is zero (R81). -/
def Acc.int (y : Acc) (k : Nat) : Int := if y.written.getLsbD k then (Tbl.get 0 y.elems k).toInt else 0

/-- Elements of the tensor that a tile's segment belongs to. -/
def segTotal (e : Entry) (y : Acc) : Nat := if y.hat then e.elems else e.sumElems

/-- Valid elements of a tile's segment. -/
def segValid (e : Entry) (y : Acc) : Nat := min 192 (segTotal e y - 192 * y.seg)

/-- The rerun of a clip round is in force: round 1 (R165). -/
def roundNow (x : Job) (e : Entry) : Bool := e.op = opRum && x.gate = .rerun

/-- The triple that a selecting tile gives for an element: where no candidate has won, that of R71. -/
def Acc.cand (y : Acc) (k : Nat) : Cand :=
  let c := Cand.of (Tbl.get 0 y.elems k)
  if y.written.getLsbD k && !fisNan c.value then c else noWinner

/-- The parity that an entry drained from a tile carries: that of its pass where it leaves as a partial, the round where it leaves as a result
(R111, R165). -/
def drainPar (x : Job) (e : Entry) (b : BitVec 256) (y : Acc) : Bool := if bRole b = roleHome then roundNow x e else y.par

/-- Entry j of the drain of a selecting tile: eight of its segment's results, fewer in the last (R72). -/
def tripleEnt (e : Entry) (bind : Nat) (y : Acc) (j : Nat) (par : Bool) : Ent :=
  let n := min 8 (e.results y.seg - 8 * j)
  let idx := 192 * y.seg + 8 * j
  ⟨BitVec.ofNat 768 (((List.range n).map (fun k => (y.cand (8 * j + k)).bits.toNat * 2 ^ (96 * k))).sum), 0, BitVec.ofNat 6 bind,
    BitVec.ofNat 20 (idx / e.chunkElems), BitVec.ofNat 40 idx, n, 0, par, none, 0, y.folds, true, false⟩

/-- The FP32 words of a drained tile, with their events: fused with an operand, or FASTSUM's own sums. -/
def drainWords (e : Entry) (n : Inst) (fuse : Fuse) (operand : Nat → Val × Ev) (y : Acc) : List (Nat × Ev) :=
  (List.range (segValid e y)).map (fun k =>
    if n.fast && !y.hat then (bitsN (if y.written.getLsbD k then (Tbl.get 0 y.elems k).toNat else 0) 0 32, Ev.zero)
    else
      let b := operand k
      let r := drainFp32 (y.int k) n.wlsb fuse b.1
      (r.1, r.2.add b.2))

/-- An FP32 entry of a drained tile: elements 24 j to 24 j + 23. -/
def fp32Ent (e : Entry) (bind : Nat) (y : Acc) (j : Nat) (ws : List Nat) (par : Bool) : Ent :=
  let xs := (ws.drop (24 * j)).take 24
  let idx := 192 * y.seg + 24 * j
  ⟨payPack 0 xs, 0, BitVec.ofNat 6 bind, BitVec.ofNat 20 (idx / (if y.hat then e.elems + 1 else e.chunkElems)), BitVec.ofNat 40 idx, xs.length, 0, par,
    none, 0, y.folds, false, false⟩

/-- The integers of a drained tile narrowed to a W-form (R58). -/
def drainW (e : Entry) (w : Nat) (y : Acc) : List (Int × Bool) := (List.range (segValid e y)).map (fun k => satW w (y.int k))

/-- The complete sums as w-bit values (R59, R97). -/
def homeSums (e : Entry) (n : Inst) (y : Acc) : List (Int × Bool) := drainW e n.w y

/-- Statistics of a drained segment by row: row, sum of squares, largest magnitude (R97). -/
def rowStats (e : Entry) (n : Inst) (y : Acc) : List RowStat :=
  let len := if e.rank = 0 then e.rowlen else e.rank
  let l := (homeSums e n y).zipIdx.map (fun q => ((192 * y.seg + q.2) / len, q.1.1.natAbs))
  (dedupNat (l.map (·.1))).map (fun r =>
    let m := (l.filter (fun q => q.1 = r)).map (·.2)
    ⟨r, (m.map (fun a => a * a)).sum, m.foldl Nat.max 0⟩)

/-- Join row statistics into a binding's records (R99). -/
def joinRows (bind : Nat) (l : List RowStat) (rows : List (Nat × RowStat)) : List (Nat × RowStat) :=
  l.foldl (fun rows r =>
    if rows.any (fun q => q.1 = bind && q.2.row = r.row) then
      rows.map (fun q => if q.1 = bind && q.2.row = r.row then (bind, ⟨r.row, q.2.ssq + r.ssq, Nat.max q.2.maxmag r.maxmag⟩) else q)
    else rows ++ [(bind, r)]) rows

/-- A chunk is drained when every segment of it is. -/
def segmentOut (slot coll seg : Nat) (s : State) : State :=
  let e := (s.job slot).entry coll
  let per := 2 ^ e.cshift
  let num := seg / per
  let segs := if isSelecting e.op then ((List.range per).filter (fun t => e.results (per * num + t) ≠ 0)).length else min per (e.nsegs - per * num)
  updChunk slot coll num (fun c => { c with out := c.out + 1, drained := decide (c.out + 1 ≥ segs) && decide (c.passes ≥ e.passes) }) s

/-- A drain of a summed tile at its home ends: the check of R59, statistics, the chunk's progress. -/
def homeDrained (tile slot : Nat) (i : DWord) (b : BitVec 256) (e : Entry) (n : Inst) (y : Acc) (s : State) : State :=
  let coll := bColl b
  let exact := isSumming e.op && !n.fast
  let s := if exact then setSat slot coll tile ((homeSums e n y).any (·.2)) s else s
  let s := if exact && (e.op = opRum || e.rowstat) then
      let l := rowStats e n y
      let s := s.updTile tile (fun x => x.updJob slot (fun t => { t with rows := joinRows (iBind i) l t.rows }))
      addPart slot coll tile (fun p => { p with
        ssq := p.ssq + (l.map (·.ssq)).sum, maxmag := l.foldl (fun a r => Nat.max a r.maxmag) p.maxmag, home := true }) s
    else s
  segmentOut slot coll y.seg s

/-- The end of a tile's drain: its events and saturation, then FREE (R81, R84). -/
def endDrain (tile slot : Nat) (c : CqEnt) (b : BitVec 256) (a : Nat) (ev : Ev) (sat : Bool) (s : State) : State :=
  let coll := bColl b
  let e := (s.job slot).entry coll
  let y := (s.tile tile).acc a
  let s := setSat slot coll tile sat (statEv slot coll tile ev (countEv tile slot ev s))
  let s := match s.inst? slot coll with
    | some n => if bRole b = roleHome && !y.hat then homeDrained tile slot c.insn b e n y s else s
    | none => s
  chargeAcc tile slot c 2304 0 (freeAcc tile slot coll a s)

/-- One entry of a drain by CVT (R209). -/
def cvtDrain (tile slot : Nat) (p : Plan) (c : CqEnt) (g j : Nat) (s : State) : Res :=
  let i := c.insn
  let b := bindingOf s tile slot i
  let coll := bColl b
  let x := s.job slot
  let e := x.entry coll
  let a := iAcc i + g
  let d := iMod i 9 4
  match directFault s tile slot coll a, instOf s slot b with
  | some code, _ => .skip code
  | none, none => .wait
  | none, some n =>
    if !inGrant ((s.tile tile).job slot) (iAcc i) (iCnt i) then .skip 0x080B
    else
      let y := (s.tile tile).acc a
      let end_ (ev : Ev) (sat : Bool) (r : Res) : Res := match r with
        | .done s => .done (if j + 1 = p.pushN then endDrain tile slot c b a ev sat s else s)
        | r => r
      if isSelecting e.op then
        (if d ≠ 0 then .skip 0x0810 else end_ Ev.zero false (emit tile slot i p j [tripleEnt e (iBind i) y j (drainPar x e b y)] s))
      else if d = 0 then
        let ws := drainWords e n .none (fun _ => (Val.zero, Ev.zero)) y
        end_ (Ev.sum (ws.map (·.2))) false (emit tile slot i p j [fp32Ent e (iBind i) y j (ws.map (·.1)) (drainPar x e b y)] s)
      else
        let w := wBits d
        let xs := drainW e w y
        let k := 768 / w
        let idx := 192 * y.seg + k * j
        let top := xs.zipIdx.foldl (fun a q => Nat.max a (y.int q.2).natAbs) 0
        let s := if e.rank ≠ 0 && bRole b = roleIngress && top ≠ 0 then
            addPart slot coll tile (fun q => { q with c := maxOpt q.c (some (clog2 top)) }) s
          else s
        end_ Ev.zero (xs.any (·.2)) (emit tile slot i p j
          [{ wEnt (iBind i) w idx (idx / e.chunkElems) y.par y.folds (((xs.map (·.1)).drop (k * j)).take k) with fmt := BitVec.ofNat 4 d }] s)

/-! ### Conversions between queues (R36, R39 to R46) -/

/-- Random bits of an element for SR (R43, R44). -/
def srFor (x : Job) (e : Entry) (n : Inst) (idx : Nat) : Nat := srBits x.seed n.step e.tensor idx

/-- The parameter CVT of a step-list home (R47, R209). -/
def isParam (e : Entry) (b : BitVec 256) (i : DWord) : Bool :=
  e.op = opRum && bRole b = roleHome && iMod i 13 4 = 0 && iMod i 9 4 = e.rfmt

/-- An FP32 word decoded for a conversion, with its flush event. -/
def words (vs : List Ent) : List Nat := vs.flatMap (fun v => (List.range (fmtElems v.fmt.toNat)).map (fun k => payElem v.fmt.toNat v.pay k))

/-- Encode n valid FP32 words, from an index on, into one entry of a format; padding is 0 (R33). -/
def encEnt (x : Job) (e : Entry) (n : Inst) (f : Nat) (sr : Bool) (v : Ent) (idx : Nat) (ws : List Nat) : Ent × Ev :=
  let vals := ws.map fp32
  let rs : List Rnd := (List.range ws.length).map (fun k => if sr then some (srFor x e n (idx + k)) else none)
  let (sc, pay, ev) := encCell f (vals.map (·.1)) rs
  ({ v with pay := pay, scale := sc, fmt := BitVec.ofNat 4 f, idx := BitVec.ofNat 40 idx, valid := ws.length }, (Ev.sum (vals.map (·.2))).add ev)

/-- The exact value of an encoded element without flushing (R48). -/
def Ent.exact (v : Ent) (k : Nat) : Val :=
  let f := v.fmt.toNat
  if f = 0xA then (decElem f (payElem f v.pay k) (v.scaleOf k)).1
  else ((fmtEnc f).raw (payElem f v.pay k)).scale ((v.scaleOf k : Int) - 127)

/-- The escalation test of R48 on one block. -/
def blockEscalates (tau : Nat) (v : Ent) (ws : List Nat) (blk : Nat) : Bool :=
  let size := fmtBlock v.fmt.toNat
  let xs := (ws.map fp32v).zipIdx.filter (fun q => q.2 / size = blk)
  let top := maxAbs (xs.map (·.1))
  let err := maxAbs (xs.map (fun q => q.1.sub (v.exact q.2)))
  v.scaleOf (blk * size) ≠ 0xFF && !top.isZero && (top.mul (.fin false tau 0)).lt (err.mul (.fin false 256 0))

def escalates (e : Entry) (v : Ent) (ws : List Nat) : Bool :=
  e.tau ≠ 0 && 7 ≤ v.fmt.toNat && v.fmt.toNat ≤ 0xA &&
  (List.range ((v.valid + fmtBlock v.fmt.toNat - 1) / fmtBlock v.fmt.toNat)).any (blockEscalates e.tau v ws)

/-- MXFP8 cells that replace an escalated cell (R49). -/
def escParts (f : Nat) : Nat := if f = 0xA then 4 else 2

def escEnts (x : Job) (e : Entry) (n : Inst) (sr : Bool) (v : Ent) (ws : List Nat) : List Ent :=
  let m := escParts v.fmt.toNat
  (List.range m).map (fun p =>
    let q := (encEnt x e n 5 sr v (v.idx.toNat + 96 * p) ((ws.drop (96 * p)).take 96)).1
    { q with idx := v.idx, esc := some (Fin.ofNat 4 p), part := m })

/-- A narrow parameter entry escalates, is denied, or goes as it is (R50). DESIGN CHOICE: a chunk has one allowance for both rounds of a clip round (log
entry 71). -/
def escalate (tile slot : Nat) (i : DWord) (e : Entry) (n : Inst) (sr : Bool) (v : Ent) (ws : List Nat) (s : State) : List Ent × State :=
  let x := s.job slot
  let key := 2 ^ 20 * iBind i + v.chunk.toNat
  let used := Tbl.get 0 ((s.tile tile).job slot).escUsed key
  let coll := bColl (bindingOf s tile slot i)
  let extra := escParts v.fmt.toNat - 1
  if !escalates e v ws then ([v], s)
  else if used + extra ≤ e.escal then
    (escEnts x e n sr v ws,
      bump (jobCtr tile slot 0x38) 1 ((s.updTile tile (fun y => y.updJob slot (fun t => { t with escUsed := Tbl.set 0 t.escUsed key (used + extra) }))).updJob
        slot (fun x => x.updEntry coll (fun e => { e with escn := satInc e.escn }))))
  else ([v], bump (jobCtr tile slot 0x40) 1 (s.updJob slot (fun x => x.updEntry coll (fun e => { e with escdeny := satInc e.escdeny }))))

/-- Some valid element of the entries is a received W-form -2^(w-1): a saturated value (R29). -/
def anyWmin (vs : List Ent) : Bool := vs.any (fun v => fmtIsW v.fmt.toNat && v.wvalues.any (·.2.2))

/-- A conversion to FP32, element by element (Table NF-5). -/
def toFp32s (n : Inst) (v : Ent) : List (Nat × Ev) :=
  (List.range v.valid).map (fun k =>
    let f := v.fmt.toNat
    let code := payElem f v.pay k
    if fmtIsW f then encFp32.enc true none (Val.ofInt (decW (wBits f) code).1 n.wlsb false)
    else decFp32 f code (v.scaleOf k))

/-- Output j of a group: the entries it gives, and the state with what they count. -/
def convert (tile slot : Nat) (i : DWord) (e : Entry) (b : BitVec 256) (n : Inst) (vs : List Ent) (j : Nat) (s : State) : List Ent × State :=
  let d := iMod i 9 4
  let v := vs.headD (voidEnt 0)
  let size := fmtElems d
  let idx := v.idx.toNat + size * j
  let total := (vs.map (·.valid)).sum
  let k := min size (total - size * j)
  let v := { v with chunk := BitVec.ofNat 20 (idx / (if e.rank ≠ 0 && isParam e b i then e.elems + 1 else e.chunkElems)),
                    fold := ((vs.getLast?).map (·.fold)).getD 0 }
  if d = 0 then
    let l := ((vs.flatMap (toFp32s n)).drop (size * j)).take k
    let ev := Ev.sum (l.map (·.2))
    ([{ v with pay := payPack 0 (l.map (·.1)), scale := 0, fmt := 0, idx := BitVec.ofNat 40 idx, valid := k }],
      setSat slot (bColl b) tile (anyWmin vs) (statEv slot (bColl b) tile ev (countEv tile slot ev s)))
  else if fmtIsW d then
    let l := (((vs.flatMap (fun v => v.wvalues)).drop (size * j)).take k).map (fun q => satW (wBits d) q.2.1)
    ([{ v with pay := payPack d (l.map (fun q => toW (wBits d) q.1)), scale := 0, fmt := BitVec.ofNat 4 d, idx := BitVec.ofNat 40 idx, valid := k }],
      setSat slot (bColl b) tile (l.any (·.2) || anyWmin vs) s)
  else
    let ws := ((words vs).drop (size * j)).take k
    let (o, ev) := encEnt (s.job slot) e n d (iMod i 8 1 = 1) v idx ws
    let s := countEv tile slot ev s
    if isParam e b i then escalate tile slot i e n (iMod i 8 1 = 1) o ws s else ([o], s)

def cvtUnit (tile slot : Nat) (p : Plan) (c : CqEnt) (g j : Nat) (s : State) : Res :=
  let i := c.insn
  let b := bindingOf s tile slot i
  let e := (s.job slot).entry (bColl b)
  if isAp3 (iSrc i) then cvtDrain tile slot p c g j s
  else if srcLen s tile slot (iSrc i) < p.popN then .wait
  else match srcFault s tile slot i (bColl b) p.popN, instOf s slot b with
    | some r, _ => r
    | none, none => .wait
    | none, some n =>
      let vs := srcEnts s tile slot i e p.popN
      if vs.any (fun v => v.fmt.toNat ≠ iMod i 13 4) then .skip 0x0810
      else if isParam e b i && (iMod i 8 1 = 1) ≠ e.sr then .skip 0x0815
      else
        let (outs, s') := convert tile slot i e b n vs j s
        match emit tile slot i p j outs s' with
        | .done s => .done (profEvent 0x06 tile (some slot) ((outs.map (·.valid)).sum) s)
        | r => r

/-! ### RAW writes into an ORTHO working set (R209; log entry 32) -/

/-- Tiles of a working set hold no segment of an instance: an operation aimed at one that does is none of Table AC-2 (R81). -/
def freeTiles (x : TileS) (a n : Nat) : Bool := (List.range n).all (fun k => tagState (x.acc (a + k)).tag = accFree)

/-- Write 96 payload bytes at a byte offset of a run of accumulator tiles: eight 12-byte elements. -/
def rawWrite (tile a off : Nat) (p : Payload) (s : State) : State :=
  (List.range 8).foldl (fun s m =>
    let k := off / 12 + m
    s.updTile tile (fun x => x.updAcc (a + k / 192) (fun y => { y with elems := Tbl.set 0 y.elems (k % 192) (p.extractLsb' (96 * m) 96) }))) s

def rawUnit (tile slot : Nat) (c : CqEnt) (g : Nat) (s : State) : Res :=
  let i := c.insn
  let b := bindingOf s tile slot i
  let e := (s.job slot).entry (bColl b)
  if srcLen s tile slot (iSrc i) < 1 then .wait
  else match srcFault s tile slot i (bColl b) 1, (srcEnts s tile slot i e 1).head? with
    | some r, _ => r
    | none, some v =>
      if v.fmt.toNat ≠ iMod i 13 4 then .skip 0x0810
      else if !inGrant ((s.tile tile).job slot) (iAcc i) ((iCnt i + 23) / 24) then .skip 0x080B
      else if !freeTiles (s.tile tile) (iAcc i + g / 24) 1 then .skip 0x080C
      else .done (chargeAcc tile slot c 0 96 (popSrc tile slot (iSrc i) 1 (rawWrite tile (iAcc i) (96 * g) v.pay s)))
    | none, none => .wait

def execCvt (t : Time) (tile : LTile) (slot : Slot) (s : State) : Out :=
  let n := tile.val
  let j := slot.val
  .next (runHead n j 1 (· = 0x03) (fun s c => cvtPlan s n j c) (fun _ => false)
    (fun c g k s => if isAp3 (iDst c.insn) then rawUnit n j c g s else cvtUnit n j (cvtPlan s n j c) c g k s) (tick t s))

/-! ### ELEM (R91, R94, R96) -/

/-- Operand of element k of the tile at window position p: the scalar, or the word in FP32 or BF16 that the operand tiles from `acc` on hold for that
position (R94, R209). -/
def operandOf (x : TileS) (e : Entry) (acc p k : Nat) : Val × Ev :=
  if e.fuse = 0 then (Val.zero, Ev.zero)
  else if e.fuse ≤ 2 then fp32 e.scalar
  else if e.fuse ≤ 4 then fp32 (accN x acc (4 * (192 * p + k)) 4)
  else encBf16.dec (accN x acc (2 * (192 * p + k)) 2)

/-- The base of the window in which an ELEM's tiles have their positions: that of the binding's window instructions, else its own ACC. -/
def elemBase (x : TileS) (slot : Nat) (i : DWord) : Nat := (windowBase x slot (iBind i)).getD (iAcc i)

def fuseOp (e : Entry) : Fuse := if e.fuse = 0 then .none else if e.fuse % 2 = 1 then .add else .mul

/-- The operand tiles of an ELEM's tiles lie in the grant, and the tiles in its window (R77). -/
def operandOk (s : State) (tile slot : Nat) (i : DWord) (e : Entry) : Bool :=
  let x := s.tile tile
  let base := elemBase x slot i
  let per := if e.fuse ≤ 4 then 3 else 6
  let p := iAcc i - base
  e.fuse ≤ 2 || (base ≤ iAcc i && inGrant (x.job slot) (iMod i 0 11 + p / per) ((p + iCnt i - 1) / per - p / per + 1))

/-- A STATE_WRITE of the operand that the device had begun when the instance fired is still in progress (R96). -/
def operandWaits (s : State) (n : Inst) : Bool := n.opWrites.any (fun w => s.host.exec.any (fun q => (q.ring, q.index) = w && descOp q.desc = 0x07))

def elemUnit (tile slot : Nat) (p : Plan) (c : CqEnt) (g j : Nat) (s : State) : Res :=
  let i := c.insn
  let b := bindingOf s tile slot i
  let coll := bColl b
  let x := s.job slot
  let e := x.entry coll
  let a := iAcc i + g
  match directFault s tile slot coll a, instOf s slot b with
  | some code, _ => .skip code
  | none, none => .wait
  | none, some n =>
    if e.fuse = 0 || isSelecting e.op then .skip 0x0815
    else if !inGrant ((s.tile tile).job slot) (iAcc i) (iCnt i) || !operandOk s tile slot i e then .skip 0x080B
    else if 3 ≤ e.fuse && operandWaits s n then .wait
    else
      let y := (s.tile tile).acc a
      let ws := drainWords e n (fuseOp e) (operandOf (s.tile tile) e (iMod i 0 11) (a - elemBase (s.tile tile) slot i)) y
      match emit tile slot i p j [fp32Ent e (iBind i) y j (ws.map (·.1)) (drainPar x e b y)] s with
      | .done s => .done (if j + 1 = p.pushN then endDrain tile slot c b a (Ev.sum (ws.map (·.2))) false s else s)
      | r => r

def execElem (t : Time) (tile : LTile) (slot : Slot) (s : State) : Out :=
  .next (runHead tile.val slot.val 1 (· = 0x0B) (fun _ c => elemPlan c) (fun _ => false)
    (fun c g k s => elemUnit tile.val slot.val (elemPlan c) c g k s) (tick t s))

end Sys2Proof.Machine
end

