-- ==== Sys2Proof/Machine/Matrix.lean ====
section
/-! DEFINITION. The matrix arrays: run sums, projection, reconstruction, and the products of ORTHO (07; 08 R209). -/

namespace Sys2Proof.Machine

/-! ### Run sums (R179 to R182) -/

/-- fit(v): 23 significant bits under RNE, infinity above exponent 255, +0 below 2^-254 (R180). -/
def fit : Val → Val
  | .fin n m e =>
    if m = 0 then Val.zero
    else
      let l : Int := e + m.log2
      let v := Val.fin n (rneNat m (e - (l - 22))) (l - 22)
      if v.ilog > 255 then .inf n else if v.ilog < -254 then Val.zero else v
  | v => v

/-- One product enters a run (R181). -/
def runAdd (r p : Val) : Val :=
  match r, p with
  | .nan, _ => .nan
  | _, .nan => .nan
  | .inf a, .inf b => if a = b then .inf a else .nan
  | .inf a, _ => .inf a
  | _, .inf b => .inf b
  | .fin _ m _, .fin _ m' _ =>
    if m' = 0 then r
    else if m = 0 then fit p
    else
      let a := if r.ilog ≥ p.ilog then r else p
      let b := if r.ilog ≥ p.ilog then p else r
      let g := a.ilog - 25
      let low : Int := match b with
        | .fin n m e =>
          let k : Nat := if e ≥ g then m * 2 ^ (e - g).toNat else m / 2 ^ (g - e).toNat
          if n then -(k : Int) else k
        | _ => 0
      fit (.ofInt (a.intAt g + low) g false)

/-- The 1-9-22 word of a run sum (R180). -/
def runPack : Val → Word
  | .nan => 0x7FE00000
  | .inf n => if n then 0xFFC00000 else 0x7FC00000
  | .fin n m e =>
    if m = 0 then 0
    else
      let l := e + m.log2
      BitVec.ofNat 32 ((if n then 2 ^ 31 else 0) + (l + 255).toNat * 2 ^ 22 + m * 2 ^ (22 - m.log2) / 2 ^ (m.log2 - 22) % 2 ^ 22)

/-- The value of a 1-9-22 word. -/
def runVal (w : Word) : Val :=
  let n := w.getLsbD 31
  let e := bitsN w.toNat 22 9
  let f := bitsN w.toNat 0 22
  if e = 0 then Val.zero else if e = 511 then (if f = 0 then .inf n else .nan) else .fin n (2 ^ 22 + f) ((e : Int) - 255 - 22)

/-- The run sums of a product's inner dimension, 32 products to a run (R179). -/
def runSums : Nat → List Val → List Val
  | 0, _ => []
  | _, [] => []
  | k + 1, ps => (ps.take 32).foldl runAdd Val.zero :: runSums k (ps.drop 32)

/-- The FP32 path: runs converted and added in ascending order (R182). -/
def fp32Path (rs : List Val) : Nat :=
  match rs.map (fun r => (encFp32.enc true none r).1) with
  | [] => 0
  | w :: ws => ws.foldl fadd w

/-- An output element of a product of two vectors. -/
def dotFp32 (xs ys : List Val) : Nat := fp32Path (runSums (xs.length + 1) ((xs.zip ys).map (fun q => q.1.mul q.2)))

/-! ### Promotion (R85) -/

/-- A run promoted at weight 2^wlsb: integer, saturation, events. -/
def promoted (r : Val) (wlsb : Int) : Int × Bool × Ev := qnt r (wlsb + 94) 96 0

/-- Promote a run into element k of an accumulator tile. -/
def promote (tile a k : Nat) (r : Val) (wlsb : Int) (s : State) : Ev × State :=
  let (x, sat, ev) := promoted r wlsb
  let s := putElem tile a k (fun o => addW96 o.toInt x) (BitVec.ofInt 96 x) s
  (ev, if sat then s.updTile tile (fun y => y.updAcc a (fun z => { z with tag := z.tag ||| 0x10000000 })) else s)

/-! ### The matrix set-up (R172) -/

/-- The matrix queues of every other program whose set-up is the one in force are empty. -/
def inForceIdle (s : State) (tile slot : Nat) : Bool :=
  (List.range 64).all (fun j => j = slot || ((s.tile tile).job j).mset ≠ (s.tile tile).mset ||
    ([2, 3, 4, 5] : List Nat).all (fun q => (Tbl.get [] ((s.tile tile).job j).cqs q).isEmpty))

/-- The program's set-up is in force, or comes into force now. -/
def setUp (tile slot : Nat) (s : State) : Option State :=
  let t := (s.tile tile).job slot
  if (s.tile tile).mset = t.mset then some s
  else if inForceIdle s tile slot then some (s.updTile tile (fun x => { x with mset := t.mset }))
  else none

/-- A matrix command runs once its set-up is in force. -/
def matrixRun (t : Time) (tile slot : Nat) (f : State → State) (s : State) : Out :=
  let s := tick t s
  .next (match setUp tile slot s with
    | some s => f s
    | none => s)

/-! ### Projection (R186 to R188) -/

/-- q(j, c). -/
def qEntry (x : Job) (e : Entry) (n : Inst) (shift j c : Nat) : Val :=
  .fin (bitN (srBits x.seed n.step e.tensor (2 ^ 39 + 16 * j + c)) 0) 1 (-(shift : Int))

/-- Open run sums of a row's columns, as a cell found them. -/
def openRuns (t : TJob) (bind r : Nat) : List Val :=
  let l := Tbl.get [] t.runs bind
  (List.range r).map (fun c => (l[c]?.map runVal).getD Val.zero)

/-- One element of G at column j enters its row's runs. -/
def projElem (q : Nat → Nat → Val) (j : Nat) (g : Val) (rs : List Val) : List Val :=
  (if j % 32 = 0 then rs.map (fun _ => Val.zero) else rs).zipIdx.map (fun p => runAdd p.1 (g.mul (q j p.2)))

/-- The runs that the elements of a cell end, with the first element of P of each, and the runs they leave open. -/
def projRuns (q : Nat → Nat → Val) (len : Nat) (vals : List (Nat × Val)) (rs : List Val) : List (Nat × List Val) × List Val :=
  vals.foldl (fun (a : List (Nat × List Val) × List Val) v =>
    let j := v.1 % len
    let l := projElem q j v.2 a.2
    if j % 32 = 31 || j + 1 = len then (a.1 ++ [(v.1 / len * l.length, l)], l) else (a.1, l)) ([], rs)

/-- Promote ended runs into the window of P. -/
def projPromote (tile slot : Nat) (i : DWord) (b : BitVec 256) (e : Entry) (wlsb : Int) (ended : List (Nat × List Val)) (s : State) : Ev × State :=
  ended.foldl (fun (a : Ev × State) p =>
    p.2.zipIdx.foldl (fun a r =>
      let k := p.1 + r.2
      let (ev, s) := promote tile (accAt a.2 tile slot i b e (k / 192)) (k % 192) r.1 wlsb a.2
      (a.1.add ev, s)) a) (Ev.zero, s)

def projUnit (tile slot : Nat) (c : CqEnt) (s : State) : Res :=
  let i := c.insn
  let b := bindingOf s tile slot i
  let coll := bColl b
  let x := s.job slot
  let e := x.entry coll
  if srcLen s tile slot (iSrc i) < 1 then .wait
  else match srcFault s tile slot i coll 1, instOf s slot b, (srcEnts s tile slot i e 1).head? with
    | some r, _, _ => r
    | none, some n, some v =>
      if v.fmt.toNat ≠ e.cfmt then .skip 0x0810
      else if e.rowlen % 32 ≠ 0 then .skip 0x080E
      else if mixes n false then .skip 0x0814
      else
        let r := projRank i
        let vals := v.values
        let (ended, rest) := projRuns (qEntry x e n (qshift i)) e.rowlen (vals.map (fun q => (q.1, q.2.1))) (openRuns ((s.tile tile).job slot) (iBind i) r)
        let segs := segsOf (ended.flatMap (fun p => [p.1, p.1 + r - 1]))
        match enterWindow tile slot i b e segs s with
        | .done s =>
          let (ev, s) := projPromote tile slot i b e (n.wlsb + n.s) ended s
          let ev := (Ev.sum (vals.map (·.2.2))).add ev
          let s := segs.foldl (fun s g => s.updTile tile (fun y => y.updAcc (accAt s tile slot i b e g) (fun z => { z with folds := 1, par := v.par }))) s
          let s := useSum slot coll false s
          let s := s.updTile tile (fun y => y.updJob slot (fun t => { t with runs := Tbl.set [] t.runs (iBind i) (rest.map runPack) }))
          let s := profEvent 0x07 tile (some slot) (ended.length * r) s
          .done (chargeAcc tile slot c 0 (12 * ended.length * r) (popSrc tile slot (iSrc i) 1 (statEv slot coll tile ev (countEv tile slot ev s))))
        | r => r
    | none, _, _ => .wait

def execProj (t : Time) (tile : LTile) (slot : Slot) (arr : Fin 4) (s : State) : Out :=
  matrixRun t tile.val slot.val (runHead tile.val slot.val (2 + arr.val) (· = 0x09) (fun _ c => onePlan c) (fun _ => false)
    (fun c _ _ s => projUnit tile.val slot.val c s)) s

/-! ### Reconstruction (R190) -/

/-- BF16 value of element k of P among entries. -/
def pAt (vs : List Ent) (k : Nat) : Val × Ev :=
  match vs.find? (fun v => v.idx.toNat ≤ k && k < v.idx.toNat + v.valid) with
  | some v => encBf16.dec (payElem 1 v.pay (k - v.idx.toNat))
  | none => (Val.zero, Ev.zero)

/-- Ĝ[i, j]: one run of r products in ascending c. -/
def gHat (q : Nat → Nat → Val) (vs : List Ent) (r len k : Nat) : Val :=
  ((List.range r).map (fun c => (pAt vs (k / len * r + c)).1.mul (q (k % len) c))).foldl runAdd Val.zero

def reconUnit (tile slot : Nat) (c : CqEnt) (g : Nat) (s : State) : Res :=
  let i := c.insn
  let b := bindingOf s tile slot i
  let coll := bColl b
  let x := s.job slot
  let e := x.entry coll
  let r := projRank i
  let a := iAcc i + g
  let all := entsOf s tile slot (iSrc i)
  match all.head?, instOf s slot b with
  | none, _ => .wait
  | _, none => .wait
  | some h, some n =>
    if !h.void && h.bind.toNat ≠ iBind i then .skip 0x0816
    else if !h.void && h.fmt ≠ 1 then .skip 0x0810
    else if !inGrant ((s.tile tile).job slot) (iAcc i) (iCnt i) then .skip 0x080B
    else
      let vs := all.takeWhile (fun v => v.void || (v.bind.toNat = iBind i && v.fmt = 1))
      match nextTile s tile slot i e vs with
      | none => .wait
      | some t =>
        if (vs.take t.reads).any (·.void) then .void
        else match meetAcc s tile slot coll a (t.first / 192) with
        | .bad code => .skip code
        | .wait => .wait
        | .ready =>
          if accFull s tile slot [a] then .skip 0x0510
          else
            let s := openAcc tile slot coll a (t.first / 192) true s
            let (ev, s) := (List.range t.count).foldl (fun (q : Ev × State) k =>
              let (ev, s) := promote tile a k (gHat (qEntry x e n (qshift i)) vs r e.rowlen (t.first + k)) n.wlsb q.2
              (q.1.add ev, s)) (Ev.zero, s)
            let ev := ev.add (Ev.sum ((vs.take t.used).flatMap (fun v => v.values.map (·.2.2))))
            let s := s.updTile tile (fun y => y.updJob slot (fun z => { z with ghat := Tbl.set 0 z.ghat (iBind i) (t.first + t.count) }))
            let s := profEvent 0x07 tile (some slot) t.count s
            .done (chargeAcc tile slot c 0 (12 * t.count) (popSrc tile slot (iSrc i) t.used (statEv slot coll tile ev (countEv tile slot ev s))))

def execRecon (t : Time) (tile : LTile) (slot : Slot) (arr : Fin 4) (s : State) : Out :=
  matrixRun t tile.val slot.val (runHead tile.val slot.val (2 + arr.val) (· = 0x0A) (fun _ c => ⟨iCnt c.insn, 0, 0⟩) (fun _ => false)
    (fun c g _ s => reconUnit tile.val slot.val c g s)) s

/-! ### The ORTHO group and its working set (R191 to R193, Table MX-5; log entry 32) -/

/-- Bytes of a band's working set, and its accumulator tiles. -/
def Block.tiles (k : Block) : Nat := (k.rows * (6 * k.c + 6 * k.r) + 2303) / 2304

/-- The matrices of the working set; for a band of n rows, row i and column j of each. -/
inductive Mat where
  | x | a
  deriving DecidableEq, Repr

def Block.off32 (k : Block) (n : Nat) (m : Mat) (i j : Nat) : Nat :=
  match m with
  | .x => 4 * (i * k.c + j)
  | .a => 6 * n * k.c + 4 * (i * k.r + j)
def Block.off16 (k : Block) (n : Nat) (m : Mat) (i j : Nat) : Nat :=
  match m with
  | .x => 4 * n * k.c + 2 * (i * k.c + j)
  | .a => 6 * n * k.c + 4 * n * k.r + 2 * (i * k.r + j)

/-- FP32 to BF16 under RNE, as CVT does it, with what that counts (R191, R42). -/
def toBf16 (w : Nat) : Nat × Ev :=
  let v := fp32 w
  let r := encBf16.enc false none v.1
  (r.1, v.2.add r.2)

/-- Both copies of an element of this tile's band. -/
def putMat (tile slot acc : Nat) (k : Block) (m : Mat) (i j w : Nat) (s : State) : State :=
  let h := toBf16 w
  countEv tile slot h.2 (setAccN tile acc (k.off16 k.rows m i j) 2 h.1 (setAccN tile acc (k.off32 k.rows m i j) 4 w s))

/-- The ACC that an image's ORTHO and OPT-stage instructions give a GROUP binding. -/
def imageAcc (x : TileS) (slot bind : Nat) : Option Nat :=
  (List.range (x.job slot).ninsn).findSome? (fun n =>
    let i := x.imgInsn slot n
    if iBind i = bind && (iOpc i = 0x0E || (iOpc i = 0x0D && 1 ≤ iMod i 14 3)) then some (iAcc i) else none)

/-- GROUP bindings of a block on a tile, by local index. -/
def groupBinds (x : TileS) (slot : Nat) (b : BitVec 256) : List Nat :=
  ((x.bindings slot).filter (fun q => bRole q.2 = roleGroup && bColl q.2 = bColl b && bGbase q.2 = bGbase b && bGsize q.2 = bGsize b &&
    bOrows q.2 = bOrows b && bOcols q.2 = bOcols b)).map (·.1)

/-- The binding of the same block on the tile of group index h. -/
def peerBind (s : State) (tile slot : Nat) (i : DWord) (b : BitVec 256) (h : Nat) : Option Nat :=
  let nth := ((groupBinds (s.tile tile) slot b).findIdx? (· = iBind i)).getD 0
  (groupBinds (s.tile ((blockOf b).base + h)) slot b)[nth]?

/-- The tile of group index h and the base of its working set: the same block's binding there, at the same distance from its image's ACC. -/
def peerOf (s : State) (tile slot : Nat) (i : DWord) (b : BitVec 256) (h : Nat) : Option (Nat × Nat) :=
  let k := blockOf b
  if h = k.g then some (tile, iAcc i)
  else
    let x := s.tile tile
    let y := s.tile (k.base + h)
    match peerBind s tile slot i b h, imageAcc x slot (iBind i) with
    | some p, some mine => (imageAcc y slot p).map (fun a => (k.base + h, a + iAcc i - mine))
    | _, _ => none

/-- The BF16 code of an element of the matrix of a phase: of this tile's own band from its working set, of another's from the band cells popped. -/
def matCode (x : TileS) (slot bind acc phase : Nat) (k : Block) (m : Mat) (row j : Nat) : Nat :=
  let h := row / k.per
  let i := row - h * k.per
  if h = k.g then accN x acc (k.off16 k.rows m i j) 2
  else
    let p := i * k.width phase + j
    payElem 1 (Tbl.get 0 (x.job slot).streams (2 ^ 20 * bind + k.cellsBefore phase h + p / 48)) (p % 48)

/-- A BF16 operand with its flush (Table MX-2). -/
def bf16 (code : Nat) : Val × Ev := encBf16.dec code

/-! ### The products (R191, R194 to R196) -/

/-- Where a product stands until its vector step takes it. -/
def prodKey (slot bind row col : Nat) : Nat := (64 * slot + bind) * 2 ^ 22 + row * 2 ^ 11 + col

/-- The matrix that a phase streams (R191). -/
def streamed (phase : Nat) : Mat := if phase = 1 then .a else .x

/-- Row i of the band's product, x xᵀ, a a or b x, and the flushes of its stationary operands. -/
def orthoRow (x : TileS) (slot bind acc phase : Nat) (k : Block) (i : Nat) : List Nat × Ev :=
  let m := streamed phase
  let at_ (row j : Nat) : Val := (bf16 (matCode x slot bind acc phase k m row j)).1
  let mine := (List.range (if phase = 0 then k.c else k.r)).map (fun j => bf16 (accN x acc (k.off16 k.rows (if phase = 0 then .x else .a) i j) 2))
  let vs := mine.map (·.1)
  (if phase = 0 then (List.range k.r).map (fun j => dotFp32 vs ((List.range k.c).map (at_ j)))
   else (List.range (k.width phase)).map (fun j => dotFp32 vs ((List.range k.r).map (fun row => at_ row j))), Ev.sum (mine.map (·.2)))

/-- A band of the product streams to the other tiles of its group (R192): what each is still to be sent. -/
def sendBand (s : State) (tile slot : Nat) (i : DWord) (b : BitVec 256) : List BandRun :=
  let k := blockOf b
  let phase := iMod i 15 2
  (List.range k.size).filterMap (fun h =>
    if h = k.g then none else (peerBind s tile slot i b h).map (fun p =>
      (⟨k.base + h, p, slot, iBind i, iAcc i, phase, 0, k.bandCells phase k.g⟩ : BandRun)))

/-- The first unit of an ORTHO: its own band goes out, and what an earlier product streamed is gone. -/
def orthoStart (tile slot : Nat) (i : DWord) (b : BitVec 256) (s : State) : State :=
  let runs := sendBand s tile slot i b
  s.updTile tile (fun x => { x with bands := x.bands ++ runs.filter (fun (r : BandRun) => r.total ≠ 0) }.updJob slot (fun t =>
    { t with streams := t.streams.filter (fun q => q.1 / 2 ^ 20 ≠ iBind i) }))

/-- A foreign band cell is popped from SRC. -/
def orthoPop (tile slot : Nat) (i : DWord) (coll : Nat) (e : Entry) (s : State) : Res :=
  if srcLen s tile slot (iSrc i) < 1 then .wait
  else match srcFault s tile slot i coll 1, (srcEnts s tile slot i e 1).head? with
    | some r, _ => r
    | none, none => .wait
    | none, some v =>
      if v.fmt ≠ 1 then .skip 0x0810
      else
        let ev := Ev.sum ((List.range 48).map (fun k => (bf16 (payElem 1 v.pay k)).2))
        .done (countEv tile slot ev (popSrc tile slot (iSrc i) 1 (s.updTile tile (fun x => x.updJob slot (fun t =>
          { t with streams := Tbl.set 0 t.streams (2 ^ 20 * iBind i + v.idx.toNat / 48) v.pay })))))

def orthoUnit (tile slot : Nat) (c : CqEnt) (g : Nat) (s : State) : Res :=
  let i := c.insn
  let b := bindingOf s tile slot i
  let k := blockOf b
  let phase := iMod i 15 2
  if !inGrant ((s.tile tile).job slot) (iAcc i) k.tiles then .skip 0x080B
  else if !freeTiles (s.tile tile) (iAcc i) k.tiles then .skip 0x080C
  else if g = 0 then .done (orthoStart tile slot i b s)
  else if g ≤ k.foreign phase then orthoPop tile slot i (bColl b) ((s.job slot).entry (bColl b)) s
  else
    let n := g - 1 - k.foreign phase
    if n ≥ k.rows then .done s
    else
      let (ws, ev) := orthoRow (s.tile tile) slot (iBind i) (iAcc i) phase k n
      let s := countEv tile slot ev (ws.zipIdx.foldl (fun s w =>
        if phase = 0 then putMat tile slot (iAcc i) k .a n w.2 w.1 s
        else s.updTile tile (fun x => { x with prods := Tbl.set 0 x.prods (prodKey slot (iBind i) n w.2) (BitVec.ofNat 32 w.1) })) s)
      let s := profEvent 0x07 tile (some slot) (ws.length * (((if phase = 0 then k.c else k.r) + 31) / 32)) s
      .done (chargeAcc tile slot c (2 * ws.length) (if phase = 0 then 6 * ws.length else 0) s)

def execOrtho (t : Time) (tile : LTile) (slot : Slot) (arr : Fin 4) (s : State) : Out :=
  let n := tile.val
  let j := slot.val
  matrixRun t n j (runHead n j (2 + arr.val) (· = 0x0E) (fun s c => orthoPlan s n j c) (fun _ => false) (fun c g _ s => orthoUnit n j c g s)) s

end Sys2Proof.Machine
end

