-- ==== Sys2Proof/Machine/Optim.lean ====
section
/-! DEFINITION. OPT: the optimizer micro-programs and the vector steps of ORTHO (06 R138 to R148; 08 R209). -/

namespace Sys2Proof.Machine

/-! ### The micro-programs (R144, R145) -/

/-- The parameters of a step position, and its bias terms. -/
structure Hyper where
  lr : Nat
  b1 : Nat
  b2 : Nat
  omb1 : Nat
  omb2 : Nat
  eps : Nat
  wd : Nat
  bc1 : Nat
  bc2 : Nat
  deriving DecidableEq, Repr

def fone : Nat := 0x3F800000

def Job.hyper (x : Job) (p : Nat) : Hyper :=
  let bias (k : Nat) : Nat := leNat (x.committed.readN (64 + 8 * p + 4 * k) 4)
  { lr := x.hp p 4, b1 := x.hp p 8, b2 := x.hp p 12, omb1 := x.hp p 16, omb2 := x.hp p 20, eps := x.hp p 24, wd := x.hp p 28
    bc1 := fsub fone (fmul (bias 0) (x.hp p 8)), bc2 := fsub fone (fmul (bias 1) (x.hp p 12)) }

/-- An element's w, m and v. -/
structure Wmv where
  w : Nat
  m : Nat
  v : Nat
  deriving DecidableEq, Repr

/-- What a micro-program gives for an element, and the flushes it counts. -/
structure Upd where
  s : Wmv
  n : Nat
  deriving DecidableEq, Repr

def adamw (h : Hyper) (g : Nat) (s : Wmv) : Upd :=
  let t1 := fmulC h.b1 s.m
  let t2 := fmulC h.omb1 g
  let m := faddC t1.v t2.v
  let t3 := fmulC g g
  let t4 := fmulC h.b2 s.v
  let t5 := fmulC h.omb2 t3.v
  let v := faddC t4.v t5.v
  let mh := fdivC m.v h.bc1
  let vh := fdivC v.v h.bc2
  let r := fsqrtC vh.v
  let d := faddC r.v h.eps
  let u := fdivC mh.v d.v
  let t6 := fmulC h.wd s.w
  let t7 := faddC u.v t6.v
  let t8 := fmulC h.lr t7.v
  let w := fsubC s.w t8.v
  ⟨⟨w.v, m.v, v.v⟩, ([t1, t2, m, t3, t4, t5, v, mh, vh, r, d, u, t6, t7, t8, w].map (·.n)).sum⟩

def sgdm (h : Hyper) (g : Nat) (s : Wmv) : Upd :=
  let t1 := fmulC h.wd s.w
  let g := faddC g t1.v
  let t2 := fmulC h.b1 s.m
  let m := faddC t2.v g.v
  let t3 := fmulC h.lr m.v
  let w := fsubC s.w t3.v
  ⟨⟨w.v, m.v, 0⟩, ([t1, g, t2, m, t3, w].map (·.n)).sum⟩

/-- +1 or -1, 0 for either zero, NaN for NaN. -/
def fsign (c : Nat) : Nat :=
  match fp32v c with
  | .nan => 0x7FC00000
  | .inf n => if n then 0xBF800000 else fone
  | .fin n m _ => if m = 0 then 0 else if n then 0xBF800000 else fone

def lion (h : Hyper) (g : Nat) (s : Wmv) : Upd :=
  let t1 := fmulC h.b1 s.m
  let t2 := fmulC h.omb1 g
  let c := faddC t1.v t2.v
  let t3 := fmulC h.wd s.w
  let t4 := faddC (fsign c.v) t3.v
  let t5 := fmulC h.lr t4.v
  let w := fsubC s.w t5.v
  let t6 := fmulC h.b2 s.m
  let t7 := fmulC h.omb2 g
  let m := faddC t6.v t7.v
  ⟨⟨w.v, m.v, 0⟩, ([t1, t2, c, t3, t4, t5, w, t6, t7, m].map (·.n)).sum⟩

def microProgram (algo : Nat) (h : Hyper) : Nat → Wmv → Upd :=
  if algo = 0 then adamw h else if algo = 1 then sgdm h else lion h

/-! ### State blocks (R138, R139) -/

/-- Where the state block of a segment ordinal stands in a bank. -/
def Job.blockOff (x : Job) (ord : Nat) : Nat := x.bankRec + 1216 * ord

/-- Element k of a state block of the committed bank, with the flushes of its moments' decoding. -/
def blockElemC (bs : List Byte) (k : Nat) : Upd :=
  let at_ (o n : Nat) : Nat := leNat ((bs.drop o).take n)
  let m := encFp32.enc true none (decMoment encE4m3 (at_ (768 + k) 1) (at_ (1152 + k / 32) 1))
  let v := encFp32.enc true none (decMoment encUe5m3 (at_ (960 + k) 1) (at_ (1158 + k / 32) 1))
  ⟨⟨at_ (4 * k) 4, m.1, v.1⟩, m.2.flush + v.2.flush⟩
def blockElem (bs : List Byte) (k : Nat) : Wmv := (blockElemC bs k).s

/-- The tile's flush counter of the job (R42). -/
def countFlush (tile slot n : Nat) (s : State) : State := countEv tile slot { Ev.zero with flush := n } s

/-- Moments encoded by blocks of 32: the scales, the elements, and the range errors (R139, R38). -/
def encMoments (v : Bool) (ws : List Nat) : List Byte × List Byte × Ev :=
  let bl := (List.range 6).map (fun j =>
    let vs := ((ws.drop (32 * j)).take 32).map fp32v
    if v then vEncode vs else (let q := encBlock 5 vs (vs.map (fun _ => none)); (q.1, q.2.1, Ev.zero)))
  (bl.flatMap (fun q => leBytes 1 q.1), bl.flatMap (fun q => q.2.1.flatMap (fun c => leBytes 1 c)), Ev.sum (bl.map (·.2.2)))

/-- A new state block: W, M, V, scales, STEP (Table UP-1); and the range errors of its encoding. -/
def freshBlock (useV : Bool) (step : Nat) (es : List Wmv) : List Byte × Ev :=
  let (ms, mb, _) := encMoments false (es.map (·.m))
  let (vs, vb, ev) := if useV then encMoments true (es.map (·.v)) else (List.replicate 6 0, List.replicate 192 0, Ev.zero)
  (es.flatMap (fun q => leBytes 4 q.w) ++ mb ++ vb ++ ms ++ vs ++ leBytes 4 step ++ List.replicate 48 0, ev)

/-! ### A segment of OPT (R207, R209) -/

/-- The first segment of G in chunk n: of a projected instance, the chunk's rows (R190). -/
def gSegment (e : Entry) (n : Nat) : Nat :=
  if e.rank = 0 then 2 ^ e.cshift * n else 2 ^ e.cshift * n * e.rowlen / e.rank

/-- What one segment of an OPT works on: its number, valid elements, state ordinal, step position. -/
structure Seg where
  seg : Nat
  valid : Nat
  ord : Nat
  pos : Nat
  deriving DecidableEq, Repr

def segOf (s : State) (tile slot : Nat) (i : DWord) (b : BitVec 256) (g : Nat) : Option Seg :=
  let x := s.job slot
  let e := x.entry (bColl b)
  match ((s.tile tile).dir slot b)[iMod i 0 11]?, x.stepPos (bColl b) with
  | some (chunk, sord), some pos =>
    let seg := gSegment e chunk + g
    if sord + g ≥ x.segs || 192 * seg ≥ e.elems then none else some ⟨seg, min 192 (e.elems - 192 * seg), sord + g, pos⟩
  | _, _ => none

/-- The gradient words of a segment: the entries popped, or the gradient hold; times α in a clip round (R145, R155). -/
def gradWords (x : Job) (rerun : Bool) (vs : List Ent) (q : Seg) : List Fres :=
  let ws := if vs.isEmpty then (List.range q.valid).map (fun k => leNat (x.gradHold.readN (768 * q.ord + 4 * k) 4))
    else (words vs).take q.valid
  ws.map (fun g => if rerun then fmulC g x.alpha.toNat else ⟨g, 0⟩)

/-- Write what a segment's OPT leaves in HBM: nothing in a replay (R169). -/
def writeState (slot : Nat) (f : Job → Job) (s : State) : State :=
  if (s.job slot).replay.isSome || !(s.job slot).home then s else s.updJob slot f

/-- The drained gradient goes into the hold when clipping is enabled (R138, R209). -/
def holdGrad (q : Seg) (ws : List Nat) (x : Job) : Job :=
  if x.clipmax = 0 || !x.holdGrant then x
  else
    let bs := ws.flatMap (leBytes 4)
    { x with gradHold := x.gradHold.writeN (768 * q.ord) bs }.touch .hold (768 * q.ord) 768

/-- Some value of w, m or v is a NaN or an infinity (R148). -/
def nonFinite (es : List Wmv) : Bool := es.any (fun q => !fisFin q.w || !fisFin q.m || !fisFin q.v)

/-- FP32 entry j of a segment's new weights. -/
def weightEnt (e : Entry) (bind : Nat) (q : Seg) (j : Nat) (ws : List Nat) (round : Bool) : Ent :=
  let xs := (ws.drop (24 * j)).take 24
  let idx := 192 * q.seg + 24 * j
  ⟨payPack 0 xs, 0, BitVec.ofNat 6 bind, BitVec.ofNat 20 (idx / e.chunkElems), BitVec.ofNat 40 idx, xs.length, 0, round, none, 0, 0, false, false⟩

/-- OPT with STAGE 0 on one segment: entry j pushed; with the last one, the writes. -/
def optUnit (tile slot : Nat) (p : Plan) (c : CqEnt) (b : BitVec 256) (e : Entry) (q : Seg) (vs : List Ent) (j : Nat) (s : State) : Res :=
  let i := c.insn
  let x := s.job slot
  let rerun := vs.isEmpty || x.gate = .rerun
  let algo := algoOf x (bColl b)
  let old := x.committed.readN (x.blockOff q.ord) 1216
  let raw := (gradWords x false vs q).map (·.v)
  let us := (gradWords x rerun vs q).zipIdx.map (fun r =>
    let b := blockElemC old r.2
    let u := microProgram algo (x.hyper q.pos) r.1.v b.s
    (⟨u.s, u.n + b.n + r.1.n⟩ : Upd))
  let es := us.map (·.s)
  let outs := if p.pushN = 0 then [] else [weightEnt e (iBind i) q j (es.map (·.w)) (roundNow x e)]
  match emit tile slot i p j outs s with
  | .done s =>
    if j + 1 < p.pushN then .done s
    else
      let pad := List.replicate (192 - q.valid) (⟨0, 0, 0⟩ : Wmv)
      let new := freshBlock (algo = 0) (x.attemptStep % 2 ^ 32) (es ++ pad)
      let s := countEv tile slot new.2 (writeState slot (fun x => x.writeAlt (x.blockOff q.ord) new.1) s)
      let s := if rerun then s else writeState slot (holdGrad q raw) s
      let s := if nonFinite es then addPart slot (bColl b) tile (fun y => { y with nfu := true }) s else s
      let s := countFlush tile slot ((us.map (·.n)).sum) s
      .done (chargeHbm tile slot c 1216 (1216 + (if rerun || x.clipmax = 0 then 0 else 768)) s)
  | r => r

/-! ### The vector steps of ORTHO (R147; log entry 32) -/

/-- Blocks of at most 2,048 rows and columns of an entry's matrix, from the top left, row-major: first row and first column (R147). -/
def blockCuts (e : Entry) : List (Nat × Nat) :=
  (List.range ((e.elems / e.rowlen + 2047) / 2048)).flatMap (fun i => (List.range ((e.rowlen + 2047) / 2048)).map (fun j => (2048 * i, 2048 * j)))

/-- The block at a first row and column has a binding's rows and columns. -/
def blockFits (e : Entry) (b : BitVec 256) (q : Nat × Nat) : Bool :=
  min 2048 (e.elems / e.rowlen - q.1) = bOrows b && min 2048 (e.rowlen - q.2) = bOcols b

/-- Elements lo .. hi - 1 of the matrix meet the block of a binding's size at a first row and column. -/
def blockMeets (e : Entry) (b : BitVec 256) (q : Nat × Nat) (lo hi : Nat) : Bool :=
  let top := lo / e.rowlen
  let bot := (hi - 1) / e.rowlen
  let inRows (i : Nat) : Bool := q.1 ≤ i && i < q.1 + bOrows b
  let inCols (u v : Nat) : Bool := u < q.2 + bOcols b && q.2 < v
  if top = bot then inRows top && inCols (lo % e.rowlen) ((hi - 1) % e.rowlen + 1)
  else (inRows top && inCols (lo % e.rowlen) e.rowlen) || (inRows bot && inCols 0 ((hi - 1) % e.rowlen + 1)) ||
    Nat.max (top + 1) q.1 < min bot (q.1 + bOrows b)

/-- The blocks that a GROUP binding may stand for: of its size, met by every chunk of its directory (log entry 32). -/
def blockChoices (x : TileS) (slot : Nat) (e : Entry) (b : BitVec 256) : List (Nat × Nat) :=
  (blockCuts e).filter (fun q => blockFits e b q &&
    (x.dir slot b).all (fun c => blockMeets e b q (c.1 * e.chunkElems) (min e.elems ((c.1 + 1) * e.chunkElems))))

/-- First row and column of a GROUP binding's block; bindings of one group between which their directories do not tell take them in turn. -/
def blockAt (x : TileS) (slot bind : Nat) (e : Entry) (b : BitVec 256) : Option (Nat × Nat) :=
  let l := blockChoices x slot e b
  let nth := ((groupBinds x slot b).filter (fun p => p < bind && (x.binding slot p).map (blockChoices x slot e) = some l)).length
  l[nth]?

/-- Where an element of the tensor lies in the block of a GROUP binding: row and column after transposition; none outside of the block (R147). -/
def blockPlace (x : TileS) (slot bind : Nat) (e : Entry) (b : BitVec 256) (k : Nat) : Option (Nat × Nat) :=
  match blockAt x slot bind e b with
  | none => none
  | some q =>
    let i := k / e.rowlen
    let j := k % e.rowlen
    if q.1 ≤ i && i < q.1 + bOrows b && q.2 ≤ j && j < q.2 + bOcols b then
      (if bOrows b > bOcols b then some (j - q.2, i - q.1) else some (i - q.1, j - q.2))
    else none

/-- The row within this tile's band, where the element is in it. -/
def bandPlace (x : TileS) (slot bind : Nat) (e : Entry) (b : BitVec 256) (k : Nat) : Option (Nat × Nat) :=
  let q := blockOf b
  match blockPlace x slot bind e b k with
  | some (i, j) => if q.g * q.per ≤ i && i < q.g * q.per + q.rows then some (i - q.g * q.per, j) else none
  | none => none

/-- m^2 in units of 2^-298; a NaN or an infinity stands as a code. -/
def sqUnits (w : Nat) : Nat × Nat :=
  match fp32v w with
  | .nan => (0, 2)
  | .inf _ => (0, 1)
  | .fin _ m e => (m * m * 2 ^ (2 * e + 298).toNat, 0)

/-- STAGE 1: momentum; the new M goes to the alternate bank, this band's elements to x, their squares to the band's sum. -/
def stage1 (tile slot : Nat) (c : CqEnt) (b : BitVec 256) (e : Entry) (q : Seg) (vs : List Ent) (s : State) : State :=
  let i := c.insn
  let x := s.job slot
  let h := x.hyper q.pos
  let rerun := vs.isEmpty || x.gate = .rerun
  let old := x.committed.readN (x.blockOff q.ord) 1216
  let raw := (gradWords x false vs q).map (·.v)
  let us := (gradWords x rerun vs q).zipIdx.map (fun r =>
    let b := blockElemC old r.2
    let t1 := fmulC h.b1 b.s.m
    let m := faddC t1.v r.1.v
    (⟨m.v, m.n + t1.n + b.n + r.1.n⟩ : Fres))
  let ms := us.map (·.v)
  let s := countFlush tile slot ((us.map (·.n)).sum) s
  let (sc, mb, _) := encMoments false (ms ++ List.replicate (192 - q.valid) 0)
  let s := writeState slot (fun x => (x.writeAlt (x.blockOff q.ord + 768) mb).writeAlt (x.blockOff q.ord + 1152) sc) s
  let s := if rerun then s else writeState slot (holdGrad q raw) s
  let s := if ms.any (fun m => !fisFin m) then addPart slot (bColl b) tile (fun y => { y with nfu := true }) s else s
  let key := 2 * iBind i + b2n rerun
  ms.zipIdx.foldl (fun s r => match bandPlace (s.tile tile) slot (iBind i) e b (192 * q.seg + r.2) with
    | none => s
    | some (m, n) =>
      let u := sqUnits r.1
      let s := s.updTile tile (fun x => x.updJob slot (fun t => { t with
        sqs := Tbl.upd (0, 0) t.sqs key (fun a => (a.1 + u.1, Nat.max a.2 u.2)) }))
      putMat tile slot (iAcc i) (blockOf b) .x m n r.1 s) s

/-- The exact sum of squares of the whole block, rounded to FP32 after its square root, plus EPS. -/
def blockNorm (s : State) (tile slot : Nat) (i : DWord) (eps : Nat) (rerun : Bool) (b : BitVec 256) : Nat :=
  let k := blockOf b
  let l := (List.range k.size).map (fun h =>
    let t := k.base + h
    let p := if h = k.g then iBind i else (peerBind s tile slot i b h).getD 64
    Tbl.get (0, 0) ((s.tile t).job slot).sqs (2 * p + b2n rerun))
  let top := maxOf (l.map (·.2))
  fadd (toFp32 (if top = 2 then .nan else if top = 1 then .inf false else (Val.fin false (l.map (·.1)).sum (-298)).sqrt)) eps

/-- Change every element of a matrix of the band. -/
def mapBand (tile slot acc : Nat) (k : Block) (m : Mat) (f : Nat → Nat → Nat → Fres) (s : State) : State :=
  let n := match m with
    | .x => k.c
    | .a => k.r
  (List.range k.rows).foldl (fun s i => (List.range n).foldl (fun s j =>
    let r := f i j (accN (s.tile tile) acc (k.off32 k.rows m i j) 4)
    countFlush tile slot r.n (putMat tile slot acc k m i j r.v s)) s) s

/-- STAGE 2 to 4: normalisation; b from a and a a; x from x and b x. -/
def stageMid (tile slot : Nat) (c : CqEnt) (b : BitVec 256) (pos stage : Nat) (s : State) : State :=
  let i := c.insn
  let x := s.job slot
  let k := blockOf b
  let prod (i' j : Nat) : Nat := (Tbl.get 0 (s.tile tile).prods (prodKey slot (iBind i) i' j)).toNat
  if stage = 2 then
    let n := blockNorm s tile slot i (x.hyper pos).eps (x.gate = .rerun) b
    mapBand tile slot (iAcc i) k .x (fun _ _ w => fdivC w n) s
  else if stage = 3 then mapBand tile slot (iAcc i) k .a (fun i' j w =>
    let p := fmulC (x.hp pos 36) w
    let q := fmulC (x.hp pos 40) (prod i' j)
    let r := faddC p.v q.v
    ⟨r.v, p.n + q.n + r.n⟩) s
  else mapBand tile slot (iAcc i) k .x (fun i' j w =>
    let p := fmulC (x.hp pos 32) w
    let r := faddC p.v (prod i' j)
    ⟨r.v, p.n + r.n⟩) s

/-- x of the element at a place of the block, from the tile of the group that holds it. -/
def xOf (s : State) (peers : List (Option (Nat × Nat))) (b : BitVec 256) (i j : Nat) : Nat :=
  let q := blockOf b
  let h := i / q.per
  match peers[h]?.join with
  | some (t, a) => accN (s.tile t) a (q.off32 (q.rowsOf h) .x (i - h * q.per) j) 4
  | none => 0

/-- STAGE 5 on one segment: the final update, w to the alternate bank and to DST. Elements of another block stay as the alternate bank holds them. -/
def stage5 (tile slot : Nat) (p : Plan) (c : CqEnt) (b : BitVec 256) (e : Entry) (q : Seg) (j : Nat) (s : State) : Res :=
  let i := c.insn
  let x := s.job slot
  let h := x.hyper q.pos
  let peers := (List.range (bGsize b)).map (peerOf s tile slot i b)
  let old := x.committed.readN (x.blockOff q.ord) 1216
  let alt := x.alternate.readN (x.blockOff q.ord) 1216
  let us : List Fres := (List.range q.valid).map (fun k => match blockPlace (s.tile tile) slot (iBind i) e b (192 * q.seg + k) with
    | none => (⟨(blockElem alt k).w, 0⟩ : Fres)
    | some (m, n) =>
      let w := (blockElem old k).w
      let t2 := fmulC (x.hp q.pos 44) (xOf s peers b m n)
      let t3 := fmulC h.wd w
      let t4 := faddC t2.v t3.v
      let t5 := fmulC h.lr t4.v
      let w := fsubC w t5.v
      (⟨w.v, t2.n + t3.n + t4.n + t5.n + w.n⟩ : Fres))
  let ws := us.map (·.v)
  if peers.any (·.isNone) then .wait
  else match emit tile slot i p j (if p.pushN = 0 then [] else [weightEnt e (iBind i) q j ws (roundNow x e)]) s with
    | .done s =>
      if j + 1 < p.pushN then .done s
      else
        let bs := (ws ++ List.replicate (192 - q.valid) 0).flatMap (leBytes 4)
        let s := writeState slot (fun x => ((x.writeAlt (x.blockOff q.ord) bs).writeAlt (x.blockOff q.ord + 960) (List.replicate 192 0)).writeAlt
          (x.blockOff q.ord + 1158) (List.replicate 6 0 ++ leBytes 4 (x.attemptStep % 2 ^ 32) ++ List.replicate 48 0)) s
        let s := if ws.any (fun w => !fisFin w) then addPart slot (bColl b) tile (fun y => { y with nfu := true }) s else s
        .done (chargeHbm tile slot c 768 1024 (countFlush tile slot ((us.map (·.n)).sum) s))
    | r => r

/-! ### OPT -/

def optStep (tile slot : Nat) (c : CqEnt) (g j : Nat) (s : State) : Res :=
  let i := c.insn
  let b := bindingOf s tile slot i
  let coll := bColl b
  let e := (s.job slot).entry coll
  let p := optPlan c
  let stage := iMod i 14 3
  if (s.job slot).optWaits || srcLen s tile slot (iSrc i) < p.popN then .wait
  else match srcFault s tile slot i coll p.popN, segOf s tile slot i b g with
    | some r, _ => r
    | none, none => .skip 0x080F
    | none, some q =>
      let vs := srcEnts s tile slot i e p.popN
      let s := biasRecord slot s
      if vs.any (fun v => v.fmt ≠ 0) then .skip 0x0810
      else if 1 ≤ stage && !inGrant ((s.tile tile).job slot) (iAcc i) (blockOf b).tiles then .skip 0x080B
      else if 1 ≤ stage && !freeTiles (s.tile tile) (iAcc i) (blockOf b).tiles then .skip 0x080C
      else if stage = 0 then optUnit tile slot p c b e q vs j s
      else if stage = 5 then stage5 tile slot p c b e q j s
      else
        let s := if j > 0 then s else if stage = 1 then stage1 tile slot c b e q vs s else if g > 0 then s else stageMid tile slot c b q.pos stage s
        emit tile slot i p j (if p.pushN = 0 then [] else [weightEnt e (iBind i) q j [] (roundNow (s.job slot) e)]) s

def execOpt (t : Time) (tile : LTile) (slot : Slot) (s : State) : Out :=
  .next (runHead tile.val slot.val 1 (· = 0x0D) (fun _ c => optPlan c) (fun _ => false)
    (fun c g j s => optStep tile.val slot.val c g j s) (tick t s))

end Sys2Proof.Machine
end

