-- ==== Sys2Proof/Machine/Mover.lean ====
section
/-! DEFINITION. STAT, DIGEST, SEND and MCAST, spill and resume, NOP, BARRIER and WAIT (04 R88 to R100; 08 R209 to R219; 13 R357). -/

namespace Sys2Proof.Machine

/-! ### Cells that the exchange output builds (R49, R109, R111, R165, R504) -/

/-- The cell of an entry. -/
def cellOf (s : State) (slot : Nat) (b : BitVec 256) (kind fmt : Nat) (prov : Bool) (v : Ent) : Cell :=
  let x := s.job slot
  let coll := bColl b
  let e := x.entry coll
  if e.op = 0xB then mkColl kind 0 false true false prov x.tag.toNat coll e.epoch.toNat 0 (v.fold - 1) 0 0
  else
    let f := if v.esc.isSome then v.fmt.toNat else fmt
    let per := if v.esc.isSome then fmtElems e.rfmt else fmtElems f
    let total := ((if kind = kParameter then e.elems else e.sumElems) + per - 1) / per
    let ord := if v.trip then e.tripleOrd v.idx.toNat else v.idx.toNat / per
    let part := (v.esc.map (·.val)).getD 0
    let last := if v.trip then e.tripleLast v.idx.toNat else e.lastOf per total ord && (v.esc.isNone || part + 1 = v.part)
    mkColl kind f v.par last v.esc.isSome prov x.tag.toNat coll e.epoch.toNat ord (if kind = kPartial && last then v.fold - 1 else part) v.scale.toNat v.pay

/-- A cell of an input queue sent on: the fields its sender set stay, with the kind, format and flag of the instruction; a kind of R102 carries its
format code through unchanged, and so does an escalated cell. -/
def cellOn (e : Entry) (kind fmt : Nat) (prov : Bool) (c : Cell) : Cell :=
  mkColl kind (if c.esc || isBytes e.op then c.fmt else fmt) c.parity c.last c.esc prov c.job c.coll c.epoch c.chunk
    (if kind = kPartial && c.kind = kContribution then 0 else c.rank) c.scale c.pay

/-- A job that is OUT or replays sends nothing (R362, R169). -/
def mute (x : Job) : Bool := x.away || x.replay.isSome

/-- Push scheduled cells into an output queue; none where a place is short. A cell that finds no buffer of the job's grant is a scheduled-admission fault:
it is dropped, and its instance becomes INCOMPLETE with 0x020B (R243, R283). -/
def pushOq (tile slot p : Nat) : List Cell → State → Option State
  | [], s => some s
  | c :: cs, s =>
    if (Tbl.get [] (s.tile tile).oqs p).length ≥ 64 then none
    else match allocSched tile slot s with
      | (none, s) => pushOq tile slot p cs (tileCause slot c.coll tile stIncomplete 0x020B s)
      | (some k, s) =>
        let s := s.updTile tile (fun x => { x with oqs := Tbl.upd [] x.oqs p (· ++ [⟨c, some k⟩]) })
        let s := bumpMax (tileCtr tile (0x400 + 8 * p)) (Tbl.get [] (s.tile tile).oqs p).length (bump (tileCtr tile 0x058) 112 s)
        pushOq tile slot p cs (s.updInst slot c.coll (fun i => { i with egress := i.egress + 1 }))

/-- A cell of another class: routed from its tile, with no destination of its own. None is the credit hold of an unscheduled cell (R248, R275). -/
def sendOther (tile cls : Nat) (c : Cell) (s : State) : Option State :=
  let r := mkRouted cls c.kind c.fmt c.job c.coll c.epoch 0 0 0 0 0 c.pay
  if cls = clsMgmt then some (pushMgmt tile r s)
  else if cls = clsCtl then some (sendCtlCell tile r s)
  else match unsRoute none tile r s with
    | .go ps here => enterUns tile ps here r s
    | .unreach => some (bump (portCtr tile 0x088) 1 s)
    | .foreign => some (countForeign tile r s)

/-- Cells of another class, all or none. -/
def sendOthers (tile cls : Nat) : List Cell → State → Option State
  | [], s => some s
  | c :: cs, s => (sendOther tile cls c s).bind (sendOthers tile cls cs)

/-- Parameter cells sent in a round (Table UP-8). -/
def notePcells (tile slot coll kind n : Nat) (s : State) : State :=
  if kind = kParameter then addPart slot coll tile (fun p => { p with pcells := p.pcells + n }) s else s

/-- One entry or cell leaves by SEND or MCAST; the parts of an escalated cell go as one. -/
def sendUnit (tile slot : Nat) (c : CqEnt) (cls kind fmt : Nat) (prov : Bool) (s : State) : Res :=
  let i := c.insn
  let b := bindingOf s tile slot i
  let coll := bColl b
  let x := s.job slot
  let n := partsAt s tile slot (iSrc i)
  if srcLen s tile slot (iSrc i) < n then .wait
  else match srcFault s tile slot i coll n with
    | some r => r
    | none =>
      let cells :=
        if mute x then []
        else if isIq (iSrc i) then (srcCells s tile slot (iSrc i) n).map (cellOn (x.entry coll) kind fmt prov)
        else (((entsOf s tile slot (iSrc i)).take n).filter (fun v => if (x.entry coll).op = 0xB then v.idx = 0 else v.valid ≠ 0 || v.esc.isSome)).map
          (cellOf s slot b kind fmt prov)
      let s := popSrc tile slot (iSrc i) n s
      if cls ≠ clsSched then (match sendOthers tile cls cells s with
        | some s => .done s
        | none => .wait)
      else match (((s.tile tile).job slot).oqOf (iDst i)).bind (fun p => pushOq tile slot p cells s) with
        | some s => .done (notePcells tile slot coll kind cells.length s)
        | none => .wait

def execSend (t : Time) (tile : LTile) (slot : Slot) (s : State) : Out :=
  .next (runHead tile.val slot.val 6 (· = 0x12) (fun _ c => onePlan c) (fun _ => false)
    (fun c _ _ s => sendUnit tile.val slot.val c (iMod c.insn 11 2) (iMod c.insn 13 4) (iMod c.insn 7 4) (iMod c.insn 6 1 = 1) s) (tick t s))

/-- The tide entry's MC bit and group address the cells (R270); GRP is checked for legality. -/
def execMcast (t : Time) (tile : LTile) (slot : Slot) (s : State) : Out :=
  .next (runHead tile.val slot.val 6 (· = 0x13) (fun _ c => onePlan c) (fun _ => false)
    (fun c _ _ s => sendUnit tile.val slot.val c clsSched (iMod c.insn 13 4) (iMod c.insn 9 4) (iMod c.insn 8 1 = 1) s) (tick t s))

/-! ### STAT (R99, R100, R211) -/

/-- A row-statistics record (Table AC-7). -/
def rowRec (wlsb : Int) (r : RowStat) : Nat := r.ssq % 2 ^ 152 * 2 ^ 104 + r.maxmag % 2 ^ 64 * 2 ^ 40 + toW 16 wlsb * 2 ^ 24 + r.row % 2 ^ 24

/-- The destinations toward which a tile's output queue launches a job's cells, by the tide in force (R270): ports, those of a group, 256 and a tile's
number for another tile; 512 where the tide names none. -/
def oqDests (s : State) (tile slot p : Nat) : List Nat :=
  let name := (((s.tile tile).job slot).oq.findIdx? (· = p)).getD 8
  let ents := ((List.range s.bank.len).map (fun u => s.bank.ent tile u)).filter (fun e =>
    teTx e = 1 && teOq e = name && s.bank.sliceJob (teSlice e) = some (s.job slot).tag.toNat)
  let dests := ents.flatMap (fun e => if teMc e then grpPorts (Tbl.get 0 s.fabric.groups (teDest e)) else if teTile e then [256 + teUnit e] else [teUnit e])
  if dests.isEmpty then [512] else dests.foldl (fun l d => if l.contains d then l else l ++ [d]) []

/-- One cell of up to three row records. Its ordinal counts the cells of the instance that go toward its destinations (R106; log entry 54). -/
def rowUnit (tile slot : Nat) (c : CqEnt) (g : Nat) (s : State) : Res :=
  let i := c.insn
  let b := bindingOf s tile slot i
  let coll := bColl b
  let x := s.job slot
  match instOf s slot b with
  | none => .wait
  | some n =>
    let rows := ((s.tile tile).job slot).rows
    let mine := (rows.filter (fun r => r.1 = iBind i)).take (min 3 (iCnt i - 3 * g))
    let pay : Payload := BitVec.ofNat 768 ((mine.zipIdx.map (fun r => rowRec n.wlsb r.1.2 * 2 ^ (256 * r.2))).sum)
    let dests := ((((s.tile tile).job slot).oqOf (iDst i)).map (oqDests s tile slot)).getD [512]
    let ord := (dests.map (Tbl.get 0 n.rowCells)).foldl Nat.max 0
    let cell := mkColl kResult 0 false false false false x.tag.toNat coll (x.entry coll).epoch.toNat ord 0 0 pay
    match (((s.tile tile).job slot).oqOf (iDst i)).bind (fun p => pushOq tile slot p (if mute x || mine.isEmpty then [] else [cell]) s) with
    | none => .wait
    | some s =>
      .done (s.updInst slot coll (fun n => { n with
          rowCells := if mine.isEmpty then n.rowCells else dests.foldl (fun t d => Tbl.set 0 t d (ord + 1)) n.rowCells }) |>.updTile tile (fun y =>
        y.updJob slot (fun t => { t with rows := t.rows.filter (fun r => !mine.contains r) })))

/-- No post: a status that no part has. -/
def Part.never : Part := { Part.reset with status := 15 }

/-- The tile's part for a round is posted; one for a round already sent is dropped and counted (Table TP-16). -/
def postUnit (tile slot : Nat) (i : DWord) (b : BitVec 256) (s : State) : State :=
  let round := iMod i 15 1 = 1
  s.updInst slot (bColl b) (fun n =>
    let p := n.part tile
    if if round then n.sent1 else n.sent0 then { n with postDrops := n.postDrops + 1 }
    else if round then { n with posts1 := Tbl.set Part.never n.posts1 tile p }
    else { n with posts0 := Tbl.set Part.never n.posts0 tile p })

def statPlan (c : CqEnt) : Plan := if iMod c.insn 16 1 = 1 then ⟨1, 0, 0⟩ else ⟨(iCnt c.insn + 2) / 3, 0, 0⟩

def execStat (t : Time) (tile : LTile) (slot : Slot) (s : State) : Out :=
  .next (runHead tile.val slot.val 1 (· = 0x0C) (fun _ c => statPlan c) (fun _ => false)
    (fun c g _ s => if iMod c.insn 16 1 = 1 then .done (postUnit tile.val slot.val c.insn (bindingOf s tile.val slot.val c.insn) s)
      else rowUnit tile.val slot.val c g s) (tick t s))

/-! ### DIGEST (R18, R168, R357 to R359) -/

/-- The result or parameter cell that an entry will leave as. -/
def resultCell (s : State) (slot : Nat) (b : BitVec 256) (v : Ent) : Cell :=
  let rum := ((s.job slot).entry (bColl b)).op = opRum
  cellOf s slot b (if rum then kParameter else kResult) v.fmt.toNat rum v

def digOf (t : TJob) (set bind : Nat) (round : Bool) (key : Nat) : Dig :=
  (t.digs.find? (fun d => d.set = set && d.bind.toNat = bind && d.round = round && (set ≠ 3 || d.groups = key))).getD
    ⟨set, BitVec.ofNat 6 bind, round, 0, 0, if set = 3 then key else 0⟩

def putDig (tile slot : Nat) (d : Dig) (s : State) : State :=
  let other (q : Dig) : Bool := !(q.set = d.set && q.bind = d.bind && q.round = d.round && (d.set ≠ 3 || q.groups = d.groups))
  s.updTile tile (fun x => x.updJob slot (fun t => { t with digs := t.digs.filter other ++ [d] }))

/-- Open comparisons of a tile (R359). -/
def openOn (s : State) (tile : Nat) : Nat := (s.twin.mine.filter (fun d => d.tile.toNat = tile)).length

/-- A group closes: its record is sent (R358). -/
def closeGroup (tile slot coll : Nat) (d : Dig) (s : State) : State :=
  if d.count = 0 then s
  else
    let e := (s.job slot).entry coll
    let s := openDig slot ⟨(s.job slot).tag, BitVec.ofNat 12 coll, e.epoch, BitVec.ofNat 7 tile, d.round, BitVec.ofNat 7 d.count, false,
      BitVec.ofNat 16 d.groups, d.crc⟩ s
    bumpMax (tileCtr tile 0x510) (openOn s tile) (putDig tile slot { d with crc := 0, count := 0, groups := d.groups + 1 } s)

/-- A cell enters the twin digest stream. -/
def digCell (tile slot coll bind : Nat) (round : Bool) (c : Cell) (s : State) : State :=
  let d := digOf ((s.tile tile).job slot) 0 bind round 0
  let d := { d with crc := crcMore d.crc c.bytes, count := d.count + 1 }
  if d.count = 64 then closeGroup tile slot coll d s else putDig tile slot d s

/-- The valid bytes of an entry's elements, in element order. -/
def Ent.validBytes (v : Ent) : List Byte := leBytes (v.valid * fmtBits v.fmt.toNat / 8) v.pay.toNat

/-- Contributions whose elements end with an entry: in order of arrival, of the entry's pass. -/
def foldedBy (coll : Nat) (v : Ent) (l : List (Nat × Cell)) : List (Nat × Cell) :=
  (l.filter (fun q => q.2.coll = coll)).takeWhile (fun q => q.2.parity == v.par && q.2.chunk * fmtElems q.2.fmt < v.idx.toNat + v.valid)

/-- DIGEST of SET 1: the contributions that an entry came from enter the manifest (R168, R209; log entry 26). -/
def foldContribs (tile slot coll : Nat) (v : Ent) (s : State) : State :=
  let l := foldedBy coll v ((s.tile tile).job slot).contribs
  let s := s.updTile tile (fun x => x.updJob slot (fun t => { t with contribs := t.contribs.filter (fun q => !l.contains q) }))
  l.foldl (fun s q => s.updJob slot (fun x => x.digestMore true q.1 q.2.bytes)) s

/-- Fold entries into the digest of a SET; the results of FASTSUM enter neither the twin digest nor the manifest (R75). -/
def fold (tile slot : Nat) (i : DWord) (b : BitVec 256) (vs : List Ent) (s : State) : State :=
  let x := s.job slot
  let coll := bColl b
  let e := x.entry coll
  let round := roundNow x e
  let set := iMod i 15 2
  vs.foldl (fun s v =>
    if set ≠ 1 && ((s.inst? slot coll).map (·.fast)).getD false then s
    else if set = 0 then (if mute x then s else digCell tile slot coll (iBind i) round (resultCell s slot b v) s)
    else if set = 1 then
      let d := digOf ((s.tile tile).job slot) 1 (iBind i) round 0
      foldContribs tile slot coll v (putDig tile slot { d with crc := crcMore d.crc v.validBytes } s)
    else if set = 2 then
      (match x.stepPos coll with
        | some pos => if x.away then s
            else s.updJob slot (fun y => y.digestMore false (sumIdx s x pos (min (v.idx.toNat / e.chunkElems / 64) (e.ngroups - 1))) v.validBytes)
        | none => s)
    else
      let d := digOf ((s.tile tile).job slot) 3 (iBind i) round (v.idx.toNat / e.chunkElems)
      let crc := crcMore d.crc (resultCell s slot b v).bytes
      addPart slot coll tile (fun p => { p with digest := p.digest ^^^ d.crc ^^^ crc }) (putDig tile slot { d with crc := crc } s)) s

def digestUnit (tile slot : Nat) (c : CqEnt) (g : Nat) (s : State) : Res :=
  let i := c.insn
  let b := bindingOf s tile slot i
  let coll := bColl b
  let n := partsAt s tile slot (iSrc i)
  let set := iMod i 15 2
  if srcLen s tile slot (iSrc i) < n then .wait
  else match srcFault s tile slot i coll n with
    | some r => r
    | none =>
      let vs := (entsOf s tile slot (iSrc i)).take n
      if set = 0 && openOn s tile + 1 > 1024 then .wait
      else match emit tile slot i ⟨iCnt i, n, 0⟩ 0 vs s with
        | .done s =>
          let s := fold tile slot i b vs s
          let last := g + 1 = iCnt i && iMod i 14 1 = 1
          .done (if set = 0 && last then
              closeGroup tile slot coll (digOf ((s.tile tile).job slot) 0 (iBind i) (roundNow (s.job slot) ((s.job slot).entry coll)) 0) s
            else s)
        | r => r

/-- A DIGEST with SET 0 and CLOSE waits for the comparisons of its stream. -/
def closes (c : CqEnt) : Bool := iMod c.insn 15 2 = 0 && iMod c.insn 14 1 = 1

/-- The head of the VE queue completes when its comparisons have ended (Table TP-9). -/
def releaseDigest (tile slot : Nat) (s : State) : State :=
  match cqHead s tile slot 1 with
  | some e =>
    let coll := bColl (bindingOf s tile slot e.insn)
    if iOpc e.insn = 0x0F && e.held && !s.twin.mine.any (fun d => d.tile.toNat = tile && d.job = (s.job slot).tag && d.coll.toNat = coll &&
        d.epoch = ((s.job slot).entry coll).epoch) then completeHead tile slot 1 e s else s
  | none => s

def execDigest (t : Time) (tile : LTile) (slot : Slot) (s : State) : Out :=
  .next (releaseDigest tile.val slot.val (runHead tile.val slot.val 1 (· = 0x0F) (fun _ c => onePlan c) closes
    (fun c g _ s => digestUnit tile.val slot.val c g s) (tick t s)))

/-! ### SPILL and RESUME (R81, R82, R88 to R90, R249) -/

/-- A record's ordinal lies in the tile's part of the spill area (R245). -/
def recordHeld (x : Job) (tile ord : Nat) : Bool := ord < ((x.grant tile).map (·.records)).getD 0

/-- The spill record of an accumulator tile (Table AC-5). DESIGN CHOICE: the STATE field of its TAG is ACTIVE, the state in which the SPILL finds the
tile (log entry 55). -/
def spillRec (tag seg : Nat) (wlsb : Int) (pass : Nat) (y : Acc) : List Byte :=
  leBytes 4 y.tag.toNat ++ leBytes 4 (tag * 2 ^ 20 + seg) ++ leBytes 2 (toW 16 wlsb) ++ leBytes 1 pass ++ leBytes 1 1 ++ leBytes 24 y.written.toNat ++
    List.replicate 28 0 ++ (List.range 192).flatMap (fun k => leBytes 12 (if y.written.getLsbD k then (Tbl.get 0 y.elems k).toNat else 0))

def spillUnit (tile slot : Nat) (c : CqEnt) (g : Nat) (s : State) : Res :=
  let i := c.insn
  let b := bindingOf s tile slot i
  let coll := bColl b
  let x := s.job slot
  let e := x.entry coll
  let a := iAcc i + g
  let ord := iMod i 0 17 + g
  let y := (s.tile tile).acc a
  if !inGrant ((s.tile tile).job slot) (iAcc i) (iCnt i) then .skip 0x080B
  else match directFault s tile slot coll a, instOf s slot b with
    | some code, _ => .skip code
    | none, none => .wait
    | none, some n =>
      let k := settledOn s tile slot coll
      if e.passes ≤ k then .skip 0x0812
      else if k = 0 || k < y.top then .wait
      else if !recordHeld x tile ord || (!recValid (Tbl.get [] x.spill (spillKey tile ord)) && x.spillUse + 2368 > x.spillQuota) then .skip 0x0510
      else
        let s := setSat slot coll tile (tagSat y.tag) s
        let s := s.updJob slot (fun x => { x with spill := Tbl.set [] x.spill (spillKey tile ord) (spillRec x.tag.toNat y.seg n.wlsb k y) })
        let s := s.updTile tile (fun z => { z with spilling := z.spilling ++ [(a, slot, ord, false)] }.updAcc a (fun y => { y with tag := retag accSpilling y.tag }))
        .done (chargeAcc tile slot c 2304 0 (chargeHbm tile slot c 0 2368 s))

/-- The head of the mover's queue completes when none of its tiles is on its way. -/
def releaseMover (tile : Nat) (slot : Nat) (s : State) : State :=
  match cqHead s tile slot 7 with
  | some e =>
    let lo := iAcc e.insn
    let hi := lo + iCnt e.insn
    let busy : Bool := if iOpc e.insn = 0x10 then (s.tile tile).spilling.any (fun q => q.2.1 = slot && lo ≤ q.1 && q.1 < hi)
      else (s.tile tile).resuming.any (fun r => r.slot = slot && lo ≤ r.acc && r.acc < hi)
    if e.held && !busy then completeHead tile slot 7 e s else s
  | none => s

def execSpill (t : Time) (tile : LTile) (slot : Slot) (s : State) : Out :=
  .next (runHead tile.val slot.val 7 (· = 0x10) (fun _ c => ⟨iCnt c.insn, 0, 0⟩) (fun _ => true)
    (fun c g _ s => spillUnit tile.val slot.val c g s) (tick t s))

/-- HBM acknowledges a spill's last write: SPILLED, or FREE with its record invalidated where its instance has gone (Tables AC-2, AC-3). -/
def spillAck (tile a : Nat) (s : State) : State :=
  match (s.tile tile).spilling.find? (fun q => q.1 = a) with
  | none => s
  | some (_, slot, ord, gone) =>
    let s := s.updTile tile (fun x => { x with spilling := x.spilling.filter (fun q => q.1 ≠ a) })
    let s := if gone then
        (s.updTile tile (fun x => x.updAcc a (fun y => { Acc.reset with tag := retag accFree y.tag }))).updJob slot (fun x =>
          { x with spill := Tbl.upd [] x.spill (spillKey tile ord) invalidRec })
      else s.updTile tile (fun x => x.updAcc a (fun y => { y with tag := retag accSpilled y.tag }))
    releaseMover tile slot s

def execSpillAck (t : Time) (tile : LTile) (acc : Fin 2048) (s : State) : Out := .next (spillAck tile.val acc.val (tick t s))

/-- The segment that an accumulator tile stands for in its binding's window (R206): with a directory, its entry's; without one, the segment nearest
below the record's turn of the window that uses the tile. None outside the window. Where the image has no instruction that names the window, the
record's own segment (log entry 56). -/
def segmentAt (x : TileS) (slot bind : Nat) (b : BitVec 256) (e : Entry) (a seg : Nat) : Option Nat :=
  match windowBase x slot bind with
  | none => some seg
  | some base =>
    let per := 2 ^ e.cshift
    if a < base || base + bWspan b ≤ a then none
    else if bNchunk b = 0 then some (seg / bWspan b * bWspan b + (a - base))
    else ((x.dir slot b)[(a - base) / per]?).map (fun q => q.1 * per + (a - base) % per)

/-- The segment number of a record. -/
def recSeg (r : List Byte) : Nat := leNat ((r.drop 4).take 4) % 2 ^ 20

def resumeUnit (tile slot : Nat) (c : CqEnt) (g : Nat) (s : State) : Res :=
  let i := c.insn
  let b := bindingOf s tile slot i
  let coll := bColl b
  let x := s.job slot
  let e := x.entry coll
  let a := iAcc i + g
  let ord := iMod i 0 17 + g
  if !inGrant ((s.tile tile).job slot) (iAcc i) (iCnt i) then .skip 0x080B
  else if (s.tile tile).spilling.any (fun q => q.2.1 = slot && q.2.2.1 = ord) then .wait
  else if tagState ((s.tile tile).acc a).tag ≠ accFree then .skip 0x080C
  else if accFull s tile slot [a] then .skip 0x0510
  else match instOf s slot b, segmentAt (s.tile tile) slot (iBind i) b e a (recSeg (Tbl.get [] x.spill (spillKey tile ord))) with
    | none, _ => .wait
    | _, none => .skip 0x0811
    | some n, some seg =>
      let r : Resuming := ⟨a, slot, ord, BitVec.ofNat 12 coll, e.epoch, BitVec.ofNat 20 seg, BitVec.ofInt 16 n.wlsb, false⟩
      .done (chargeHbm tile slot c 2368 0 (s.updTile tile (fun z => { z with resuming := z.resuming ++ [r] }.updAcc a (fun y =>
        { y with tag := mkTag accResuming false e.epoch.toNat coll slot }))))

def execResume (t : Time) (tile : LTile) (slot : Slot) (s : State) : Out :=
  .next (runHead tile.val slot.val 7 (· = 0x11) (fun _ c => ⟨iCnt c.insn, 0, 0⟩) (fun _ => true)
    (fun c g _ s => resumeUnit tile.val slot.val c g s) (tick t s))

/-- The checks of R90 on a record. -/
def recFits (x : Job) (r : Resuming) (bs : List Byte) : Bool :=
  let tag : Word := BitVec.ofNat 32 (leNat (bs.take 4))
  recValid bs && leNat ((bs.drop 4).take 4) = x.tag.toNat * 2 ^ 20 + r.seg.toNat && tagColl tag = r.coll.toNat && tagEpoch tag = r.epoch.toNat &&
  leNat ((bs.drop 8).take 2) = r.wlsb.toNat

/-- Element k of a record; a sum of -2^95 is loaded as the saturated value -(2^95 - 1) (R29). -/
def recElem (sums : Bool) (bs : List Byte) (k : Nat) : BitVec 96 :=
  let w := leNat ((bs.drop (64 + 12 * k)).take 12)
  if sums && w = 2 ^ 95 then BitVec.ofNat 96 (2 ^ 95 + 1) else BitVec.ofNat 96 w

/-- A record holds a sum of -2^95. -/
def recWmin (sums : Bool) (bs : List Byte) : Bool := sums && (List.range 192).any (fun k => leNat ((bs.drop (64 + 12 * k)).take 12) = 2 ^ 95)

/-- The accumulator tile of a record; `sums`: of a summing instance. -/
def loadRec (sums : Bool) (r : Resuming) (bs : List Byte) : Acc :=
  let tag : Word := BitVec.ofNat 32 (leNat (bs.take 4))
  { tag := mkTag accActive (tagSat tag || recWmin sums bs) r.epoch.toNat r.coll.toNat r.slot
    seg := r.seg.toNat
    folds := 0
    par := (bs.getD 10 0).toNat % 2 = 0
    top := (bs.getD 10 0).toNat
    hat := false
    written := BitVec.ofNat 192 (leNat ((bs.drop 12).take 24))
    elems := (List.range 192).foldl (fun t k => Tbl.set 0 t k (recElem sums bs k)) [] }

/-- The record of a RESUME has been read. DESIGN CHOICE: a tile whose record fails the checks of R90 returns to FREE at once, for which Table AC-2 has no
row (log entry 55). -/
def resumeDone (tile a : Nat) (s : State) : State :=
  match (s.tile tile).resuming.find? (fun r => r.acc = a) with
  | none => s
  | some r =>
    let x := s.job r.slot
    let bs := Tbl.get [] x.spill (spillKey tile r.ord)
    let free (s : State) : State := s.updTile tile (fun x => x.updAcc a (fun y => { Acc.reset with tag := retag accFree y.tag }))
    let s := s.updTile tile (fun x => { x with resuming := x.resuming.filter (fun q => q.acc ≠ a) })
    let s :=
      if r.drop then free (s.updJob r.slot (fun x => { x with spill := Tbl.upd [] x.spill (spillKey tile r.ord) invalidRec }))
      else if recFits x r bs then s.updTile tile (fun y => y.updAcc a (fun _ => loadRec (isSumming (x.entry r.coll.toNat).op) r bs))
      else match cqHead s tile r.slot 7 with
        | some e => if iOpc e.insn = 0x11 && !e.skipped then skipHead tile r.slot 7 e 0x0811 false (free s) else free s
        | none => free s
    releaseMover tile r.slot s

def execResumeDone (t : Time) (tile : LTile) (acc : Fin 2048) (s : State) : Out := .next (resumeDone tile.val acc.val (tick t s))

/-! ### NOP (R209) -/

/-- A reserved opcode that stands at the head of this queue is skipped (log entry 30). -/
def execNop (t : Time) (tile : LTile) (slot : Slot) (cq : Fin 8) (s : State) : Out :=
  .next (runHead tile.val slot.val cq.val (fun o => o = 0x00 || 0x14 ≤ o) (fun _ _ => ⟨1, 0, 0⟩) (fun _ => false)
    (fun _ _ _ s => .done s) (tick t s))

/-! ### BARRIER (R218, R219) -/

/-- The first of a BARRIER's queues, in which it is checked and counted. -/
def leadQueue (i : DWord) : Nat := ((cqsOf i).head?).getD 1

/-- Remove the head of a queue, its completion counted elsewhere. -/
def dropHead (tile slot q : Nat) (s : State) : State :=
  pumpTile tile (s.updTile tile (fun x => x.updJob slot (fun t => { t with cqs := Tbl.upd [] t.cqs q List.tail, lastDone := Tbl.set 0 t.lastDone q s.time })))

/-- The BARRIER at the head of a queue is still in its first queue. -/
def leadHolds (s : State) (tile slot : Nat) (e : CqEnt) : Bool :=
  (Tbl.get [] ((s.tile tile).job slot).cqs (leadQueue e.insn)).any (fun q => q.order = e.order)

/-- Copies of a BARRIER that has completed leave the other queues. -/
def sweep (tile slot : Nat) (s : State) : State :=
  (List.range 8).foldl (fun s q => match cqHead s tile slot q with
    | some e => if iOpc e.insn = 0x01 && q ≠ leadQueue e.insn && !leadHolds s tile slot e then dropHead tile slot q s else s
    | none => s) s

def execBarrier (t : Time) (tile : LTile) (slot : Slot) (cq : Fin 8) (s : State) : Out :=
  let s := tick t s
  let n := tile.val
  let j := slot.val
  .next (match cqHead s n j cq.val with
    | none => s
    | some e =>
      if iOpc e.insn ≠ 0x01 then s
      else if cq.val = leadQueue e.insn then
        sweep n j (runHead n j cq.val (· = 0x01) (fun _ _ => ⟨1, 0, 0⟩) (fun _ => true) (fun _ _ _ s => .done s) s)
      else sweep n j (updHead n j cq.val (fun e => { e with held := true }) s))

/-- A BARRIER has reached the head of all its queues. -/
def atHeads (s : State) (tile slot : Nat) (e : CqEnt) : Bool :=
  (cqsOf e.insn).all (fun q => (cqHead s tile slot q).any (fun h => h.order = e.order))

/-- The BARRIER held at a tile's queue q completes in every queue of its mask. -/
def freeBarrier (tile slot q : Nat) (s : State) : State :=
  match cqHead s tile slot q with
  | some e => if iOpc e.insn = 0x01 && e.held then sweep tile slot (completeHead tile slot q e s) else s
  | none => s

/-- The group barrier key of a BARRIER: collective, epoch of its instance, GID. -/
def groupKey (s : State) (slot : Nat) (b : BitVec 256) (i : DWord) : BitVec 12 × BitVec 4 × BitVec 8 :=
  (BitVec.ofNat 12 (bColl b), ((s.job slot).entry (bColl b)).epoch, BitVec.ofNat 8 (iMod i 0 8))

/-- A tile's group barrier: the queue in which it is held with this key. -/
def heldGroup (s : State) (tile slot : Nat) (key : BitVec 12 × BitVec 4 × BitVec 8) : Option Nat :=
  (List.range 8).find? (fun q => match cqHead s tile slot q with
    | some e => iOpc e.insn = 0x01 && e.held && q = leadQueue e.insn && iMod e.insn 8 1 = 1 && groupKey s slot (bindingOf s tile slot e.insn) e.insn = key
    | none => false)

/-- A tile reaches a group barrier; the last one to reach it releases all (R219). -/
def reachGroup (tile slot : Nat) (b : BitVec 256) (key : BitVec 12 × BitVec 4 × BitVec 8) (s : State) : State :=
  let s := s.updTile tile (fun x => x.updJob slot (fun t => { t with groupAt := if t.groupAt.contains key then t.groupAt else t.groupAt ++ [key] }))
  let tiles := (List.range (bGsize b)).map (bGbase b + ·)
  if !tiles.all (fun n => ((s.tile n).job slot).groupAt.contains key) then s
  else tiles.foldl (fun s n =>
    let s := s.updTile n (fun x => x.updJob slot (fun t => { t with groupAt := t.groupAt.filter (· ≠ key) }))
    match heldGroup s n slot key with
    | some q => freeBarrier n slot q s
    | none => s) s

def barrierRelease (tile slot : Nat) (s : State) : State :=
  if tileDown s tile then s
  else (List.range 8).foldl (fun s q => match cqHead s tile slot q with
    | none => s
    | some e =>
      if iOpc e.insn ≠ 0x01 || !e.held || q ≠ leadQueue e.insn || !atHeads s tile slot e then s
      else if iMod e.insn 8 1 = 1 then
        let b := bindingOf s tile slot e.insn
        reachGroup tile slot b (groupKey s slot b e.insn) s
      else freeBarrier tile slot q s) s

def execBarrierRelease (t : Time) (tile : LTile) (slot : Slot) (s : State) : Out := .next (barrierRelease tile.val slot.val (tick t s))

/-! ### WAIT (Table TP-8) -/

/-- The event that a WAIT names has occurred. DESIGN CHOICE: a CHUNK event whose ARG is no ordinal of the directory never occurs (log entry 57). -/
def occurred (s : State) (tile slot : Nat) (i : DWord) : Bool :=
  let x := s.tile tile
  let b := bindingOf s tile slot i
  let coll := bColl b
  let arg := iMod i 0 11
  match iMod i 11 3 with
  | 1 => decide (settledOn s tile slot coll > arg)
  | 2 => (match (x.dir slot b)[arg]? with
    | some (chunk, _) => (tileChunks s tile slot coll).any (fun c => c.num = chunk && decide (c.settled ≥ ((s.job slot).entry coll).passes))
    | none => false)
  | 3 => (x.job slot).flags.getLsbD (arg % 32)
  | 4 => !(s.job slot).attempt || (s.job slot).gate = .rerun || (s.job slot).gate = .reported1
  | _ => false

/-- A released WAIT clears its flag. -/
def takeEvent (tile slot : Nat) (i : DWord) (s : State) : State :=
  if iMod i 11 3 = 3 then
    s.updTile tile (fun x => x.updJob slot (fun t => { t with flags := t.flags &&& ~~~((1 : BitVec 32) <<< (iMod i 0 5)) }))
  else s

def waitUnit (tile slot : Nat) (c : CqEnt) (s : State) : Res :=
  if occurred s tile slot c.insn then .done (takeEvent tile slot c.insn s) else .wait

def waitRun (tile slot cq : Nat) (s : State) : State :=
  runHead tile slot cq (· = 0x02) (fun _ _ => ⟨1, 0, 0⟩) (fun _ => false) (fun c _ _ s => waitUnit tile slot c s) s

/-- A WAIT whose event has already occurred releases at once. -/
def execWait (t : Time) (tile : LTile) (slot : Slot) (cq : Fin 8) (s : State) : Out := .next (waitRun tile.val slot.val cq.val (tick t s))

/-- The awaited event has occurred, or the WAIT stays. -/
def execWaitRelease (t : Time) (tile : LTile) (slot : Slot) (cq : Fin 8) (s : State) : Out :=
  let s := tick t s
  .next (match cqHead s tile.val slot.val cq.val with
    | some e => if iOpc e.insn = 0x02 && occurred s tile.val slot.val e.insn then waitRun tile.val slot.val cq.val s else s
    | none => s)

end Sys2Proof.Machine
end

