-- ==== Sys2Proof/Machine/Pilot.lean ====
section
/-! DEFINITION. What the pilot core does to its tile: triggers and dispatch, its custom CSRs, and the two watchdogs (08 R222 to R228,
Tables TP-11 and TP-14; 18 R467). -/

namespace Sys2Proof.Machine

/-! ### Relocation (R224) -/

/-- ACC of the instruction is direct (Table TP-6). -/
def directAcc (i : DWord) : Bool :=
  match iOpc i with
  | 0x03 => isAp3 (iSrc i) || isAp3 (iDst i)
  | 0x0A => true | 0x0B => true | 0x0E => true | 0x10 => true | 0x11 => true
  | 0x0D => decide (1 ≤ iMod i 14 3)
  | _ => false

/-- What ordinal n adds to an instruction: to ACC, and to MOD [10:0], which holds the ORD of OPT and the ARG of WAIT. -/
def relocAcc (cshift n : Nat) (i : DWord) : Nat := if directAcc i then n * 2 ^ cshift else 0
def relocMod (n : Nat) (i : DWord) : Nat := if iOpc i = 0x0D || (iOpc i = 0x02 && iMod i 11 3 = 2) then n else 0

/-- Copy n of an instruction, each field within its width, and whether relocation carried one beyond it. -/
def relocate (cshift n : Nat) (i : DWord) : DWord × Bool :=
  (BitVec.ofNat 64 (i.toNat - iAcc i * 2 ^ 29 - iMod i 0 11 + (iAcc i + relocAcc cshift n i) % 2048 * 2 ^ 29 + (iMod i 0 11 + relocMod n i) % 2048),
   decide (iAcc i + relocAcc cshift n i ≥ 2048) || decide (iMod i 0 11 + relocMod n i ≥ 2048))

/-- CSHIFT of the collective of a job's binding. -/
def bindShift (s : State) (tile slot k : Nat) : Nat :=
  match (s.tile tile).binding slot k with
  | some b => ((s.job slot).entry (bColl b)).cshift
  | none => 0

/-! ### Triggers (Table TP-11, R223) -/

def trF (g : BitVec 128) (lo n : Nat) : Nat := bitsN g.toNat lo n
def trEvent (g : BitVec 128) : Nat := trF g 0 4
def trEach (g : BitVec 128) : Bool := bitN g.toNat 4
def trBind (g : BitVec 128) : Nat := trF g 8 8
def trArg (g : BitVec 128) : Nat := trF g 16 16
def trBlock (g : BitVec 128) : Nat := trF g 32 16
def trCount (g : BitVec 128) : Nat := trF g 48 16 + 1
def trLop (g : BitVec 128) : Word := BitVec.ofNat 32 (trF g 64 16 * 2 ^ 16 + trF g 80 16)

/-- An event of the FIFO (Table TP-14, TPEVQ). -/
def evCode (w : Word) : Nat := bitsN w.toNat 28 4
def evSlot (w : Word) : Nat := bitsN w.toNat 22 6
def evBind (w : Word) : Nat := bitsN w.toNat 16 6
def evArg (w : Word) : Nat := bitsN w.toNat 0 16

/-- A trigger matches an event, its binding and its ARG. -/
def trMatches (w : Word) (g : BitVec 128) : Bool :=
  trEvent g = evCode w && trBind g = evBind w && (trArg g = 0xFFFF || trArg g = evArg w)

/-- The instructions of one copy of a block. -/
def progBlock (s : State) (tile slot first count : Nat) (lop : Word) (each : Bool) (n : Nat) : List Disp :=
  (List.range count).map (fun k =>
    let i := (s.tile tile).imgInsn slot (first + k)
    let q := if each then relocate (bindShift s tile slot (iBind i)) n i else (i, false)
    ⟨slot, q.1, lop, q.2, false⟩)

/-- The block of a trigger is dispatched: once, or once for each directory ordinal of its binding (R224). -/
def runTrigger (tile slot : Nat) (g : BitVec 128) (s : State) : State :=
  let copies := if trEach g then (((s.tile tile).binding slot (trBind g)).map bNchunk).getD 0 else 1
  (List.range copies).foldl (fun s n =>
    dispatch tile (progBlock s tile slot (trBlock g) (trCount g) (trLop g) (trEach g) n)
      (traceDisp tile (bitsN (trLop g).toNat 16 16) (bitsN (trLop g).toNat 0 16) slot s)) s

/-- The firmware takes an event and dispatches the blocks of the matching triggers, in trigger-table order; none of a job that this plane does not serve
(R362). -/
def triggerDispatch (tile : Nat) (s : State) : State :=
  if tileDown s tile || stalled (s.tile tile) then s
  else match (s.tile tile).evq with
    | [] => s
    | w :: rest =>
      let s := s.updTile tile (fun x => { x with evq := rest })
      let t := (s.tile tile).job (evSlot w)
      if !t.loaded || (s.job (evSlot w)).away then s
      else (((List.range t.ntrig).map ((s.tile tile).imgTrig (evSlot w))).filter (trMatches w)).foldl
        (fun s g => runTrigger tile (evSlot w) g s) s

def execTriggerDispatch (t : Time) (tile : LTile) (s : State) : Out := .next (triggerDispatch tile.val (tick t s))

/-! ### Custom CSRs (Table TP-14) -/

/-- An access of a pilot core that runs: one whose last dispatch has stalled it makes none until there is room (R227). -/
def pilotDo (tile : Nat) (f : State → State) (s : State) : State := if tileDown s tile || stalled (s.tile tile) then s else f s

/-- TPCMDHI: one instruction for the job slot of TPRUNA, with the identifiers of TPLOP (R227). -/
def tpcmdhi (tile : Nat) (v : Word) (s : State) : State :=
  let x := s.tile tile
  dispatch tile [⟨bitsN x.tpruna.toNat 16 6, v ++ x.tpcmdlo, x.tplop, false, true⟩] s

def execTpcmdhiWrite (t : Time) (tile : LTile) (v : Word) (s : State) : Out := .next (pilotDo tile.val (tpcmdhi tile.val v) (tick t s))

/-- TPRUNB: a block of the image, relocated by n where REL is 1. -/
def tprunb (tile : Nat) (v : Word) (s : State) : State :=
  let x := s.tile tile
  let slot := bitsN x.tpruna.toNat 16 6
  let lop := x.tplop
  if (s.job slot).away then s
  else dispatch tile (progBlock s tile slot (bitsN x.tpruna.toNat 0 15) (bitsN v.toNat 0 15 + 1) lop (v.getLsbD 26) (bitsN v.toNat 15 11))
    (traceDisp tile (bitsN lop.toNat 16 16) (bitsN lop.toNat 0 16) slot s)

def execTprunbWrite (t : Time) (tile : LTile) (v : Word) (s : State) : Out := .next (pilotDo tile.val (tprunb tile.val v) (tick t s))

/-- TPEVQ: the head of the event FIFO, 0 when empty; the read pops it. -/
def tpevqRead (tile : Nat) (s : State) : State :=
  let q := (s.tile tile).evq
  (s.updTile tile (fun x => { x with evq := q.tail })).updDev (fun d => { d with rdata := (q.headD 0).zeroExtend 64 })

def execTpevqRead (t : Time) (tile : LTile) (s : State) : Out := .next (pilotDo tile.val (tpevqRead tile.val) (tick t s))

/-- TPFLAG: the firmware flag of a job is set for WAIT FLAG (Table TP-8). -/
def tpflag (tile : Nat) (v : Word) (s : State) : State :=
  let slot := bitsN v.toNat 21 6
  if !((s.tile tile).job slot).loaded then s
  else s.updTile tile (fun x => x.updJob slot (fun t => { t with flags := t.flags ||| ((1 : BitVec 32) <<< (bitsN v.toNat 0 5)) }))

def execTpflagWrite (t : Time) (tile : LTile) (v : Word) (s : State) : Out := .next (pilotDo tile.val (tpflag tile.val v) (tick t s))

/-- TPACCREL: a SPILLED accumulator tile becomes FREE (R81, Table AC-2). -/
def tpaccrel (tile : Nat) (v : Word) (s : State) : State :=
  let a := bitsN v.toNat 0 11
  if tagState ((s.tile tile).acc a).tag ≠ accSpilled then s
  else s.updTile tile (fun x => x.updAcc a (fun y => { Acc.reset with tag := retag accFree y.tag }))

def execTpaccrelWrite (t : Time) (tile : LTile) (v : Word) (s : State) : Out := .next (pilotDo tile.val (tpaccrel tile.val v) (tick t s))

/-- TPCELLPOP: the cell-window cell, at the head of the queue of TPCELLSEL, is popped. -/
def tpcellpop (tile : Nat) (s : State) : State :=
  let p := bitsN (s.tile tile).tpcellsel.toNat 0 6
  match iqCells s tile p with
  | [] => s
  | c :: _ => popIq tile p 1 ((slotOf c.cell.job s).getD 0) s

def execTpcellpopWrite (t : Time) (tile : LTile) (_v : Word) (s : State) : Out := .next (pilotDo tile.val (tpcellpop tile.val) (tick t s))

/-- The cell of the send window. -/
def sendWindow (x : TileS) : Cell := Cell.ofBytes ((List.range 112).map (fun k => BitVec.ofNat 8 (bitsN x.sendWin.toNat (8 * k) 8)))

/-- TPCELLSEND: the control cell of the send window takes the control path (R268). -/
def tpcellsend (tile : Nat) (s : State) : State :=
  let c := sendWindow (s.tile tile)
  if c.cls = clsCtl then sendCtlCell tile c s else s

def execTpcellsendWrite (t : Time) (tile : LTile) (_v : Word) (s : State) : Out := .next (pilotDo tile.val (tpcellsend tile.val) (tick t s))

/-- TPWDOG: the pilot watchdog starts again. -/
def tpwdog (tile : Nat) (s : State) : State := s.updTile tile (fun x => { x with wdogAt := s.time })

def execTpwdogWrite (t : Time) (tile : LTile) (_v : Word) (s : State) : Out := .next (pilotDo tile.val (tpwdog tile.val) (tick t s))

/-! ### Watchdogs (R467) -/

/-- A job's command queue holds instructions and has completed none for QTIME. -/
def queueExpired (s : State) (tile slot q : Nat) : Bool :=
  let t := (s.tile tile).job slot
  s.obs.qtime ≠ 0 && !(Tbl.get [] t.cqs q).isEmpty && Tbl.get 0 t.lastDone q + ms s.obs.qtime.toNat ≤ s.time

/-- A snapshot of an expiring watchdog; both watchdogs together take one (R476). -/
def watchdogSnapshot (tile cause : Nat) (s : State) : State :=
  if (s.tile tile).snap.any (fun q => q.at_ = s.time) then s else snapshot tile cause s

/-- The pilot watchdog of a powered tile expires PTIME after the last write of TPWDOG; a queue watchdog that expires with it is logged too (R476). -/
def pilotWatchdog (tile : Nat) (s : State) : State :=
  match physOf s tile with
  | none => s
  | some p =>
    if s.time < (s.tile tile).wdogAt + ms s.obs.ptime.toNat || !powered (s.island p) || s.dev.resetting.contains p then s
    else
      let both := (List.range 64).any (fun j => (List.range 8).any (fun q => queueExpired s tile j q)) && !tileDown s tile
      let s := trcReason 0x0C01 (logCode 0x0C01 (unitTile tile) (watchdogSnapshot tile 0x0C01 s))
      startIslandReset p (if both then trcReason 0x0C02 (logCode 0x0C02 (unitTile tile) s) else s)

def execPilotWatchdog (t : Time) (tile : LTile) (s : State) : Out := .next (pilotWatchdog tile.val (tick t s))

/-- Running instances of a job with a binding on a tile become INCOMPLETE. -/
def jobIncomplete (tile slot code : Nat) (s : State) : State :=
  ((s.tile tile).bindings slot).foldl (fun s b =>
    if (s.inst? slot (bColl b.2)).isSome then tileCause slot (bColl b.2) tile stIncomplete code s else s) s

/-- The queue watchdog: snapshot, code, the job's instructions on the tile discarded, its instances INCOMPLETE. -/
def queueWatchdog (tile slot q : Nat) (s : State) : State :=
  if !queueExpired s tile slot q || tileDown s tile then s
  else
    let s := trcReason 0x0C02 (logCode 0x0C02 (unitTile tile) (watchdogSnapshot tile 0x0C02 s))
    let s := s.updTile tile (fun x => { x with dispatchQ := x.dispatchQ.filter (fun d => d.slot ≠ slot) })
    jobIncomplete tile slot 0x0C02 (discardQueued tile slot (fun _ => true) s)

def execQueueWatchdog (t : Time) (tile : LTile) (slot : Slot) (cq : Fin 8) (s : State) : Out :=
  .next (queueWatchdog tile.val slot.val cq.val (tick t s))

end Sys2Proof.Machine
end

