-- ==== Sys2Proof/Machine/Regs.lean ====
section
/-! DEFINITION. The BAR0 map as the host reads and writes it, the diagnostic windows, and the pilot core's stores (15; Tables TP-13 and
TP-14; register tables of 10 to 14 and 16 to 18). -/

namespace Sys2Proof.Machine

/-! ### Fields -/

/-- A register word of fields: value, lowest bit. -/
def fields (l : List (Nat × Nat)) : Nat := (l.map (fun q => q.1 * 2 ^ q.2)).sum

def DevSt.code : DevSt → Nat
  | .boot => 0 | .ready => 1 | .enabled => 2 | .withdrawn => 3 | .restart => 4
def RingSt.code : RingSt → Nat
  | .disabled => 0 | .running => 1 | .paused => 2 | .stalled => 3 | .draining => 4 | .fault => 5
def PortSt.code : PortSt → Nat
  | .disabled => 0 | .detect => 1 | .training => 2 | .up => 3 | .retrain => 4 | .down => 5 | .loopback => 6 | .sleep => 7
def SleepSt.code : SleepSt → Nat
  | .active => 0 | .negotiating => 1 | .light => 2 | .deep => 3
def PState.code : PState → Nat
  | .on => 0 | .gated => 1 | .waking => 2 | .fused => 3

/-- What a read returned. -/
def answer (v : Nat) (s : State) : State := s.updDev (fun d => { d with rdata := BitVec.ofNat 64 v })

/-! ### Register blocks: 32-bit registers (none: no such register at the offset) -/

/-- Positions of a die that hold no logical tile, in ascending order (R404). -/
def spareList (s : State) (die : Nat) : List Nat := (List.range 34).filter (fun k => !s.dev.place.contains (some (34 * die + k)))

/-- State code of a position (R404). -/
def posState (s : State) (p : Nat) : Nat :=
  if s.dev.retired.contains p then 2 else if (s.island p).pst = .fused then 1 else 0

/-- DEV_FUSE_MAP of a die (Table RG-7). -/
def fuseMap (s : State) (die : Nat) : Nat :=
  let l := spareList s die
  let one (k : Nat) : Nat := match l[k]? with
    | some q => q + 64 * posState s (34 * die + q)
    | none => 0
  fields [(b2n (l.length > 2), 16), (one 1, 8), (one 0, 0)]

/-- DEV_ registers (Tables RG-2 to RG-9, FB-1). -/
def devReg (s : State) (off : Nat) : Option Nat :=
  let d := s.dev
  match off with
  | 0x00 => some 0x1B1284E3
  | 0x10 => some d.fwHm.toNat
  | 0x14 => some d.fwPc.toNat
  | 0x18 => some (fields [(d.numlvl.toNat, 8), (b2n d.pcslot, 1), (b2n d.hmslot, 0)])
  | 0x1C => some (fields [(b2n d.twinSel, 6), (d.fabPos.toNat, 0)])
  | 0x20 => some (fields [(b2n d.noFb, 1), (b2n d.en, 0)])
  | 0x24 => some (fields [(d.reason.toNat, 16), (d.st.code, 12), (b2n d.dwmiss, 2), (b2n d.accerr, 1), (b2n (!d.waiting.isEmpty), 0)])
  | 0x28 => some (fields [(b2n d.idValid, 31), (d.idSource.toNat, 29), (b2n d.idDup, 28), ((fallbackOf d).toNat, 12), (d.id.toNat, 0)])
  | 0x40 => some (fuseMap s 0)
  | 0x44 => some (fuseMap s 1)
  | 0x48 => some (fuseMap s 2)
  | 0x4C => some (fuseMap s 3)
  | 0xC0 => some (fields [(d.dwTarget.toNat, 24), (d.dwIndex.toNat, 0)])
  | _ => none

/-- TIDE_ registers (Tables SW-10 and SW-11). -/
def tideReg (s : State) (off : Nat) : Option Nat :=
  let x := s.tide
  match off with
  | 0x00 => some (fields [(b2n x.active, 1), (b2n x.en, 0)])
  | 0x04 => some (fields [(x.reason.toNat, 16), (b2n x.hold, 2), (b2n x.pending, 1), (b2n x.staged, 0)])
  | _ => none

/-- RING_CTL and RING_STAT of a ring (Table HI-13). -/
def ringReg (s : State) (r off : Nat) : Option Nat :=
  let x := s.ring r
  match off with
  | 0x10 => some (fields [(x.size.toNat, 24), (x.vec.toNat, 16), (x.coal.toNat, 8), (b2n x.irqen, 1), (b2n x.en, 0)])
  | 0x14 => some (fields [(x.reason.toNat, 16), (x.st.code, 0)])
  | _ => none

/-- Dirty granules of a transfer (R366): those written, and those whose last cell has not been sent. -/
def backlog (s : State) (x : Job) : Nat :=
  match x.dirty with
  | none => 0
  | some d =>
    let waiting := (((s.port 128).unsQ ++ (s.port 129).unsQ).filter (isCopy x.tag)).map (fun c => bitsN c.ksf 0 24)
    (dedupNat (d ++ waiting)).length

/-- TWIN_JSTAT of the job that TWIN_JOB names (Table TW-11). -/
def twinJstat (s : State) : Nat :=
  match namedJob s with
  | none => fields [(7, 29)]
  | some j =>
    let x := s.job j
    fields [(x.twin.code, 29), (b2n x.ready, 28), (b2n x.rejoin.isSome, 27), (b2n x.stale, 26),
      (min (2 ^ 26 - 1) (backlog s x), 0)]

/-- TWIN_ registers (Tables TW-8, TW-9, TW-11). -/
def twinReg (s : State) (off : Nat) : Option Nat :=
  let w := s.twin
  match off with
  | 0x00 => some (b2n w.en)
  | 0x04 => some (fields [(w.reason.toNat, 16), (w.dst.code, 14), (b2n s.dev.twinSel, 13), (b2n ((s.port 129).st = .up), 12),
      (b2n ((s.port 128).st = .up), 11), (b2n ((w.xfer.map (·.granted)).getD false), 10),
      (b2n ((w.xfer.map (fun x => x.granted && x.src)).getD false), 9)])
  | 0x10 => some (twinJstat s)
  | _ => none

/-- Lane status (R349). -/
def laneWord (l : Lane) : Nat :=
  fields [(l.ehmin.toNat, 24), (l.ewmin.toNat, 16), (b2n l.los, 15), (b2n l.lol, 14), (b2n l.polinv, 13), (b2n l.inuse, 12),
    (l.deskew.toNat, 0)]

/-- PORT_ and LANE_ registers of a set (Tables LN-9 to LN-12, FB-7; R405). -/
def portReg (s : State) (n off : Nat) : Option Nat :=
  let p := s.port n
  match off with
  | 0x00 => some (fields [(p.loop.toNat, 24), (b2n p.fecRes, 19), (b2n p.fecAuto, 18), (b2n p.fec, 17), (p.width.toNat, 14),
      (b2n p.coding, 13), (b2n p.clk, 12), (b2n (if n < 128 then p.en else s.twin.en), 0)])
  | 0x04 => some (fields [(p.reason.toNat, 16), (p.st.code, 12), (p.widthNow.toNat, 10), (b2n p.fecOn, 9), (b2n p.offV, 8),
      (p.laneSet.toNat, 0)])
  | 0x08 => some (fields [(p.txOff.toNat, 18), (p.rxOff.toNat, 4), (b2n p.tau, 3)])
  | 0x0C => some (fields [(p.rxd.toNat, 16), (p.asym.toNat, 0)])
  | 0x10 => some (if n < 128 then fields [(p.slpReason.toNat, 16), (p.slp.code, 8), (b2n p.autowake, 3)] else 0)
  | _ => if 0x40 ≤ off && off < 0x60 && off % 4 = 0 then some (laneWord (p.lane ((off - 0x40) / 4))) else none

/-- CLK_ and PWR_ registers (Tables CP-11 to CP-16, PK-11); those of fused positions read 0 but for PSTATE (R436). -/
def clkReg (s : State) (off : Nat) : Option Nat :=
  if off < 0x220 then
    let p := off / 4
    let i := s.island p
    if i.pst = .fused then some 0
    else some (fields [(b2n i.held, 15), (b2n i.busy, 14), (b2n i.auto, 13), (floorOf s p, 8), (i.cur.toNat, 4), (i.req.toNat, 0)])
  else if off = 0x404 then some (fields [(b2n s.clk.ppsPresent, 2), (b2n s.clk.ppsOutEn, 1), (b2n s.clk.ppsInEn, 0)])
  else if off = 0x400 then some (fields [(s.clk.reason.toNat, 16), (s.clk.reflost.toNat, 4), (s.clk.reflock.toNat, 0)])
  else none

def pwrReg (s : State) (off : Nat) : Option Nat :=
  let c := s.clk
  if off < 0x220 then
    let i := s.island (off / 4)
    some (fields [(i.pst.code, 6), (b2n (i.gate && i.pst ≠ .fused), 0)])
  else if off = 0x400 then some (fields [(c.pwrReason.toNat, 16), (b2n c.bor, 2), (b2n c.warn, 1), (b2n c.hold, 0)])
  else if off = 0x404 then some (fields [(c.cause.toNat, 26), (c.failB.toNat, 12), (c.failA.toNat, 8), (b2n c.nofailover, 0)])
  else none

/-- MON_ registers (Tables DP-8, DP-9, DP-11). -/
def monReg (s : State) (off : Nat) : Option Nat :=
  let c := s.clk
  if off = 0 then some (fields [(c.monReason.toNat, 16), (b2n c.autospare, 0)])
  else if off = 4 then some (fields [(c.spareSt.toNat, 29), (c.spareTile.toNat, 0)])
  else if 0x400 ≤ off && off < 0x620 then
    let p := (off - 0x400) / 4
    let i := s.island p
    some (fields [(i.slack.toNat, 24), (i.droops.toNat, 16), (b2n i.pred, 15), (b2n i.alarm, 14), (b2n i.warn, 13),
      (b2n (c.listed.contains p), 0)])
  else none

/-- EVR_ registers; EVR_SEAL reads 0 (Table OB-15, R475). -/
def evrReg (s : State) (off : Nat) : Option Nat :=
  let o := s.obs
  if off = 0 then some 0
  else if off = 4 then some (fields [(o.evrReason.toNat, 16), (b2n o.clearing, 3), (b2n o.wready, 2), (b2n o.wmiss, 1), (b2n o.flashOk, 0)])
  else if off = 0x20 then some (fields [((o.agg (o.rateSel.toNat % 65536)).rate.toNat, 24), (o.rateSel.toNat % 65536, 0)])
  else if off = 0x24 then some o.scope.toNat
  else if 0x100 ≤ off && off < 0x160 then some 0
  else none

/-- TRC_ registers (Tables OB-13 and OB-14). -/
def trcReg (s : State) (off : Nat) : Option Nat :=
  let o := s.obs
  let die (k : Nat) : TraceDie := Tbl.get TraceDie.reset o.trace k
  if off = 0 then some (fields [(b2n o.afreeze, 2), (b2n o.disp, 1), (b2n o.wrap, 0)])
  else if off = 4 then some (fields ((o.trcReason.toNat, 16) :: (List.range 4).flatMap (fun k =>
    [(b2n (die k).armed, 12 + k), (b2n ((die k).full && !o.wrap), 8 + k)])))
  else if off = 8 then some (fields [(o.qtime.toNat, 16), (o.ptime.toNat, 0)])
  else if 0x40 ≤ off && off < 0x60 then some (Tbl.get 0 o.psel ((off - 0x40) / 4)).toNat
  else none

/-- The MSI-X table and pending bits, by words (R373; log entry 6). -/
def msixReg (s : State) (a : Nat) : Option Nat :=
  if a < 0x03FF0400 then
    let k := a - 0x03FF0000
    some (bitsN (Tbl.get msixMasked s.host.msix (k / 16)).toNat (8 * (k % 16)) 32)
  else if a = 0x03FF8000 then some (bitsN s.host.pba.toNat 0 32)
  else if a = 0x03FF8004 then some (bitsN s.host.pba.toNat 32 32)
  else none

/-- The 32-bit register at an address that 4 divides (Table RG-1). -/
def reg32 (s : State) (a : Nat) : Option Nat :=
  if a < 0x100 then devReg s a
  else if 0x1000 ≤ a && a < 0x1020 then tideReg s (a - 0x1000)
  else if 0x2000 ≤ a && a < 0x2280 then ringReg s ((a - 0x2000) / 0x40) (a % 0x40)
  else if 0x3000 ≤ a && a < 0x3018 then twinReg s (a - 0x3000)
  else if 0x4000 ≤ a && a < 0x4100 then some (jobWord s ((a - 0x4000) / 4))
  else if 0x10000 ≤ a && a < 0x20400 then portReg s ((a - 0x10000) / 0x200) (a % 0x200)
  else if 0x40000 ≤ a && a < 0x44000 then clkReg s (a - 0x40000)
  else if 0x44000 ≤ a && a < 0x48000 then pwrReg s (a - 0x44000)
  else if 0x48000 ≤ a && a < 0x50000 then monReg s (a - 0x48000)
  else if 0x50000 ≤ a && a < 0x51000 then evrReg s (a - 0x50000)
  else if 0x58000 ≤ a && a < 0x59000 then trcReg s (a - 0x58000)
  else if 0x03FF0000 ≤ a then msixReg s a
  else none

/-! ### 64-bit registers and counters -/

/-- An address of the counter space that Table OB-1 covers (R457). -/
def counterAt (a : Nat) : Bool :=
  (0x400000 ≤ a && a < 0x420800) || (0x480000 ≤ a && a < 0x4C0000) || (0x4C0000 ≤ a && a < 0x500000) || (0x500000 ≤ a && a < 0x600000) ||
  (0x600000 ≤ a && a < 0x602000) || (0x700000 ≤ a && a < 0x710000)

/-- The 8 bytes of the counter space at an address: a counter, or part of an attribution bin (Table OB-7). -/
def counterVal (s : State) (a : Nat) : Nat :=
  if 0x700000 ≤ a then
    leNat ((binBytes (Tbl.get Bin.reset s.obs.bins ((a - 0x700000) / 64))).drop (a % 64) |>.take 8)
  else (Tbl.get 0 s.obs.ctrs a).toNat

/-- EVR_SPAN: newest and oldest SEQ of the source that EVR_CURSOR selects (R473). -/
def evrSpan (s : State) : Nat :=
  match (sourceRecs s (s.obs.cursor.getLsbD 63)).map recSeq with
  | [] => 0
  | r :: rs => fields [(rs.foldl max r, 32), (rs.foldl min r, 0)]

/-- MON_RETIRE of a die (Table DP-10). -/
def monRetire (s : State) (die : Nat) : Nat :=
  fields (((Tbl.get 0 s.clk.retirePos die).toNat, 50) :: (List.range 34).map (fun k => (b2n (s.clk.listed.contains (34 * die + k)), k)))

/-- The 64-bit register at an address that 8 divides (R401). -/
def reg64 (s : State) (a : Nat) : Option Nat :=
  if a = 0x08 then some s.dev.serial.toNat
  else if a = 0x80 then some (s.time % 2 ^ 64)
  else if a = 0x1008 then some s.tide.switchAt.toNat
  else if a = 0x1010 then some (s.tide.now % 2 ^ 48)
  else if 0x2000 ≤ a && a < 0x2280 then
    let x := s.ring ((a - 0x2000) / 0x40)
    match a % 0x40 with
    | 0x00 => some x.base.toNat
    | 0x08 => some x.cbase.toNat
    | 0x18 => some (fields [(x.cpi.toNat, 32), (x.fetch.toNat, 0)])
    | _ => none
  else if a = 0x2800 then some s.host.dbbase.toNat
  else if a = 0x3008 then some (fields [(s.twin.jobStep.toNat, 24), (s.twin.jobTag.toNat, 0)])
  else if 0x48010 ≤ a && a < 0x48030 then some (monRetire s ((a - 0x48010) / 8))
  else if a = 0x50008 then some s.obs.cursor.toNat
  else if a = 0x50010 then some (evrSpan s)
  else if a = 0x50018 then some (Config.freeNonce s.obs.nonceNo).toNat
  else if counterAt a then some (counterVal s a)
  else none

/-! ### Diagnostic windows (R408, R409) -/

/-- Byte k of a value. -/
def byteAt (v k : Nat) : Byte := BitVec.ofNat 8 (bitsN v (8 * k) 8)

/-- Header and slice map of a tide bank (Tables SW-5 and SW-6). -/
def tideHeader (b : TideBank) : List Byte :=
  leBytes 4 0x45444954 ++ leBytes 4 1 ++ leBytes 4 b.len ++ leBytes 4 b.device.toNat ++ leBytes 4 b.crc.toNat ++ leBytes 4 b.tableid.toNat ++
  leBytes 40 0 ++ (List.range 64).flatMap (fun k => leBytes 4 (Tbl.get 0 b.slices k).toNat)

/-- TILEMAP record of a logical tile (Table RG-10). -/
def tileMapRec (s : State) (n : Nat) : Nat :=
  fields [((physOf s n).getD 0, 0), (b2n (s.dev.moves.any (·.tile = n)), 8), (b2n (physOf s n).isNone, 9)]

def tideBank (s : State) (k : Nat) : TideBank := if k = 0 then s.tide.bank0 else s.tide.bank1

/-- Byte k of the selected target; none beyond its size (Table RG-10). -/
def windowByte (s : State) (target index k : Nat) : Option Byte :=
  let x := s.tile index
  let upto (size : Nat) (b : Byte) : Option Byte := if k < size then some b else none
  match target with
  | 0x01 => upto 0x2000 (byteAt (x.acc (k / 4)).tag.toNat (k % 4))
  | 0x02 => (dumpSkips x)[k]?
  | 0x03 => upto 0x2000 (byteAt (Tbl.get 0 x.bind (k / 32)).toNat (k % 32))
  | 0x04 => upto 0x40000 (x.prog.read k)
  | 0x05 => upto 0x8000 (byteAt (Tbl.get 0 s.fabric.routes (k / 8)).toNat (k % 8))
  | 0x06 => upto 0x80000 (byteAt (Tbl.get 0 s.fabric.groups (k / 32)).toNat (k % 32))
  | 0x07 => upto 0x1000 ((offsetBytes (s.port (k / 32)).offset).getD (k % 32) 0)
  | 0x08 =>
    let b := tideBank s (index / 128)
    upto (4 * b.len) (byteAt (b.ent (index % 128) (k / 4)).toNat (k % 4))
  | 0x09 => (tideHeader (tideBank s index))[k]?
  | 0x0A => upto 0x100 (byteAt (tileMapRec s (k / 2)) (k % 2))
  | _ => none

/-- The window misses (R409): no such target or unit, a tile being moved, a gated island. -/
def windowMiss (s : State) (target index : Nat) : Bool :=
  if target = 0 || 0x0A < target then true
  else if target ≤ 4 then index ≥ 128 || dumpBarred s index
  else if target = 8 then index ≥ 256
  else if target = 9 then index ≥ 2
  else index ≠ 0

/-- A read of n bytes of the aperture. -/
def windowRead (off n : Nat) (s : State) : State :=
  let target := s.dev.dwTarget.toNat
  let index := s.dev.dwIndex.toNat
  if windowMiss s target index then markDev 0 (s.updDev (fun d => { d with dwmiss := true, rdata := 0 }))
  else answer (leNat ((List.range n).map (fun k => (windowByte s target index (off + k)).getD 0))) s

/-- A read of n bytes of the event-recorder window (R473). -/
def evrWindowRead (off n : Nat) (s : State) : State :=
  if !s.obs.wready then (s.updObs (fun o => { o with wmiss := true, wmissAt := s.time + 1 })).updDev (fun d => { d with rdata := 0 })
  else answer (bitsN (s.obs.window.getD (off / 64) 0).toNat (8 * (off % 64)) (8 * n)) s

/-! ### Reads (R400, R401) -/

def inAperture (a : Nat) : Bool := 0x01000000 ≤ a && a < 0x01100000
def inEvrWindow (a : Nat) : Bool := 0x51000 ≤ a && a < 0x52000

/-- An access that R400 handles as an error: of another size or alignment, to an unassigned address, or a write to the aperture. -/
def accessBad (s : State) (a n : Nat) (write : Bool) : Bool :=
  let there (b : Nat) : Bool := (reg32 s b).isSome || (reg64 s (b / 8 * 8)).isSome || inEvrWindow b || (inAperture b && !write)
  !(n = 4 || n = 8) || a % n ≠ 0 || !there a || (n = 8 && !there (a + 4))

/-- A 4-byte read. A 64-bit register's low half fills its read shadow; its high half is the shadow. -/
def read4 (a : Nat) (s : State) : State :=
  if inAperture a then windowRead (a - 0x01000000) 4 s
  else if inEvrWindow a then evrWindowRead (a - 0x51000) 4 s
  else match reg64 s a, reg64 s (a - 4), reg32 s a with
    | some v, _, _ =>
      if a % 8 = 0 then
        answer (bitsN v 0 32) (s.updDev (fun d => { d with rshadow := Tbl.set 0 d.rshadow a (BitVec.ofNat 32 (bitsN v 32 32)) }))
      else answer (Tbl.get 0 s.dev.rshadow (a - 4)).toNat s
    | none, some _, _ => if a % 8 = 4 then answer (Tbl.get 0 s.dev.rshadow (a - 4)).toNat s else accErr (answer 0 s)
    | none, none, some w => answer w s
    | none, none, none => accErr (answer 0 s)

/-- A read of 4 or 8 bytes: a 64-bit register at one instant, two 32-bit registers one after the other. -/
def readReg (a n : Nat) (s : State) : State :=
  if accessBad s a n false then accErr (answer 0 s)
  else if n = 4 then read4 a s
  else if inAperture a then windowRead (a - 0x01000000) 8 s
  else if inEvrWindow a then evrWindowRead (a - 0x51000) 8 s
  else match reg64 s a with
    | some v => answer v s
    | none =>
      let s := read4 a s
      let lo := s.dev.rdata.toNat
      let s := read4 (a + 4) s
      answer (lo + 2 ^ 32 * s.dev.rdata.toNat) s

/-- A read once the device has booted; before that every address is unassigned (R435), and after a thermal trip nothing is served (R498). -/
def bar0Read (t : Time) (f : State → State) (s : State) : State :=
  let s := tick t s
  if s.clk.thermtrip then answer 0 s else if s.dev.st = .boot then accErr (answer 0 s) else f s

def execLowHalfRead (t : Time) (addr : Word) (size : Nat) (s : State) : Out := .next (bar0Read t (readReg addr.toNat size) s)

def execDiagWindowRead (t : Time) (off : Word) (size : Nat) (s : State) : Out := .next (bar0Read t (windowRead off.toNat size) s)

/-! ### Writes (R400, R402, R406) -/

/-- Registers that hold something while an enable bit of their block is 1 (Table RG-8). -/
def writeBase (r : Nat) (v : DWord) (s : State) : State :=
  if (s.ring r).en then s else s.updRing r (fun x => { x with base := v &&& 0xFFFFFFFFFFFFF000 })
def writeCbase (r : Nat) (v : DWord) (s : State) : State :=
  if (s.ring r).en || r ≥ 8 then s else s.updRing r (fun x => { x with cbase := v &&& 0xFFFFFFFFFFFFF000 })
def writeDbbase (v : DWord) (s : State) : State :=
  if (List.range 10).any (fun r => (s.ring r).en) then s else s.updHost (fun h => { h with dbbase := v &&& 0xFFFFFFFFFFFFF000 })
def writeTideSwitch (v : DWord) (s : State) : State :=
  if s.tide.en then s else s.updTide (fun x => { x with switchAt := v.setWidth 48 })

/-- A write of a 64-bit register; a read-only one ignores it. -/
def write64 (a : Nat) (v : DWord) (s : State) : State :=
  if a = 0x1008 then writeTideSwitch v s
  else if 0x2000 ≤ a && a < 0x2280 then
    let r := (a - 0x2000) / 0x40
    match a % 0x40 with
    | 0x00 => writeBase r v s
    | 0x08 => writeCbase r v s
    | _ => s
  else if a = 0x2800 then writeDbbase v s
  else if a = 0x3008 then s.updTwin (fun w => { w with jobStep := v.extractLsb' 24 40, jobTag := v.extractLsb' 0 12 })
  else if 0x48010 ≤ a && a < 0x48030 then writeMonRetire ((a - 0x48010) / 8) v s
  else if a = 0x50008 then writeCursor v s
  else if counterAt a then writeHwm a s
  else s

/-- DEV_STAT: DWMISS and ACCERR are cleared by a 1. -/
def writeDevStat (v : Word) (s : State) : State :=
  s.updDev (fun d => { d with
    dwmiss := w1c d.dwmiss (v.getLsbD 2) (Tbl.get 0 d.w1cAt 0) s, accerr := w1c d.accerr (v.getLsbD 1) (Tbl.get 0 d.w1cAt 1) s })

def writeDwsel (v : Word) (s : State) : State := s.updDev (fun d => { d with dwTarget := v.extractLsb' 24 8, dwIndex := v.extractLsb' 0 16 })

/-- PORT_DELAY: ASYM on a port of embedded clock (Table LN-12). -/
def writePortDelay (n : Nat) (v : Word) (s : State) : State :=
  if (s.port n).clk then s.updPort n (fun p => { p with asym := v.extractLsb' 0 16 }) else s

def writeMonIsland (p : Nat) (v : Word) (s : State) : State :=
  let at_ (k : Nat) : Nat := Tbl.get 0 s.clk.w1cAt (8 + 4 * p + k)
  s.updIsland p (fun i => { i with
    pred := w1c i.pred (v.getLsbD 15) (at_ 0) s, alarm := w1c i.alarm (v.getLsbD 14) (at_ 1) s, warn := w1c i.warn (v.getLsbD 13) (at_ 2) s })

/-- CLK_STAT: REFLOST is cleared bit by bit (Table CP-13). -/
def writeClkStat (v : Word) (s : State) : State :=
  s.updClk (fun c => { c with reflost := BitVec.ofNat 4 ((List.range 4).map (fun d =>
    b2n (w1c (c.reflost.getLsbD d) (v.getLsbD (4 + d)) (Tbl.get 0 c.w1cAt d) s) * 2 ^ d)).sum })

/-- TRC_WDOG: a PTIME below 10 is a reserved value (Table OB-14, R475). -/
def writeWdog (v : Word) (s : State) : State :=
  if bitsN v.toNat 0 16 < 10 then trcReason 0x0C05 s
  else s.updObs (fun o => { o with qtime := v.extractLsb' 16 16, ptime := v.extractLsb' 0 16 })

/-- EVR_RATE: the rate of a code's bucket; the tokens used stay used, within the new capacity (R471; log entry 11). -/
def writeRate (v : Word) (s : State) : State :=
  let code := bitsN v.toNat 0 16
  let sel := BitVec.ofNat 24 (bitsN v.toNat 24 8 * 2 ^ 16 + code)
  s.updObs (fun o => { o with
    rateSel := sel
    aggs := Tbl.upd Agg.reset o.aggs code (fun a =>
      { a with rate := v.extractLsb' 24 8, tokens := min a.tokens (v.extractLsb' 24 8).toNat }) })

/-- A word of the MSI-X table; a vector unmasked with its pending bit set sends its message (log entry 6). -/
def writeMsix (k : Nat) (v : Word) (s : State) : State :=
  let n := k / 16
  let lo := 8 * (k % 16)
  let e := Tbl.get msixMasked s.host.msix n
  let m : BitVec 128 := (0xFFFFFFFF : BitVec 128) <<< lo
  let e := (e &&& ~~~m) ||| ((v.setWidth 128) <<< lo)
  let s := s.updHost (fun h => { h with msix := Tbl.set msixMasked h.msix n e })
  if !e.getLsbD 96 && s.host.pba.getLsbD n then
    sendMsix (BitVec.ofNat 6 n) (s.updHost (fun h => { h with pba := h.pba &&& ~~~((1 : BitVec 64) <<< n) }))
  else s

/-- A write of a 32-bit register; one of read-only fields ignores it. EVR_CTL.CLEAR comes as SEALED_CLEAR. -/
def write32 (a : Nat) (v : Word) (s : State) : State :=
  if a = 0x20 then writeDevCtl v s
  else if a = 0x24 then writeDevStat v s
  else if a = 0x28 then writeDevId v s
  else if a = 0xC0 then writeDwsel v s
  else if a = 0x1000 then writeTideCtl v s
  else if 0x2000 ≤ a && a < 0x2280 then (if a % 0x40 = 0x10 then writeRingCtl ((a - 0x2000) / 0x40) v s else s)
  else if a = 0x3000 then writeTwinCtl v s
  else if 0x10000 ≤ a && a < 0x20400 then
    let n := (a - 0x10000) / 0x200
    match a % 0x200 with
    | 0x00 => writePortCtl n v s
    | 0x0C => writePortDelay n v s
    | 0x10 => if n < 128 then writePortSleep n v s else s
    | _ => s
  else if 0x40000 ≤ a && a < 0x40220 then writeClkTile ((a - 0x40000) / 4) v s
  else if a = 0x40400 then writeClkStat v s
  else if a = 0x40404 then s.updClk (fun c => { c with ppsOutEn := v.getLsbD 1, ppsInEn := v.getLsbD 0 })
  else if 0x44000 ≤ a && a < 0x44220 then writePwrTile ((a - 0x44000) / 4) v s
  else if a = 0x44400 then s.updClk (fun c => { c with bor := c.bor && !v.getLsbD 2, warn := w1c c.warn (v.getLsbD 1) (Tbl.get 0 c.w1cAt 4) s })
  else if a = 0x44404 then s.updClk (fun c => { c with nofailover := v.getLsbD 0 })
  else if a = 0x48000 then s.updClk (fun c => { c with autospare := v.getLsbD 0 })
  else if a = 0x48004 then writeMonSpare v s
  else if 0x48400 ≤ a && a < 0x48620 then writeMonIsland ((a - 0x48400) / 4) v s
  else if a = 0x50004 then s.updObs (fun o => { o with wmiss := w1c o.wmiss (v.getLsbD 1) o.wmissAt s })
  else if a = 0x50020 then writeRate v s
  else if a = 0x50024 then s.updObs (fun o => { o with scope := v.extractLsb' 0 2 })
  else if 0x50100 ≤ a && a < 0x50160 then s.updObs (fun o => { o with sealed := o.sealed.writeN (a - 0x50100) (leBytes 4 v.toNat) })
  else if a = 0x58000 then writeTrcCtl v s
  else if a = 0x58008 then writeWdog v s
  else if 0x58040 ≤ a && a < 0x58060 then writePsel ((a - 0x58040) / 4) v s
  else if 0x03FF0000 ≤ a && a < 0x03FF0400 then writeMsix (a - 0x03FF0000) v s
  else s

/-- A 64-bit register stands at an address that 8 divides. -/
def is64 (s : State) (a : Nat) : Bool := a % 8 = 0 && (reg64 s a).isSome

/-- The low half is held in the write shadow (R402). -/
def writeLow (a : Nat) (v : Word) (s : State) : State := s.updDev (fun d => { d with wshadow := Tbl.set none d.wshadow a (some v) })

/-- The high half writes both halves: the held low half, or the current one. -/
def writeHigh (a : Nat) (v : Word) (s : State) : State :=
  let low := (Tbl.get none s.dev.wshadow a).getD (BitVec.ofNat 32 ((reg64 s a).getD 0))
  write64 a (v ++ low) (s.updDev (fun d => { d with wshadow := Tbl.set none d.wshadow a none }))

/-- A 4-byte write. -/
def write4 (a : Nat) (v : Word) (s : State) : State :=
  if is64 s a then writeLow a v s
  else if a % 8 = 4 && is64 s (a - 4) then writeHigh (a - 4) v s
  else if (reg32 s a).isSome then write32 a v s
  else if inEvrWindow a then s
  else accErr s

/-- A write of 4 or 8 bytes: a 64-bit register at once, two 32-bit registers lower address first. -/
def writeReg (a n : Nat) (v : DWord) (s : State) : State :=
  if accessBad s a n true then accErr s
  else if n = 4 then write4 a (v.setWidth 32) s
  else if is64 s a then write64 a v s
  else write4 (a + 4) (v.extractLsb' 32 32) (write4 a (v.setWidth 32) s)

def execLowHalfWrite (t : Time) (addr : Word) (v : Word) (s : State) : Out :=
  .next (bar0 t (fun s => if is64 s addr.toNat then writeLow addr.toNat v s else s) s)

def execHighHalfWrite (t : Time) (addr : Word) (v : Word) (s : State) : Out :=
  .next (bar0 t (fun s => if is64 s (addr.toNat - 4) then writeHigh (addr.toNat - 4) v s else s) s)

def execAccessError (t : Time) (addr : Word) (size : Nat) (write : Bool) (s : State) : Out :=
  let s := tick t s
  .next (if s.clk.thermtrip then s else if s.dev.st = .boot || accessBad s addr.toNat size write then accErr (if write then s else answer 0 s) else s)

/-! ### Stores of a pilot core (Tables TP-13 and TP-14) -/

/-- A trap of the pilot core: mcause, mepc, mtval, and mstatus with MIE moved to MPIE and MPP machine mode (log entry 33). -/
def pilotTrap (tile cause tval : Nat) (s : State) : State :=
  s.updTile tile (fun x =>
    let st := (Tbl.get 0 x.csrs 1).toNat
    let st := st - bitsN st 7 1 * 128 - bitsN st 3 1 * 8 - bitsN st 11 2 * 2048 + bitsN st 3 1 * 128 + 3 * 2048
    let c := Tbl.set 0 (Tbl.set 0 x.csrs 1 (BitVec.ofNat 32 st)) 4 (BitVec.ofNat 32 cause)
    let c := Tbl.set 0 (Tbl.set 0 c 5 (Tbl.get 0 x.csrs 0)) 6 (BitVec.ofNat 32 tval)
    { x with csrs := c })

/-- A write of a CSR: the custom ones of Table TP-14, and the machine CSRs that a dump shows. -/
def pilotCsrWrite (tile a : Nat) (v : Word) (s : State) : State :=
  let setTile (f : TileS → TileS) : State := s.updTile tile f
  let setCsr (k : Nat) (w : Word) : State := s.updTile tile (fun x => { x with csrs := Tbl.set 0 x.csrs k w })
  match a with
  | 0x300 => setCsr 1 v
  | 0x304 => setCsr 2 v
  | 0x344 => setCsr 3 (v &&& 0xFFFFF7FF)
  | 0x342 => setCsr 4 v
  | 0x341 => setCsr 5 (v &&& 0xFFFFFFFE)
  | 0x343 => setCsr 6 v
  | 0x7C0 => setTile (fun x => { x with tpcmdlo := v })
  | 0x7C1 => tpcmdhi tile v s
  | 0x7C2 => setTile (fun x => { x with tpruna := v &&& 0x003F7FFF })
  | 0x7C3 => tprunb tile v s
  | 0x7C4 => setTile (fun x => { x with tplop := v })
  | 0x7C5 => s
  | 0x7C6 => tpflag tile v s
  | 0x7C7 => tpaccrel tile v s
  | 0x7C8 => setTile (fun x => { x with tpcellsel := v &&& 0x3F })
  | 0x7C9 => tpcellpop tile s
  | 0x7CA => tpcellsend tile s
  | 0x7CB => tpwdog tile s
  | 0x7CC => setTile (fun x => { x with tpqsel := v &&& 0x3F })
  | _ => pilotTrap tile 2 0 s

/-- The send window with n bytes written at an offset. -/
def sendWinWrite (off : Nat) (bs : List Byte) (w : BitVec 896) : BitVec 896 :=
  (bs.zipIdx off).foldl (fun (w : BitVec 896) (q : Byte × Nat) =>
    (w &&& ~~~((0xFF : BitVec 896) <<< (8 * q.2))) ||| ((q.1.setWidth 896) <<< (8 * q.2))) w

/-- A store of n bytes to the pilot core's memory map; any other address raises an access fault. -/
def pilotStore (tile a n : Nat) (v : DWord) (s : State) : State :=
  let bs := leBytes n v.toNat
  if 0x00010000 ≤ a && a < 0x00020000 then s.updTile tile (fun x => { x with dmem := x.dmem.writeN (a - 0x00010000) bs })
  else if 0x01000000 ≤ a && a < 0x01040000 then s.updTile tile (fun x => { x with prog := x.prog.writeN (a - 0x01000000) bs })
  else if 0x02000080 ≤ a && a < 0x020000F0 then s.updTile tile (fun x => { x with sendWin := sendWinWrite (a - 0x02000080) bs x.sendWin })
  else if 0x03000000 ≤ a && a < 0x03001000 then s.updTile tile (fun x => { x with mailbox := x.mailbox.writeN (a - 0x03000000) bs })
  else pilotTrap tile 7 a s

/-- A register write: over BAR0, or by a tile's pilot core that runs. -/
def execRegisterWrite (t : Time) (bus : RegBus) (addr : Word) (size : Nat) (v : DWord) (s : State) : Out :=
  .next (match bus with
    | .host => bar0 t (writeReg addr.toNat size v) s
    | .csr tile => pilotDo tile.val (pilotCsrWrite tile.val addr.toNat (v.setWidth 32)) (tick t s)
    | .mem tile => pilotDo tile.val (pilotStore tile.val addr.toNat size v) (tick t s))

end Sys2Proof.Machine
end

