-- ==== Sys2Proof/Machine/Replay.lean ====
section
/-! DEFINITION. STEP_REPLAY (06 R168, R169; 14 R387). -/

namespace Sys2Proof.Machine

/-- The manifest record that holds an attempt of a step, if any (R168; log entry 26). -/
def recordOf (x : Job) (step attempt : Nat) : Option Nat :=
  (List.range 8).find? (fun r =>
    let a := r * x.manRec
    leNat (x.manifest.readN a 5) = step && leNat (x.manifest.readN (a + 5) 1) = attempt && leNat (x.manifest.readN (a + 7) 1) = 1)

/-- Step positions that a STEP_REPLAY checks (R384). -/
def replayPositions (x : Job) (d : BitVec 512) (data : List Byte) : List Nat :=
  if bitN (descN d 30 1) 0 then List.range x.u else dedupNat ((recsOf 2 data).map leNat)

/-- The record of a checked position as it is first written (R387). -/
def replayRecord (coll epoch : Nat) : List Byte := leBytes 2 (coll % 4096 + 4096 * (epoch % 16)) ++ List.replicate 14 0

/-- The code that refuses a STEP_REPLAY. -/
def replayCode (s : State) (slot : Nat) (d : BitVec 512) (data : List Byte) : Option Nat :=
  let x := s.job slot
  firstCode [
    codeIf (x.st ≠ .running && x.st ≠ .stopped) 0x0504,
    codeIf (!(runningColls s slot).isEmpty || x.replay.isSome) 0x070E,
    codeIf (recordOf x (descN d 24 5) (descN d 29 1)).isNone 0x070D,
    codeIf ((replayPositions x d data).any (fun p => p ≥ x.u)) 0x040B,
    codeIf (descN d 40 8 = 0) 0x040F]

/-- Arm one replay instance: its epoch is the model's free value (log entry 2), its start is now. -/
def armReplay (slot coll : Nat) (k : Nat) (s : State) : State :=
  let e := (s.job slot).entry coll
  startInst slot coll ((Config.freeWord (s.free + k)).toNat % 16) s.time (s.time + us e.late) (BitVec.ofNat 32 e.depoch) s

/-- The collectives of the positions that a STEP_REPLAY checks. -/
def replayColls (y : Job) (d : BitVec 512) (data : List Byte) : List Nat :=
  (replayPositions y d data).filterMap (fun p => (y.steps[p]?).map (·.1.toNat))

/-- The replay that a STEP_REPLAY begins; its late limit is the latest of its instances (R169). -/
def newReplay (y : Job) (x : Exec) (data : List Byte) (now : Time) : Replay where
  rec_ := (recordOf y (descN x.desc 24 5) (descN x.desc 29 1)).getD 0
  positions := replayPositions y x.desc data
  saved := (replayColls y x.desc data).map (fun c => ((y.entry c).epoch, (y.entry c).status))
  deadline := (replayColls y x.desc data).foldl (fun a c => Nat.max a (now + us (y.entry c).late)) now
  contrib := []
  sums := []
  x := { x with started := true }
  resaddr := descN x.desc 40 8

/-- The instances of a replay are armed and its records written (R387). -/
def beginReplay (slot : Nat) (x : Exec) (data : List Byte) (s : State) : State :=
  let y := s.job slot
  let colls := replayColls y x.desc data
  let s := s.updJob slot (fun z => { z with replay := some (newReplay y x data s.time) })
  let s := colls.zipIdx.foldl (fun s c => armReplay slot c.1 c.2 s) s
  let s := { s with free := s.free + colls.length }
  colls.zipIdx.foldl (fun s c => hostWrite (descN x.desc 40 8 + 16 * c.2) (replayRecord c.1 ((s.job slot).entry c.1).epoch.toNat) s) s

/-- STEP_REPLAY begins: instances armed, records written, STARTED. -/
def stepReplay (x : Exec) (data : List Byte) (s : State) : State :=
  match slotOf (descJob x.desc) s with
  | none => refuse x 0x0503 s
  | some slot =>
    match replayCode s slot x.desc data with
    | some c => refuse x c s
    | none =>
      postCompletion x stStarted 0 (leBytes 2 (replayPositions (s.job slot) x.desc data).length) true (beginExec x (beginReplay slot x data s))

def execStepReplay (t : Time) (h : HostCmd) (s : State) : Out := .next (hostCmd 0x0B t h (fun x s => stepReplay x h.data s) s)

/-! ### The outcome (Table UP-16) -/

/-- A finding: outcome, rank and group. -/
structure Finding where
  outcome : Nat
  rank : Nat
  group : Nat
  deriving DecidableEq, Repr

/-- The recorded digest word k. -/
def recorded (x : Job) (r : Replay) (k : Nat) : Word := BitVec.ofNat 32 (leNat (x.manifest.readN (x.digestAt r.rec_ k) 4))

/-- The digest word k of the twin's record of the attempt, of which the spec gives this device no copy: a free value while the job is PAIRED (log entry
70). -/
def twinRecorded (s : State) (k : Nat) : Word := (Config.freeWord (s.free + k)).setWidth 32

/-- Members of a position for which both planes' recorded contribution digests differ, by group (Table UP-16). -/
def railFindings (s : State) (x : Job) (r : Replay) (pos coll : Nat) : List Finding :=
  let e := x.entry coll
  if x.twin ≠ .paired then []
  else (localMembers s x e).zipIdx.flatMap (fun m => (List.range e.ngroups).filterMap (fun g =>
    if (List.range e.k).any (fun p =>
        let k := contribIdx s x pos m.2 p g
        twinRecorded s k ≠ recorded x r k) then some ⟨2, m.1.2.1, g⟩ else none))

/-- Members of a position whose recomputed contribution digest differs from the record, by group. -/
def memberFindings (s : State) (x : Job) (r : Replay) (pos coll : Nat) : List Finding :=
  let e := x.entry coll
  (localMembers s x e).zipIdx.flatMap (fun m => (List.range e.ngroups).filterMap (fun g =>
    if (List.range e.k).any (fun p =>
        let k := contribIdx s x pos m.2 p g
        Tbl.get 0 r.contrib k ≠ recorded x r k) then some ⟨3, m.1.2.1, g⟩ else none))

/-- Home chunk groups of a position whose recomputed sum digest differs from the record. -/
def deviceFindings (s : State) (x : Job) (r : Replay) (pos coll : Nat) : List Finding :=
  (homeGroups s x (x.entry coll)).filterMap (fun g =>
    let k := sumIdx s x pos g
    if Tbl.get 0 r.sums k ≠ recorded x r (x.dc + k) then some ⟨4, 0, g⟩ else none)

/-- Findings of a position: between the planes, and of its members or, where they match, of the device. -/
def findings (s : State) (x : Job) (r : Replay) (pos coll : Nat) : List Finding :=
  railFindings s x r pos coll ++ (match memberFindings s x r pos coll with
    | [] => deviceFindings s x r pos coll
    | l => l)

/-- The order of findings: the rows of Table UP-16, then rank, then group (R387). -/
def Finding.key (f : Finding) : Nat := (f.outcome * 2 ^ 24 + f.rank) * 2 ^ 16 + f.group

/-- The finding reported first; MATCH where there is none. -/
def firstFinding (l : List Finding) : Finding :=
  l.foldl (fun a f => if a.outcome = 1 || f.key < a.key then f else a) ⟨1, 0, 0⟩

/-- Bytes [15:2] of a record. -/
def findingBytes (l : List Finding) : List Byte :=
  let f := firstFinding l
  leBytes 1 f.outcome ++ leBytes 3 f.rank ++ leBytes 2 f.group ++ leBytes 4 l.length ++ leBytes 4 0

/-- A replay instance has all its contributions, sums drained; it delivers nothing. -/
def replayed (s : State) (slot coll : Nat) : Bool :=
  match s.inst? slot coll with
  | some i => i.chunks.all (·.drained) && i.members.all (·.done) && i.egress = 0 && !queuesHold s slot coll
  | none => false

/-- The replay ends with its outcome, or with 0x070F when the late limit expires first. -/
def replayDone (slot : Nat) (s : State) : State :=
  let x := s.job slot
  match x.replay with
  | none => s
  | some r =>
    let ps := r.positions.filterMap (fun p => (x.steps[p]?).map (fun q => (p, q.1.toNat)))
    if ps.all (fun p => replayed s slot p.2) then
      let all := ps.map (fun p => findings s x r p.1 p.2)
      let s := { s with free := s.free + x.dc }
      let s := all.zipIdx.foldl (fun s l => hostWrite (r.resaddr + 16 * l.2 + 2) (findingBytes l.1) s) s
      let top := (all.map (fun l => (firstFinding l).outcome)).foldl Nat.max 0
      finish r.x stDone 0 (leBytes 2 r.positions.length ++ leBytes 1 top) true (endReplay slot s)
    else if r.deadline ≤ s.time then finish r.x stFailed 0x070F (leBytes 2 r.positions.length) true (endReplay slot s)
    else s

def execStepReplayDone (t : Time) (slot : Slot) (s : State) : Out := .next (replayDone slot.val (tick t s))

end Sys2Proof.Machine
end

