-- ==== Sys2Proof/Machine/Sideband.lean ====
section
/-! DEFINITION. The sideband: the SMBus target, the I2C controller's bus clear, the JTAG instructions (19 R486 to R491). -/

namespace Sys2Proof.Machine

/-! ### SMBus target (R486, Table PK-5) -/

/-- The target's 7-bit address. -/
def smbAddress (s : State) : Byte := if s.dev.twinSel then 0x5B else 0x5A

/-- STATUS (Table PK-5). -/
def smbStatusWord (s : State) : Nat :=
  let st := match s.dev.st with
    | .boot => 0 | .ready => 1 | .enabled => 2 | .withdrawn => 3 | .restart => 4
  let dst := match s.twin.dst with
    | .unmoored => 0 | .moored => 1 | .simplex => 2
  st + 16 * alertBits s + 256 * b2n s.dev.twinSel + 512 * dst

/-- The hottest island's junction temperature, 0.1 °C. -/
def hottest (s : State) : Int := (List.range 136).foldl (fun m p => max m (s.island p).temp) (s.island 0).temp

/-- Pins that follow the state: SMB_ALERT_N asserted, DEV_ALERT_N asserted (R484). -/
def smbAlertPin (s : State) : Bool := s.side.smbAlert || newBits (alertBits s) s.side.smbStatus
def devAlertPin (s : State) : Bool := s.dev.st ≠ .ready && s.dev.st ≠ .enabled

/-- The target answers from 20 µs after the release of POR_N; before that it does not acknowledge. -/
def smbAnswer (bs : State → List Byte) (s : State) : State :=
  if s.time < s.side.porAt + us 20 then s.updSide (fun x => { x with smbData := [], smbNack := true })
  else s.updSide (fun x => { x with smbData := bs s, smbNack := false })

/-- A word that reads 0x8000 until STATE first reaches READY. -/
def smbWord (v : State → Nat) (s : State) : List Byte := leBytes 2 (if s.side.everReady then v s else 0x8000)

def execSmbReadIdcode (t : Time) (s : State) : Out := .next (smbAnswer (fun _ => leBytes 4 0x1B1284E3) (tick t s))
def execSmbReadSerial (t : Time) (s : State) : Out := .next (smbAnswer (fun s => leBytes 8 s.dev.serial.toNat) (tick t s))
def execSmbReadStatus (t : Time) (s : State) : Out := .next (smbAnswer (fun s => leBytes 2 (smbStatusWord s)) (tick t s))
def execSmbReadTemp (t : Time) (s : State) : Out :=
  .next (smbAnswer (smbWord (fun s => (BitVec.ofInt 16 (hottest s)).toNat)) (tick t s))

/-- Input power from the board's monitors; 0xFFFF when none is configured. -/
def execSmbReadPower (t : Time) (watts : BitVec 16) (s : State) : Out :=
  .next (smbAnswer (smbWord (fun s => if s.side.monitors then watts.toNat else 0xFFFF)) (tick t s))

def execSmbReadHbmTemp (t : Time) (temp : BitVec 16) (s : State) : Out := .next (smbAnswer (smbWord (fun _ => temp.toNat)) (tick t s))

/-- Any other command, and every write, has its data byte NACKed. -/
def execSmbUnsupported (t : Time) (cmd : Byte) (write : Bool) (s : State) : Out :=
  let s := tick t s
  .next (if write || cmd.toNat > 5 then s.updSide (fun x => { x with smbData := [], smbNack := true }) else s)

/-- The Alert Response Address: answered with the own address while SMB_ALERT_N is asserted, which releases it. -/
def execSmbAlertResponse (t : Time) (s : State) : Out :=
  let s := tick t s
  .next (if s.side.smbAlert then s.updSide (fun x => { x with smbData := [smbAddress s], smbNack := false, smbAlert := false })
    else s.updSide (fun x => { x with smbData := [], smbNack := true }))

/-- The timeout releases SCL and SDA: the transaction is lost. -/
def execSmbTimeout (t : Time) (s : State) : Out := .next ((tick t s).updSide (fun x => { x with smbData := [], smbNack := false }))

/-! ### I2C controller (R488) -/

/-- A bus clear: SDA as sampled after each attempt, at most three. -/
def i2cClear (sda : List Bool) (s : State) : State :=
  let low := (sda.take 3).takeWhile (fun b => !b)
  let clear := (sda.take 3).contains true
  let s := s.updSide (fun x => { x with i2cTries := if clear then low.length + 1 else 3, i2cAt := s.time, i2cStuck := !clear })
  s

/-- SDA low at the start of a transaction; a stuck bus issues none. -/
def execI2cBusClear (t : Time) (sda : List Bool) (s : State) : Out :=
  let s := tick t s
  .next (if s.side.i2cStuck then s
    else
      let s := i2cClear sda s
      if s.side.i2cStuck then clkReason 0x0A0F (logCode 0x0A0F unitDev s) else s)

/-- The clear repeats every 10 s while the bus is stuck. -/
def execI2cStuckRetry (t : Time) (sda : List Bool) (s : State) : Out :=
  let s := tick t s
  .next (if !s.side.i2cStuck || s.time < s.side.i2cAt + sec 10 then s else i2cClear sda s)

/-! ### JTAG (R491, Table PK-7) -/

/-- The instruction that an opcode selects: BYPASS for any other opcode and for one outside its condition. -/
def jtagOf (s : State) (op : Nat) : Jtag :=
  let held (j : Jtag) : Jtag := if s.side.warmLow then j else .bypass
  match op with
  | 0x01 => .idcode
  | 0x02 => .samplePreload
  | 0x03 => held .extest
  | 0x04 => held .extestPulse
  | 0x05 => held .extestTrain
  | 0x06 => held .clamp
  | 0x07 => held .highz
  | 0x20 => if s.dev.st = .boot then .flashprog else .bypass
  | _ => .bypass

def jtagSelect (op : Nat) (s : State) : State := s.updSide (fun x => { x with jtag := jtagOf s op })

def execIdcode (t : Time) (s : State) : Out := .next (jtagSelect 0x01 (tick t s))
def execSamplePreload (t : Time) (s : State) : Out := .next (jtagSelect 0x02 (tick t s))
def execExtest (t : Time) (s : State) : Out := .next (jtagSelect 0x03 (tick t s))
def execExtestPulse (t : Time) (s : State) : Out := .next (jtagSelect 0x04 (tick t s))
def execExtestTrain (t : Time) (s : State) : Out := .next (jtagSelect 0x05 (tick t s))
def execClamp (t : Time) (s : State) : Out := .next (jtagSelect 0x06 (tick t s))
def execHighz (t : Time) (s : State) : Out := .next (jtagSelect 0x07 (tick t s))
def execFlashprog (t : Time) (s : State) : Out := .next (jtagSelect 0x20 (tick t s))
def execBypass (t : Time) (opcode : Byte) (s : State) : Out := .next (jtagSelect opcode.toNat (tick t s))

end Sys2Proof.Machine
end

