-- ==== Sys2Proof/Machine/Dispatch.lean ====
section
/-! DEFINITION. One arm for each command: a call of its meaning. -/

namespace Sys2Proof.Machine

def exec (i : Instr) (s : State) : Host.Outcome State Fault Refusal :=
  match i with
  -- host commands (R384)
  | .jobLoad t h => Sys2Proof.Machine.execJobLoad t h s
  | .jobStart t h => Sys2Proof.Machine.execJobStart t h s
  | .jobStop t h => Sys2Proof.Machine.execJobStop t h s
  | .jobStopped t slot => Sys2Proof.Machine.execJobStopped t slot s
  | .jobQuota t h => Sys2Proof.Machine.execJobQuota t h s
  | .collDefine t h => Sys2Proof.Machine.execCollDefine t h s
  | .tideLoad t h => Sys2Proof.Machine.execTideLoad t h s
  | .stateWrite t h => Sys2Proof.Machine.execStateWrite t h s
  | .stateRead t h => Sys2Proof.Machine.execStateRead t h s
  | .shardEncode t h peers lost => Sys2Proof.Machine.execShardEncode t h peers lost s
  | .shardRebuild t h peers lost => Sys2Proof.Machine.execShardRebuild t h peers lost s
  | .stepReplay t h => Sys2Proof.Machine.execStepReplay t h s
  | .stepReplayDone t slot => Sys2Proof.Machine.execStepReplayDone t slot s
  | .tileSelftest t h => Sys2Proof.Machine.execTileSelftest t h s
  | .fwStage t h => Sys2Proof.Machine.execFwStage t h s
  | .fwActivate t h => Sys2Proof.Machine.execFwActivate t h s
  | .fwActivation t started => Sys2Proof.Machine.execFwActivation t started s
  | .traceArm t h => Sys2Proof.Machine.execTraceArm t h s
  | .traceStop t h => Sys2Proof.Machine.execTraceStop t h s
  | .traceCopyOut t h => Sys2Proof.Machine.execTraceCopyOut t h s
  | .dump t h => Sys2Proof.Machine.execDump t h s
  | .telemDrain t h => Sys2Proof.Machine.execTelemDrain t h s
  -- rings and the host port (R373 to R395)
  | .doorbellPoll t ring word => Sys2Proof.Machine.execDoorbellPoll t ring word s
  | .descriptorPickup t ring desc l1 l2 => Sys2Proof.Machine.execDescriptorPickup t ring desc l1 l2 s
  | .msixTimedMessage t ring => Sys2Proof.Machine.execMsixTimedMessage t ring s
  | .ringEnable t ring v => Sys2Proof.Machine.execRingEnable t ring v s
  | .ringDisable t ring v => Sys2Proof.Machine.execRingDisable t ring v s
  | .functionLevelReset t => Sys2Proof.Machine.execFunctionLevelReset t s
  | .hotReset t => Sys2Proof.Machine.execHotReset t s
  | .linkDown t => Sys2Proof.Machine.execLinkDown t s
  | .perstN t => Sys2Proof.Machine.execPerstN t s
  | .harbourmasterRestart t => Sys2Proof.Machine.execHarbourmasterRestart t s
  -- tides and the switch core (R256 to R287)
  | .tideEnable t v => Sys2Proof.Machine.execTideEnable t v s
  | .tideDisable t v => Sys2Proof.Machine.execTideDisable t v s
  | .tideBankSwitch t => Sys2Proof.Machine.execTideBankSwitch t s
  | .tideHoldEnd t => Sys2Proof.Machine.execTideHoldEnd t s
  | .tideSlot t => Sys2Proof.Machine.execTideSlot t s
  | .matchQuad t => Sys2Proof.Machine.execMatchQuad t s
  -- links (R316 to R352)
  | .slotReceived t set rx => Sys2Proof.Machine.execSlotReceived t set rx s
  | .replayTimeout t set => Sys2Proof.Machine.execReplayTimeout t set s
  | .wreq t set width => Sys2Proof.Machine.execWreq t set width s
  | .wack t set => Sys2Proof.Machine.execWack t set s
  | .wdraw t set => Sys2Proof.Machine.execWdraw t set s
  | .switch t set => Sys2Proof.Machine.execSwitch t set s
  | .rtreq t set => Sys2Proof.Machine.execRtreq t set s
  | .rtack t set => Sys2Proof.Machine.execRtack t set s
  | .fecon t set => Sys2Proof.Machine.execFecon t set s
  | .fecoff t set => Sys2Proof.Machine.execFecoff t set s
  | .fecack t set => Sys2Proof.Machine.execFecack t set s
  | .portEnable t port v => Sys2Proof.Machine.execPortEnable t port v s
  | .portDisable t port v => Sys2Proof.Machine.execPortDisable t port v s
  | .portRetrain t set v => Sys2Proof.Machine.execPortRetrain t set v s
  | .fecRequest t set v => Sys2Proof.Machine.execFecRequest t set v s
  | .widthRequest t set v => Sys2Proof.Machine.execWidthRequest t set v s
  | .loopbackRequest t set v => Sys2Proof.Machine.execLoopbackRequest t set v s
  | .trainingWord t set lane word crc m => Sys2Proof.Machine.execTrainingWord t set lane word crc m s
  | .trainingPhaseTimeout t set => Sys2Proof.Machine.execTrainingPhaseTimeout t set s
  | .trainingRetry t set => Sys2Proof.Machine.execTrainingRetry t set s
  | .lossOfSignal t set lane => Sys2Proof.Machine.execLossOfSignal t set lane s
  | .lossOfLock t set lane => Sys2Proof.Machine.execLossOfLock t set lane s
  | .frameLoss t set lane => Sys2Proof.Machine.execFrameLoss t set lane s
  | .laneLost t set lane => Sys2Proof.Machine.execLaneLost t set lane s
  | .marginScan t set lane height width => Sys2Proof.Machine.execMarginScan t set lane height width s
  | .wakeSignal t set => Sys2Proof.Machine.execWakeSignal t set s
  -- sleep, discovery, routing, time, tide agreement (R288 to R315)
  | .sleepRequestLight t port v => Sys2Proof.Machine.execSleepRequestLight t port v s
  | .sleepRequestDeep t port v => Sys2Proof.Machine.execSleepRequestDeep t port v s
  | .wakeCommand t port v => Sys2Proof.Machine.execWakeCommand t port v s
  | .sleep t port c => Sys2Proof.Machine.execSleep t port c s
  | .sleepAck t port c => Sys2Proof.Machine.execSleepAck t port c s
  | .sleepNak t port c => Sys2Proof.Machine.execSleepNak t port c s
  | .sleepTimeout t port => Sys2Proof.Machine.execSleepTimeout t port s
  | .sleepEntryDone t port => Sys2Proof.Machine.execSleepEntryDone t port s
  | .sleepExitDone t port => Sys2Proof.Machine.execSleepExitDone t port s
  | .hello t port c => Sys2Proof.Machine.execHello t port c s
  | .helloTimer t => Sys2Proof.Machine.execHelloTimer t s
  | .adjacencyTimeout t port => Sys2Proof.Machine.execAdjacencyTimeout t port s
  | .endpointDetect t port => Sys2Proof.Machine.execEndpointDetect t port s
  | .lsaOriginate t => Sys2Proof.Machine.execLsaOriginate t s
  | .lsaPart t port c => Sys2Proof.Machine.execLsaPart t port c s
  | .lsaAck t port c => Sys2Proof.Machine.execLsaAck t port c s
  | .lsaRetransmit t port => Sys2Proof.Machine.execLsaRetransmit t port s
  | .lsaExpiry t => Sys2Proof.Machine.execLsaExpiry t s
  | .routeInstall t => Sys2Proof.Machine.execRouteInstall t s
  | .timeExchange t => Sys2Proof.Machine.execTimeExchange t s
  | .timeReq t set c arrival => Sys2Proof.Machine.execTimeReq t set c arrival s
  | .timeResp t set c arrival => Sys2Proof.Machine.execTimeResp t set c arrival s
  | .startTideExchange t slot port x => Sys2Proof.Machine.execStartTideExchange t slot port x s
  | .tideReady t dev c => Sys2Proof.Machine.execTideReady t dev c s
  | .tideDecision t => Sys2Proof.Machine.execTideDecision t s
  | .tideGo t c => Sys2Proof.Machine.execTideGo t c s
  | .tideCancel t c => Sys2Proof.Machine.execTideCancel t c s
  | .tideWithdraw t dev c => Sys2Proof.Machine.execTideWithdraw t dev c s
  | .tideGoDeadline t => Sys2Proof.Machine.execTideGoDeadline t s
  | .ppsEdge t => Sys2Proof.Machine.execPpsEdge t s
  | .ppsLoss t => Sys2Proof.Machine.execPpsLoss t s
  | .devEnable t v => Sys2Proof.Machine.execDevEnable t v s
  | .devDisable t v => Sys2Proof.Machine.execDevDisable t v s
  | .devIdWrite t v => Sys2Proof.Machine.execDevIdWrite t v s
  | .fallbackId t => Sys2Proof.Machine.execFallbackId t s
  -- cells at the tiles, buffers (R101 to R127, R205, R270 to R286)
  | .contributionCell t port c => Sys2Proof.Machine.execContributionCell t port c s
  | .partialCell t tile c => Sys2Proof.Machine.execPartialCell t tile c s
  | .egressCell t tile c => Sys2Proof.Machine.execEgressCell t tile c s
  | .shuffleFragment t port c => Sys2Proof.Machine.execShuffleFragment t port c s
  | .passCell t port lbl c => Sys2Proof.Machine.execPassCell t port lbl c s
  | .unscheduledCell t port c => Sys2Proof.Machine.execUnscheduledCell t port c s
  | .creditHoldRetry t tile => Sys2Proof.Machine.execCreditHoldRetry t tile s
  | .slipLimit t set => Sys2Proof.Machine.execSlipLimit t set s
  | .bufferFree t tile addr => Sys2Proof.Machine.execBufferFree t tile addr s
  | .auditorStep t tile => Sys2Proof.Machine.execAuditorStep t tile s
  -- firing and completion (R114 to R123), the step gate (R134 to R170)
  | .launch t port c => Sys2Proof.Machine.execLaunch t port c s
  | .prearmedFiring t slot coll => Sys2Proof.Machine.execPrearmedFiring t slot coll s
  | .lateDeadline t slot coll => Sys2Proof.Machine.execLateDeadline t slot coll s
  | .statSend t slot coll => Sys2Proof.Machine.execStatSend t slot coll s
  | .statCell t dev c => Sys2Proof.Machine.execStatCell t dev c s
  | .verdictDeadline t slot => Sys2Proof.Machine.execVerdictDeadline t slot s
  | .twinDecision t c => Sys2Proof.Machine.execTwinDecision t c s
  | .stepVerdict t c => Sys2Proof.Machine.execStepVerdict t c s
  | .instanceVerdict t c => Sys2Proof.Machine.execInstanceVerdict t c s
  | .commitWordAck t slot => Sys2Proof.Machine.execCommitWordAck t slot s
  | .clipOrder t c => Sys2Proof.Machine.execClipOrder t c s
  -- engine instructions at the head of a command queue (R198 to R229)
  | .nop t tile slot cq => Sys2Proof.Machine.execNop t tile slot cq s
  | .barrier t tile slot cq => Sys2Proof.Machine.execBarrier t tile slot cq s
  | .barrierRelease t tile slot => Sys2Proof.Machine.execBarrierRelease t tile slot s
  | .wait t tile slot cq => Sys2Proof.Machine.execWait t tile slot cq s
  | .waitRelease t tile slot cq => Sys2Proof.Machine.execWaitRelease t tile slot cq s
  | .cvt t tile slot => Sys2Proof.Machine.execCvt t tile slot s
  | .qnt t tile slot => Sys2Proof.Machine.execQnt t tile slot s
  | .addw t tile slot => Sys2Proof.Machine.execAddw t tile slot s
  | .maxl t tile slot => Sys2Proof.Machine.execMaxl t tile slot s
  | .minl t tile slot => Sys2Proof.Machine.execMinl t tile slot s
  | .fastsum t tile slot => Sys2Proof.Machine.execFastsum t tile slot s
  | .proj t tile slot arr => Sys2Proof.Machine.execProj t tile slot arr s
  | .recon t tile slot arr => Sys2Proof.Machine.execRecon t tile slot arr s
  | .elem t tile slot => Sys2Proof.Machine.execElem t tile slot s
  | .stat t tile slot => Sys2Proof.Machine.execStat t tile slot s
  | .opt t tile slot => Sys2Proof.Machine.execOpt t tile slot s
  | .ortho t tile slot arr => Sys2Proof.Machine.execOrtho t tile slot arr s
  | .digest t tile slot => Sys2Proof.Machine.execDigest t tile slot s
  | .spill t tile slot => Sys2Proof.Machine.execSpill t tile slot s
  | .spillAck t tile acc => Sys2Proof.Machine.execSpillAck t tile acc s
  | .resume t tile slot => Sys2Proof.Machine.execResume t tile slot s
  | .resumeDone t tile acc => Sys2Proof.Machine.execResumeDone t tile acc s
  | .send t tile slot => Sys2Proof.Machine.execSend t tile slot s
  | .mcast t tile slot => Sys2Proof.Machine.execMcast t tile slot s
  -- the pilot core (R221 to R229, R467)
  | .triggerDispatch t tile => Sys2Proof.Machine.execTriggerDispatch t tile s
  | .tpcmdhiWrite t tile v => Sys2Proof.Machine.execTpcmdhiWrite t tile v s
  | .tprunbWrite t tile v => Sys2Proof.Machine.execTprunbWrite t tile v s
  | .tpevqRead t tile => Sys2Proof.Machine.execTpevqRead t tile s
  | .tpflagWrite t tile v => Sys2Proof.Machine.execTpflagWrite t tile v s
  | .tpaccrelWrite t tile v => Sys2Proof.Machine.execTpaccrelWrite t tile v s
  | .tpcellpopWrite t tile v => Sys2Proof.Machine.execTpcellpopWrite t tile v s
  | .tpcellsendWrite t tile v => Sys2Proof.Machine.execTpcellsendWrite t tile v s
  | .tpwdogWrite t tile v => Sys2Proof.Machine.execTpwdogWrite t tile v s
  | .pilotWatchdog t tile => Sys2Proof.Machine.execPilotWatchdog t tile s
  | .queueWatchdog t tile slot cq => Sys2Proof.Machine.execQueueWatchdog t tile slot cq s
  -- twin operation (R353 to R372)
  | .twinEnable t v => Sys2Proof.Machine.execTwinEnable t v s
  | .twinDisable t v => Sys2Proof.Machine.execTwinDisable t v s
  | .twinCmdOut t v => Sys2Proof.Machine.execTwinCmdOut t v s
  | .twinCmdResync t v => Sys2Proof.Machine.execTwinCmdResync t v s
  | .twinCmdRejoin t v => Sys2Proof.Machine.execTwinCmdRejoin t v s
  | .moor t half c => Sys2Proof.Machine.execMoor t half c s
  | .moorTimer t => Sys2Proof.Machine.execMoorTimer t s
  | .moorTimeout t => Sys2Proof.Machine.execMoorTimeout t s
  | .digestCell t c => Sys2Proof.Machine.execDigestCell t c s
  | .digestCompareTimeout t slot coll => Sys2Proof.Machine.execDigestCompareTimeout t slot coll s
  | .jobnoteOut t c => Sys2Proof.Machine.execJobnoteOut t c s
  | .jobnoteServe t c => Sys2Proof.Machine.execJobnoteServe t c s
  | .jobnoteQuery t c => Sys2Proof.Machine.execJobnoteQuery t c s
  | .jobnoteReply t c => Sys2Proof.Machine.execJobnoteReply t c s
  | .queryTimeout t slot => Sys2Proof.Machine.execQueryTimeout t slot s
  | .xferReq t c => Sys2Proof.Machine.execXferReq t c s
  | .xferGrant t c => Sys2Proof.Machine.execXferGrant t c s
  | .xferWithdraw t c => Sys2Proof.Machine.execXferWithdraw t c s
  | .xferRejoin t c => Sys2Proof.Machine.execXferRejoin t c s
  | .xferEnd t c => Sys2Proof.Machine.execXferEnd t c s
  | .copy t c => Sys2Proof.Machine.execCopy t c s
  | .resyncPassEnd t => Sys2Proof.Machine.execResyncPassEnd t s
  -- dependability (R439 to R456)
  | .spareGo t v => Sys2Proof.Machine.execSpareGo t v s
  | .retireClear t die v => Sys2Proof.Machine.execRetireClear t die v s
  | .tileAlarm t p cause => Sys2Proof.Machine.execTileAlarm t p cause s
  | .droop t p depth => Sys2Proof.Machine.execDroop t p depth s
  | .timingWarning t p slack => Sys2Proof.Machine.execTimingWarning t p slack s
  | .timingAlarm t p slack => Sys2Proof.Machine.execTimingAlarm t p slack s
  | .patrolScrub t f => Sys2Proof.Machine.execPatrolScrub t f s
  -- clocks, power, reset (R412 to R438, R489, R498)
  | .oppRequest t p v => Sys2Proof.Machine.execOppRequest t p v s
  | .autoOppSelect t p demand => Sys2Proof.Machine.execAutoOppSelect t p demand s
  | .voutReached t die => Sys2Proof.Machine.execVoutReached t die s
  | .crossingLimitBreach t p q kind => Sys2Proof.Machine.execCrossingLimitBreach t p q kind s
  | .limitHoldRelease t p => Sys2Proof.Machine.execLimitHoldRelease t p s
  | .neighbourRaise t p q => Sys2Proof.Machine.execNeighbourRaise t p q s
  | .gateIsland t p v => Sys2Proof.Machine.execGateIsland t p v s
  | .wakeIsland t p v => Sys2Proof.Machine.execWakeIsland t p v s
  | .islandWakeDone t p => Sys2Proof.Machine.execIslandWakeDone t p s
  | .islandReset t p cause => Sys2Proof.Machine.execIslandReset t p cause s
  | .refclkLost t die => Sys2Proof.Machine.execRefclkLost t die s
  | .brownoutWarning t rail lowest duration => Sys2Proof.Machine.execBrownoutWarning t rail lowest duration s
  | .brownoutHoldEnd t => Sys2Proof.Machine.execBrownoutHoldEnd t s
  | .brownoutReset t kept pins => Sys2Proof.Machine.execBrownoutReset t kept pins s
  | .coldReset t pins => Sys2Proof.Machine.execColdReset t pins s
  | .warmReset t => Sys2Proof.Machine.execWarmReset t s
  | .bootWatchdog t => Sys2Proof.Machine.execBootWatchdog t s
  | .bootReady t b => Sys2Proof.Machine.execBootReady t b s
  | .overtempWarning t p temp => Sys2Proof.Machine.execOvertempWarning t p temp s
  | .thermalTrip t p => Sys2Proof.Machine.execThermalTrip t p s
  -- registers (R399 to R411, R457 to R475)
  | .lowHalfRead t addr size => Sys2Proof.Machine.execLowHalfRead t addr size s
  | .lowHalfWrite t addr v => Sys2Proof.Machine.execLowHalfWrite t addr v s
  | .highHalfWrite t addr v => Sys2Proof.Machine.execHighHalfWrite t addr v s
  | .registerWrite t bus addr size v => Sys2Proof.Machine.execRegisterWrite t bus addr size v s
  | .accessError t addr size write => Sys2Proof.Machine.execAccessError t addr size write s
  | .diagWindowRead t off size => Sys2Proof.Machine.execDiagWindowRead t off size s
  | .hwmCounterWrite t addr v => Sys2Proof.Machine.execHwmCounterWrite t addr v s
  | .counterClear t v => Sys2Proof.Machine.execCounterClear t v s
  | .attributionClear t v => Sys2Proof.Machine.execAttributionClear t v s
  | .profileSelect t k v => Sys2Proof.Machine.execProfileSelect t k v s
  | .evrCursorWrite t v => Sys2Proof.Machine.execEvrCursorWrite t v s
  | .evrWindowLoaded t => Sys2Proof.Machine.execEvrWindowLoaded t s
  | .sealedClear t v verifies => Sys2Proof.Machine.execSealedClear t v verifies s
  | .evrClearEraseDone t => Sys2Proof.Machine.execEvrClearEraseDone t s
  | .tokenArrival t code => Sys2Proof.Machine.execTokenArrival t code s
  | .flashRecordProgram t ok => Sys2Proof.Machine.execFlashRecordProgram t ok s
  -- sideband (R484 to R491)
  | .smbReadIdcode t => Sys2Proof.Machine.execSmbReadIdcode t s
  | .smbReadSerial t => Sys2Proof.Machine.execSmbReadSerial t s
  | .smbReadStatus t => Sys2Proof.Machine.execSmbReadStatus t s
  | .smbReadTemp t => Sys2Proof.Machine.execSmbReadTemp t s
  | .smbReadPower t watts => Sys2Proof.Machine.execSmbReadPower t watts s
  | .smbReadHbmTemp t temp => Sys2Proof.Machine.execSmbReadHbmTemp t temp s
  | .smbUnsupported t cmd write => Sys2Proof.Machine.execSmbUnsupported t cmd write s
  | .smbAlertResponse t => Sys2Proof.Machine.execSmbAlertResponse t s
  | .smbTimeout t => Sys2Proof.Machine.execSmbTimeout t s
  | .i2cBusClear t sda => Sys2Proof.Machine.execI2cBusClear t sda s
  | .i2cStuckRetry t sda => Sys2Proof.Machine.execI2cStuckRetry t sda s
  | .idcode t => Sys2Proof.Machine.execIdcode t s
  | .samplePreload t => Sys2Proof.Machine.execSamplePreload t s
  | .extest t => Sys2Proof.Machine.execExtest t s
  | .extestPulse t => Sys2Proof.Machine.execExtestPulse t s
  | .extestTrain t => Sys2Proof.Machine.execExtestTrain t s
  | .clamp t => Sys2Proof.Machine.execClamp t s
  | .highz t => Sys2Proof.Machine.execHighz t s
  | .flashprog t => Sys2Proof.Machine.execFlashprog t s
  | .bypass t opcode => Sys2Proof.Machine.execBypass t opcode s
  -- ends of steps begun by other commands
  | .harbourmasterRestartEnd t => Sys2Proof.Machine.execHarbourmasterRestartEnd t s
  | .activationTimeout t => Sys2Proof.Machine.execActivationTimeout t s
  | .farEndDetect t set => Sys2Proof.Machine.execFarEndDetect t set s
  | .clockLock t set => Sys2Proof.Machine.execClockLock t set s
  | .blockLock t set lane => Sys2Proof.Machine.execBlockLock t set lane s
  | .blockLockLoss t set lane => Sys2Proof.Machine.execBlockLockLoss t set lane s
  | .ppsOut t => Sys2Proof.Machine.execPpsOut t s
  | .oppChangeDone t p => Sys2Proof.Machine.execOppChangeDone t p s
  | .fwStageDone t programmed verifies => Sys2Proof.Machine.execFwStageDone t programmed verifies s
  | .selftestDone t done expected => Sys2Proof.Machine.execSelftestDone t done expected s
  | .spareMemoryTestDone t done => Sys2Proof.Machine.execSpareMemoryTestDone t done s
  | .islandResetDone t p => Sys2Proof.Machine.execIslandResetDone t p s

end Sys2Proof.Machine
end

