-- ==== Sys2Proof/Safety.lean ====
section
/-! DEFINITION. The terms in which statements are made: a command that runs and what holds after it, the areas of the state, and
what a command leaves unchanged. -/

namespace Sys2Proof.Safety

open Sys2Proof.Machine

/-- Command c, at the front of the machine's queue in state s, answers a next state, and P holds of that state. -/
def Runs (c : Instr) (s : State) (P : State → Prop) : Prop := ∃ s' : State, exec c s = .next s' ∧ P s'

/-- The parts of the state that a frame names. -/
inductive Region where
  | dev | tide | host | hostMem | twin | ports | fabric | tiles | jobs | clk | obs | flash | side | free
  deriving DecidableEq, Repr

/-- Part a is the same in two states. -/
def Region.same (a : Region) (s s' : State) : Prop :=
  match a with
  | .dev => s'.dev = s.dev
  | .tide => s'.tide = s.tide
  | .host => s'.host = s.host
  | .hostMem => s'.hostMem = s.hostMem
  | .twin => s'.twin = s.twin
  | .ports => s'.ports = s.ports
  | .fabric => s'.fabric = s.fabric
  | .tiles => s'.tiles = s.tiles
  | .jobs => s'.jobs = s.jobs
  | .clk => s'.clk = s.clk
  | .obs => s'.obs = s.obs
  | .flash => s'.flash = s.flash
  | .side => s'.side = s.side
  | .free => s'.free = s.free

/-- From s to s' nothing changes but the parts listed; fabric time and the queue are as in s. -/
def OnlyChanges (l : List Region) (s s' : State) : Prop :=
  s'.time = s.time ∧ s'.pending = s.pending ∧ ∀ a : Region, a ∉ l → a.same s s'

/-- BAR0 is served: the device has booted and its thermal limit has not tripped (R435, R498). -/
def Serving (s : State) : Prop := s.clk.thermtrip = false ∧ s.dev.st ≠ .boot

/-- Host commands are served: besides, no harbourmaster restart is under way (R395). -/
def Working (s : State) : Prop := Serving s ∧ s.dev.st ≠ .restart

/-- Command x in execution is the one that h names with operation op; it may run, has not begun, and its data is read (R381, R394). -/
def Given (op : Nat) (h : HostCmd) (x : Exec) (s : State) : Prop :=
  Working s ∧ cmdOf h op s = some x ∧ mayRun x s = true ∧ x.started = false ∧ h.readOk = true

/-- From s to s' island p begins to change to operating point o: on a raise that the regulator can serve, the die's next setpoint follows;
no other island, and nothing outside the clock block, changes (R419). -/
def Changing (p o : Nat) (s s' : State) : Prop :=
  (s'.island p).busy = true ∧ (s'.island p).target = BitVec.ofNat 3 o ∧ (s'.island p).cur = (s.island p).cur ∧
  (s'.island p).pst = (s.island p).pst ∧ (∀ q, q ≠ p → s'.island q = s.island q) ∧ s'.clk.vdd = s.clk.vdd ∧
  (vddOf s (p / 34) < dieMv s (p / 34) p o → regOk s (p / 34) = true → Tbl.get 720 s'.clk.vddNext (p / 34) = dieMv s (p / 34) p o) ∧
  (dieMv s (p / 34) p o ≤ vddOf s (p / 34) → s'.clk.vddNext = s.clk.vddNext) ∧ s'.clk.reason = s.clk.reason ∧ OnlyChanges [.clk] s s'

/-- Input queue p of binding b on a tile, its job's cell quota and the pool have room for a cell; buffer k is the next (R205, R243, R281). -/
def Room (tile slot : Nat) (b : BitVec 256) (p k : Nat) (rest : List Nat) (s : State) : Prop :=
  ((s.tile tile).job slot).iq[bIq b]? = some p ∧ (iqCells s tile p).length < 1024 ∧
  cellsHeld s slot tile < (((s.job slot).grant tile).map (·.cells)).getD 0 ∧ (s.tile tile).free = k :: rest

/-- From s to s' cell c enters input queue p of a tile, in buffer k; no other input queue and no other tile changes. -/
def Queued (tile p k : Nat) (rest : List Nat) (c : Cell) (s s' : State) : Prop :=
  iqCells s' tile p = iqCells s tile p ++ [⟨c, some k⟩] ∧ (∀ q, q ≠ p → iqCells s' tile q = iqCells s tile q) ∧
  (s'.tile tile).free = rest ∧ ∀ n, n ≠ tile → s'.tile n = s.tile n

/-- Only the entry of a collective changes in a job slot, and no other job. -/
def OnlyEntry (slot coll : Nat) (s s' : State) : Prop :=
  (∀ k, k ≠ coll → (s'.job slot).entry k = (s.job slot).entry k) ∧ ∀ j, j ≠ slot → s'.job j = s.job j

/-- From s to s' a new instance of an entry starts with its epoch, start time, deadline and data epoch: RUNNING, in the entry's next
configuration, with every chunk of this device uncounted (R114, R118). -/
def Started (slot coll epoch : Nat) (start deadline : Time) (depoch : Word) (s s' : State) : Prop :=
  let e := (s.job slot).entry coll
  let e' := (s'.job slot).entry coll
  e'.cfg = e.next.getD e.cfg ∧ e'.next = none ∧ e'.epoch = BitVec.ofNat 4 epoch ∧ e'.status = BitVec.ofNat 4 stRunning ∧ e'.fired = true ∧
  (∃ i, e'.inst = some i ∧ i.start = start ∧ i.deadline = deadline ∧ i.depoch = depoch ∧ i.worst = 0 ∧ i.parts = [] ∧ i.sent0 = false ∧
    i.chunks = (homeChunks s (s.job slot) e').map (fun j => ⟨j, 0, 0, 0, 0, 0, false⟩)) ∧
  (∀ n k b, n < 128 → ((s.tile n).job slot).loaded = true → (s.tile n).bindings slot = [(k, b)] → bColl b = coll →
    (s'.tile n).evq = (s.tile n).evq ++ [BitVec.ofNat 32 (evFire * 2 ^ 28 + slot * 2 ^ 22 + k * 2 ^ 16)])

/-- Instruction c stands at the head of command queue q of a job on a tile at work: fresh, legal, its instance running (R199, R210, R217). -/
def AtHead (n j q : Nat) (c : CqEnt) (s : State) : Prop :=
  cqHead s n j q = some c ∧ c.done = 0 ∧ c.skipped = false ∧ c.held = false ∧ tileDown s n = false ∧ illegalCode s n j c = none ∧
  discards s n j c.insn = false

/-- k units of the head of a command queue run one after another, from s to s'. -/
def UnitsRun (n j q : Nat) (p : Plan) (unit : Unit') : Nat → State → State → Prop
  | 0, s, s' => s' = s
  | k + 1, s, s' => ∃ c s1, cqHead s n j q = some c ∧ c.skipped = false ∧ c.done < p.units ∧
      unit c (c.done / max 1 p.pushN) (c.done % max 1 p.pushN) s = .done s1 ∧
      UnitsRun n j q p unit k (updHead n j q (fun e => { e with done := e.done + 1 }) s1) s'

/-- The pass boundaries that the tile comes to when an instruction of a binding has run (R87, R112). -/
def boundaries (n j : Nat) (i : DWord) (s : State) : State :=
  match (bindName i).bind ((s.tile n).binding j) with
  | some b => settle n j (bColl b) s
  | none => s

/-- Command cmd runs the head of a command queue, where it has opcode opc, unit by unit: all units and it completes, or is held for an event;
units up to one that waits, and it stays; one that fails or an illegal instruction, and it is skipped whole; no running instance, and it is discarded. -/
def RunsUnits (cmd : Instr) (n j q opc : Nat) (plan : State → CqEnt → Plan) (hold : CqEnt → Bool) (after : State → State) (unit : Unit')
    (s s0 : State) : Prop :=
  ∀ c : CqEnt, iOpc c.insn = opc →
    let p := plan s0 c
    (AtHead n j q c s0 → ∀ (k : Nat) (s2 : State) (c2 : CqEnt), UnitsRun n j q p unit k s0 s2 → cqHead s2 n j q = some c2 → c2.skipped = false →
      (k = p.units → p.units ≤ c2.done → Runs cmd s (fun s' => s' = after (boundaries n j c.insn
        (if hold c then updHead n j q (fun e => { e with held := true }) s2 else completeHead n j q c2 s2)))) ∧
      (k < p.units → c2.done < p.units → unit c2 (c2.done / max 1 p.pushN) (c2.done % max 1 p.pushN) s2 = .wait →
        Runs cmd s (fun s' => s' = after (boundaries n j c.insn s2)))) ∧
    (AtHead n j q c s0 → ∀ (k : Nat) (s2 : State) (c2 : CqEnt) (code : Nat), k < p.units → UnitsRun n j q p unit k s0 s2 →
      cqHead s2 n j q = some c2 → c2.skipped = false → c2.done < p.units →
      unit c2 (c2.done / max 1 p.pushN) (c2.done % max 1 p.pushN) s2 = .skip code →
      let s3 := skipHead n j q c2 code (illegalKind code) s0
      skipUnit n j c.insn p 0 0 s3 = .wait → Runs cmd s (fun s' => s' = after (boundaries n j c.insn s3))) ∧
    (cqHead s0 n j q = some c → c.done = 0 → c.skipped = false → c.held = false → tileDown s0 n = false →
      (discards s0 n j c.insn = true → Runs cmd s (fun s' => s' = after (discardHead n j q c s0))) ∧
      (discards s0 n j c.insn = false → 0 < p.units → ∀ code, illegalCode s0 n j c = some code →
        skipUnit n j c.insn p 0 0 (skipHead n j q c code true s0) = .wait →
        Runs cmd s (fun s' => s' = after (boundaries n j c.insn (skipHead n j q c code true s0)))))

/-- From s to s' the head of one command queue of a job on a tile has left it; no other queue, no other job and no other tile changes. -/
def Left (n j q : Nat) (s s' : State) : Prop :=
  Tbl.get [] ((s'.tile n).job j).cqs q = (Tbl.get [] ((s.tile n).job j).cqs q).tail ∧
  (∀ p, p ≠ q → Tbl.get [] ((s'.tile n).job j).cqs p = Tbl.get [] ((s.tile n).job j).cqs p) ∧
  (∀ k, k ≠ j → (s'.tile n).job k = (s.tile n).job k ∧ s'.job k = s.job k) ∧ (∀ m, m ≠ n → s'.tile m = s.tile m)

/-- One instruction that pops k cells or entries of its source has completed: it has left its queue, and what it popped has gone (R199, R200). -/
def Popped (n j q : Nat) (i : DWord) (k : Nat) (s s' : State) : Prop :=
  Left n j q s s' ∧ srcLen s' n j (iSrc i) = srcLen s n j (iSrc i) - k ∧ OnlyChanges [.tiles, .jobs, .obs] s s'

/-- Segments segs of an instruction's window have their tiles, each FREE or open for its segment, within the job's ceiling (R77, R81, R206, R249). -/
def Enters (n j : Nat) (i : DWord) (b : BitVec 256) (e : Entry) (segs : List Nat) (s : State) : Prop :=
  windowBad ((s.tile n).job j) b e (iAcc i) = false ∧
  (∀ g ∈ segs, ∃ a, windowTile (s.tile n) j b e (iAcc i) g = some a ∧ meetAcc s n j (bColl b) a g = .ready) ∧
  accFull s n j (segs.map (accAt s n j i b e)) = false

/-- The same state with those tiles open. -/
def opened (n j : Nat) (i : DWord) (b : BitVec 256) (e : Entry) (segs : List Nat) (s : State) : State :=
  segs.foldl (fun z g => openAcc n j (bColl b) (accAt s n j i b e g) g false z) s

/-- The accumulator tiles of tile n hold in s' the segments, elements and written marks that they hold in z. -/
def AccsAs (n : Nat) (z s' : State) : Prop :=
  ∀ a, ((s'.tile n).acc a).elems = ((z.tile n).acc a).elems ∧ ((s'.tile n).acc a).written = ((z.tile n).acc a).written ∧
    ((s'.tile n).acc a).seg = ((z.tile n).acc a).seg

/-- The state in which the body of a given host command runs: its time has come and its data is counted as read. -/
def at_ (t : Time) (h : HostCmd) (s : State) : State := hostRead h.data.length (tick t s)

end Sys2Proof.Safety
end

