-- ==== Sys2Proof/Certificates/Slice0/Obligations.lean ====
section
/-! DEFINITION. The statements for the provers. In each, t is the fabric time of the command and `tick t s` the state at that time:
fabric time, the count of tides and the alert logic of the sideband move on, and nothing else. -/

open Sys2Proof Sys2Proof.Machine Sys2Proof.Safety

/-! ### The queue, reset, invariants -/

/-- A step takes the command at the front of the queue and runs it on the machine with the queue's rest.
Model's choices it rests on: log entry 1. -/
def Obligations.StepRunsFrontCommand : Prop :=
  ∀ (c : Instr) (rest : List Instr) (s : State),
    Machine.step { s with pending := c :: rest } = exec c { s with pending := rest }

/-! ### Host rings (14) -/

/-- RING_CTL as written by v to a ring that is not enabled, with EN set (Table HI-13).
What the check of RING_CTL.EN refuses, in its order (R393, Table RG-8).
Clearing EN of a ring that runs: it drains until its commands have completed and their completions are written (R393).
Completes: ringEnable, ringDisable.
Model's choices it rests on: log entries 3 and 49. -/
def Obligations.RingEnabling : Prop :=
  (∀ (t : Time) (r : Fin 10) (v : Word) (s : State),
     Working s → (s.ring r.val).en = false → checking (.ring r.val) s = false →
     let s1 := (tick t s).updRing r.val (fun x => { x with
       size := v.extractLsb' 24 4, vec := v.extractLsb' 16 6, coal := v.extractLsb' 8 8, irqen := v.getLsbD 1, en := true })
     (ringCheck r.val s1 = none → Runs (.ringEnable t r v) s (fun s' =>
       (s'.ring r.val).en = true ∧ (s'.ring r.val).st = .running ∧ (s'.ring r.val).fetch = 0 ∧ (s'.ring r.val).cpi = 0 ∧
       (s'.ring r.val).size = v.extractLsb' 24 4 ∧ (s'.ring r.val).vec = v.extractLsb' 16 6 ∧ (s'.ring r.val).base = (s.ring r.val).base ∧
       (∀ q, q ≠ r.val → s'.ring q = s.ring q) ∧ OnlyChanges [.host] (tick t s) s')) ∧
     (∀ code, ringCheck r.val s1 = some code → Runs (.ringEnable t r v) s (fun s' =>
       (s'.ring r.val).en = false ∧ (s'.ring r.val).reason = BitVec.ofNat 16 code ∧ (s'.ring r.val).st = (s.ring r.val).st ∧
       (∀ q, q ≠ r.val → s'.ring q = s.ring q) ∧ OnlyChanges [.host] (tick t s) s'))) ∧
  (∀ (r : Nat) (s : State),
     let x := s.ring r
     let bad := x.size.toNat < 6
     let zero := x.base = 0 ∨ (r < 8 ∧ x.cbase = 0) ∨ s.host.dbbase = 0
     let clash := ∃ a ∈ ringRanges r x, overlaps a (s.host.dbbase.toNat, 4096) = true ∨
       ∃ q, q < 10 ∧ q ≠ r ∧ (s.ring q).en = true ∧ ∃ b ∈ ringRanges q (s.ring q), overlaps a b = true
     (bad → ringCheck r s = some 0x0407) ∧ (¬ bad → zero → ringCheck r s = some 0x0408) ∧
     (¬ bad → ¬ zero → clash → ringCheck r s = some 0x0409) ∧ (¬ bad → ¬ zero → ¬ clash → ringCheck r s = none)) ∧
  (∀ (t : Time) (r : Fin 10) (v : Word) (s : State),
     Serving s → (s.ring r.val).en = true → checking (.ring r.val) s = false →
     ((s.ring r.val).st = .running ∨ (s.ring r.val).st = .stalled ∨ (s.ring r.val).st = .fault) →
     Runs (.ringDisable t r v) s (fun s' =>
       (s'.ring r.val).en = false ∧
       ((s'.ring r.val).st = .disabled ↔
         ((s.ring r.val).waiting = [] ∧ (∀ e ∈ s.host.exec, e.ring ≠ r.val ∨ e.mute = true) ∧ Tbl.get none s.host.outs r.val = none)) ∧
       ((s'.ring r.val).st ≠ .disabled → (s'.ring r.val).st = .draining) ∧ (s'.ring r.val).size = (s.ring r.val).size ∧
       (∀ q, q ≠ r.val → s'.ring q = s.ring q) ∧ OnlyChanges [.host] (tick t s) s'))

/-- Function-level reset, hot reset, link down and PERST_N: the registers of Table HI-13 at their reset values, every ring disabled,
commands in progress without completion, and nothing else changed but the checks of rings that waited (R392, R411).
Completes: functionLevelReset, hotReset, linkDown, perstN.
Model's choices it rests on: log entry 49. -/
def Obligations.HostPortResets : Prop :=
  ∀ (t : Time) (s : State) (c : Instr),
    (c = .functionLevelReset t ∨ c = .hotReset t ∨ c = .linkDown t ∨ c = .perstN t) →
    Runs c s (fun s' =>
      (∀ r, s'.ring r = Ring.reset) ∧ s'.host.dbbase = 0 ∧
      (∀ e ∈ s'.host.exec, e.mute = true) ∧ s'.host.outs = [] ∧
      (s.host.outs = [] → s'.host.exec.map (·.desc) = s.host.exec.map (·.desc)) ∧
      s'.host.msix = s.host.msix ∧ s'.host.pba = s.host.pba ∧ s'.host.sent = s.host.sent ∧
      (∃ w, s'.dev = { s.dev with waiting := w } ∧ (∀ q, WaitCheck.ring q ∉ w) ∧
        (∀ k ∈ s.dev.waiting, (∀ q, k ≠ .ring q) → k ∈ w)) ∧
      OnlyChanges [.host, .dev, .obs] (tick t s) s')

/-- A poll of a command ring with nothing to write: PI, CCI and the hint are taken, the ring is STALLED where its completion ring has no
consumed slot, and the next poll follows after 500 ns or the doubled interval (R377, R378). A failed read faults the ring (R394).
Completes: doorbellPoll.
Model's choices it rests on: log entries 3 and 15. -/
def Obligations.DoorbellPollTakesWord : Prop :=
  ∀ (t : Time) (r : Fin 10) (w : BitVec 128) (s : State),
    let x1 : Ring := { s.ring r.val with
      pi := w.extractLsb' 0 32, cci := w.extractLsb' 32 32, hint := w.getLsbD 64
      interval := if w.getLsbD 64 = true ∨ w.extractLsb' 0 32 ≠ (s.ring r.val).pi then 500 else min 100000 (2 * (s.ring r.val).interval) }
    (r.val < 8 → (s.ring r.val).waiting = [] → ((s.ring r.val).st = .running ∨ (s.ring r.val).st = .stalled) →
      Runs (.doorbellPoll t r (some w)) s (fun s' =>
      s'.ring r.val = { x1 with st := if x1.full = true then .stalled else .running } ∧
      (∀ q, q ≠ r.val → s'.ring q = s.ring q) ∧ s'.host.exec = s.host.exec ∧ OnlyChanges [.host, .obs] (tick t s) s')) ∧
    (8 ≤ r.val → (s.ring r.val).st = .running → Tbl.get none s.host.outs r.val = none → Runs (.doorbellPoll t r (some w)) s (fun s' =>
      (s'.ring r.val).pi = w.extractLsb' 0 32 ∧ (s'.ring r.val).interval = 500 ∧ (s'.ring r.val).cci = (s.ring r.val).cci ∧
      (∀ q, q ≠ r.val → s'.ring q = s.ring q) ∧ OnlyChanges [.host, .obs] (tick t s) s')) ∧
    (polls (s.ring r.val) = true → Runs (.doorbellPoll t r none) s (fun s' =>
      (s'.ring r.val).st = .fault ∧ (s'.ring r.val).reason = 0x0405 ∧ (s'.ring r.val).fetch = (s.ring r.val).fetch ∧
      (∀ q, q ≠ r.val → s'.ring q = s.ring q) ∧ OnlyChanges [.host] (tick t s) s'))

/-- Pickup of an acceptable descriptor from the ring whose turn it is: FETCH counts it and is written back, and the command is in
execution (R378, R380, R381).
A descriptor with a reserved OP, flag, field or value begins nothing: its completion is REFUSED with 0x0401 (R379, R384).
Completes: descriptorPickup.
Model's choices it rests on: log entry 15. -/
def Obligations.DescriptorPickup : Prop :=
  (∀ (t : Time) (r : Fin 8) (d : BitVec 512) (l1 : Option (List Byte)) (l2 : List (Option (List Byte))) (ents : List (Nat × Nat)) (s : State),
     Working s → pickupStopped s = false → nextRing s = some r.val → s.host.exec.length < 32 → (s.ring r.val).fence = none →
     (descFlags d).testBit 2 = false → descFormBad d = false → (descOp d = 0x0F → descN d 24 1 ≤ 2 ∧ descN d 25 1 < 16) →
     readLists d l1 l2 = .ok ents → lenBad d = false →
     (descOp d = 0x01 ∨ (slotOf (descJob d) s).isSome ∨ (descJob d = 0 ∧ namesJob (descOp d) = false)) →
     let n := (s.ring r.val).fetch
     Runs (.descriptorPickup t r (some d) l1 l2) s (fun s' =>
       s'.host.exec = s.host.exec ++ [⟨r.val, n, d, ents, false, false⟩] ∧ s'.host.lastRing = r.val ∧
       s'.ring r.val = { s.ring r.val with fetch := n + 1 } ∧ (∀ q, q ≠ r.val → s'.ring q = s.ring q) ∧
       s'.hostMem = s.hostMem.writeN (s.host.dbbase.toNat + 0x800 + 64 * r.val) (leBytes 4 (n + 1).toNat) ∧
       OnlyChanges [.host, .hostMem, .obs] (tick t s) s')) ∧
  (∀ (t : Time) (r : Fin 8) (d : BitVec 512) (l1 : Option (List Byte)) (l2 : List (Option (List Byte))) (s : State),
     Working s → pickupStopped s = false → nextRing s = some r.val → s.host.exec.length < 32 → (s.ring r.val).fence = none →
     (descFlags d).testBit 2 = false → (descOp d = 0 ∨ 0x11 < descOp d ∨ 8 ≤ descFlags d ∨ 4096 ≤ descJob d) →
     (s.ring r.val).waiting = [] → (s.ring r.val).full = false →
     let x : Exec := ⟨r.val, (s.ring r.val).fetch, d, [], false, false⟩
     let a := (s.ring r.val).cbase.toNat + 32 * ((s.ring r.val).cpi.toNat % (s.ring r.val).slots)
     let b := s.host.dbbase.toNat + 0x800 + 64 * r.val
     Runs (.descriptorPickup t r (some d) l1 l2) s (fun s' =>
       s'.host.exec = s.host.exec ∧ (s'.ring r.val).cpi = (s.ring r.val).cpi + 1 ∧ (s'.ring r.val).fetch = (s.ring r.val).fetch + 1 ∧
       s'.hostMem = (((s.hostMem.writeN b (leBytes 4 ((s.ring r.val).fetch + 1).toNat)).writeN a
         (leBytes 28 (complBits x 2 0x0401 (refusedResult d s)).toNat)).writeN (a + 28) (leBytes 4 (((s.ring r.val).cpi.toNat + 1) % 2 ^ 32))).writeN
         (b + 4) (leBytes 4 ((s.ring r.val).cpi + 1).toNat) ∧
       s'.tide = (if descOp d = 0x06 then (tideReason 0x0401 (tick t s)).tide else (tick t s).tide) ∧
       (∀ q, q ≠ r.val → s'.ring q = s.ring q) ∧ OnlyChanges [.host, .hostMem, .obs, .tide] (tick t s) s'))

/-- A completion is written into its ring: bytes [27:0], then SEQ, the completion's index plus 1, then CPI (R378, R388).
The timed message of a ring with IRQEN that owes one: its vector is sent, or its pending bit is set when it is masked (R390).
Completes: msixTimedMessage.
Model's choices it rests on: log entries 6 and 18. -/
def Obligations.Completions : Prop :=
  (∀ (x : Exec) (status reason : Nat) (result : List Byte) (s : State),
     x.mute = false → (s.ring x.ring).st = .running → (s.ring x.ring).waiting = [] → (s.ring x.ring).full = false →
     let y := s.ring x.ring
     let a := y.cbase.toNat + 32 * (y.cpi.toNat % y.slots)
     let s' := finish x status reason result true s
     s'.hostMem = ((s.hostMem.writeN a (leBytes 28 (complBits x status reason result).toNat)).writeN (a + 28)
       (leBytes 4 ((y.cpi.toNat + 1) % 2 ^ 32))).writeN (s.host.dbbase.toNat + 0x800 + 64 * x.ring + 4) (leBytes 4 (y.cpi + 1).toNat) ∧
     (s'.ring x.ring).cpi = y.cpi + 1 ∧
     (s'.ring x.ring).st = (if (y.cpi + 1 - y.cci).toNat = y.slots then .stalled else .running) ∧ (∀ q, q ≠ x.ring → s'.ring q = s.ring q) ∧
     OnlyChanges [.host, .hostMem, .obs] s s') ∧
  (∀ (t : Time) (r : Fin 10) (s : State),
     (s.ring r.val).irqen = true → (s.ring r.val).unsent = true → (s.ring r.val).st ≠ .paused →
     let v := (s.ring r.val).vec
     Runs (.msixTimedMessage t r) s (fun s' =>
       s'.ring r.val = { s.ring r.val with unsent := false } ∧ (∀ q, q ≠ r.val → s'.ring q = s.ring q) ∧
       ((Tbl.get msixMasked s.host.msix v.toNat).getLsbD 96 = false → s'.host.sent = v :: s.host.sent ∧ s'.host.pba = s.host.pba) ∧
       ((Tbl.get msixMasked s.host.msix v.toNat).getLsbD 96 = true → s'.host.sent = s.host.sent ∧ s'.host.pba.getLsbD v.toNat = true) ∧
       OnlyChanges [.host, .obs] (tick t s) s'))

/-! ### Registers and diagnostic windows (15) -/

/-- 64-bit registers and counters are read at one instant, or by halves through the read shadow, which is 0 after reset.
Completes: lowHalfRead. -/
def Obligations.SixtyFourBitReads : Prop :=
  (∀ a, Tbl.get 0 State.reset.dev.rshadow a = 0) ∧
  ∀ (t : Time) (a : Word) (v : Nat) (s : State),
    Serving s → a.toNat % 8 = 0 → reg64 (tick t s) a.toNat = some v →
    Runs (.lowHalfRead t a 8) s (fun s' => s'.dev.rdata = BitVec.ofNat 64 v ∧ s'.dev.rshadow = s.dev.rshadow ∧ OnlyChanges [.dev] (tick t s) s') ∧
    Runs (.lowHalfRead t a 4) s (fun s' =>
      s'.dev.rdata = BitVec.ofNat 64 (v % 2 ^ 32) ∧ Tbl.get 0 s'.dev.rshadow a.toNat = BitVec.ofNat 32 (v / 2 ^ 32 % 2 ^ 32) ∧
      (∀ b, b ≠ a.toNat → Tbl.get 0 s'.dev.rshadow b = Tbl.get 0 s.dev.rshadow b) ∧ OnlyChanges [.dev] (tick t s) s') ∧
    Runs (.lowHalfRead t (a + 4) 4) s (fun s' =>
      s'.dev.rdata = BitVec.ofNat 64 (Tbl.get 0 s.dev.rshadow a.toNat).toNat ∧ s'.dev.rshadow = s.dev.rshadow ∧
      OnlyChanges [.dev] (tick t s) s')

/-- 64-bit registers are written at once, or by halves through the write shadow; `write64 a v` is the effect of writing v whole.
Completes: registerWrite, lowHalfWrite, highHalfWrite. -/
def Obligations.SixtyFourBitWrites : Prop :=
  ∀ (t : Time) (a v : Word) (w : DWord) (cur : Nat) (s : State),
    Serving s → a.toNat % 8 = 0 → reg64 (tick t s) a.toNat = some cur →
    Runs (.registerWrite t .host a 8 w) s (fun s' => s' = write64 a.toNat w (tick t s)) ∧
    Runs (.lowHalfWrite t a v) s (fun s' =>
      s' = (tick t s).updDev (fun d => { d with wshadow := Tbl.set none d.wshadow a.toNat (some v) })) ∧
    Runs (.highHalfWrite t (a + 4) v) s (fun s' =>
      s' = write64 a.toNat (v ++ (Tbl.get none s.dev.wshadow a.toNat).getD (BitVec.ofNat 32 cur))
        ((tick t s).updDev (fun d => { d with wshadow := Tbl.set none d.wshadow a.toNat none })))

/-- Writes of registers of several blocks: the field takes the value, a W1C bit is cleared by a 1 unless its event comes at the same
time (R5), a held or read-only field stays.
An erroneous read returns 0, an erroneous write is ignored, and either sets DEV_STAT.ACCERR (R400).
Completes: registerWrite, accessError.
Model's choices it rests on: log entries 34 and 72. -/
def Obligations.RegisterAccess : Prop :=
  (∀ (t : Time) (v : Word) (w : DWord) (s : State), Serving s →
     Runs (.registerWrite t .host 0xC0 4 (v.setWidth 64)) s (fun s' =>
       s' = (tick t s).updDev (fun d => { d with dwTarget := v.extractLsb' 24 8, dwIndex := v.extractLsb' 0 16 })) ∧
     Runs (.registerWrite t .host 0x24 4 (v.setWidth 64)) s (fun s' =>
       let late (k : Nat) : Bool := Tbl.get 0 s.dev.w1cAt k = (tick t s).time + 1
       s' = (tick t s).updDev (fun d => { d with
         dwmiss := d.dwmiss && (!v.getLsbD 2 || late 0), accerr := d.accerr && (!v.getLsbD 1 || late 1) })) ∧
     Runs (.registerWrite t .host 0x3008 8 w) s (fun s' =>
       s' = (tick t s).updTwin (fun x => { x with jobStep := w.extractLsb' 24 40, jobTag := w.extractLsb' 0 12 })) ∧
     Runs (.registerWrite t .host 0x1008 8 w) s (fun s' =>
       (s.tide.en = true → s' = tick t s) ∧ (s.tide.en = false → s' = (tick t s).updTide (fun x => { x with switchAt := w.setWidth 48 }))) ∧
     Runs (.registerWrite t .host 0x2800 8 w) s (fun s' =>
       ((∃ r, r < 10 ∧ (s.ring r).en = true) → s' = tick t s) ∧
       ((∀ r, r < 10 → (s.ring r).en = false) → s' = (tick t s).updHost (fun h => { h with dbbase := w &&& 0xFFFFFFFFFFFFF000 }))) ∧
     Runs (.registerWrite t .host 0x44404 4 (v.setWidth 64)) s (fun s' =>
       s' = (tick t s).updClk (fun c => { c with nofailover := v.getLsbD 0 })) ∧
     Runs (.registerWrite t .host 0 4 (v.setWidth 64)) s (fun s' => s' = tick t s)) ∧
  (∀ (t : Time) (a : Word) (n : Nat) (s : State), Serving s →
     ((n ≠ 4 ∧ n ≠ 8) ∨ a.toNat % n ≠ 0 ∨ (0x01100000 ≤ a.toNat ∧ a.toNat < 0x03FF0000)) →
     Runs (.accessError t a n false) s (fun s' => s' = markDev 1 ((tick t s).updDev (fun d => { d with rdata := 0, accerr := true }))) ∧
     Runs (.accessError t a n true) s (fun s' => s' = markDev 1 ((tick t s).updDev (fun d => { d with accerr := true }))) ∧
     (∀ v, Runs (.registerWrite t .host a n v) s (fun s' => s' = markDev 1 ((tick t s).updDev (fun d => { d with accerr := true })))))

/-- A window read returns 0 and sets DWMISS: no such target or unit, a tile that a live move moves, a gated island (R409).
Completes: diagWindowRead. -/
def Obligations.WindowMisses : Prop :=
  ∀ (t : Time) (off : Word) (n : Nat) (s : State), Serving s →
    let target := s.dev.dwTarget.toNat
    let index := s.dev.dwIndex.toNat
    (target = 0 ∨ 0x0A < target ∨ (1 ≤ target ∧ target ≤ 4 ∧ 128 ≤ index) ∨ (target = 8 ∧ 256 ≤ index) ∨ (target = 9 ∧ 2 ≤ index) ∨
      ((5 ≤ target ∧ target ≤ 7 ∨ target = 0x0A) ∧ index ≠ 0) ∨
      (1 ≤ target ∧ target ≤ 4 ∧ (∃ m ∈ s.dev.moves, m.tile = index)) ∨
      (1 ≤ target ∧ target ≤ 4 ∧ (∃ p, physOf s index = some p ∧ (s.island p).pst = .gated))) →
    Runs (.diagWindowRead t off n) s (fun s' => s' = markDev 0 ((tick t s).updDev (fun d => { d with dwmiss := true, rdata := 0 })))

/-- A window read of a logical tile that is served: tag words, and program memory byte by byte; beyond the target's size 0 (R408).
Completes: diagWindowRead.
Model's choices it rests on: log entry 7. -/
def Obligations.WindowReads : Prop :=
  ∀ (t : Time) (s : State), Serving s → s.dev.dwIndex.toNat < 128 → dumpBarred s s.dev.dwIndex.toNat = false →
    let x := s.tile s.dev.dwIndex.toNat
    (s.dev.dwTarget = 1 → ∀ i, i < 2048 → Runs (.diagWindowRead t (BitVec.ofNat 32 (4 * i)) 4) s (fun s' =>
      s'.dev = { s.dev with rdata := (x.acc i).tag.setWidth 64 } ∧ OnlyChanges [.dev] (tick t s) s')) ∧
    (s.dev.dwTarget = 4 → ∀ k, k < 0x10000 → Runs (.diagWindowRead t (BitVec.ofNat 32 (4 * k)) 4) s (fun s' =>
      (∀ j, j < 4 → s'.dev.rdata.extractLsb' (8 * j) 8 = x.prog.read (4 * k + j)) ∧ OnlyChanges [.dev] (tick t s) s')) ∧
    (s.dev.dwTarget = 1 → Runs (.diagWindowRead t 0x2000 8) s (fun s' => s'.dev = { s.dev with rdata := 0 } ∧ OnlyChanges [.dev] (tick t s) s'))

/-! ### Counters, attribution, trace and the event recorder (18) -/

/-- TRC_CTL.CLR clears the whole counter space, ACLR the attribution table, each leaving the other where its own bit is 0.
A write of any value to an HWM counter sets it to the present level; any other counter keeps its value (R458).
TRC_PSEL k: a code of Table OB-6 is selected and counter k of every tile is cleared; any other is refused with 0x0C05 (R461).
Completes: counterClear, attributionClear, hwmCounterWrite, profileSelect.
Model's choices it rests on: log entry 34. -/
def Obligations.CounterClears : Prop :=
  (∀ (t : Time) (v : Word) (s : State), Serving s →
     Runs (.counterClear t v) s (fun s' => (∀ a, Tbl.get 0 s'.obs.ctrs a = 0) ∧ (v.getLsbD 4 = false → s'.obs.bins = s.obs.bins) ∧
       s'.obs.afreeze = v.getLsbD 2 ∧ s'.obs.disp = v.getLsbD 1 ∧ s'.obs.wrap = v.getLsbD 0 ∧ s'.obs.aggs = s.obs.aggs ∧
       OnlyChanges [.obs] (tick t s) s') ∧
     Runs (.attributionClear t v) s (fun s' => (∀ b, Tbl.get Bin.reset s'.obs.bins b = Bin.reset) ∧
       (v.getLsbD 3 = false → s'.obs.ctrs = s.obs.ctrs) ∧ s'.obs.aggs = s.obs.aggs ∧ OnlyChanges [.obs] (tick t s) s')) ∧
  (∀ (t : Time) (tile : LTile) (off : Nat) (v : Word) (s : State), Serving s → off < 0x800 → off % 8 = 0 →
     Runs (.hwmCounterWrite t (BitVec.ofNat 32 (tileCtr tile.val off)) v) s (fun s' =>
       (∀ n, hwmLevel s tile.val off = some n → Tbl.get 0 s'.obs.ctrs (tileCtr tile.val off) = BitVec.ofNat 64 n) ∧
       (hwmLevel s tile.val off = none → s' = tick t s) ∧
       (∀ a, a ≠ tileCtr tile.val off → Tbl.get 0 s'.obs.ctrs a = Tbl.get 0 s.obs.ctrs a) ∧ OnlyChanges [.obs] (tick t s) s')) ∧
  (∀ (t : Time) (k : Fin 8) (v : Word) (s : State), Serving s →
     (v.toNat % 256 ≤ 0x0F → Runs (.profileSelect t k v) s (fun s' =>
       Tbl.get 0 s'.obs.psel k.val = v &&& 0x7FFF ∧ (∀ j, j ≠ k.val → Tbl.get 0 s'.obs.psel j = Tbl.get 0 s.obs.psel j) ∧
       (∀ n, n < 128 → Tbl.get 0 s'.obs.ctrs (profCtr n k.val) = 0) ∧
       (∀ a, (∀ n, n < 128 → a ≠ profCtr n k.val) → Tbl.get 0 s'.obs.ctrs a = Tbl.get 0 s.obs.ctrs a) ∧ OnlyChanges [.obs] (tick t s) s')) ∧
     (0x0F < v.toNat % 256 → Runs (.profileSelect t k v) s (fun s' =>
       s'.obs.trcReason = 0x0C05 ∧ s'.obs.psel = s.obs.psel ∧ s'.obs.ctrs = s.obs.ctrs ∧ OnlyChanges [.obs] (tick t s) s')))

/-- The event-recorder window: a cursor on the on-chip source fills it at once, one on flash clears WREADY until it is loaded; record i
is the one of SEQ cursor + i, 0 where the source does not hold it (R473).
A sealed clear that does not verify is refused with 0x0C08 and empties nothing; one that verifies empties what its scope names, and
erasing the flash region ends later; the nonce changes after every attempt (R474).
Completes: evrCursorWrite, evrWindowLoaded, sealedClear, evrClearEraseDone.
Model's choices it rests on: log entries 2 and 34. -/
def Obligations.RecorderWindowAndClears : Prop :=
  (∀ (t : Time) (v : DWord) (s : State), Serving s →
     (v.getLsbD 63 = false → Runs (.evrCursorWrite t v) s (fun s' =>
       s'.obs.wready = true ∧ s'.obs.cursor = v &&& 0x80000000FFFFFFFF ∧
       (∀ i, i < 64 → s'.obs.window[i]? = some ((s.obs.onchip.find? (fun r => recSeq r = (v.toNat % 2 ^ 32 + i) % 2 ^ 32)).getD 0)) ∧
       s'.obs.onchip = s.obs.onchip ∧ OnlyChanges [.obs] (tick t s) s')) ∧
     (v.getLsbD 63 = true → Runs (.evrCursorWrite t v) s (fun s' =>
       s'.obs.wready = false ∧ s'.obs.cursor = v &&& 0x80000000FFFFFFFF ∧ s'.obs.window = s.obs.window ∧ OnlyChanges [.obs] (tick t s) s')) ∧
     (s.obs.wready = false → s.obs.cursor.getLsbD 63 = true → Runs (.evrWindowLoaded t) s (fun s' =>
       s'.obs.wready = true ∧
       (∀ i, i < 64 → s'.obs.window[i]? = some
         ((((s.flash.evr.map (·.2)).filter recOk).find? (fun r => recSeq r = (s.obs.cursor.toNat % 2 ^ 32 + i) % 2 ^ 32)).getD 0)) ∧
       OnlyChanges [.obs] (tick t s) s'))) ∧
  (∀ (t : Time) (s : State), Serving s →
     Runs (.sealedClear t 1 false) s (fun s' =>
       s'.obs.evrReason = 0x0C08 ∧ s'.obs.nonceNo = s.obs.nonceNo + 1 ∧ s'.obs.clearing = s.obs.clearing ∧ s'.flash = s.flash ∧
       OnlyChanges [.obs] (tick t s) s') ∧
     Runs (.sealedClear t 1 true) s (fun s' =>
       s'.obs.nonceNo = s.obs.nonceNo + 1 ∧ s'.obs.evrReason = 0x0C09 ∧ (s.obs.scope.getLsbD 1 = true → s'.obs.clearing = true) ∧
       (s.obs.scope.getLsbD 0 = true → s'.obs.onchip.length = 1 ∧ s'.obs.toFlash.length = 1 ∧ s'.obs.seq = s.obs.seq + 1) ∧
       s'.obs.psel = s.obs.psel ∧ s'.obs.bins = s.obs.bins ∧ OnlyChanges [.obs] (tick t s) s') ∧
     (s.obs.clearing = true → Runs (.evrClearEraseDone t) s (fun s' =>
       s'.flash.evr = [] ∧ s'.flash.evrNext = 0 ∧ s'.obs.clearing = false ∧ s'.flash.recs = s.flash.recs ∧
       OnlyChanges [.obs, .flash] (tick t s) s')))

/-- An event of a code: its aggregate takes it; with a token of the code's bucket a record is written at once and the aggregate
restarts, with none it waits for the next token, whose arrival writes it (R470, R471).
A token returns to a code's bucket every 60 / RATE s: it records the aggregate that waits, and otherwise only fills the bucket; the oldest queued
record reaches flash, or its sector is skipped (R471, R472).
Completes: tokenArrival, flashRecordProgram.
Model's choices it rests on: log entry 11. -/
def Obligations.EventsAndRecords : Prop :=
  (∀ (code unit v aux : Nat) (s : State), code ≠ 0x0C09 → v < 2 ^ 32 → aux < 2 ^ 32 → s.obs.toFlash.length < 4096 →
     let a := s.obs.agg code
     (a.rate.toNat ≤ a.tokens → (logEv code unit v aux s).obs.onchip = s.obs.onchip ∧ (logEv code unit v aux s).obs.seq = s.obs.seq ∧
       ((logEv code unit v aux s).obs.agg code).count.toNat = min (a.count.toNat + 1) 0xFFFFFFFF ∧
       ((logEv code unit v aux s).obs.agg code).unit = BitVec.ofNat 16 unit ∧
       (a.count ≠ 0 → ((logEv code unit v aux s).obs.agg code).min.toNat = Nat.min a.min.toNat v ∧
         ((logEv code unit v aux s).obs.agg code).first = a.first) ∧
       (a.count = 0 → ((logEv code unit v aux s).obs.agg code).max.toNat = v ∧
         ((logEv code unit v aux s).obs.agg code).first = BitVec.ofNat 64 s.time)) ∧
     (a.tokens < a.rate.toNat → (logEv code unit v aux s).obs.seq = s.obs.seq + 1 ∧
       ((logEv code unit v aux s).obs.agg code).count = 0 ∧ ((logEv code unit v aux s).obs.agg code).tokens = a.tokens + 1) ∧
     (∀ d, d ≠ code → (logEv code unit v aux s).obs.agg d = s.obs.agg d) ∧ OnlyChanges [.obs] s (logEv code unit v aux s)) ∧
  (∀ (t : Time) (code : BitVec 16) (s : State),
     let a := s.obs.agg code.toNat
     (a.rate ≠ 0 → a.tokens ≠ 0 → a.nextToken ≤ max s.time t → a.count = 0 → Runs (.tokenArrival t code) s (fun s' =>
       (s.obs.toFlash.length ≤ 4096 → s'.obs.agg code.toNat = { a with tokens := a.tokens - 1, gainAt := a.nextToken } ∧
         s'.obs.onchip = s.obs.onchip) ∧
       OnlyChanges [.obs] (tick t s) s')) ∧
     (a.rate ≠ 0 → a.tokens ≠ 0 → a.nextToken ≤ max s.time t → a.count ≠ 0 → a.tokens ≤ a.rate.toNat → s.obs.toFlash.length < 4096 →
       Runs (.tokenArrival t code) s (fun s' =>
       (s'.obs.agg code.toNat).count = 0 ∧ (s'.obs.agg code.toNat).tokens = a.tokens ∧ (s'.obs.agg code.toNat).gainAt = a.nextToken ∧
       s'.obs.seq = s.obs.seq + 1 ∧ s'.obs.toFlash = s.obs.toFlash ++ [a.record code.toNat s.obs.seq.toNat] ∧
       OnlyChanges [.obs] (tick t s) s')) ∧
     (a.tokens = 0 ∨ max s.time t < a.nextToken → s.obs.toFlash.length ≤ 4096 → Runs (.tokenArrival t code) s (fun s' => s' = tick t s)) ∧
     (∀ r rest, s.obs.toFlash = r :: rest → s.obs.clearing = false → s.obs.flashOk = true → (s.flash.evrNext + 1) % 1024 ≠ 0 →
       Runs (.flashRecordProgram t true) s (fun s' =>
         Tbl.get 0 s'.flash.evr s.flash.evrNext = r ∧ s'.flash.evrNext = (s.flash.evrNext + 1) % 131072 ∧ s'.obs.toFlash = rest ∧
         (∀ k, k ≠ s.flash.evrNext → Tbl.get 0 s'.flash.evr k = Tbl.get 0 s.flash.evr k) ∧ OnlyChanges [.obs, .flash] (tick t s) s')) ∧
     (s.obs.toFlash ≠ [] → s.obs.clearing = false → s.obs.flashOk = true → Runs (.flashRecordProgram t false) s (fun s' =>
       s'.obs.evrReason = 0x0C0A ∧ (s.flash.evrNext / 1024 % 128) ∈ s'.flash.evrBad ∧ OnlyChanges [.obs, .flash] (tick t s) s')))

/-! ### Sideband (19) -/

/-- The reads that the SMBus target serves from 20 µs after the release of POR_N (R486, Table PK-5).
Any other command and every write is not acknowledged; the alert response releases SMB_ALERT_N; a timeout drops the transfer (R486).
A bus clear makes at most three attempts; a bus still low is stuck and logged, and the first clear that succeeds, tried every 10 s,
clears the mark (R488).
JTAG instructions: each selects its own, an instruction outside its condition and any other opcode selects BYPASS (R491).
Completes: smbReadIdcode, smbReadSerial, smbReadStatus, smbReadTemp, smbReadPower, smbReadHbmTemp, smbUnsupported, smbAlertResponse, smbTimeout, i2cBusClear, i2cStuckRetry, idcode, samplePreload, extest, extestPulse, extestTrain, clamp, highz, flashprog, bypass.
Model's choices it rests on: log entry 48. -/
def Obligations.Sideband : Prop :=
  (∀ (t : Time) (s : State) (watts temp : BitVec 16), s.side.porAt + us 20 ≤ max s.time t →
     let ready := s.side.everReady
     let say (c : Instr) (bs : List Byte) : Prop := Runs c s (fun s' =>
       s'.side = { (tick t s).side with smbData := bs, smbNack := false } ∧ OnlyChanges [.side] (tick t s) s')
     say (.smbReadIdcode t) [0xE3, 0x84, 0x12, 0x1B] ∧
     say (.smbReadSerial t) (leBytes 8 s.dev.serial.toNat) ∧
     Runs (.smbReadStatus t) s (fun s' => s'.side.smbNack = false ∧ ∃ w : Nat, s'.side.smbData = leBytes 2 w ∧
       w % 16 = s.dev.st.code ∧ w.testBit 4 = s.clk.hold ∧ w.testBit 5 = s.clk.thermtrip ∧ w.testBit 6 = s.side.i2cStuck ∧
       w.testBit 7 = s.clk.islands.any (fun i => decide (950 < i.2.temp)) ∧ w.testBit 8 = s.dev.twinSel ∧ w / 512 = s.twin.dst.code ∧
       OnlyChanges [.side] (tick t s) s') ∧
     (ready = false → say (.smbReadTemp t) [0x00, 0x80] ∧ say (.smbReadPower t watts) [0x00, 0x80] ∧ say (.smbReadHbmTemp t temp) [0x00, 0x80]) ∧
     (ready = true → say (.smbReadTemp t) (leBytes 2 (BitVec.ofInt 16 (hottest s)).toNat) ∧
       say (.smbReadPower t watts) (leBytes 2 (if s.side.monitors then watts.toNat else 0xFFFF)) ∧
       say (.smbReadHbmTemp t temp) (leBytes 2 temp.toNat))) ∧
  (∀ (t : Time) (s : State) (cmd : Byte),
     (5 < cmd.toNat → Runs (.smbUnsupported t cmd false) s (fun s' => s'.side = { (tick t s).side with smbData := [], smbNack := true } ∧
       OnlyChanges [.side] (tick t s) s')) ∧
     Runs (.smbUnsupported t cmd true) s (fun s' => s'.side = { (tick t s).side with smbData := [], smbNack := true } ∧
       OnlyChanges [.side] (tick t s) s') ∧
     ((tick t s).side.smbAlert = true → Runs (.smbAlertResponse t) s (fun s' =>
       s'.side = { (tick t s).side with smbData := [if s.dev.twinSel then 0x5B else 0x5A], smbNack := false, smbAlert := false } ∧
       OnlyChanges [.side] (tick t s) s')) ∧
     Runs (.smbTimeout t) s (fun s' => s'.side = { (tick t s).side with smbData := [], smbNack := false } ∧ OnlyChanges [.side] (tick t s) s')) ∧
  (∀ (t : Time) (sda : List Bool) (s : State),
     (s.side.i2cStuck = false → true ∈ sda.take 3 → Runs (.i2cBusClear t sda) s (fun s' =>
       s'.side.i2cStuck = false ∧ s'.side.i2cTries ≤ 3 ∧ sda[s'.side.i2cTries - 1]? = some true ∧ OnlyChanges [.side] (tick t s) s')) ∧
     (s.side.i2cStuck = false → true ∉ sda.take 3 → Runs (.i2cBusClear t sda) s (fun s' =>
       s'.side.i2cStuck = true ∧ s'.side.i2cTries = 3 ∧ s'.clk.reason = 0x0A0F ∧ OnlyChanges [.side, .clk, .obs] (tick t s) s')) ∧
     (s.side.i2cStuck = true → s.side.i2cAt + sec 10 ≤ max s.time t → Runs (.i2cStuckRetry t sda) s (fun s' =>
       s'.side.i2cStuck = !((sda.take 3).contains true) ∧ s'.side.i2cAt = max s.time t ∧ OnlyChanges [.side] (tick t s) s'))) ∧
  (∀ (t : Time) (s : State),
     let sel (c : Instr) (j : Jtag) : Prop := Runs c s (fun s' => s'.side = { (tick t s).side with jtag := j } ∧ OnlyChanges [.side] (tick t s) s')
     let held (j : Jtag) : Jtag := if s.side.warmLow then j else .bypass
     sel (.idcode t) .idcode ∧ sel (.samplePreload t) .samplePreload ∧ sel (.extest t) (held .extest) ∧
     sel (.extestPulse t) (held .extestPulse) ∧ sel (.extestTrain t) (held .extestTrain) ∧ sel (.clamp t) (held .clamp) ∧
     sel (.highz t) (held .highz) ∧ sel (.flashprog t) (if s.dev.st = .boot then .flashprog else .bypass) ∧
     sel (.bypass t 0xFF) .bypass ∧
     (∀ op : Byte, op.toNat = 0 ∨ (8 ≤ op.toNat ∧ op.toNat ≠ 0x20) → sel (.bypass t op) .bypass))

/-! ### Host commands (09, 14, 17, 18). `at_ t h s` is the state in which the body of a given command runs: its data counted as read. -/

/-- A load package that passes every check: the lowest free slot holds the job, LOADED, with its tag and seed; every other job stays;
the slot's job counters are cleared; the base records are written and the completion is DONE (R230, R236, R385, R459). One that fails a
check changes nothing (R383).
Completes: jobLoad.
Model's choices it rests on: log entries 15 and 35. -/
def Obligations.JobLoadAdmits : Prop :=
  ∀ (t : Time) (h : HostCmd) (x : Exec) (s : State), Given 0x01 h x s →
    let s0 := at_ t h s
    let tag := descJob x.desc
    (descN x.desc 40 8 = 0 → Runs (.jobLoad t h) s (fun s' => s' = refuse x 0x040F s0)) ∧
    (descN x.desc 40 8 ≠ 0 → parsePkg tag h.data = none → Runs (.jobLoad t h) s (fun s' => s' = refuse x 0x040A s0)) ∧
    (descN x.desc 40 8 ≠ 0 → ∀ p, parsePkg tag h.data = some p →
      let y := candidate tag (descN x.desc 24 1) p h.data
      (∀ code, admitCode s0 tag y p h.data.length = some code → Runs (.jobLoad t h) s (fun s' => s' = refuse x code s0)) ∧
      (∀ j, admitCode s0 tag y p h.data.length = none → j < 64 → (s.job j).st = .free → (∀ i, i < j → (s.job i).st ≠ .free) →
        let m := clearJobCtrs j (makeJob j y p s0)
        let m := hostWrite (descN x.desc 40 8) (baseRecords (m.job j).grants) m
        Runs (.jobLoad t h) s (fun s' =>
          s' = finish x stDone 0 (leBytes 4 (jobWord m j) ++ leBytes 2 ((m.job j).grants.filter (fun g => g.acc ≠ 0)).length) h.writeOk m ∧
          (s'.job j).st = .loaded ∧ (s'.job j).tag = BitVec.ofNat 12 tag ∧ (s'.job j).seed = BitVec.ofNat 64 p.seed ∧
          (s'.job j).devset = p.devset.map (BitVec.ofNat 12) ∧ (s'.job j).step = y.step ∧
          (∀ i, i ≠ j → s'.job i = s.job i) ∧ s'.dev = s.dev ∧ s'.twin = s.twin ∧ s'.flash = s.flash ∧ s'.tide = (tick t s).tide)))

/-- JOB_START in LOADED or STOPPED with a later start tide: on a device that is not MOORED the job runs SERVING, or OUT where it is STALE,
and the command is DONE; on a MOORED one a QUERY goes to the twin and the command waits (R232, R364). In another state it is refused with
0x0504, a start tide that has come with 0x0515.
JOB_STOP of a running job: it is STOPPING and the command waits; the end of its last work makes it STOPPED, or frees its slot where UNLOAD
asked, and completes the command. JOB_STOP with UNLOAD of a LOADED or STOPPED job frees its slot. In another state, and without UNLOAD of
a job that does not run, it is refused (R231, R233).
JOB_QUOTA of every kind within the grant sets the quota and answers the previous one; of kind STATE it is never below the state in
use; above the grant it is refused with 0x0511, below the state with 0x0512 (R248, R249).
Completes: jobStart, jobStop, jobStopped, jobQuota.
Model's choices it rests on: log entries 15, 43 and 59. -/
def Obligations.JobControl : Prop :=
  (∀ (t : Time) (h : HostCmd) (x : Exec) (slot : Nat) (s : State), Given 0x02 h x s → slotOf (descJob x.desc) s = some slot →
     let s0 := at_ t h s
     let start := descN x.desc 24 6
     let fit := (s.job slot).st = .loaded ∨ (s.job slot).st = .stopped
     let s1 := beginExec x (s0.updJob slot (fun y => { y with startTide := BitVec.ofNat 48 start }))
     (fit → s0.tide.now < start → startsEarly s0 slot start = false → s.twin.dst ≠ .moored →
       begunFor 0x02 slot s1 = some { x with started := true } →
       let m := startJob slot .serving false s1
       Runs (.jobStart t h) s (fun s' => s' = finish { x with started := true } stDone 0 (leBytes 4 (jobWord m slot)) true m ∧
         (s'.job slot).st = .running ∧ (s'.job slot).twin = (if (s.job slot).stale = true then .out else .serving) ∧
         (s'.job slot).startTide = BitVec.ofNat 48 start ∧ (∀ i, i ≠ slot → s'.job i = s.job i) ∧
         s'.dev = s.dev ∧ s'.tide = s0.tide ∧ s'.flash = s.flash)) ∧
     (fit → s0.tide.now < start → startsEarly s0 slot start = false → s.twin.dst = .moored →
       Runs (.jobStart t h) s (fun s' =>
         s' = sendNote (descJob x.desc) 2 0 start (s1.updJob slot (fun y => { y with query := some (0, false, max s.time t) })) ∧
         (s'.job slot).st = (s.job slot).st ∧ (s'.job slot).startTide = BitVec.ofNat 48 start ∧
         (∀ i, i ≠ slot → s'.job i = s.job i) ∧ s'.dev = s.dev ∧ s'.tide = s0.tide)) ∧
     (¬ fit → Runs (.jobStart t h) s (fun s' => s' = refuse x 0x0504 s0)) ∧
     (fit → start ≤ s0.tide.now → Runs (.jobStart t h) s (fun s' => s' = refuse x 0x0515 s0)) ∧
     (fit → s0.tide.now < start → startsEarly s0 slot start = true → Runs (.jobStart t h) s (fun s' => s' = refuse x 0x0504 s0))) ∧
  (∀ (t : Time) (h : HostCmd) (x : Exec) (slot : Slot) (s : State),
     let s0 := at_ t h s
     let tag := descJob x.desc
     let unload := bitN (descN x.desc 24 1) 0
     (Given 0x03 h x s → slotOf tag s = some slot.val → (s.job slot.val).st = .running →
       Runs (.jobStop t h) s (fun s' => s' = beginExec x (stopJob slot.val unload s0) ∧
         (s'.job slot.val).st = .stopping ∧ (s'.job slot.val).unload = unload ∧
         (s'.job slot.val).tag = (s.job slot.val).tag ∧ (∀ i, i ≠ slot.val → (s'.job i).st = (s.job i).st) ∧ s'.dev = s.dev ∧ s'.flash = s.flash)) ∧
     (Given 0x03 h x s → slotOf tag s = some slot.val → unload = true → ((s.job slot.val).st = .loaded ∨ (s.job slot.val).st = .stopped) →
       let m := unloadJob slot.val (failCmds slot.val [0x02] stRefused 0x0504 s0)
       Runs (.jobStop t h) s (fun s' => s' = finish x stDone 0 (leBytes 4 (jobWordOf tag m)) true m ∧
         s'.job slot.val = Job.reset ∧ (∀ i, i ≠ slot.val → s'.job i = s.job i) ∧ s'.dev = s.dev)) ∧
     (Given 0x03 h x s → slotOf tag s = some slot.val → (s.job slot.val).st ≠ .running →
       ((s.job slot.val).st = .stopping ∨ unload = false) → Runs (.jobStop t h) s (fun s' => s' = refuse x 0x0504 s0)) ∧
     ((s.job slot.val).st = .stopping → allStopped (tick t s) slot.val = true →
       let m := (tick t s).updJob slot.val (fun y => { y with st := .stopped, unload := false })
       let m := if (s.job slot.val).unload = true then unloadJob slot.val m else m
       Runs (.jobStopped t slot) s (fun s' =>
         s' = (match begunFor 0x03 slot.val (tick t s) with
           | some c => finish c stDone 0 (leBytes 4 (jobWordOf (s.job slot.val).tag.toNat m)) true m
           | none => m) ∧
         (s'.job slot.val).st = (if (s.job slot.val).unload = true then .free else .stopped) ∧
         (∀ i, i ≠ slot.val → s'.job i = s.job i) ∧ s'.dev = s.dev)) ∧
     ((s.job slot.val).st = .stopping → allStopped (tick t s) slot.val = false → Runs (.jobStopped t slot) s (fun s' => s' = tick t s))) ∧
  (∀ (t : Time) (h : HostCmd) (x : Exec) (slot : Nat) (s : State), Given 0x04 h x s → slotOf (descJob x.desc) s = some slot →
     (s.job slot).st ≠ .stopping →
     let s0 := at_ t h s
     let kind := descN x.desc 24 1
     let tile := descN x.desc 25 1
     let q := descN x.desc 32 8
     let grant := quotaGrant (s.job slot) kind tile
     kind < 4 → (2 ≤ kind → tile = 0) → tile ≤ 127 →
     (q ≤ grant → (kind = 3 → (s.job slot).stateBytes ≤ q) →
       let m := if grant = 0 then s0 else s0.updJob slot (setQuota kind tile q)
       Runs (.jobQuota t h) s (fun s' =>
         s' = finish x stDone 0 (leBytes 4 (jobWord m slot) ++ leBytes 4 0 ++ leBytes 8 (quotaNow (s.job slot) kind tile)) true m ∧
         (0 < grant → quotaNow (s'.job slot) kind tile = q) ∧
         (∀ k n, (k ≠ kind ∨ (k < 2 ∧ n ≠ tile)) → k < 4 → quotaNow (s'.job slot) k n = quotaNow (s.job slot) k n) ∧
         (s'.job slot).grants = (s.job slot).grants ∧ (s'.job slot).st = (s.job slot).st ∧ (∀ i, i ≠ slot → s'.job i = s.job i) ∧
         OnlyChanges [.jobs, .host, .hostMem, .obs] s0 s')) ∧
     (grant < q → Runs (.jobQuota t h) s (fun s' => s' = refuse x 0x0511 s0)) ∧
     (q ≤ grant → kind = 3 → q < (s.job slot).stateBytes → Runs (.jobQuota t h) s (fun s' => s' = refuse x 0x0512 s0)))

/-- COLL_DEFINE that passes its checks writes the entry, clears its counters, and waits for the next instance where one runs (R103, R105).
Completes: collDefine.
Model's choices it rests on: log entries 15 and 35. -/
def Obligations.CollDefineWrites : Prop :=
  ∀ (t : Time) (h : HostCmd) (x : Exec) (slot : Nat) (s : State), Given 0x05 h x s → slotOf (descJob x.desc) s = some slot →
    (s.job slot).st ≠ .stopping →
    let s0 := at_ t h s
    let raw : BitVec 1024 := BitVec.ofNat 1024 (leNat (h.data.take 128))
    let id := (Entry.ofCfg raw).id
    (∀ code, defineCode s0 slot raw = some code → Runs (.collDefine t h) s (fun s' => s' = refuse x code s0)) ∧
    (defineCode s0 slot raw = none →
      let k := ((s.job slot).ids.findIdx? (fun c => c.toNat = id)).getD 0
      let m := s0.updJob slot (fun y => (y.updEntry id (Entry.define (entryCfg raw))).touch .entries (128 * k) 128)
      Runs (.collDefine t h) s (fun s' =>
      s' = finish x stDone 0 (leBytes 2 id ++
        leBytes 1 (((m.job slot).entry id).epoch.toNat * 16 + ((m.job slot).entry id).status.toNat)) true m ∧
      (((s.job slot).entry id).status.toNat ≠ stRunning → ((s'.job slot).entry id).cfg = entryCfg raw ∧ ((s'.job slot).entry id).status = 0) ∧
      (((s.job slot).entry id).status.toNat = stRunning →
        ((s'.job slot).entry id).cfg = ((s.job slot).entry id).cfg ∧ ((s'.job slot).entry id).next = some (entryCfg raw)) ∧
      ((s'.job slot).entry id).stale = 0 ∧ ((s'.job slot).entry id).latec = 0 ∧ ((s'.job slot).entry id).order = 0 ∧
      (∀ c, c ≠ id → (s'.job slot).entry c = (s.job slot).entry c) ∧ (∀ i, i ≠ slot → s'.job i = s.job i) ∧
      OnlyChanges [.jobs, .host, .hostMem, .obs] s0 s'))

/-- TIDE_LOAD of an image that passes its checks fills the bank that is not in force and stages it; the checks refuse in their order
(R269, R272).
Completes: tideLoad.
Model's choices it rests on: log entries 15 and 35. -/
def Obligations.TideLoadStages : Prop :=
  ∀ (t : Time) (h : HostCmd) (x : Exec) (s : State), Given 0x06 h x s →
    let s0 := at_ t h s
    let b := bankOf h.data
    let bad (code : Nat) : Prop := Runs (.tideLoad t h) s (fun s' => s' = refuse x code s0)
    ((s.tide.pending = true ∨ s.tide.hold = true) → bad 0x0209) ∧
    (s.tide.pending = false → s.tide.hold = false → tideFormBad h.data = true → bad 0x0201) ∧
    (s.tide.pending = false → s.tide.hold = false → tideFormBad h.data = false → (s.dev.idValid = false ∨ b.device ≠ s.dev.id) → bad 0x0202) ∧
    (s.tide.pending = false → s.tide.hold = false → tideFormBad h.data = false → s.dev.idValid = true → b.device = s.dev.id →
      tideLenBad h.data = true → bad 0x0203) ∧
    (s.tide.pending = false → s.tide.hold = false → tideFormBad h.data = false → s.dev.idValid = true → b.device = s.dev.id →
      tideLenBad h.data = false → slicesDiffer s0 b = true → bad 0x0514) ∧
    (s.tide.pending = false → s.tide.hold = false → tideFormBad h.data = false → s.dev.idValid = true → b.device = s.dev.id →
      tideLenBad h.data = false → slicesDiffer s0 b = false →
      Runs (.tideLoad t h) s (fun s' =>
        s'.tide.staged = true ∧ s'.tide.active = s.tide.active ∧
        (if s.tide.active then s'.tide.bank0 = b ∧ s'.tide.bank1 = s.tide.bank1 else s'.tide.bank1 = b ∧ s'.tide.bank0 = s.tide.bank0) ∧
        s'.tide.en = s.tide.en ∧ s'.tide.switchAt = s.tide.switchAt ∧
        s' = finish x stDone 0 (leBytes 4 b.tableid.toNat ++ leBytes 4 b.len) true
          (s0.updTide (fun d => if d.active then { d with bank0 := b, staged := true } else { d with bank1 := b, staged := true })) ∧
        OnlyChanges [.tide, .host, .hostMem, .obs] s0 s'))

/-- STATE_WRITE of a job's data writes its bytes and answers how many; a write of the fused operand while an instance runs waits for its
end, and a write of the commit word for the end of a brown-out hold. STATE_READ writes the target's bytes to the data buffer (R94, R96,
R142, R386, R426).
Completes: stateWrite, stateRead.
Model's choices it rests on: log entries 7, 15, 35 and 53. -/
def Obligations.StateAccess : Prop :=
  ∀ (t : Time) (h : HostCmd) (x : Exec) (slot : Nat) (s : State), slotOf (descJob x.desc) s = some slot →
    (s.job slot).st ≠ .stopping →
    let s0 := at_ t h s
    let bs := h.data.take (descLen x.desc)
    let off := stOff x.desc
    let target := stTarget x.desc
    (Given 0x07 h x s → writeCode (s.job slot) x.desc bs = none → ¬ (target = 1 ∧ s.clk.hold = true) →
      ¬ (target = 9 ∧ holdsWrite x slot s0 = true) →
      Runs (.stateWrite t h) s (fun s' =>
        s' = finish x stDone 0 (leBytes 8 bs.length) true (writeTarget slot x.desc bs s0) ∧
        (target = 3 → (s'.job slot).bank0 = (s.job slot).bank0.writeN off (bankWrite (s.job slot).u off bs) ∧
          (s'.job slot).bank1 = (s.job slot).bank1 ∧ (s'.job slot).step = (s.job slot).step) ∧
        (target = 4 → (s'.job slot).bank1 = (s.job slot).bank1.writeN off (bankWrite (s.job slot).u off bs) ∧
          (s'.job slot).bank0 = (s.job slot).bank0) ∧
        (target = 5 → (s'.job slot).gradHold = (s.job slot).gradHold.writeN off bs ∧ (s'.job slot).bank0 = (s.job slot).bank0) ∧
        (target = 0xB → (s'.job slot).shards = (s.job slot).shards.writeN off bs ∧ (s'.job slot).bank0 = (s.job slot).bank0) ∧
        (target ≠ 9 → OnlyChanges [.jobs, .host, .hostMem, .obs] s0 s') ∧ (∀ i, i ≠ slot → s'.job i = s.job i))) ∧
    (Given 0x07 h x s → writeCode (s.job slot) x.desc bs = none → target = 9 → holdsWrite x slot s0 = true →
      Runs (.stateWrite t h) s (fun s' => s' = beginExec x (s0.updJob slot (fun y =>
        y.updEntry (stColl x.desc) (fun e => { e with opNew := some (off, bs) }))))) ∧
    (Given 0x07 h x s → writeCode (s.job slot) x.desc bs = none → target = 1 → s.clk.hold = true →
      Runs (.stateWrite t h) s (fun s' => s' = s0)) ∧
    (Given 0x07 h x s → ∀ code, writeCode (s.job slot) x.desc bs = some code → Runs (.stateWrite t h) s (fun s' => s' = refuse x code s0)) ∧
    ((target = 7 ∨ target = 8 ∨ target = 0xA) → writeCode (s.job slot) x.desc bs = some 0x040C) ∧
    (Given 0x08 h x s → accessCode (s.job slot) x.desc = none →
      let out := targetBytes s0 slot x.desc
      (target = 0xB → out = (s.job slot).shards.readN off (descLen x.desc)) ∧
      Runs (.stateRead t h) s (fun s' =>
        s' = finish x stDone 0 (leBytes 8 out.length ++ leBytes 4 (jobWord s0 slot)) h.writeOk (writeBuffer x.ents out s0) ∧
        s'.jobs = s.jobs ∧ OnlyChanges [.host, .hostMem, .obs] s0 s')) ∧
    (Given 0x08 h x s → ∀ code, accessCode (s.job slot) x.desc = some code → Runs (.stateRead t h) s (fun s' => s' = refuse x code s0))

/-- SHARD_ENCODE at a parity position writes P or Q of the data shards into the older slot; at a data position it only answers the
step. SHARD_REBUILD of a position that is not lost answers the step (R451, R453).
Completes: shardEncode, shardRebuild.
Model's choices it rests on: log entries 15 and 29. -/
def Obligations.ShardCommands : Prop :=
  ∀ (t : Time) (h : HostCmd) (x : Exec) (peers : List ShardIn) (slot : Nat) (s : State), slotOf (descJob x.desc) s = some slot →
    shardCode (s.job slot) x.desc h.data = none →
    let s0 := at_ t h s
    let k := descN x.desc 24 1
    let n := shardLen (s.job slot) (groupDevs h.data) k
    (Given 0x09 h x s → ((s.job slot).st = .running ∨ (s.job slot).st = .stopped) →
      (descN x.desc 25 1 < k → Runs (.shardEncode t h peers false) s (fun s' =>
        s' = finish x stDone 0 (leBytes 5 (s.job slot).step.toNat) true s0 ∧ s'.jobs = s.jobs)) ∧
      (descN x.desc 25 1 = k + 1 → (dataShards n k peers).length = k → ∀ step, (∀ p ∈ peers, p.pos < k → p.step.toNat = step) →
        Runs (.shardEncode t h peers false) s (fun s' =>
          s' = finish x stDone 0 (leBytes 5 step) true
            (s0.updJob slot (fun y => writeShard (olderSlot y) step k (k + 1) (qOf n (dataShards n k peers)) y)))) ∧
      (descN x.desc 25 1 = k → (dataShards n k peers).length = k → ∀ step, (∀ p ∈ peers, p.pos < k → p.step.toNat = step) →
        Runs (.shardEncode t h peers false) s (fun s' =>
          s' = finish x stDone 0 (leBytes 5 step) true
            (s0.updJob slot (fun y => writeShard (olderSlot y) step k k (pOf n (dataShards n k peers)) y)) ∧
          s'.job slot = writeShard (olderSlot (s.job slot)) step k k (pOf n (dataShards n k peers)) (s.job slot) ∧
          (∀ i, i ≠ slot → s'.job i = s.job i) ∧ OnlyChanges [.jobs, .host, .hostMem, .obs] s0 s')) ∧
      Runs (.shardEncode t h peers true) s (fun s' => s' = finish x stFailed 0x0B42 [] true s0)) ∧
    (Given 0x0A h x s → ((s.job slot).st = .loaded ∨ (s.job slot).st = .stopped) → peers = [] →
      descN x.desc 26 1 < k + 2 → descN x.desc 27 1 = 0xFF → descN x.desc 25 1 ≠ descN x.desc 26 1 →
      Runs (.shardRebuild t h peers false) s (fun s' =>
        s' = finish x stDone 0 (leBytes 5 (s.job slot).step.toNat) true s0 ∧ s'.jobs = s.jobs) ∧
      Runs (.shardRebuild t h peers true) s (fun s' => s' = finish x stFailed 0x0B42 [] true s0)) ∧
    (Given 0x0A h x s → ((s.job slot).st = .loaded ∨ (s.job slot).st = .stopped) → peers ≠ [] → descN x.desc 27 1 = 0xFF →
      descN x.desc 25 1 = descN x.desc 26 1 → descN x.desc 25 1 < k →
      ∀ step bs, (∀ p ∈ peers, p.pos ≠ descN x.desc 25 1 ∧ p.step.toNat = step ∧ p.valid = true) →
      rebuildAt n k (descN x.desc 25 1) [descN x.desc 25 1] peers = some bs →
      Runs (.shardRebuild t h peers false) s (fun s' =>
        s' = finish x stDone 0 (leBytes 5 step) true (s0.updJob slot (writeRebuilt bs)))) ∧
    (Given 0x0A h x s → (s.job slot).st = .running → Runs (.shardRebuild t h peers false) s (fun s' => s' = refuse x 0x0504 s0))

/-- STEP_REPLAY of a recorded attempt arms its instances and answers STARTED; one that a check refuses changes nothing. The outcome of a
replay of no position, and the late limit with 0x070F, end it (R169, R387).
Completes: stepReplay, stepReplayDone.
Model's choices it rests on: log entries 15, 26, 42 and 70. -/
def Obligations.StepReplayArms : Prop :=
  ∀ (t : Time) (h : HostCmd) (x : Exec) (slot : Slot) (s : State),
    let s0 := at_ t h s
    let ps := replayPositions (s.job slot.val) x.desc h.data
    (Given 0x0B h x s → slotOf (descJob x.desc) s = some slot.val → replayCode s0 slot.val x.desc h.data = none →
      Runs (.stepReplay t h) s (fun s' =>
        s' = postCompletion x stStarted 0 (leBytes 2 ps.length) true (beginExec x (beginReplay slot.val x h.data s0)) ∧
        (s'.job slot.val).replay = some (newReplay (s.job slot.val) x h.data s0.time) ∧
        recordOf (s.job slot.val) (descN x.desc 24 5) (descN x.desc 29 1) = some (newReplay (s.job slot.val) x h.data s0.time).rec_ ∧
        (s'.job slot.val).st = (s.job slot.val).st ∧ (∀ i, i ≠ slot.val → s'.job i = s.job i))) ∧
    (Given 0x0B h x s → slotOf (descJob x.desc) s = some slot.val → ∀ code, replayCode s0 slot.val x.desc h.data = some code →
      Runs (.stepReplay t h) s (fun s' => s' = refuse x code s0)) ∧
    (∀ r, (s.job slot.val).replay = some r → r.positions = [] → Runs (.stepReplayDone t slot) s (fun s' =>
      s' = finish r.x stDone 0 (leBytes 2 0 ++ leBytes 1 0) true
        (endReplay slot.val { tick t s with free := s.free + (s.job slot.val).dc }))) ∧
    (∀ r p c, (s.job slot.val).replay = some r → r.positions = [p] → (s.job slot.val).steps[p]? = some c →
      replayed (tick t s) slot.val c.1.toNat = true →
      let f := findings (tick t s) (s.job slot.val) r p c.1.toNat
      Runs (.stepReplayDone t slot) s (fun s' =>
        s' = finish r.x stDone 0 (leBytes 2 1 ++ leBytes 1 (firstFinding f).outcome) true (endReplay slot.val
          (hostWrite (r.resaddr + 2) (findingBytes f) { tick t s with free := s.free + (s.job slot.val).dc })))) ∧
    (∀ r p c, (s.job slot.val).replay = some r → r.positions = [p] → (s.job slot.val).steps[p]? = some c →
      replayed (tick t s) slot.val c.1.toNat = false → r.deadline ≤ (tick t s).time → Runs (.stepReplayDone t slot) s (fun s' =>
      s' = finish r.x stFailed 0x070F (leBytes 2 1) true (endReplay slot.val (tick t s))))

/-- TILE_SELFTEST: a gated position is woken for its test, an active tile's jobs go OUT and its island is reset, lanes of a port that is off
are tested in place; the end answers the signature and whether it passes. A failing spare position is listed, with 0x0B23. A unit under
test refuses with 0x0B21, a port that is not off with 0x0B22 (R450).
Completes: tileSelftest, selftestDone.
Model's choices it rests on: log entries 15 and 80. -/
def Obligations.SelfTestRuns : Prop :=
  ∀ (t : Time) (h : HostCmd) (x : Exec) (sig exp : Word) (s : State),
    let s0 := at_ t h s
    let kind := descN x.desc 24 1
    let p := descN x.desc 25 1
    let level := descN x.desc 26 1
    (Given 0x0C h x s → kind = 0 → p < 136 → level < 3 → (s.island p).pst ≠ .fused → unitBusy s0 p = false → testBarred s0 p = false →
      Runs (.tileSelftest t h) s (fun s' => s' = beginExec x (testTile p level s0) ∧
        ((s.island p).pst = .gated → s'.dev = { s.dev with tests := s.dev.tests ++ [⟨false, p, level, none⟩] } ∧
          (s'.island p).pst = .waking ∧ OnlyChanges [.dev, .clk, .host, .obs] (tick t s) s') ∧
        s'.host.exec = s.host.exec.map (fun e => if e = x then { e with started := true } else e))) ∧
    (Given 0x0C h x s → kind = 2 → p < 130 → level = 3 → (∀ q ∈ s.dev.tests, ¬ (q.lanes = true ∧ q.unit = p)) →
      ((s.port p).st = .disabled ∨ (s.port p).st = .down) →
      Runs (.tileSelftest t h) s (fun s' => s' = beginExec x (s0.updDev (fun d => { d with tests := d.tests ++ [⟨true, p, level, none⟩] })))) ∧
    (Given 0x0C h x s → kind = 2 → p < 130 → level = 3 → (∀ q ∈ s.dev.tests, ¬ (q.lanes = true ∧ q.unit = p)) →
      (s.port p).st ≠ .disabled → (s.port p).st ≠ .down →
      Runs (.tileSelftest t h) s (fun s' => s' = refuse x 0x0B22 (monReason 0x0B22 s0))) ∧
    (Given 0x0C h x s → kind = 0 → p < 136 → level < 3 → (s.island p).pst ≠ .fused → unitBusy s0 p = true →
      Runs (.tileSelftest t h) s (fun s' => s' = refuse x 0x0B21 (monReason 0x0B21 s0))) ∧
    (∀ q, s.dev.tests.find? (fun q' => q'.lanes = q.lanes && q'.unit = q.unit) = some q →
      let m := endTest q (decide (sig = exp)) ((tick t s).updDev (fun d => { d with tests := d.tests.filter (· ≠ q) }))
      ∀ c, testCmd q m = some c → Runs (.selftestDone t ⟨q.lanes, q.unit, sig⟩ exp) s (fun s' =>
        s' = finish c stDone 0 (leBytes 4 sig.toNat ++ leBytes 1 (if sig = exp then 1 else 0)) true m ∧
        s'.dev.tests = s.dev.tests.filter (· ≠ q) ∧
        (sig ≠ exp → q.lanes = false → q.ltile = none → ltileOf s q.unit = none → q.unit ∈ s'.clk.listed ∧ s'.clk.monReason = 0x0B23)))

/-- FW_STAGE takes the other slot, whose commit record is void until the staged image runs; its end stages a verified image, or fails with
0x0B12 or 0x0B10. A malformed image is refused with 0x0B11, and one while another is under way with 0x0B17 (R443).
FW_ACTIVATE of a verified image waits for its tide, and for a brown-out hold and live moves to end. Then a pilot-core image runs at once,
its slot committed with the next SEQ; for a harbourmaster image the device enters RESTART with its rings paused, the restart's end runs
the image, and 200 ms without it fail the command with 0x0B14 (R395, R426, R432, R444).
Completes: fwStage, fwStageDone, fwActivate, fwActivation, activationTimeout.
Model's choices it rests on: log entries 15, 43 and 80. -/
def Obligations.FirmwareImages : Prop :=
  (∀ (t : Time) (h : HostCmd) (x : Exec) (s : State),
     let s0 := at_ t h s
     let pc := fwWhich x.desc
     let n := slotNo pc (idleSlot s pc)
     (Given 0x0D h x s → s.flash.fw = none → fwFormBad pc h.data = false → Runs (.fwStage t h) s (fun s' =>
       s'.flash = { s.flash with
         recs := Tbl.set CommitRec.reset s.flash.recs n CommitRec.reset
         images := Tbl.set Image.reset s.flash.images n Image.reset
         fw := some (.stage pc (imageOf h.data) { x with started := true }) } ∧
       s'.host.exec = s.host.exec.map (fun e => if e = x then { e with started := true } else e) ∧
       s'.dev = s.dev ∧ OnlyChanges [.flash, .host, .obs] (tick t s) s')) ∧
     (Given 0x0D h x s → s.flash.fw ≠ none → Runs (.fwStage t h) s (fun s' => s' = refuse x 0x0B17 s0)) ∧
     (Given 0x0D h x s → s.flash.fw = none → fwFormBad pc h.data = true → Runs (.fwStage t h) s (fun s' =>
       s' = refuse x 0x0B11 (s0.updFlash (fun f => { f with recs := Tbl.set CommitRec.reset f.recs n CommitRec.reset })))) ∧
     (∀ k im c, s.flash.fw = some (.stage k im c) →
       let m := (tick t s).updFlash (fun f => { f with fw := none })
       Runs (.fwStageDone t true true) s (fun s' =>
         s' = finish c stDone 0 (leBytes 4 im.version.toNat ++ leBytes 1 (idleSlot s k)) true (m.updFlash (fun f => { f with
           images := Tbl.set Image.reset f.images (slotNo k (idleSlot s k)) { im with verified := true } })) ∧ s'.dev = s.dev) ∧
       Runs (.fwStageDone t false true) s (fun s' => s' = finish c stFailed 0x0B12 [] true m) ∧
       Runs (.fwStageDone t true false) s (fun s' => s' = finish c stFailed 0x0B10 [] true m))) ∧
  (∀ (t : Time) (h : HostCmd) (x : Exec) (s : State),
     let s0 := at_ t h s
     let free : Prop := s.clk.hold = false ∧ s.dev.moves = []
     (Given 0x0E h x s → fwActivateCode s0 (fwWhich x.desc) (descN x.desc 26 6) = none → Runs (.fwActivate t h) s (fun s' =>
       s'.flash = { s.flash with fw := some (.activate (fwWhich x.desc) (BitVec.ofNat 48 (descN x.desc 26 6)) { x with started := true }) } ∧
       s'.host.exec = s.host.exec.map (fun e => if e = x then { e with started := true } else e) ∧
       s'.dev = s.dev ∧ OnlyChanges [.flash, .host, .obs] (tick t s) s')) ∧
     (Given 0x0E h x s → ∀ code, fwActivateCode s0 (fwWhich x.desc) (descN x.desc 26 6) = some code →
       Runs (.fwActivate t h) s (fun s' => s' = refuse x code s0)) ∧
     (∀ tide c, s.flash.fw = some (.activate true tide c) → tide.toNat ≤ (tick t s).tide.now → before c s = [] → Working s → free →
       let m := restartPilots ((tick t s).updFlash (fun f => { f with fw := none }))
       Runs (.fwActivation t true) s (fun s' =>
         s' = finish c stDone 0 (leBytes 4 (stagedImage s true).version.toNat) true (commitImage true m) ∧
         s'.dev = { s.dev with pcslot := !s.dev.pcslot, fwPc := (stagedImage s true).version } ∧
         s'.flash.fw = none ∧ Tbl.get CommitRec.reset s'.flash.recs (slotNo true (idleSlot s true)) =
           ⟨true, (Tbl.get CommitRec.reset s.flash.recs (slotNo true (runSlot s true))).seq + 1, (stagedImage s true).version⟩) ∧
       Runs (.fwActivation t false) s (fun s' => s' = finish c stFailed 0x0B14 [] true m ∧
         s'.dev = s.dev ∧ s'.flash = { s.flash with fw := none })) ∧
     (∀ tide c, s.flash.fw = some (.activate false tide c) → tide.toNat ≤ (tick t s).tide.now → before c s = [] → Working s → free →
       ∀ b, Runs (.fwActivation t b) s (fun s' => s'.dev = { s.dev with before := s.dev.st, st := .restart } ∧
         (∀ r, r < 10 → (s.ring r).st = .running → s'.ring r = { s.ring r with st := .paused, before := .running }) ∧
         s'.flash = { s.flash with fw := some (.restarting false c (max s.time t)) } ∧ OnlyChanges [.dev, .host, .flash] (tick t s) s')) ∧
     (∀ k tide c b, s.flash.fw = some (.activate k tide c) → ¬ (tide.toNat ≤ (tick t s).tide.now ∧ before c s = [] ∧ free) →
       Runs (.fwActivation t b) s (fun s' => s' = tick t s)) ∧
     (∀ k c since, s.flash.fw = some (.restarting k c since) → since + ms 200 ≤ max s.time t → Runs (.activationTimeout t) s (fun s' =>
       s' = finish c stFailed 0x0B14 [] true ((tick t s).updFlash (fun f => { f with fw := none })) ∧
       s'.flash = { s.flash with fw := none } ∧ s'.dev = s.dev)))

/-- An unplanned harbourmaster restart pauses the rings and loses the commands in execution, which end FAILED with 0x040D; when the
restart ends, STATE and the rings return (R395, R406).
Completes: harbourmasterRestart, harbourmasterRestartEnd.
Model's choices it rests on: log entry 43. -/
def Obligations.HarbourmasterRestarts : Prop :=
  ∀ (t : Time) (s : State),
    (s.dev.st ≠ .boot → s.dev.st ≠ .restart → s.host.exec = [] → (∀ j, j < 64 → (s.job j).query = none ∧ (s.job j).replay = none) →
      Runs (.harbourmasterRestart t) s (fun s' =>
        s'.dev = { s.dev with before := s.dev.st, st := .restart } ∧
        (∀ r, r < 10 → (s.ring r).st = .running ∨ (s.ring r).st = .stalled ∨ (s.ring r).st = .draining →
          s'.ring r = { s.ring r with st := .paused, before := (s.ring r).st }) ∧
        s'.flash.fw = none ∧ (∀ code, (s'.obs.agg code).count = 0) ∧ OnlyChanges [.dev, .host, .flash, .obs] (tick t s) s')) ∧
    (s.dev.st = .restart → s.dev.waiting = [] → s.flash.fw = none → (∀ r, r < 10 → (s.ring r).waiting = [] ∧ (s.ring r).before ≠ .draining) →
      Runs (.harbourmasterRestartEnd t) s (fun s' =>
        s'.dev = { s.dev with st := s.dev.before } ∧
        (∀ r, r < 10 → (s.ring r).st = .paused → (s.ring r).before = .running → s'.ring r = { s.ring r with st := .running }) ∧
        OnlyChanges [.dev, .host] (tick t s) s'))

/-- TRACE_CTL: arm clears each named die's buffer and starts its selected tiles; stop halts and keeps the contents; copy out writes the
buffers of dies that are not armed into the data buffer (R465).
DUMP of a tile puts its snapshot, or its live state, on the dump ring, and empties the snapshot slot; TELEM_DRAIN puts one set on the
telemetry ring; each is refused where its ring does not run (R468, R469, R391).
Completes: traceArm, traceStop, traceCopyOut, dump, telemDrain.
Model's choices it rests on: log entries 15, 16 and 17. -/
def Obligations.TraceDumpTelemetry : Prop :=
  (∀ (t : Time) (h : HostCmd) (x : Exec) (s : State), Given 0x0F h x s →
     let s0 := at_ t h s
     let die (s : State) (d : Nat) : TraceDie := Tbl.get TraceDie.reset s.obs.trace d
     (traceBad x.desc = true → (descN x.desc 24 1 = 1 → Runs (.traceArm t h) s (fun s' => s' = refuse x 0x0C05 (trcReason 0x0C05 s0))) ∧
       (descN x.desc 24 1 = 0 → Runs (.traceStop t h) s (fun s' => s' = refuse x 0x0C05 (trcReason 0x0C05 s0))) ∧
       (descN x.desc 24 1 = 2 → Runs (.traceCopyOut t h) s (fun s' => s' = refuse x 0x0C05 (trcReason 0x0C05 s0)))) ∧
     (traceBad x.desc = false →
     (descN x.desc 24 1 = 1 → Runs (.traceArm t h) s (fun s' =>
       (∀ d ∈ traceDies x.desc, (die s' d).armed = true ∧ (die s' d).lost = 0 ∧ (die s' d).mask = BitVec.ofNat 32 (traceMask x.desc d)) ∧
       (∀ d, d ∉ traceDies x.desc → die s' d = die s d) ∧
       s' = finish x stDone 0 [] h.writeOk ((traceDies x.desc).foldl (fun s d => armDie d (traceMask x.desc d) s) s0) ∧
       OnlyChanges [.obs, .tiles, .host, .hostMem] s0 s')) ∧
     (descN x.desc 24 1 = 0 → Runs (.traceStop t h) s (fun s' =>
       (∀ d ∈ traceDies x.desc, die s' d = { die s d with armed := false }) ∧ (∀ d, d ∉ traceDies x.desc → die s' d = die s d) ∧
       s' = finish x stDone 0 [] h.writeOk (s0.updObs (fun o =>
         { o with trace := (traceDies x.desc).foldl (fun tr d => Tbl.upd TraceDie.reset tr d (fun y => { y with armed := false })) o.trace })) ∧
       OnlyChanges [.obs, .host, .hostMem] s0 s')) ∧
     (descN x.desc 24 1 = 2 → (∀ d ∈ traceDies x.desc, (die s d).armed = false) →
       let img := (traceDies x.desc).flatMap (fun d => traceImage d (die s d))
       img.length ≤ descLen x.desc → Runs (.traceCopyOut t h) s (fun s' =>
         s' = finish x stDone 0 (leBytes 8 img.length) h.writeOk (writeBuffer x.ents img s0) ∧ s'.obs.trace = s.obs.trace ∧
         OnlyChanges [.host, .hostMem, .obs] s0 s')) ∧
     (descN x.desc 24 1 = 2 → (∃ d ∈ traceDies x.desc, (die s d).armed = true) →
       Runs (.traceCopyOut t h) s (fun s' => s' = refuse x 0x0C04 (trcReason 0x0C04 s0))))) ∧
  (∀ (t : Time) (h : HostCmd) (x : Exec) (s : State),
     let s0 := at_ t h s
     let n := descN x.desc 24 1
     (Given 0x10 h x s → n ≤ 127 → dumpBarred s n = false → (s.ring 8).st = .running → Tbl.get none s.host.outs 8 = none →
       (∀ q, (s.tile n).snap = some q → Runs (.dump t h) s (fun s' => (s'.tile n).snap = none ∧
         s' = startOut 8 x h.writeOk (dumpRecord n ((physOf s n).getD 0) 1 q.cause.toNat q.at_ 8 q.bytes)
           (s0.updTile n (fun y => { y with snap := none })))) ∧
       ((s.tile n).snap = none → Runs (.dump t h) s (fun s' =>
         s' = startOut 8 x h.writeOk (dumpRecord n ((physOf s n).getD 0) 0 0 s0.time 9 (sectionBytes (dumpSections true (s.tile n)))) s0 ∧
         s'.tiles = s.tiles))) ∧
     (Given 0x10 h x s → 127 < n → Runs (.dump t h) s (fun s' => s' = refuse x 0x040B s0)) ∧
     (Given 0x10 h x s → n ≤ 127 → dumpBarred s n = true → Runs (.dump t h) s (fun s' => s' = refuse x 0x0C0D (trcReason 0x0C0D s0))) ∧
     (Given 0x11 h x s → n ≤ 7 → (s.ring 9).st = .running → Tbl.get none s.host.outs 9 = none →
       Runs (.telemDrain t h) s (fun s' => s' = startOut 9 x h.writeOk (telemImage n (if descJob x.desc = 0 then List.range 64 else (slotOf (descJob x.desc) s).toList) s0) s0 ∧ s'.tiles = s.tiles ∧ s'.jobs = s.jobs)) ∧
     (Given 0x11 h x s → 7 < n → Runs (.telemDrain t h) s (fun s' => s' = refuse x 0x0C05 (trcReason 0x0C05 s0))) ∧
     (Given 0x11 h x s → n ≤ 7 → (s.ring 9).st ≠ .running → Runs (.telemDrain t h) s (fun s' => s' = refuse x 0x0407 s0)))

/-! ### Clocks, power, resets (16, 19) -/

/-- An operating point asked for is refused, taken over by AUTO, or begun; VDD_CORE comes first on a raise and CUR takes the point once the
supply suffices; a broken crossing limit sends the offending island to its floor until it is released (R417 to R422).
Completes: oppRequest, autoOppSelect, voutReached, oppChangeDone, crossingLimitBreach, neighbourRaise, limitHoldRelease.
Model's choices it rests on: log entries 10 and 44. -/
def Obligations.OperatingPointChanges : Prop :=
  ∀ (t : Time) (p q : Phys) (v : Word) (s : State),
    let s0 := tick t s
    let i := s.island p.val
    let j := s.island q.val
    let o := v.toNat % 8
    let f := floorOf s0 p.val
    (Serving s → i.pst ≠ .fused →
      (o = 7 → Runs (.oppRequest t p v) s (fun s' => s' = clkReason 0x0A0E s0)) ∧
      (o < 7 → v.getLsbD 13 = true → Runs (.oppRequest t p v) s (fun s' =>
        s' = s0.updIsland p.val (fun i => { i with auto := true, req := BitVec.ofNat 3 o }))) ∧
      (o < 7 → v.getLsbD 13 = false → ∀ code, oppRefusal s0 p.val o = some code → Runs (.oppRequest t p v) s (fun s' => s' = clkReason code s0)) ∧
      (o < 7 → v.getLsbD 13 = false → oppRefusal s0 p.val o = none → s.clk.hold = false → i.held = false → i.point ≠ o →
        Runs (.oppRequest t p v) s (fun s' => (s'.island p.val).req = BitVec.ofNat 3 o ∧ (s'.island p.val).auto = false ∧
          Changing p.val o s0 s'))) ∧
    (∀ demand, i.auto = true → i.pst = .on → i.busy = false → i.held = false → s.clk.hold = false →
      oppRefusal s0 p.val (autoPoint s0 p.val demand) = none → i.point ≠ autoPoint s0 p.val demand →
      Runs (.autoOppSelect t p demand) s (fun s' => Changing p.val (autoPoint s0 p.val demand) s0 s')) ∧
    (∀ die : Die, Runs (.voutReached t die) s (fun s' =>
      vddOf s' die.val = Tbl.get 720 s.clk.vddNext die.val ∧ (∀ d, d ≠ die.val → vddOf s' d = vddOf s d) ∧
      s'.clk.islands = s.clk.islands ∧ OnlyChanges [.clk] s0 s')) ∧
    (i.busy = true → oppMv i.target.toNat ≤ vddOf s (p.val / 34) →
      let m := trimVdd (p.val / 34) (s0.updIsland p.val (fun i => { i with busy := false, cur := i.target }))
      m.island p.val = { i with busy := false, cur := i.target } ∧ (∀ k, k ≠ p.val → m.island k = s.island k) ∧
      m.clk.vdd = s.clk.vdd ∧ OnlyChanges [.clk] s0 m ∧
      Runs (.oppChangeDone t p) s (fun s' => s' = retryTideCheck m ∧ (checking .tide s = false → s' = m))) ∧
    (i.busy = true → vddOf s (p.val / 34) < oppMv i.target.toNat → checking .tide s = false →
      Runs (.oppChangeDone t p) s (fun s' => s' = s0)) ∧
    ((neighbours p.val).contains q.val = true → powered i = true → powered j = true → ∀ kind,
      (i.pst = .on → f < i.point → Runs (.crossingLimitBreach t p q kind) s (fun s' =>
        (s'.island p.val).held = true ∧ (s'.island p.val).okSince = some s0.time ∧ (s'.island p.val).busy = true ∧
        (s'.island p.val).target = BitVec.ofNat 3 f ∧ s'.clk.reason = 0x0A03 ∧ (∀ k, k ≠ p.val → s'.island k = s.island k) ∧
        OnlyChanges [.clk, .obs] s0 s')) ∧
      (kind = .temperature → i.point ≤ f → j.point ≤ floorOf s0 q.val → Runs (.crossingLimitBreach t p q kind) s (fun s' =>
        s'.clk = { s.clk with reason := 0x0A03 } ∧ OnlyChanges [.clk, .obs] s0 s')) ∧
      (i.held = true → i.point ≤ f → j.point < 6 → s.clk.hold = false → (∀ a, j.raisedAt = some a → a + us 10 ≤ s0.time) →
        vddServes s0 q.val (j.point + 1) = true → Runs (.neighbourRaise t p q) s (fun s' =>
          Changing q.val (j.point + 1) s0 s' ∧ (s'.island q.val).raisedAt = some s0.time)) ∧
      (∀ a, j.raisedAt = some a → s0.time < a + us 10 → Runs (.neighbourRaise t p q) s (fun s' => s' = s0))) ∧
    (i.held = true → i.okSince.getD 0 + us 100 ≤ s0.time → Runs (.limitHoldRelease t p) s (fun s' =>
      (s'.island p.val).held = false ∧ (s'.island p.val).okSince = none ∧ (s.clk.hold = false → (s'.island p.val).saved = none) ∧
      (∀ k, k ≠ p.val → s'.island k = s.island k) ∧ OnlyChanges [.clk] s0 s'))

/-- Gating, waking and resetting a tile island, and loss of a REFCLK pair (R413, R424, R430, Table CP-14).
Completes: gateIsland, wakeIsland, islandWakeDone, islandReset, islandResetDone, refclkLost.
Model's choices it rests on: log entry 44. -/
def Obligations.IslandsGateWakeReset : Prop :=
  ∀ (t : Time) (p : Phys) (v : Word) (s : State),
    let s0 := tick t s
    let i := s.island p.val
    (Serving s → i.pst = .on → v.getLsbD 1 = false →
      (mayGate s0 p.val = true → Runs (.gateIsland t p v) s (fun s' =>
        (s'.island p.val).pst = .gated ∧ (s'.island p.val).gate = true ∧ (s'.island p.val).cur = 0 ∧
        (∀ q, q ≠ p.val → s'.island q = s.island q) ∧
        (∀ n, ltileOf s p.val = some n → s'.tile n = { TileS.reset with snap := (s.tile n).snap }) ∧
        (∀ n, ltileOf s p.val ≠ some n → s'.tile n = s.tile n) ∧ OnlyChanges [.clk, .tiles] s0 s')) ∧
      (mayGate s0 p.val = false → Runs (.gateIsland t p v) s (fun s' => s' = pwrReason 0x0A06 s0))) ∧
    (Serving s → i.pst = .gated → Runs (.wakeIsland t p v) s (fun s' =>
      s'.island p.val = { i with pst := .waking, gate := false } ∧
      (∀ q, q ≠ p.val → (neighbours p.val).contains q = false → s'.island q = s.island q) ∧
      (∀ q, (neighbours p.val).contains q = true → (s.island q).pst = .on → Nat.max 3 (floorOf s0 q) < (s.island q).point →
        (s'.island q).busy = true ∧ (s'.island q).target = BitVec.ofNat 3 (Nat.max 3 (floorOf s0 q))) ∧ OnlyChanges [.clk] s0 s')) ∧
    (Serving s → i.pst = .fused → Runs (.wakeIsland t p (v &&& 0xFFFFFFFE)) s (fun s' => s' = pwrReason 0x0A06 s0)) ∧
    (i.pst = .waking → (∀ m ∈ s.dev.moves, ¬ (m.new = p.val ∧ m.stage = .waking)) → Runs (.islandWakeDone t p) s (fun s' =>
      let a := s0.updIsland p.val (fun i => { i with
        pst := .on, cur := BitVec.ofNat 3 (Nat.max (wakePoint s0 p.val) (floorOf s0 p.val)), busy := false })
      s' = retryTideCheck ((ltileOf s p.val).elim a (fun n => pilotRestart n a)) ∧
      (checking .tide s = false →
        s'.island p.val = { i with pst := .on, cur := BitVec.ofNat 3 (Nat.max (wakePoint s0 p.val) (floorOf s0 p.val)), busy := false } ∧
        (∀ q, q ≠ p.val → s'.island q = s.island q) ∧
        (∀ n, ltileOf s p.val = some n → (s'.tile n).xregs = [] ∧ (s'.tile n).csrs = [] ∧ (s'.tile n).jobs = (s.tile n).jobs) ∧
        (∀ n, ltileOf s p.val ≠ some n → s'.tile n = s.tile n) ∧ OnlyChanges [.clk, .tiles] s0 s'))) ∧
    (∀ m, i.pst = .waking → s.dev.moves = [m] → m.new = p.val → m.stage = .waking → checking .tide s = false →
      Runs (.islandWakeDone t p) s (fun s' =>
        s'.dev.moves = [{ m with stage := .testing }] ∧ (s'.island p.val).pst = .on ∧ s'.dev.place = s.dev.place)) ∧
    (i.pst = .on → (∀ m ∈ s.dev.moves, m.old ≠ p.val ∧ m.new ≠ p.val) → s.dev.resetting.contains p.val = false → ∀ cause,
      (ltileOf s p.val = none → Runs (.islandReset t p cause) s (fun s' =>
        s'.dev = { s.dev with resetting := p.val :: s.dev.resetting } ∧ s'.clk.pwrReason = 0x0A07 ∧ s'.clk.islands = s.clk.islands ∧
        OnlyChanges [.dev, .clk, .obs] s0 s')) ∧
      (∀ n, ltileOf s p.val = some n → Runs (.islandReset t p cause) s (fun s' =>
        (s'.tile n).accs = [] ∧ (s'.tile n).bufs = [] ∧ (s'.tile n).iqs = [] ∧ (s'.tile n).vqs = [] ∧ (s'.tile n).mqs = [] ∧
        (s'.tile n).oqs = []))) ∧
    (s.dev.resetting.contains p.val = true → Runs (.islandResetDone t p) s (fun s' =>
      s'.dev = { s.dev with resetting := s.dev.resetting.filter (· ≠ p.val) } ∧
      (∀ n, ltileOf s p.val = some n → (s'.tile n).xregs = [] ∧ (s'.tile n).csrs = [] ∧ (s'.tile n).jobs = (s.tile n).jobs) ∧
      (∀ n, ltileOf s p.val ≠ some n → s'.tile n = s.tile n) ∧ OnlyChanges [.dev, .tiles] s0 s')) ∧
    (∀ die : Die, let b : BitVec 4 := 1 <<< die.val
      (s.clk.refDown ||| b ≠ 0xF → Runs (.refclkLost t die) s (fun s' =>
        s'.clk = { s.clk with
          reflost := s.clk.reflost ||| b, refDown := s.clk.refDown ||| b, reason := 0x0A0D
          w1cAt := Tbl.set 0 s.clk.w1cAt die.val (s0.time + 1) } ∧
        OnlyChanges [.clk, .obs] s0 s')) ∧
      (s.clk.refDown ||| b = 0xF → Runs (.refclkLost t die) s (fun s' =>
        s'.dev.st = .boot ∧ s'.dev.serial = s.dev.serial ∧ s'.dev.twinSel = s.dev.twinSel ∧ s'.dev.fabPos = s.dev.fabPos ∧ s'.tiles = [] ∧
        s'.jobs = State.reset.jobs ∧ s'.clk.cause = 0 ∧ s'.hostMem = s.hostMem)))

/-- Cold, warm and brown-out resets, the boot watchdog, the end of boot, and the thermal limits (R425 to R429, R433 to R435, R498).
Completes: coldReset, warmReset, brownoutReset, bootWatchdog, bootReady, brownoutWarning, brownoutHoldEnd, overtempWarning, thermalTrip.
Model's choices it rests on: log entries 4, 10, 12, 44, 45 and 80. -/
def Obligations.ResetsAndBoot : Prop :=
  ∀ (t : Time) (pins : ColdPins) (s : State),
    let s0 := tick t s
    let cold (cause : BitVec 2) (bor : Bool) (s' : State) : Prop :=
      s'.dev.st = .boot ∧ s'.dev.serial = pins.serial ∧ s'.dev.twinSel = pins.twinSel ∧ s'.dev.fabPos = pins.fabPos ∧
      s'.dev.place = assignTiles s'.dev.fused s'.clk.listed ∧ s'.clk.listed = s.clk.listed.filter (fun p => !s.clk.unlist.contains p) ∧
      s'.clk.cause = cause ∧ s'.clk.bor = bor ∧ s'.clk.thermtrip = false ∧ s'.tiles = [] ∧ s'.jobs = State.reset.jobs ∧ s'.ports = [] ∧
      s'.twin = Twin.reset ∧ s'.fabric = Fabric.reset ∧ s'.flash.evr = s.flash.evr ∧ s'.flash.recs = s.flash.recs ∧
      s'.hostMem = s.hostMem ∧ s'.pending = s.pending ∧ s'.time = s0.time
    let warm (cause : BitVec 2) (bor : Bool) (s' : State) : Prop :=
      s'.dev.st = .boot ∧ s'.dev.serial = s.dev.serial ∧ s'.dev.place = s.dev.place ∧ s'.dev.retired = s.dev.retired ∧
      s'.clk.cause = cause ∧ s'.clk.bor = bor ∧ s'.clk.listed = s.clk.listed ∧ s'.ports = [] ∧ s'.twin = Twin.reset ∧
      (∀ j, (s.job j).st ≠ .free → (s'.job j).st = .stopped) ∧
      (∀ j, (s'.job j).tag = (s.job j).tag ∧ (s'.job j).step = (s.job j).step ∧ (s'.job j).bank0 = (s.job j).bank0 ∧
        (s'.job j).bank1 = (s.job j).bank1) ∧
      (Tbl.wf TileS.reset s.tiles = true → ∀ n, (s'.tile n).prog = (s.tile n).prog ∧ (s'.tile n).bind = (s.tile n).bind ∧ (s'.tile n).accs = []) ∧
      s'.flash.evr = s.flash.evr ∧ s'.hostMem = s.hostMem ∧ s'.pending = s.pending ∧ s'.time = s0.time
    Runs (.coldReset t pins) s (cold 0 false) ∧ Runs (.warmReset t) s (warm 1 false) ∧
    Runs (.brownoutReset t false pins) s (fun s' => cold 2 true s' ∧ s'.clk.pwrReason = 0x0A05) ∧
    Runs (.brownoutReset t true pins) s (fun s' => warm 2 true s' ∧ s'.clk.pwrReason = 0x0A05) ∧
    (s.dev.st = .boot → s.dev.bootAt + sec 2 ≤ s0.time → Runs (.bootWatchdog t) s (fun s' => warm 3 false s' ∧
      ((bootOrder s).headD 0 = 0 → s'.clk.failA = (if s.clk.failA = 0xF then 0xF else s.clk.failA + 1) ∧ s'.clk.failB = s.clk.failB))) ∧
    (∀ b : BootInfo, s.dev.st = .boot →
      let ok (k : Nat) : Bool := if k = 0 then b.imageOkA else b.imageOkB
      let pilotOk (k : Nat) : Bool := if k = 0 then b.pilotOkA else b.pilotOkB
      let version (k : Nat) : Word := (Tbl.get CommitRec.reset s.flash.recs k).version
      (∀ k q, (bootOrder s).find? ok = some k → (slotOrder s.flash 2).find? pilotOk = some q → Runs (.bootReady t b) s (fun s' =>
        s'.dev.st = .ready ∧ s'.dev.hmslot = decide (k = 1) ∧ s'.dev.pcslot = decide (q = 1) ∧ s'.dev.fwHm = version k ∧
        s'.dev.fwPc = version (2 + q) ∧ s'.dev.numlvl = b.numlvl ∧
        s'.dev.readyAt = some s0.time ∧ failCount s'.clk k = 0 ∧ s'.clk.reflock = 0xF ∧ s'.clk.islands = s.clk.islands ∧
        OnlyChanges [.dev, .clk, .obs, .side, .host] s0 s')) ∧
      ((bootOrder s).find? ok = none ∨ (slotOrder s.flash 2).find? pilotOk = none → Runs (.bootReady t b) s (fun s' =>
        s'.dev = s.dev ∧ s'.clk.pwrReason = 0x0A09 ∧ OnlyChanges [.clk, .obs] s0 s'))) ∧
    (∀ rail lowest duration, dipSeen s rail lowest.toNat duration.toNat = false → Runs (.brownoutWarning t rail lowest duration) s (fun s' => s' = s0)) ∧
    (∀ rail lowest duration, dipSeen s rail lowest.toNat duration.toNat = true → Runs (.brownoutWarning t rail lowest duration) s (fun s' =>
      s'.clk.hold = true ∧ s'.clk.warn = true ∧ s'.clk.holdEnd = s0.time + us 50 ∧ s'.clk.pwrReason = 0x0A04 ∧
      (∀ p, p < 136 → (s.island p).pst = .on → floorOf s0 p < (s.island p).point →
        (s'.island p).busy = true ∧ (s'.island p).target = BitVec.ofNat 3 (floorOf s0 p) ∧
        (s'.island p).saved = some ((s.island p).saved.getD (BitVec.ofNat 3 (s.island p).point))) ∧
      OnlyChanges [.clk, .obs] s0 s')) ∧
    (s.clk.hold = true → s.clk.holdEnd ≤ s0.time → (∀ j, j < 64 → (s.job j).st = .free ∧ (s.job j).heldVerdicts = []) →
      (∀ p, p < 136 → (s.island p).held = false) → Runs (.brownoutHoldEnd t) s (fun s' =>
        s'.clk.hold = false ∧ (∀ p, p < 136 → (s'.island p).saved = none))) ∧
    (∀ (p : Phys) (temp : BitVec 16), Runs (.overtempWarning t p temp) s (fun s' =>
      s'.island p.val = { s.island p.val with temp := temp.toInt } ∧ (∀ q, q ≠ p.val → s'.island q = s.island q) ∧
      s'.clk.reason = (if 950 < temp.toInt then 0x0A0B else s.clk.reason) ∧ OnlyChanges [.clk, .obs] s0 s')) ∧
    (∀ p : Phys, Runs (.thermalTrip t p) s (fun s' =>
      s'.clk.thermtrip = true ∧ s'.clk.pwrReason = 0x0A0C ∧
      (∀ q, q < 136 → (s.island q).pst ≠ .fused → (s'.island q).pst = .gated) ∧ (∀ n, n < 130 → (s'.port n).st = .disabled) ∧
      OnlyChanges [.clk, .tiles, .jobs, .ports, .fabric, .obs] s0 s'))

/-! ### Dependability (17) -/

/-- Live sparing, MON_RETIRE, alarms, monitors and patrol scrubbing (R440, R441, R445 to R449).
Completes: spareGo, spareMemoryTestDone, retireClear, tileAlarm, droop, timingWarning, timingAlarm, patrolScrub.
Model's choices it rests on: log entries 44, 79 and 80. -/
def Obligations.SparingAndMonitors : Prop :=
  ∀ (t : Time) (s : State),
    let s0 := tick t s
    (∀ v : Word, Serving s → let n := v.toNat % 128
      (v.getLsbD 31 = false → Runs (.spareGo t v) s (fun s' => s' = s0.updClk (fun c => { c with spareTile := BitVec.ofNat 7 n }))) ∧
      (v.getLsbD 31 = true → mayCarry s0 n = true → ∀ old new, physOf s n = some old → spareOf s (n / 32) = some new →
        let a := s0.updClk (fun c => { c with spareTile := BitVec.ofNat 7 n })
        let b := (jobsOn a n).foldl (fun s j => goOut j 0x0908 true s) a
        (unitBusy s old = false → unitBusy s new = false → Runs (.spareGo t v) s (fun s' =>
          s' = wakeTile new ((b.updClk (fun c => { c with spareSt := 1 })).updDev (fun d => { d with moves := d.moves ++ [⟨n, old, new, .waking⟩] })) ∧
          (jobsOn s0 n = [] → s'.dev = { s.dev with moves := s.dev.moves ++ [⟨n, old, new, .waking⟩] } ∧ s'.clk.spareSt = 1 ∧
            s'.clk.spareTile.toNat = n ∧ (s'.island new).pst = .waking ∧ OnlyChanges [.dev, .clk] s0 s'))) ∧
        ((unitBusy s old = true ∨ unitBusy s new = true) → Runs (.spareGo t v) s (fun s' =>
          s'.clk.monReason = 0x0B21 ∧ s'.dev = s.dev ∧ OnlyChanges [.clk] s0 s'))) ∧
      (v.getLsbD 31 = true → mayCarry s0 n = false → Runs (.spareGo t v) s (fun s' =>
        s'.clk.monReason = 0x0910 ∧ s'.dev = s.dev ∧ OnlyChanges [.clk] s0 s'))) ∧
    (∀ (m : Move) (spare : Phys), s.dev.moves.find? (fun x => x.new = spare.val && x.stage = .testing) = some m → m.old ≠ m.new →
      (∀ n : Nat, n ≠ m.tile → s.dev.place[n]? ≠ some (some m.old) ∧ s.dev.place[n]? ≠ some (some m.new)) →
      s.dev.place[m.tile]? = some (some m.old) →
      Runs (.spareMemoryTestDone t ⟨spare, true⟩) s (fun s' =>
        s'.dev = { s.dev with
          place := s.dev.place.set m.tile (some m.new), retired := m.old :: s.dev.retired, moves := s.dev.moves.filter (· ≠ m) } ∧
        s'.clk.spareSt = 2 ∧ m.old ∈ s'.clk.listed ∧ (s'.island m.old).pst = .gated ∧ (s'.tile m.tile).prog = (s.tile m.tile).prog ∧
        (s'.tile m.tile).bind = (s.tile m.tile).bind ∧ (s'.tile m.tile).accs = [] ∧ (s'.tile m.tile).iqs = (s.tile m.tile).iqs ∧ (∀ n, n ≠ m.tile → s'.tile n = s.tile n) ∧
        OnlyChanges [.dev, .clk, .tiles] s0 s') ∧
      Runs (.spareMemoryTestDone t ⟨spare, false⟩) s (fun s' =>
        s'.dev = { s.dev with moves := s.dev.moves.filter (· ≠ m) } ∧ s'.clk.spareSt = 3 ∧ s'.clk.monReason = 0x0B24 ∧ m.new ∈ s'.clk.listed ∧
        (s'.island m.new).pst = .gated ∧ OnlyChanges [.dev, .clk, .obs] s0 s')) ∧
    (∀ (die : Die) (v : DWord), Serving s → let pos := v.toNat / 2 ^ 50 % 64
      Runs (.retireClear t die v) s (fun s' =>
        Tbl.get 0 s'.clk.retirePos die.val = BitVec.ofNat 6 pos ∧ (∀ d, d ≠ die.val → Tbl.get 0 s'.clk.retirePos d = Tbl.get 0 s.clk.retirePos d) ∧
        s'.clk.listed = s.clk.listed ∧ (∀ p, p ∈ s'.clk.unlist ↔ p ∈ s.clk.unlist ∨ (v.getLsbD 63 = true ∧ pos < 34 ∧ p = 34 * die.val + pos)) ∧
        OnlyChanges [.clk] s0 s')) ∧
    (∀ (p : Phys) (cause : AlarmCause), alarmHolds s0 p.val cause = true → (∀ m ∈ s.dev.moves, ¬ (m.new = p.val ∧ m.stage = .testing)) →
      (s.clk.autospare = false → Runs (.tileAlarm t p cause) s (fun s' => s' = setPred p.val s0 ∧ (s'.island p.val).pred = true)) ∧
      (∀ n, s.clk.autospare = true → ltileOf s p.val = some n →
        Runs (.tileAlarm t p cause) s (fun s' => s' = requestMove n (setPred p.val s0)))) ∧
    (∀ (p : Phys) (d : BitVec 16), 40 < d.toNat → Runs (.droop t p d) s (fun s' =>
      s'.island p.val = { s.island p.val with droops := if (s.island p.val).droops = 0xFF then 0xFF else (s.island p.val).droops + 1 } ∧
      (∀ q, q ≠ p.val → s'.island q = s.island q) ∧ s'.clk.monReason = 0x0B32 ∧ OnlyChanges [.clk, .obs] s0 s')) ∧
    (∀ (p : Phys) (k : BitVec 8),
      Runs (.timingWarning t p k) s (fun s' =>
        s'.island p.val = { s.island p.val with slack := k, warn := decide (k.toNat < 21) || (s.island p.val).warn } ∧
        (k.toNat < 21 → s'.clk.monReason = 0x0B30) ∧ (∀ q, q ≠ p.val → s'.island q = s.island q) ∧ OnlyChanges [.clk, .obs] s0 s') ∧
      (k.toNat < 11 → Runs (.timingAlarm t p k) s (fun s' =>
        (s'.island p.val).slack = k ∧ (s'.island p.val).alarm = true ∧ s'.clk.monReason = 0x0B31 ∧
        (floorOf s0 p.val < (s.island p.val).point → (s'.island p.val).busy = true ∧
          (s'.island p.val).target = BitVec.ofNat 3 ((s.island p.val).point - 1)) ∧
        (∀ q, q ≠ p.val → s'.island q = s.island q) ∧ OnlyChanges [.clk, .obs] s0 s'))) ∧
    Runs (.patrolScrub t .clean) s (fun s' => s' = s0) ∧
    (∀ n, Runs (.patrolScrub t (.sramCorrected n)) s (fun s' => s' = bump (tileCtr n.val 0x0A8) 1 s0)) ∧
    (∀ d, Runs (.patrolScrub t (.hbmCorrected d)) s (fun s' => s' = bump (devCtr (0x40 * d.val + 0x10)) 1 s0)) ∧
    (∀ n a, tagState ((s.tile n.val).acc a.val).tag = accFree → Runs (.patrolScrub t (.accMemory n a)) s (fun s' =>
      s' = sramUe n.val (2304 * a.val) s0)) ∧
    (∀ n j c, s.inst? j.val c.toNat = none → Runs (.patrolScrub t (.residue n j c)) s (fun s' => s' = bump (tileCtr n.val 0x0B8) 1 s0)) ∧
    (∀ n j c, (s.inst? j.val c.toNat).isSome = true → Runs (.patrolScrub t (.residue n j c)) s (fun s' =>
      s' = tileCause j.val c.toNat n.val stIncomplete 0x0B01 (bump (tileCtr n.val 0x0B8) 1 s0))) ∧
    (∀ d, Runs (.patrolScrub t (.hbmReserved d)) s (fun s' =>
      s'.clk = { s.clk with monReason := 0x0B03 } ∧ OnlyChanges [.clk, .obs] s0 s'))

/-! ### Tides and the switch core (10) -/

/-- TIDE_CTL.EN runs the consistency check, waits for the islands it raises, and leaves a switch pending or a refusal; clearing EN cancels it; the staged bank comes into
force at its tide after GO, and the old bank is held for 2,048 slots (R272, R273).
Completes: tideEnable, tideDisable, tideBankSwitch, tideHoldEnd.
Model's choices it rests on: log entry 47. -/
def Obligations.TideSwitches : Prop :=
  ∀ (t : Time) (v : Word) (s : State),
    let s0 := tick t s
    (Working s → s.tide.en = false →
      (∀ code, tideCheck s0 = some code → Runs (.tideEnable t v) s (fun s' =>
        s'.tide = { s0.tide with en := false, reason := BitVec.ofNat 16 code } ∧ OnlyChanges [.tide, .clk] s0 s')) ∧
      (tideCheck s0 = none →
        let b := s.otherBank
        let m := (List.range 128).foldl (fun s n => if bankUses b n then raiseTile n s else s) (s0.updTide (fun x => { x with en := true }))
        (raising m b = false → Runs (.tideEnable t v) s (fun s' =>
          s' = toCoordinator 2 (tidePay s.tide.switchAt.toNat b.len b.tableid.toNat)
            (m.updTide (fun x => { x with en := true, pending := true, go := false })) ∧
          (s.fabric.root = none → s'.tide = { s0.tide with en := true, pending := true, go := false } ∧ OnlyChanges [.tide, .clk] s0 s'))) ∧
        (raising m b = true → Runs (.tideEnable t v) s (fun s' =>
          s' = m.updDev (fun d => { d with waiting := d.waiting ++ [.tide] }) ∧ s'.tide = { s0.tide with en := true } ∧
          OnlyChanges [.tide, .clk, .dev] s0 s')))) ∧
    (Serving s → checking .tide s = false →
      (s.tide.pending = true → Runs (.tideDisable t v) s (fun s' =>
        s' = cancelSwitch (toCoordinator 5 (tidePay s.tide.switchAt.toNat s.otherBank.len s.otherBank.tableid.toNat) s0) ∧
        (s.fabric.root = none → s'.tide = { s0.tide with en := false, pending := false, go := false } ∧ OnlyChanges [.tide] s0 s'))) ∧
      (s.tide.pending = false → Runs (.tideDisable t v) s (fun s' => s' = s0))) ∧
    (s.tide.pending = true → s.tide.go = true →
      (tideStart5 s0 s.tide.switchAt.toNat ≤ 5 * (s0.time : Int) → Runs (.tideBankSwitch t) s (fun s' =>
        s'.tide.active = !s.tide.active ∧ s'.tide.en = false ∧ s'.tide.pending = false ∧ s'.tide.staged = false ∧ s'.tide.go = false ∧
        s'.tide.hold = true ∧ s'.tide.bank0 = s.tide.bank0 ∧ s'.tide.bank1 = s.tide.bank1 ∧ s'.tide.len = s.otherBank.len ∧
        s'.tide.switchPos =
          ((s0.tide.base : Int) + ((s.tide.switchAt.toNat : Int) - s0.tide.now) * (4 * s.tide.len)).toNat ∧
        s'.tide.switchPos ≤ s'.tide.base ∧ s.tide.switchAt.toNat ≤ s'.tide.now ∧ OnlyChanges [.tide] s0 s')) ∧
      (5 * (s0.time : Int) < tideStart5 s0 s.tide.switchAt.toNat → Runs (.tideBankSwitch t) s (fun s' => s' = s0))) ∧
    (s.tide.hold = true → 5 * s.tide.switchedAt + 2048 * slotFifths ≤ 5 * s0.time → Runs (.tideHoldEnd t) s (fun s' =>
      s'.tide = { s0.tide with hold := false } ∧ OnlyChanges [.tide] s0 s'))

/-- A port's slot takes four cells in its order of classes and is held for retry (R278, R330); the matcher moves up to four cells of a
matched pair's queue (R277).
Completes: tideSlot, matchQuad.
Model's choices it rests on: log entries 24 and 63. -/
def Obligations.SlotsAndMatcher : Prop :=
  ∀ (t : Time) (s : State), s.bank.ents = [] → s.otherBank.ents = [] →
    let s0 := tick t s
    (∀ (n : Sys2Proof.PSet) (a b c d : Cell) (rest : List Cell), (∀ j, j < 64 → (s.job j).st ≠ .running) →
      (∀ k, k < 130 → k ≠ n.val →
        (s.port k).st ≠ .up ∧ (s.port k).st ≠ .retrain ∧ (s.port k).st ≠ .loopback ∧ (s.port k).schedQ = []) →
      (∀ x ∈ [a, b, c, d], x.cls ≠ clsSched) → (s.port n.val).owesRetrain = false →
      (s.port n.val).st = .up → (s.port n.val).txFree ≤ 5 * s0.time → (s.port n.val).slpMove = .none → (s.port n.val).again = none →
      (s.port n.val).replay = [] → (s.port n.val).held = [] → (s.port n.val).ctlOut = [] → (s.port n.val).schedQ = [] →
      (s.port n.val).slipQ = [] → (s.port n.val).ctlQ = a :: b :: c :: d :: rest →
      Runs (.tideSlot t) s (fun s' =>
        (s'.port n.val).ctlQ = rest ∧ (s'.port n.val).txSeq = (s.port n.val).txSeq + 1 ∧ (s'.port n.val).heldAt = s0.time ∧
        (s'.port n.val).held = [⟨[a, b, c, d], [0, 0, 0, 0], (s.port n.val).txSeq, BitVec.ofNat 3 (min 4 (s.port n.val).owed), 0, 0, 0⟩] ∧
        (s'.port n.val).owed = (s.port n.val).owed - 4 ∧ (s'.port n.val).mgmtQ = (s.port n.val).mgmtQ ∧
        (∀ k, k ≠ n.val → s'.port k = s.port k) ∧ OnlyChanges [.ports, .fabric, .obs] s0 s')) ∧
    (∀ (i o : LTile) (p : Fin 4) (cs : List Cell), cs ≠ [] → (∀ n, n < 128 → (s.tile n).bands = [] ∧ (s.port n).passCells = []) →
      (∀ n, n < 128 → n ≠ i.val → (s.tile n).voqs = []) → (s.tile i.val).voqs = [(4 * o.val + p.val, cs.map (fun c => ⟨c, none⟩))] →
      fullRate s i.val = true → fullRate s o.val = true → (s.port o.val).unsQ.length ≤ 60 →
      Runs (.matchQuad t) s (fun s' =>
        (s'.port o.val).unsQ = (s.port o.val).unsQ ++ cs.take 4 ∧
        Tbl.get [] (s'.tile i.val).voqs (4 * o.val + p.val) = (cs.drop 4).map (fun c => ⟨c, none⟩) ∧
        Tbl.get 0 s'.fabric.gptr (4 * o.val + p.val) = (i.val + 1) % 128 ∧ Tbl.get 0 s'.fabric.aptr (4 * i.val + p.val) = (o.val + 1) % 128 ∧
        (∀ k, k ≠ o.val → s'.port k = s.port k) ∧ (∀ k, k ≠ i.val → s'.tile k = s.tile k) ∧
        OnlyChanges [.ports, .tiles, .fabric, .obs] s0 s'))

/-- PASS cells keep their time through the device; unscheduled cells are staged on a credit and delivered or queued; a slipped cell 8,192
positions late is dropped (R266, R270, R275, R276).
Completes: passCell, unscheduledCell, creditHoldRetry, slipLimit.
Model's choices it rests on: log entries 19, 23, 60 and 61. -/
def Obligations.CellsThroughTheSwitch : Prop :=
  ∀ (t : Time) (n : LTile) (c : Cell) (s : State),
    let s0 := tick t s
    let p := s.port n.val
    (∀ (lbl : BitVec 14) (q : PassCell), p.passCells.find? (fun q => q.label = lbl && q.cell = c) = some q →
      let e := q.entry
      teMc e = false → teTile e = false → teUnit e ≠ n.val →
      linkAlive (s.port (teUnit e)) = true → (s.port (teUnit e)).autowake = false ∨ ((s.port (teUnit e)).slp = .active ∧ (s.port (teUnit e)).slpMove = .none) → Runs (.passCell t n lbl c) s (fun s' =>
        s'.port (teUnit e) = { s.port (teUnit e) with
          schedQ := (s.port (teUnit e)).schedQ ++ [⟨q.pos + passOffset n.val (teUnit e), c, false⟩] } ∧
        s'.port n.val = { p with passCells := dropFirst (· = q) p.passCells } ∧
        (∀ k, k ≠ n.val → k ≠ teUnit e → s'.port k = s.port k) ∧ OnlyChanges [.ports, .obs] s0 s')) ∧
    (c.cls = clsUns → isNext c (p.rxCells.map (·.2)) = true → p.staged = [] → p.creditHold = false → noTag c s = false →
      (∀ (b : Nat) (rest : List Nat), unsTargets n.val c s0 = .go [] true → cellSlot s c = none → transitUse s n.val < 1024 →
        (s.tile n.val).free = b :: rest → b < 16384 → Runs (.unscheduledCell t n c) s (fun s' =>
        s'.fabric = { s.fabric with hmRx := s.fabric.hmRx ++ [c] } ∧ (s'.tile n.val).free = rest ++ [b] ∧ (s'.tile n.val).buf b = Buf.reset ∧
        s'.port n.val = { p with rxCells := dropFirst (fun e => e.2 = c) p.rxCells, owed := p.owed + 1 } ∧
        (∀ k, k ≠ n.val → s'.port k = s.port k) ∧ OnlyChanges [.ports, .tiles, .fabric, .obs] s0 s')) ∧
      (unsTargets n.val c s0 = .unreach → Runs (.unscheduledCell t n c) s (fun s' =>
        s'.port n.val = { p with rxCells := dropFirst (fun e => e.2 = c) p.rxCells, owed := p.owed + 1 } ∧ OnlyChanges [.ports, .obs] s0 s')) ∧
      (∀ (q : Nat) (b : Nat) (rest : List Nat), unsTargets n.val c s0 = .go [q] false → q ≠ n.val → linkAlive (s.port q) = true →
        (s.port q).autowake = false ∨ ((s.port q).slp = .active ∧ (s.port q).slpMove = .none) → cellSlot s c = none → transitUse s n.val < 1024 → (s.tile n.val).free = b :: rest →
        Runs (.unscheduledCell t n c) s (fun s' =>
          Tbl.get [] (s'.tile n.val).voqs (4 * q) = Tbl.get [] (s.tile n.val).voqs (4 * q) ++ [⟨c, some b⟩] ∧
          (s'.tile n.val).buf b = ⟨true, 1, false, some .transit, false⟩ ∧ (s'.tile n.val).free = rest ∧
          (s'.port n.val).owed = p.owed + 1 ∧ (s'.port n.val).staged = [] ∧ (∀ k, k ≠ n.val → s'.tile k = s.tile k) ∧
          OnlyChanges [.ports, .tiles, .obs] s0 s'))) ∧
    (p.creditHold = true → p.staged = [] → Runs (.creditHoldRetry t n) s (fun s' =>
      s'.port n.val = { p with creditHold := false } ∧ (∀ k, k ≠ n.val → s'.port k = s.port k) ∧ OnlyChanges [.ports, .obs] s0 s')) ∧
    (∀ (q : QCell) (b : Nat) (rest : List Nat), p.creditHold = true → p.staged = [q] → noTag q.cell s = false →
      unsTargets n.val q.cell s0 = .go [] true → cellSlot s q.cell = none → transitUse s n.val < 1024 →
      (s.tile n.val).free = b :: rest → b < 16384 →
      Runs (.creditHoldRetry t n) s (fun s' =>
        s'.port n.val = { p with creditHold := false, staged := [], owed := p.owed + 1 } ∧
        s'.fabric = { s.fabric with hmRx := s.fabric.hmRx ++ [q.cell] } ∧ OnlyChanges [.ports, .tiles, .fabric, .obs] s0 s')) ∧
    (∀ (set : Sys2Proof.PSet) (x : SchedCell), (s.port set.val).slipQ.find? (fun x => x.pos + 8192 ≤ posNow s0) = some x → slotOf x.cell.job s = none →
      Runs (.slipLimit t set) s (fun s' =>
        s'.port set.val = { s.port set.val with slipQ := dropFirst (· = x) (s.port set.val).slipQ } ∧
        (∀ k, k ≠ set.val → s'.port k = s.port k) ∧ OnlyChanges [.ports, .obs] s0 s'))

/-- Frees and the auditor keep a tile's buffer pool: a free of a shared buffer counts down, the last one returns it, a free of a free
buffer is counted, and the auditor returns a buffer that is neither free-listed nor in use (Table SW-13, R282, R284).
Completes: bufferFree, auditorStep.
Model's choices it rests on: log entry 9. -/
def Obligations.BufferPool : Prop :=
  ∀ (t : Time) (n : LTile) (addr : Word) (s : State),
    let s0 := tick t s
    let b := addr.toNat / 112
    let x := s.tile n.val
    let y := x.buf b
    let good := addr.toNat < 1835008 ∧ addr.toNat % 112 = 0
    (¬ good → Runs (.bufferFree t n addr) s (fun s' => s' = logCode 0x020C (unitTile n.val) s0)) ∧
    (good → y.state = false → Runs (.bufferFree t n addr) s (fun s' => s' = bump (tileCtr n.val 0x0C8) 1 (logCode 0x020D (unitTile n.val) s0))) ∧
    (good → y.state = true → 1 < y.count → Runs (.bufferFree t n addr) s (fun s' =>
      (s'.tile n.val).buf b = { y with count := y.count - 1 } ∧ (s'.tile n.val).freeList = x.freeList ∧
      (∀ k, k ≠ b → (s'.tile n.val).buf k = x.buf k) ∧ (∀ k, k ≠ n.val → s'.tile k = s.tile k) ∧ OnlyChanges [.tiles] s0 s')) ∧
    (good → y.state = true → y.count ≤ 1 → Runs (.bufferFree t n addr) s (fun s' =>
      (s'.tile n.val).buf b = Buf.reset ∧ (s'.tile n.val).free = x.free ++ [b] ∧ (∀ k, k ≠ b → (s'.tile n.val).buf k = x.buf k) ∧
      (∀ k, k ≠ n.val → s'.tile k = s.tile k) ∧ OnlyChanges [.tiles] s0 s')) ∧
    ((x.buf x.audit).state = false → (x.free.filter (· = x.audit)).length = 0 → Runs (.auditorStep t n) s (fun s' =>
      (s'.tile n.val).free = x.free ++ [x.audit] ∧ (s'.tile n.val).audit = (x.audit + 1) % 16384 ∧
      (∀ k, k ≠ n.val → s'.tile k = s.tile k) ∧ OnlyChanges [.tiles, .obs] s0 s')) ∧
    ((x.buf x.audit).state = false → (x.free.filter (· = x.audit)).length = 1 → Runs (.auditorStep t n) s (fun s' =>
      s'.tile n.val = { x with audit := (x.audit + 1) % 16384 } ∧ (∀ k, k ≠ n.val → s'.tile k = s.tile k) ∧ OnlyChanges [.tiles] s0 s'))

/-! ### Links (12) -/

/-- A slot that fails its checks is discarded with NAK; one that passes brings its ACK, and in sequence its number, credits and handshake
code; held slots unacknowledged for 200 ns are replayed, and the eighth replay of one starts a short retrain with 0x0109
(R327, R329 to R331).
Completes: slotReceived, replayTimeout.
Model's choices it rests on: log entries 21 and 61. -/
def Obligations.LinkSlots : Prop :=
  ∀ (t : Time) (n : Sys2Proof.PSet) (s : State),
    let s0 := tick t s
    let p := s.port n.val
    let alone (s' : State) : Prop := ∀ k, k ≠ n.val → s'.port k = s.port k
    (∀ lanes, p.st = .up → p.coding = false → p.switchIn.length ≤ p.switchOut.length → nativeFrames p lanes = none → Runs (.slotReceived t n (.native lanes)) s (fun s' =>
      s'.port n.val = { p with nak := true } ∧ alone s' ∧ OnlyChanges [.ports, .obs] s0 s')) ∧
    (∀ lanes fs q k, p.st = .up → p.coding = false → p.held = [] → nativeFrames p lanes = some (fs, q) → checkSlot q.rxFec fs = some k →
      ctlwCtl k.word.ctlw ≠ ctlVoid →
      (ctlwSeq k.word.ctlw = p.rxSeq + 1 → (∀ c ∈ k.cells, isIdle c = true ∧ hdrBad c = false) →
        Runs (.slotReceived t n (.native lanes)) s (fun s' =>
          (s'.port n.val).rxSeq = ctlwSeq k.word.ctlw ∧ (s'.port n.val).nak = false ∧ (s'.port n.val).ackSeen = ctlwAck k.word.ctlw ∧
          (s'.port n.val).credits = min 256 (p.credits + (ctlwCredit k.word.ctlw).toNat) ∧
          (s'.port n.val).rxCtl = (if ctlwCtl k.word.ctlw = 0 then p.rxCtl else p.rxCtl ++ [ctlwCtl k.word.ctlw]) ∧
          (s'.port n.val).rxCells = p.rxCells ∧ alone s' ∧ OnlyChanges [.ports, .obs] s0 s')) ∧
      (ctlwSeq k.word.ctlw ≠ p.rxSeq + 1 → Runs (.slotReceived t n (.native lanes)) s (fun s' =>
        (s'.port n.val).rxSeq = p.rxSeq ∧ (s'.port n.val).credits = p.credits ∧ (s'.port n.val).rxCells = p.rxCells ∧
        (2048 ≤ (p.rxSeq - ctlwSeq k.word.ctlw).toNat → (s'.port n.val).nak = true) ∧ alone s' ∧ OnlyChanges [.ports, .obs] s0 s'))) ∧
    (p.st = .up → p.held ≠ [] → ns 200 ≤ s0.time - p.heldAt → Runs (.replayTimeout t n) s (fun s' =>
      s'.port n.val = { p with replay := p.held, replayedAck := some p.ackSeen, heldAt := s0.time } ∧ alone s' ∧
      OnlyChanges [.ports, .obs] s0 s')) ∧
    (∀ x : TxSlot, p.again = none → (∃ y ∈ p.held, y.seq = x.seq ∧ 8 ≤ y.replays) →
      let s' := retryLimit n.val x s
      (s'.port n.val).st = .retrain ∧ (s'.port n.val).short = true ∧ (s'.port n.val).reason = 0x0109 ∧
      (∀ y ∈ (s'.port n.val).held, y.replays = 0) ∧ alone s' ∧ OnlyChanges [.ports, .obs] s s')

/-- The handshake codes of a link: width changes, retrains and thin FEC are asked for, accepted, withdrawn and brought into force (R313,
R333, R337, R342).
Completes: wreq, wack, wdraw, switch, rtreq, rtack, fecon, fecoff, fecack.
Model's choices it rests on: log entries 22 and 77. -/
def Obligations.LinkHandshakes : Prop :=
  ∀ (t : Time) (n : Sys2Proof.PSet) (w : BitVec 2) (s : State),
    let s0 := tick t s
    let p := s.port n.val
    let got (c : BitVec 4) : PortS := { p with rxCtl := dropFirst (· = c) p.rxCtl }
    let here (l : List Region) (q : PortS) (s' : State) : Prop :=
      s'.port n.val = q ∧ (∀ k, k ≠ n.val → s'.port k = s.port k) ∧ OnlyChanges (.ports :: l) s0 s'
    (p.rxCtl.contains (ctlWreq w) = true → p.slp ≠ .negotiating →
      (p.req = none → Runs (.wreq t n w) s (here [] { got (ctlWreq w) with
        switchOut := p.switchOut ++ [.width w], switchIn := p.switchIn ++ [.width w], ctlOut := p.ctlOut ++ [ctlWack, ctlSwitch] })) ∧
      (∀ own, p.req = some (.width own) → ownStands s n.val = true → Runs (.wreq t n w) s (here [] (got (ctlWreq w)))) ∧
      (∀ own, p.req = some (.width own) → ownStands s n.val = false → Runs (.wreq t n w) s (here [.obs] { got (ctlWreq w) with
        req := none, switchOut := p.switchOut ++ [.width w], switchIn := p.switchIn ++ [.width w]
        ctlOut := p.ctlOut ++ [ctlWdraw, ctlWack, ctlSwitch] }))) ∧
    (p.rxCtl.contains (ctlWreq w) = true → p.slp = .negotiating → p.req = none → Runs (.wreq t n w) s (here [.obs] { got (ctlWreq w) with
      slp := .active, slpReason := 0x030A, switchOut := p.switchOut ++ [.width w], switchIn := p.switchIn ++ [.width w]
      ctlOut := p.ctlOut ++ [ctlWack, ctlSwitch] })) ∧
    (p.rxCtl.contains ctlWack = true → p.req = some (.width w) → Runs (.wack t n) s (here [] { got ctlWack with
      req := none, switchOut := p.switchOut ++ [.width w], switchIn := p.switchIn ++ [.width w], ctlOut := p.ctlOut ++ [ctlSwitch] })) ∧
    (p.rxCtl.contains ctlWdraw = true → Runs (.wdraw t n) s (here [] (got ctlWdraw))) ∧
    (∀ c rest, p.rxCtl.contains ctlSwitch = true → p.switchIn = c :: rest → Runs (.switch t n) s (fun s' =>
      here [.fabric] (switchRx c { got ctlSwitch with switchIn := rest }) s' ∧ s'.fabric = { s.fabric with changedAt := some s0.time })) ∧
    (p.rxCtl.contains ctlRtreq = true → p.slp ≠ .negotiating → p.req = none → Runs (.rtreq t n) s (fun s' =>
      (s'.port n.val).st = .retrain ∧ (s'.port n.val).phase = .clock ∧ (s'.port n.val).short = true ∧
      (s'.port n.val).ctlOut = p.ctlOut ++ [ctlRtack] ∧ here [] (s'.port n.val) s')) ∧
    (p.rxCtl.contains ctlRtack = true → p.req = some .retrain → Runs (.rtack t n) s (fun s' =>
      (s'.port n.val).st = .retrain ∧ (s'.port n.val).phase = .clock ∧ (s'.port n.val).short = true ∧ (s'.port n.val).req = none ∧
      here [] (s'.port n.val) s')) ∧
    (p.rxCtl.contains ctlFecon = true →
      (fecAllowed s n.val = true → Runs (.fecon t n) s (here [] { got ctlFecon with
        switchOut := p.switchOut ++ [.fec true], switchIn := p.switchIn ++ [.fec true], ctlOut := p.ctlOut ++ [ctlFecack, ctlSwitch] })) ∧
      (fecAllowed s n.val = false → Runs (.fecon t n) s (here [] (got ctlFecon)))) ∧
    (p.rxCtl.contains ctlFecoff = true →
      (fecAllowed s n.val = true → Runs (.fecoff t n) s (here [] { got ctlFecoff with
        switchOut := p.switchOut ++ [.fec false], switchIn := p.switchIn ++ [.fec false], ctlOut := p.ctlOut ++ [ctlFecack, ctlSwitch] })) ∧
      (fecAllowed s n.val = false → Runs (.fecoff t n) s (here [] (got ctlFecoff)))) ∧
    (∀ on, p.rxCtl.contains ctlFecack = true → p.fecReq = some on → Runs (.fecack t n) s (here [] { got ctlFecack with
      fecReq := none, switchOut := p.switchOut ++ [.fec on], switchIn := p.switchIn ++ [.fec on], ctlOut := p.ctlOut ++ [ctlSwitch] }))

/-- PORT_CTL: EN checks and trains, clearing it disables; RETRAIN, FEC, WIDTH and LOOP of an enabled port ask the partner or are refused
while the port carries a slice (R333, R342, R348 to R350, Table LN-9).
Completes: portEnable, portDisable, portRetrain, fecRequest, widthRequest, loopbackRequest.
Model's choices it rests on: log entry 22. -/
def Obligations.PortControl : Prop :=
  ∀ (t : Time) (n : Port) (v : Word) (s : State), Working s → checking (.port n.val) s = false →
    let s0 := tick t s
    let p := s.port n.val
    let alone (s' : State) : Prop := ∀ k, k ≠ n.val → s'.port k = s.port k
    let loop := v.extractLsb' 24 2
    let width := v.extractLsb' 14 2
    let fec := v.getLsbD 17
    let set : PortS := { p with
      loop := loop, fecRes := v.getLsbD 19, fecAuto := v.getLsbD 18, fec := fec, width := width, coding := v.getLsbD 13, clk := v.getLsbD 12 }
    let auto_ : PortS := { p with fecAuto := v.getLsbD 18 }
    let n' : Sys2Proof.PSet := ⟨n.val, by omega⟩
    (p.en = false →
      (∀ code, portCheck n.val set = some code → Runs (.portEnable t n v) s (fun s' =>
        s'.port n.val = { set with en := false, reason := BitVec.ofNat 16 code } ∧ alone s' ∧ OnlyChanges [.ports] s0 s')) ∧
      (portCheck n.val set = none → loop = 0 → Runs (.portEnable t n v) s (fun s' =>
        (s'.port n.val).en = true ∧ (s'.port n.val).st = .detect ∧ (s'.port n.val).phase = .detect ∧ (s'.port n.val).phaseAt = s0.time ∧
        (s'.port n.val).short = false ∧ (s'.port n.val).width = width ∧ alone s' ∧ OnlyChanges [.ports, .free] s0 s')) ∧
      (portCheck n.val set = none → loop ≠ 0 → carriesSlice s n.val = false → Runs (.portEnable t n v) s (fun s' =>
        (s'.port n.val).en = true ∧ (s'.port n.val).st = .loopback ∧ (s'.port n.val).loop = loop ∧ alone s' ∧ OnlyChanges [.ports] s0 s'))) ∧
    (p.en = true → Runs (.portDisable t n v) s (fun s' =>
      (s'.port n.val).en = false ∧ (s'.port n.val).st = .disabled ∧ (s'.port n.val).adj = .down ∧ (s'.port n.val).unsQ = [] ∧
      (s'.port n.val).ctlQ = [] ∧ (s'.port n.val).coding = p.coding ∧ alone s' ∧ OnlyChanges [.dev, .ports, .fabric, .obs, .tiles, .jobs] s0 s')) ∧
    (p.en = true → loop = p.loop → width = p.width → fec = p.fec → p.st = .up → p.req = none → p.slp ≠ .negotiating →
      v.getLsbD 0 = true → Runs (.portRetrain t n' v) s (fun s' =>
        s'.port n.val = { auto_ with req := some .retrain, ctlOut := p.ctlOut ++ [ctlRtreq] } ∧ alone s' ∧ OnlyChanges [.ports] s0 s')) ∧
    (p.en = true → v.getLsbD 0 = true → v.getLsbD 1 = false →
      (loop = p.loop → width = p.width → fec ≠ p.fec →
        (fecAllowed s n.val = true → p.st = .up → Runs (.fecRequest t n' v) s (fun s' =>
          s'.port n.val = { auto_ with fec := fec, fecReq := some fec, ctlOut := p.ctlOut ++ [if fec then ctlFecon else ctlFecoff] } ∧
          alone s' ∧ OnlyChanges [.ports] s0 s')) ∧
        (fecAllowed s n.val = false → Runs (.fecRequest t n' v) s (fun s' =>
          s'.port n.val = { auto_ with reason := 0x0103 } ∧ alone s' ∧ OnlyChanges [.ports] s0 s'))) ∧
      (loop = p.loop → fec = p.fec → width ≠ p.width → width ≠ 3 →
        (carriesSlice s n.val = false → p.coding = false → p.st = .up → p.slp ≠ .negotiating → Runs (.widthRequest t n' v) s (fun s' =>
          s'.port n.val = { auto_ with
            width := width, nextWidth := width, req := some (.width width), ctlOut := p.ctlOut ++ [ctlWreq width] } ∧
          alone s' ∧ OnlyChanges [.ports] s0 s')) ∧
        (carriesSlice s n.val = true → Runs (.widthRequest t n' v) s (fun s' =>
          s'.port n.val = { auto_ with reason := 0x0103 } ∧ alone s' ∧ OnlyChanges [.ports] s0 s'))) ∧
      (width = p.width → fec = p.fec → loop ≠ p.loop → loop = 0 → p.st = .loopback → Runs (.loopbackRequest t n' v) s (fun s' =>
        (s'.port n.val).loop = 0 ∧ (s'.port n.val).st = .detect ∧ alone s' ∧ OnlyChanges [.ports, .free] s0 s')) ∧
      (width = p.width → fec = p.fec → loop ≠ p.loop → loop ≠ 0 →
        (carriesSlice s n.val = false → Runs (.loopbackRequest t n' v) s (fun s' =>
          (s'.port n.val).loop = loop ∧ (s'.port n.val).st = .loopback ∧ alone s' ∧ OnlyChanges [.ports] s0 s')) ∧
        (carriesSlice s n.val = true → Runs (.loopbackRequest t n' v) s (fun s' =>
          s'.port n.val = { auto_ with reason := 0x0104 } ∧ alone s' ∧ OnlyChanges [.ports] s0 s'))))

/-- Training goes from DETECT to CLOCK, EQ, ALIGN, TIME and UP; a phase beyond its limit takes the port DOWN with the phase's code, and
10 ms later it tries again (R337, R338, Table LN-5).
Completes: farEndDetect, clockLock, trainingWord, trainingPhaseTimeout, trainingRetry.
Model's choices it rests on: log entries 22, 75 and 76. -/
def Obligations.PortTraining : Prop :=
  ∀ (t : Time) (n : Sys2Proof.PSet) (s : State),
    let s0 := tick t s
    let p := s.port n.val
    let alone (s' : State) : Prop := ∀ k, k ≠ n.val → s'.port k = s.port k
    (p.phase = .detect → Runs (.farEndDetect t n) s (fun s' =>
      (s'.port n.val).phase = .clock ∧ (s'.port n.val).phaseAt = s0.time ∧ alone s' ∧ OnlyChanges [.ports] s0 s')) ∧
    (p.phase = .clock → Runs (.clockLock t n) s (fun s' =>
      (s'.port n.val).phase = (if p.short then .align else .eq) ∧ (s'.port n.val).st = (if p.short then .retrain else .training) ∧
      (s'.port n.val).phaseAt = s0.time ∧ alone s' ∧ OnlyChanges [.ports] s0 s')) ∧
    (∀ (lane : Fin 8) (word : BitVec 128) (crc : Word) (m : TrainMeas), p.en = true → p.coding = false →
      let used := lanesIn (setFor p p.nextWidth)
      let own (s' : State) : Lane := (s'.port n.val).lane lane.val
      (crc32c (leBytes 16 word.toNat) ≠ crc → Runs (.trainingWord t n lane word crc m) s (fun s' =>
        s'.port n.val = p.updLane lane.val (fun x => { x with frames := 0 }) ∧ alone s' ∧ OnlyChanges [.ports] s0 s')) ∧
      (crc32c (leBytes 16 word.toNat) = crc → p.phase = .eq → p.st ≠ .up → twN word 0 1 % 16 = 1 →
        (m.converged = true → bitN (twN word 1 1) 7 = true →
          (∀ l ∈ used, l ≠ lane.val → (p.lane l).eqPeer = true ∧ (p.lane l).eqReq = 0x80) →
          Runs (.trainingWord t n lane word crc m) s (fun s' =>
            (s'.port n.val).phase = .align ∧ (own s').taps = applyEq (twN word 1 1) (p.lane lane.val).taps ∧
            (own s').eqStat = eqStatOf (twN word 1 1) (p.lane lane.val).taps ∧
            (own s').frames = (p.lane lane.val).frames + 1 ∧ alone s' ∧ OnlyChanges [.ports] s0 s')) ∧
        (m.converged = false → lane.val ∈ used → Runs (.trainingWord t n lane word crc m) s (fun s' =>
          (s'.port n.val).phase = .eq ∧ (own s').taps = applyEq (twN word 1 1) (p.lane lane.val).taps ∧
          (own s').eqStat = eqStatOf (twN word 1 1) (p.lane lane.val).taps ∧ alone s' ∧ OnlyChanges [.ports, .free] s0 s'))) ∧
      (crc32c (leBytes 16 word.toNat) = crc → p.phase = .done → p.st ≠ .up → twN word 0 1 % 16 = 4 →
        Runs (.trainingWord t n lane word crc m) s (fun s' =>
          (s'.port n.val).st = .up ∧ (s'.port n.val).upAt = s0.time ∧ (s'.port n.val).widthNow = p.nextWidth ∧
          (p.short = false → (s'.port n.val).txSeq = 0 ∧ (s'.port n.val).rxSeq = 0xFFF ∧ (s'.port n.val).credits = 256 ∧
            (s'.port n.val).held = []) ∧ alone s' ∧ OnlyChanges [.ports, .fabric] s0 s'))) ∧
    (training p = true → p.phase ≠ .idle → (phaseLimit p).1 ≤ s0.time - p.phaseAt → Runs (.trainingPhaseTimeout t n) s (fun s' =>
      (s'.port n.val).st = .down ∧ (s'.port n.val).reason = BitVec.ofNat 16 (phaseLimit p).2 ∧ (s'.port n.val).phaseAt = s0.time ∧
      (n.val < 128 → alone s') ∧ OnlyChanges [.ports, .fabric, .obs, .tiles, .jobs] s0 s')) ∧
    (p.st = .down → p.en = true → ms 10 ≤ s0.time - p.phaseAt → Runs (.trainingRetry t n) s (fun s' =>
      (s'.port n.val).st = .detect ∧ (s'.port n.val).phase = .detect ∧ (s'.port n.val).phaseAt = s0.time ∧ alone s' ∧
      OnlyChanges [.ports, .free] s0 s'))

/-- The lane detectors: a lost lane narrows the port by a short retrain, the loss of every lane takes it DOWN; margins are kept and a thin
one is logged (R335, R343, R345, R347).
Completes: laneLost, lossOfSignal, lossOfLock, frameLoss, blockLock, blockLockLoss, marginScan.
Model's choices it rests on: log entry 22. -/
def Obligations.LaneDetectors : Prop :=
  ∀ (t : Time) (n : Sys2Proof.PSet) (lane : Fin 8) (s : State),
    let s0 := tick t s
    let p := s.port n.val
    let alone (s' : State) : Prop := ∀ k, k ≠ n.val → s'.port k = s.port k
    let down (s' : State) : Prop := (s'.port n.val).st = .down ∧ (n.val < 128 → alone s') ∧ OnlyChanges [.ports, .fabric, .obs, .tiles, .jobs] s0 s'
    let dark : PortS := p.updLane lane.val (fun x => { x with los := true, healthy := false })
    let slack : PortS := p.updLane lane.val (fun x => { x with lol := true, healthy := false })
    let open_ : PortS := p.updLane lane.val (fun x => { x with locked := false, hdrs := 0, badHdrs := 0, lol := true, healthy := false })
    let sick : PortS := p.updLane lane.val (fun x => { x with healthy := false })
    (p.laneSet.getLsbD lane.val = true → p.st = .up →
      (∀ w set, widest sick 0 = some (w, set) → Runs (.laneLost t n lane) s (fun s' =>
        (s'.port n.val).st = .retrain ∧ (s'.port n.val).short = true ∧ (s'.port n.val).nextWidth = w ∧ (s'.port n.val).reason = 0x010B ∧
        alone s' ∧ OnlyChanges [.ports, .obs] s0 s')) ∧
      (widest sick 0 = none → Runs (.laneLost t n lane) s down)) ∧
    (allLanes dark (·.los) = true → Runs (.lossOfSignal t n lane) s down) ∧
    (allLanes dark (·.los) = false → p.laneSet.getLsbD lane.val = true → p.st = .up → ∀ w set, widest dark 0 = some (w, set) →
      Runs (.lossOfSignal t n lane) s (fun s' =>
        (s'.port n.val).st = .retrain ∧ (s'.port n.val).nextWidth = w ∧ (s'.port n.val).reason = 0x010B ∧
        alone s' ∧ OnlyChanges [.ports, .obs] s0 s')) ∧
    (allLanes dark (·.los) = false → p.laneSet.getLsbD lane.val = false → Runs (.lossOfSignal t n lane) s (fun s' =>
      s'.port n.val = dark ∧ alone s' ∧ OnlyChanges [.ports] s0 s')) ∧
    (p.clk = false → p.en = true → Runs (.lossOfLock t n none) s down) ∧
    (allLanes slack (·.lol) = true → Runs (.lossOfLock t n (some lane)) s down) ∧
    (allLanes slack (·.lol) = false → p.laneSet.getLsbD lane.val = false → Runs (.lossOfLock t n (some lane)) s (fun s' =>
      s'.port n.val = slack ∧ alone s' ∧ OnlyChanges [.ports] s0 s')) ∧
    ((p.lane lane.val).los = true → p.en = true → Runs (.frameLoss t n lane) s down) ∧
    ((p.lane lane.val).los = false → Runs (.frameLoss t n lane) s (fun s' =>
      s'.port n.val = p.updLane lane.val (fun x => { x with frames := 0 }) ∧ alone s' ∧ OnlyChanges [.ports] s0 s')) ∧
    (p.coding = true →
      ((p.lane lane.val).locked = false → 64 ≤ (p.lane lane.val).hdrs → Runs (.blockLock t n lane) s (fun s' =>
        s'.port n.val = p.updLane lane.val (fun x => { x with locked := true, lol := false, hdrs := 0, badHdrs := 0 }) ∧ alone s' ∧
        OnlyChanges [.ports] s0 s')) ∧
      ((p.lane lane.val).hdrs < 64 → Runs (.blockLock t n lane) s (fun s' => s'.port n.val = p ∧ alone s' ∧ OnlyChanges [.ports] s0 s')) ∧
      ((p.lane lane.val).locked = true → 16 ≤ (p.lane lane.val).badHdrs → allLanes open_ (·.lol) = true →
        Runs (.blockLockLoss t n lane) s down) ∧
      ((p.lane lane.val).locked = true → 16 ≤ (p.lane lane.val).badHdrs → allLanes open_ (·.lol) = false → p.laneSet.getLsbD lane.val = false → Runs (.blockLockLoss t n lane) s (fun s' =>
        s'.port n.val = open_ ∧ alone s' ∧ OnlyChanges [.ports] s0 s'))) ∧
    (∀ h w : BitVec 8, p.st ≠ .retrain → p.fecAuto = false →
      let warn := h.toNat < 20 ∨ 100 * w.toNat < 1920
      let alarm := h.toNat < 12 ∨ 100 * w.toNat < 1024
      Runs (.marginScan t n lane h w) s (fun s' =>
        s'.port n.val = { p.updLane lane.val (fun x => { x with ehmin := h, ewmin := w }) with
          reason := (s'.port n.val).reason } ∧ (alarm → (s'.port n.val).reason = 0x010D) ∧
        (warn → ¬ alarm → (s'.port n.val).reason = 0x010C) ∧ (¬ warn → (s'.port n.val).reason = p.reason) ∧ alone s' ∧
        OnlyChanges [.ports, .obs] s0 s'))

/-! ### Fabric (11, 15, 19) -/

/-- Port sleep: asked for, answered, entered, left and woken, or refused with 0x0308 and 0x0309 (R311, R312, R346, Table FB-8).
Completes: sleepRequestLight, sleepRequestDeep, wakeCommand, wakeSignal, sleep, sleepAck, sleepNak, sleepTimeout, sleepEntryDone, sleepExitDone.
Model's choices it rests on: log entries 47 and 73. -/
def Obligations.PortSleep : Prop :=
  ∀ (t : Time) (n : Port) (v : Word) (c : Cell) (s : State),
    let s0 := tick t s
    let p := s.port n.val
    let set : Sys2Proof.PSet := ⟨n.val, by omega⟩
    let here (q : PortS) (s' : State) : Prop := s'.port n.val = q ∧ (∀ k, k ≠ n.val → s'.port k = s.port k) ∧ OnlyChanges [.ports] s0 s'
    let auto_ : PortS := { p with autowake := v.getLsbD 3 }
    let sleepCellOf (sub : Nat) : Prop := c.cls = clsMgmt ∧ c.kind = kSleep ∧ bitsN c.ksf 34 3 = sub ∧ isNext c (p.rxCells.map (·.2)) = true
    let took : PortS := { p with rxCells := dropFirst (fun e => e.2 = c) p.rxCells }
    let room : Prop := ctlUse s n.val < 512
    let entered (q : PortS) (deep ackSent wake : Bool) : PortS := { q with
      slpMove := .entering wake, slpDeep := deep, slpAckSent := ackSent, slpAt := s0.time, woken := false }
    (Serving s → p.slp = .active → p.slpMove = .none →
      (maySleep s n.val = true → room →
        Runs (.sleepRequestLight t n v) s (here { auto_ with
          slp := .negotiating, slpDeep := false, slpAt := s0.time, woken := false, mgmtQ := p.mgmtQ ++ [sleepCell 0 false] }) ∧
        Runs (.sleepRequestDeep t n v) s (here { auto_ with
          slp := .negotiating, slpDeep := true, slpAt := s0.time, woken := false, mgmtQ := p.mgmtQ ++ [sleepCell 0 true] })) ∧
      (maySleep s n.val = false →
        Runs (.sleepRequestLight t n v) s (here { auto_ with slpReason := 0x0308 }) ∧
        Runs (.sleepRequestDeep t n v) s (here { auto_ with slpReason := 0x0308 }))) ∧
    (p.slpMove = .none → (p.slp = .light ∨ p.slp = .deep) →
      (Serving s → Runs (.wakeCommand t n v) s (here { auto_ with slpMove := .exiting, slpAt := s0.time, wakeOut := true })) ∧
      Runs (.wakeSignal t set) s (here { p with slpMove := .exiting, slpAt := s0.time })) ∧
    (p.slp = .negotiating → p.slpMove = .none → room → Runs (.wakeSignal t set) s (here { p with
      slp := .active, woken := true, mgmtQ := p.mgmtQ ++ [sleepCell 2 p.slpDeep] })) ∧
    (sleepCellOf 0 → p.slpMove = .none → room →
      let acked : PortS := { took with mgmtQ := p.mgmtQ ++ [sleepCell 1 (bitN c.ksf 33)] }
      (p.slp = .active → maySleep s n.val = true → heldBusy p = false →
        Runs (.sleep t n c) s (here (entered acked (bitN c.ksf 33) true false))) ∧
      (p.slp = .active → maySleep s n.val = false ∨ heldBusy p = true →
        Runs (.sleep t n c) s (here { took with mgmtQ := p.mgmtQ ++ [sleepCell 2 (bitN c.ksf 33)] })) ∧
      (p.slp = .negotiating → ownStands s n.val = true → Runs (.sleep t n c) s (here took)) ∧
      (p.slp = .negotiating → ownStands s n.val = false → Runs (.sleep t n c) s (fun s' =>
        s'.port n.val = entered { acked with slp := .active, slpReason := 0x030A } (bitN c.ksf 33) true false ∧
        (∀ k, k ≠ n.val → s'.port k = s.port k) ∧ OnlyChanges [.ports, .obs] s0 s'))) ∧
    (sleepCellOf 1 → p.slpMove = .none → p.slp = .negotiating ∨ p.woken = true →
      Runs (.sleepAck t n c) s (here (entered took p.slpDeep false p.woken))) ∧
    (p.slp = .negotiating → p.slpMove = .none →
      (sleepCellOf 2 → Runs (.sleepNak t n c) s (here { took with slp := .active, slpReason := 0x0308 })) ∧
      (p.slpAt + us 10 ≤ s0.time → Runs (.sleepTimeout t n) s (here { p with slp := .active, slpReason := 0x0309 }))) ∧
    (p.slpAt + (if p.slpDeep then ns 400 else ns 60) ≤ s0.time → heldBusy p = false → (∀ m ∈ p.mgmtQ, m.kind ≠ kSleep) →
      let asleep : PortS := { p with slp := if p.slpDeep then .deep else .light, st := .sleep, slpMove := .none }
      (p.slpMove = .entering false → Runs (.sleepEntryDone t n) s (here asleep)) ∧
      (p.slpMove = .entering true → Runs (.sleepEntryDone t n) s (here { asleep with
        slpMove := .exiting, slpAt := s0.time, wakeOut := true }))) ∧
    (p.slpMove = .exiting →
      (p.slp = .light → Runs (.sleepExitDone t n) s (here { p with
        slp := .active, slpMove := .none, wakeOut := false, lastHello := s0.time, heldAt := s0.time, st := .up })) ∧
      (p.slp = .deep → Runs (.sleepExitDone t n) s (fun s' => (s'.port n.val).slp = .active ∧ (s'.port n.val).slpMove = .none ∧
        (s'.port n.val).st = .retrain ∧ (s'.port n.val).short = true ∧ here (s'.port n.val) s')))

/-- The device's identity and enable: DEV_CTL.EN is refused with 0x0301 without a valid ID, DEV_ID is held while EN is 1, and the fallback
ID comes 2 s after boot (R289 to R291, R406).
HELLO finds the neighbours: sent on every awake port, checked, a port of the other plane stopped, an adjacency TWOWAY when the partner
sees this port, and lost after 300 µs without one (R292 to R294, R291).
Completes: devEnable, devDisable, devIdWrite, fallbackId, helloTimer, hello, adjacencyTimeout, endpointDetect.
Model's choices it rests on: log entry 46. -/
def Obligations.IdentityAndNeighbours : Prop :=
  (∀ (t : Time) (v : Word) (s : State),
     let s0 := tick t s
     let d := s.dev
     let keeps : Bool := !v.getLsbD 28 || decide (Tbl.get 0 d.w1cAt 2 = s0.time + 1)
     (Working s → checking .dev s = false →
       (d.en = false → d.idValid = true → Runs (.devEnable t v) s (fun s' =>
         s' = s0.updDev (fun d => { d with noFb := v.getLsbD 1, en := true, st := .enabled }))) ∧
       (d.en = false → d.idValid = false → Runs (.devEnable t v) s (fun s' =>
         s' = s0.updDev (fun d => { d with noFb := v.getLsbD 1, en := false, reason := 0x0301 }))) ∧
       (d.en = true → d.st = .enabled → d.before ≠ .enabled → Runs (.devDisable t v) s (fun s' =>
         s' = s0.updDev (fun d => { d with noFb := v.getLsbD 1, en := false, st := .ready })))) ∧
     (Serving s →
       (d.en = false → Runs (.devIdWrite t v) s (fun s' =>
         s' = s0.updDev (fun d => { d with
           idDup := d.idDup && keeps, id := v.extractLsb' 0 12, idValid := true, idSource := 1 }))) ∧
       (d.en = true → Runs (.devIdWrite t v) s (fun s' => s' = s0.updDev (fun d => { d with idDup := d.idDup && keeps })))) ∧
     (∀ r, d.readyAt = some r → d.idSource = 0 → d.noFb = false → d.en = false → d.st = .ready →
       (r + sec 2 ≤ s0.time → Runs (.fallbackId t) s (fun s' =>
         s' = s0.updDev (fun d => { d with id := fallbackOf d, idValid := true, idSource := 2, en := true, st := .enabled }))) ∧
       (s0.time < r + sec 2 → Runs (.fallbackId t) s (fun s' => s' = s0)))) ∧
  (∀ (t : Time) (n : Port) (c : Cell) (s : State),
     let s0 := tick t s
     let p := s.port n.val
     let alone (s' : State) : Prop := ∀ k, k ≠ n.val → s'.port k = s.port k
     let took : PortS := { p with rxCells := dropFirst (fun e => e.2 = c) p.rxCells }
     let down (q : PortS) : PortS := { q with adj := .down, peerTide := none, peerHops := 0xF, peerLock := false, unacked := [] }
     (within s0 s.fabric.helloAt (us 100) = false → s.dev.st ≠ .boot → Runs (.helloTimer t) s (fun s' =>
       s'.fabric = { s.fabric with helloAt := some s0.time } ∧
       (∀ k, k < 128 → awake (s.port k) = true → (s.port k).slp = .active ∨ (s.port k).autowake = false → ctlUse s k < 512 →
         s'.port k = { s.port k with mgmtQ := (s.port k).mgmtQ ++ [helloCell s0 k] }) ∧
       (∀ k, awake (s.port k) = false ∨ 128 ≤ k → s'.port k = s.port k) ∧ OnlyChanges [.ports, .fabric, .obs] s0 s')) ∧
     (c.cls = clsMgmt → c.kind = kDiscovery → bitsN c.ksf 34 3 = 0 → isNext c (p.rxCells.map (·.2)) = true →
       (helloBad c = true → Runs (.hello t n c) s (fun s' =>
         s'.dev = { s.dev with reason := 0x0304 } ∧ s'.port n.val = took ∧ alone s' ∧ OnlyChanges [.dev, .ports, .obs] s0 s')) ∧
       (helloBad c = false → bitN (c.pn 0 2) 13 ≠ s.dev.twinSel → Runs (.hello t n c) s (fun s' =>
         s'.dev = { s.dev with reason := 0x0303 } ∧ s'.port n.val = down { took with planeBad := true, kind := .device, lastHello := s0.time } ∧
         (p.adj ≠ .down → s'.fabric.changedAt = some s0.time) ∧ alone s' ∧ OnlyChanges [.dev, .ports, .fabric, .obs] s0 s')) ∧
       (helloBad c = false → bitN (c.pn 0 2) 13 = s.dev.twinSel → p.adj = .down → bitN (c.pn 0 2) 12 = true →
         s.fabric.tlock = false ∨ s.fabric.parent ≠ some n.val →
         let peer := c.pn 3 4
         let sees := bitN peer 19 && bitsN peer 0 12 = s.dev.id.toNat && bitsN peer 12 7 = n.val
         Runs (.hello t n c) s (fun s' =>
           (s'.port n.val).adj = (if sees then .twoway else .init) ∧ (s'.port n.val).adjDev = BitVec.ofNat 12 (c.pn 0 2) ∧
           (s'.port n.val).adjPort = BitVec.ofNat 7 (c.pbyte 2) ∧ (s'.port n.val).adjSerial = BitVec.ofNat 64 (c.pn 7 8) ∧
           (s'.port n.val).lastHello = s0.time ∧ (s'.port n.val).kind = .device ∧ (s'.port n.val).planeBad = false ∧
           s'.fabric = { s.fabric with changedAt := some s0.time } ∧ alone s' ∧ OnlyChanges [.ports, .fabric] s0 s'))) ∧
     (p.adj ≠ .down → p.slp = .active → p.slpMove = .none → p.lastHello + us 300 ≤ s0.time → Runs (.adjacencyTimeout t n) s (fun s' =>
       s'.port n.val = down p ∧ alone s' ∧ s'.fabric = { s.fabric with changedAt := some s0.time } ∧ OnlyChanges [.ports, .fabric] s0 s')) ∧
     (p.st = .up → p.kind = .unknown → p.upAt + ms 1 ≤ s0.time → Runs (.endpointDetect t n) s (fun s' =>
       s'.port n.val = { p with kind := .endpoint } ∧ alone s' ∧ OnlyChanges [.ports] s0 s')))

/-- The database: an LSA is originated with the next number, a new part of another device is kept, acknowledged and complete with its last
part, a duplicate of this ID is reported, and LSAs age (R291, R295 to R299).
Completes: lsaOriginate, lsaPart, lsaAck, lsaRetransmit, lsaExpiry, routeInstall.
Model's choices it rests on: log entry 46. -/
def Obligations.Database : Prop :=
  ∀ (t : Time) (n : Port) (c : Cell) (s : State),
    let s0 := tick t s
    let p := s.port n.val
    let got (kind sub : Nat) : Prop := c.cls = clsCtl ∧ c.kind = kind ∧ bitsN c.ksf 34 3 = sub ∧ isNext c (p.rxCells.map (·.2)) = true
    let took : PortS := { p with rxCells := dropFirst (fun e => e.2 = c) p.rxCells }
    let alone (s' : State) : Prop := ∀ k, k ≠ n.val → s'.port k = s.port k
    let origin := bitsN (c.pn 0 2) 0 12
    let part := bitsN (c.pbyte 6) 0 3
    let np := bitsN (c.pbyte 6) 4 3 + 1
    (takesPart s = true →
      (s.fabric.lseq = 0 ∨ s.fabric.originAt + ms 100 ≤ s0.time ∨ (s.fabric.changedAt.isSome = true ∧ s.fabric.originAt + us 20 ≤ s0.time)) → Runs (.lsaOriginate t) s (fun s' =>
      s'.fabric.lseq = BitVec.ofNat 32 (s.fabric.lseq.toNat + 1) ∧ s'.fabric.originAt = s0.time ∧ s'.fabric.changedAt = none ∧
      (∃ l ∈ s'.fabric.full, l.origin = s.dev.id ∧ l.serial = s.dev.serial ∧ l.lseq = BitVec.ofNat 32 (s.fabric.lseq.toNat + 1)) ∧
      (∀ k, (s.port k).adj ≠ .twoway → s'.port k = s.port k) ∧ OnlyChanges [.fabric, .ports, .obs] s0 s')) ∧
    (got kDiscovery 1 →
      (partBad c = true → Runs (.lsaPart t n c) s (fun s' =>
        s'.dev = { s.dev with reason := 0x0304 } ∧ s'.port n.val = took ∧ alone s' ∧ OnlyChanges [.dev, .ports, .obs] s0 s')) ∧
      (partBad c = false → (∀ k, (s.port k).adj ≠ .twoway) → s.fabric.db.find? (fun l => l.origin.toNat = origin) = none →
        (s.dev.idValid = false ∨ origin ≠ s.dev.id.toNat) → Runs (.lsaPart t n c) s (fun s' =>
          (∃ l ∈ s'.fabric.db, l.origin.toNat = origin ∧ l.lseq.toNat = c.pn 2 4 ∧ l.np = np ∧ Tbl.get 0 l.parts part = c.pay) ∧
          (np = 1 → c.pay ≠ 0 → s'.fabric.dbAt = some s0.time ∧ ∃ l ∈ s'.fabric.full, l.origin.toNat = origin) ∧
          s'.dev = s.dev ∧ OnlyChanges [.fabric, .ports, .obs] s0 s')) ∧
      (partBad c = false → (∀ k, (s.port k).adj ≠ .twoway) → s.fabric.db.find? (fun l => l.origin.toNat = origin) = none →
        s.dev.idValid = true → origin = s.dev.id.toNat → c.pn 8 8 < s.dev.serial.toNat → np = 1 → part = 0 → c.pay ≠ 0 → s.dev.st = .enabled →
        Runs (.lsaPart t n c) s (fun s' =>
          s'.dev = { s.dev with
            idDup := true, reason := 0x0302, idValid := false, en := false, st := .withdrawn, w1cAt := Tbl.set 0 s.dev.w1cAt 2 (s0.time + 1) }))) ∧
    (got kAck 1 → Runs (.lsaAck t n c) s (fun s' =>
      s'.port n.val = { took with unacked := p.unacked.filter (fun u => bitsN u.cell.pay.toNat 0 56 ≠ c.pn 0 7) } ∧
      alone s' ∧ OnlyChanges [.ports] s0 s')) ∧
    (p.slp = .active → p.slpMove = .none →
      ((∃ u ∈ p.unacked, u.at_ + us 50 ≤ s0.time ∧ 20 ≤ u.sends) → Runs (.lsaRetransmit t n) s (fun s' =>
        (s'.port n.val).adj = .down ∧ (s'.port n.val).unacked = [] ∧ (p.adj ≠ .down → s'.fabric.changedAt = some s0.time) ∧
        alone s' ∧ OnlyChanges [.ports, .fabric] s0 s')) ∧
      (∀ u, p.unacked = [u] → u.at_ + us 50 ≤ s0.time → u.sends < 20 → linkAlive p = true → ctlUse s n.val < 512 →
        Runs (.lsaRetransmit t n) s (fun s' =>
          s'.port n.val = { p with unacked := [{ u with sends := u.sends + 1, at_ := s0.time }], ctlQ := p.ctlQ ++ [u.cell] } ∧
          s'.fabric = { s.fabric with ctlHeld := Tbl.upd [] s.fabric.ctlHeld n.val (fun l => l ++ [(u.cell, 1)]) } ∧
          alone s' ∧ OnlyChanges [.ports, .fabric] s0 s'))) ∧
    (p.slp ≠ .active ∨ p.slpMove ≠ .none → Runs (.lsaRetransmit t n) s (fun s' => s' = s0)) ∧
    ((∃ l ∈ s.fabric.full, l.at_ + sec 1 ≤ s0.time) → Runs (.lsaExpiry t) s (fun s' =>
      s'.fabric = { s.fabric with
        dbAt := some s0.time
        full := s.fabric.full.filter (fun l => !decide (l.at_ + sec 1 ≤ s0.time))
        db := s.fabric.db.filter (fun l => !decide (l.at_ + sec 1 ≤ s0.time)) } ∧ OnlyChanges [.fabric] s0 s')) ∧
    (∀ a, s.fabric.dbAt = some a → a + us 200 ≤ s0.time → loadedSlots s = [] → Runs (.routeInstall t) s (fun s' =>
      s'.fabric.routes = newRoutes s0 ∧ s'.fabric.dbAt = none ∧ s'.fabric.root = (chooseRoot s0).map (BitVec.ofNat 12) ∧
      OnlyChanges [.dev, .tide, .fabric, .ports, .obs, .free] s0 s'))

/-- Fabric time: the parent is asked once in 1 ms and answers with T1 and T2, a locked device slews or loses lock, the start tide's
exchange fills a port's offset record, and the PPS input makes a root (R303 to R307, R495).
Completes: timeExchange, timeReq, timeResp, startTideExchange, ppsEdge, ppsLoss, ppsOut.
Model's choices it rests on: log entries 46 and 74. -/
def Obligations.FabricTime : Prop :=
  ∀ (t : Time) (n : Sys2Proof.PSet) (c : Cell) (arrival : BitVec 64) (s : State),
    let s0 := tick t s
    let p := s.port n.val
    let got (k : Nat) (sub : Nat) : Prop := c.cls = clsMgmt ∧ c.kind = kTime ∧ bitsN c.ksf 34 3 = sub ∧ isNext c ((s.port k).rxCells.map (·.2)) = true
    let took (k : Nat) : PortS := { s.port k with rxCells := dropFirst (fun e => e.2 = c) (s.port k).rxCells }
    let alone (k : Nat) (s' : State) : Prop := ∀ m, m ≠ k → s'.port m = s.port m
    let sends (k : Nat) : Prop := ctlUse s k < ctlLimit k ∧ ((s.port k).autowake = false ∨ ((s.port k).slp = .active ∧ (s.port k).slpMove = .none))
    let req : Cell := fabCell clsMgmt kTime 0 0 0 (s.fabric.exch + 1).toNat 0
    let theta := (exchange ⟨BitVec.ofNat 64 (c.pn 0 8), BitVec.ofNat 64 (c.pn 8 8), BitVec.ofNat 64 (c.pn 16 8), arrival⟩ (asymOf p)).1
    let mine : Prop := s.fabric.parent = some n.val ∧ p.startEx = none ∧ c.seq = s.fabric.reqSeq.toNat ∧
      s.fabric.sentT1 = some (BitVec.ofNat 64 (c.pn 0 8))
    (s.fabric.parent = some n.val → within s0 s.fabric.exchAt (ms 1) = false → sends n.val → Runs (.timeExchange t) s (fun s' =>
      s'.fabric = { s.fabric with exch := s.fabric.exch + 1, reqSeq := s.fabric.exch + 1, exchAt := some s0.time, sentT1 := none } ∧
      s'.port n.val = { p with mgmtQ := p.mgmtQ ++ [req] } ∧ alone n.val s' ∧ OnlyChanges [.ports, .fabric] s0 s')) ∧
    (got n.val 0 → sends n.val → Runs (.timeReq t n c arrival) s (fun s' =>
      s'.port n.val = { took n.val with
        mgmtQ := p.mgmtQ ++ [fabCell clsMgmt kTime 1 0 0 c.seq (payOf (leBytes 8 (c.pn 0 8) ++ leBytes 8 arrival.toNat))] } ∧
      alone n.val s' ∧ OnlyChanges [.ports] s0 s')) ∧
    (got n.val 1 → mine → s.fabric.tlock = true →
      (-65536000 ≤ theta → theta ≤ 65536000 → Runs (.timeResp t n c arrival) s (fun s' =>
        s'.fabric = { s.fabric with sentT1 := none, slew := clampInt (-50) 50 (Int.tdiv theta 65536) } ∧
        s'.port n.val = took n.val ∧ alone n.val s' ∧ OnlyChanges [.ports, .fabric] s0 s')) ∧
      (65536000 < theta ∨ theta < -65536000 → Runs (.timeResp t n c arrival) s (fun s' =>
        s'.fabric = { s.fabric with sentT1 := none, tlock := false, slew := 0 } ∧ s'.dev = { s.dev with reason := 0x030B } ∧
        (∀ k, k < 130 → (s'.port k).offV = false ∧ (s'.port k).timeRun = false) ∧ OnlyChanges [.dev, .ports, .fabric, .obs] s0 s'))) ∧
    (got n.val 1 → mine → s.fabric.tlock = false →
      (anyRunning s = false → Runs (.timeResp t n c arrival) s (fun s' =>
        s'.fabric.tlock = true ∧ s'.time = max s0.time ((s0.time : Int) + theta).toNat ∧ s'.pending = s.pending ∧ s'.jobs = s.jobs)) ∧
      (anyRunning s = true → 65536000 < theta ∨ theta < -65536000 → Runs (.timeResp t n c arrival) s (fun s' =>
        s'.fabric = { s.fabric with sentT1 := none, slew := if theta < 0 then -50 else 50 } ∧ s'.port n.val = took n.val ∧
        alone n.val s' ∧ OnlyChanges [.ports, .fabric] s0 s'))) ∧
    (∀ (slot : Slot) (q : Port), let j := s.job slot.val
      let x := s.port q.val
      (j.st = .running → s0.tide.now = j.startTide.toNat → exchanges x = true → sends q.val → x.startEx = none →
        (x.offset.valid = false ∨ x.offset.job ≠ j.tag ∨ x.offset.tide ≠ j.startTide) →
        Runs (.startTideExchange t slot q none) s (fun s' =>
          s'.fabric = { s.fabric with exch := s.fabric.exch + 1 } ∧
          s'.port q.val = { x with startEx := some ⟨j.tag, j.startTide, s.fabric.exch + 1, none⟩, mgmtQ := x.mgmtQ ++ [req] } ∧
          alone q.val s' ∧ OnlyChanges [.ports, .fabric] s0 s')) ∧
      (got q.val 1 → x.startEx = some ⟨j.tag, j.startTide, BitVec.ofNat 16 c.seq, some (BitVec.ofNat 64 (c.pn 0 8))⟩ → c.seq < 65536 →
        let r := exchange ⟨BitVec.ofNat 64 (c.pn 0 8), BitVec.ofNat 64 (c.pn 8 8), BitVec.ofNat 64 (c.pn 16 8), arrival⟩ (asymOf x)
        Runs (.startTideExchange t slot q (some (c, arrival))) s (fun s' =>
          s'.port q.val = { took q.val with
            startEx := none, offset := ⟨BitVec.ofInt 64 r.1, BitVec.ofInt 64 r.2, j.tag, j.startTide, true⟩ } ∧
          alone q.val s' ∧ OnlyChanges [.ports] s0 s'))) ∧
    (s.clk.ppsInEn = true → Runs (.ppsEdge t) s (fun s' =>
      let c := { s.clk with ppsPresent := true, ppsAt := s0.time }
      s'.clk = c ∧ s'.fabric.root = (chooseRoot { s0 with clk := c }).map (BitVec.ofNat 12) ∧
      OnlyChanges [.dev, .tide, .fabric, .ports, .clk, .obs, .free] s0 s')) ∧
    (s.clk.ppsPresent = true → s.clk.ppsAt + ms 1500 ≤ s0.time → Runs (.ppsLoss t) s (fun s' =>
      let c := { s.clk with ppsPresent := false }
      s'.clk = c ∧ s'.fabric.root = (chooseRoot { s0 with clk := c }).map (BitVec.ofNat 12) ∧
      OnlyChanges [.dev, .tide, .fabric, .ports, .clk, .obs, .free] s0 s')) ∧
    Runs (.ppsOut t) s (fun s' =>
      s'.clk = { s.clk with ppsOut := s.clk.ppsOutEn && decide (s0.time % sec 1 < ms 1) } ∧ OnlyChanges [.clk] s0 s')

/-- Tide agreement: readiness is collected, withdrawn and decided by the time root; GO and CANCEL act on the pending switch, and no GO
20 µs before the switch cancels it (R309, R310, Table FB-6).
Completes: tideReady, tideWithdraw, tideDecision, tideGo, tideCancel, tideGoDeadline.
Model's choices it rests on: log entry 46. -/
def Obligations.TideAgreement : Prop :=
  ∀ (t : Time) (dev : BitVec 12) (c : Cell) (s : State),
    let s0 := tick t s
    let here : Prop := s.fabric.hmRx.contains c = true
    let took : Fabric := { s.fabric with hmRx := dropFirst (· = c) s.fabric.hmRx }
    let rec_ : ReadyRec := ⟨dev, BitVec.ofNat 48 (payTide c), BitVec.ofNat 32 (payLen c), BitVec.ofNat 32 (payTable c)⟩
    let cancelled (code : BitVec 16) (s' : State) : Prop :=
      s'.tide = { s0.tide with en := false, pending := false, go := false, reason := code }
    (isTideCell 2 c = true → here → takeTwin c s = none → Runs (.tideReady t dev c) s (fun s' =>
      s'.tide = { s0.tide with ready := s.tide.ready.filter (fun y => y.dev ≠ dev) ++ [rec_] } ∧ s'.fabric = took ∧
      OnlyChanges [.tide, .fabric] s0 s')) ∧
    (isTideCell 2 c = true → (takeTwin c s).isSome = true → Runs (.tideReady t dev c) s (fun s' =>
      s'.tide = { s0.tide with twinReady := some rec_ } ∧ OnlyChanges [.tide, .ports] s0 s')) ∧
    (isTideCell 5 c = true → here → s.tide.decided ≠ some (BitVec.ofNat 48 (payTide c)) → s.tide.withdrawn.contains dev = false →
      Runs (.tideWithdraw t dev c) s (fun s' =>
        s'.tide = { s0.tide with ready := s.tide.ready.filter (fun y => y.dev ≠ dev), withdrawn := s.tide.withdrawn ++ [dev] } ∧
        s'.fabric = took ∧ OnlyChanges [.tide, .fabric] s0 s')) ∧
    (∀ tide, decisionTide s = some tide → s.fabric.root = some s.dev.id → s.dev.idValid = true → s.tide.decided ≠ some tide →
      tideStart5 s0 tide.toNat ≤ 5 * ((s0.time + us 100 : Nat) : Int) → s.twin.dst ≠ .moored →
      let g := Tbl.get 0 s.fabric.groups 1
      grpValid g = true → grpJob g = 0 → grpPorts g = [] → grpLocal g = true →
      let decided (go : Nat) (len : Nat) (s' : State) : Prop :=
        s'.tide = { s0.tide with decided := some tide, ready := [], withdrawn := [], twinReady := none } ∧
        s'.fabric = { s.fabric with hmRx := s.fabric.hmRx ++ [fabCell clsCtl kDiscovery go 0 1 0 (tidePay tide.toNat len 0)] } ∧
        OnlyChanges [.tide, .fabric] s0 s'
      (∀ len, planeReady s tide = some len → Runs (.tideDecision t) s (decided 3 len.toNat)) ∧
      (planeReady s tide = none → s.tide.ready = [] → Runs (.tideDecision t) s (decided 4 0))) ∧
    (isTideCell 3 c = true → here → s.tide.pending = true → payTide c = s.tide.switchAt.toNat → payLen c = s.otherBank.len →
      (beforeSwitch s0 (us 20) = true → Runs (.tideGo t c) s (fun s' =>
        s'.tide = { s0.tide with go := true } ∧ s'.fabric = took ∧ OnlyChanges [.tide, .fabric] s0 s')) ∧
      (beforeSwitch s0 (us 20) = false → Runs (.tideGo t c) s (fun s' =>
        s'.tide = s0.tide ∧ s'.fabric = took ∧ OnlyChanges [.fabric] s0 s'))) ∧
    (isTideCell 4 c = true → here → s.tide.pending = true → payTide c = s.tide.switchAt.toNat → Runs (.tideCancel t c) s (fun s' =>
      cancelled 0x0307 s' ∧ s'.fabric = took ∧ OnlyChanges [.tide, .fabric] s0 s')) ∧
    (s.tide.pending = true → s.tide.go = false → beforeSwitch s0 (us 20) = false → Runs (.tideGoDeadline t) s (fun s' =>
      cancelled 0x0306 s' ∧ OnlyChanges [.tide] s0 s'))

/-! ### Twin operation (13) -/

/-- TWIN_CTL and mooring: EN is checked and trains both halves, CMD acts on the job of TWIN_JOB or is refused with 0x090D or 0x090E, MOORs
are sent, checked and missed (R354 to R356, R366, R367, Tables TW-1, TW-8).
Completes: twinEnable, twinDisable, twinCmdOut, twinCmdResync, twinCmdRejoin, moor, moorTimer, moorTimeout.
Model's choices it rests on: log entries 28 and 78. -/
def Obligations.TwinMooring : Prop :=
  ∀ (t : Time) (v : Word) (s : State),
    let s0 := tick t s
    let w := s.twin
    (Working s → checking .twin s = false → w.en = false → v.extractLsb' 28 4 = 0 →
      (s.dev.idValid = false → Runs (.twinEnable t v) s (fun s' => s' = s0.updTwin (fun w => { w with en := false, reason := 0x0901 }))) ∧
      (s.dev.idValid = true → (halfBad (s.port 128) || halfBad (s.port 129)) = true → Runs (.twinEnable t v) s (fun s' =>
        s' = s0.updTwin (fun w => { w with en := false, reason := 0x090C }))) ∧
      (s.dev.idValid = true → halfBad (s.port 128) = false → halfBad (s.port 129) = false → (s.port 128).loop = 0 → (s.port 129).loop = 0 →
        Runs (.twinEnable t v) s (fun s' =>
          s'.twin = { w with en := true } ∧ (s'.port 128).en = true ∧ (s'.port 128).st = .detect ∧ (s'.port 129).en = true ∧
          (s'.port 129).st = .detect ∧ (∀ n, n ≠ 128 → n ≠ 129 → s'.port n = s.port n) ∧ OnlyChanges [.twin, .ports, .free] s0 s'))) ∧
    (Serving s → checking .twin s = false → w.en = true → v.extractLsb' 28 4 = 0 → Runs (.twinDisable t v) s (fun s' =>
      s'.twin.en = false ∧ s'.twin.dst = .unmoored ∧ s'.twin.mine = [] ∧ s'.twin.xfer = none ∧ (s'.port 128).st = .disabled ∧
      (s'.port 129).st = .disabled ∧ OnlyChanges [.twin, .ports, .fabric, .tiles, .jobs, .obs] s0 s')) ∧
    (Serving s → checking .twin s = false → v.getLsbD 0 = w.en →
      (namedJob s = none →
        Runs (.twinCmdOut t v) s (fun s' => s' = twinReason 0x090D s0) ∧ Runs (.twinCmdResync t v) s (fun s' => s' = twinReason 0x090D s0) ∧
        Runs (.twinCmdRejoin t v) s (fun s' => s' = twinReason 0x090D s0)) ∧
      (∀ j, namedJob s = some j →
        let x := s.job j
        (x.twin ≠ .paired → Runs (.twinCmdOut t v) s (fun s' => s' = twinReason 0x090D s0)) ∧
        (x.twin = .paired → x.attempt = false → x.ids = [] → jobTiles s j = [] → w.xfer = none → Runs (.twinCmdOut t v) s (fun s' =>
          (s'.job j).twin = .out ∧ s'.twin.reason = 0x0908 ∧ (∀ i, i ≠ j → s'.job i = s.job i) ∧
          OnlyChanges [.twin, .jobs, .ports, .obs] s0 s')) ∧
        (w.dst = .moored → x.twin = .serving → w.xfer = none → Runs (.twinCmdResync t v) s (fun s' =>
          s'.twin = { w with xfer := some ⟨x.tag, true, false, 0, [], false⟩, wanted := none } ∧ OnlyChanges [.twin, .ports, .obs] s0 s')) ∧
        (w.dst = .moored → x.twin = .serving → w.xfer.isSome = true → Runs (.twinCmdResync t v) s (fun s' =>
          s' = s0.updTwin (fun w => { w with wanted := some x.tag }))) ∧
        (x.twin = .serving → x.step.toNat + 1 < w.jobStep.toNat → Runs (.twinCmdRejoin t v) s (fun s' =>
          s' = s0.updJob j (fun x => { x with rejoin := some w.jobStep }))) ∧
        (x.twin = .serving → w.jobStep.toNat ≤ x.step.toNat + 1 → Runs (.twinCmdRejoin t v) s (fun s' => s' = twinReason 0x090E s0)) ∧
        (x.twin = .out → x.ready = true → Runs (.twinCmdRejoin t v) s (fun s' =>
          s' = s0.updJob j (fun x => { x with rejoin := some w.jobStep }))))) ∧
    (∀ (half : Fin 2) (c : Cell), c.cls = clsMgmt → c.kind = kDiscovery → bitsN c.ksf 34 3 = 0 → w.en = true →
      isNext c ((s.port (128 + half.val)).rxCells.map (·.2)) = true →
      let heard : Twin := { w with
        dst := .moored, lastMoor := s0.time, twinSerial := BitVec.ofNat 64 (c.pn 2 8), stateOfTwin := BitVec.ofNat 2 (c.pn 11 1) }
      (∀ code, moorCode s c = some code → Runs (.moor t half c) s (fun s' =>
        s'.twin = { w with reason := BitVec.ofNat 16 code } ∧ OnlyChanges [.twin, .ports, .obs] s0 s')) ∧
      (moorCode s c = none → w.dst = .moored ∨ s.clk.autospare = false →
        (w.dst = .moored ∨ s.dev.twinSel = false → Runs (.moor t half c) s (fun s' =>
          s'.twin = heard ∧ (w.dst ≠ .moored → ∀ j, j < 64 → (s.job j).st ≠ .free → (s'.job j).announced = false) ∧
          OnlyChanges [.twin, .ports, .jobs] s0 s')) ∧
        (w.dst ≠ .moored → s.dev.twinSel = true → Runs (.moor t half c) s (fun s' =>
          s'.twin = heard ∧ s'.fabric.root = (chooseRoot s0).map (BitVec.ofNat 12) ∧
          OnlyChanges [.twin, .ports, .jobs, .dev, .tide, .fabric, .obs, .free] s0 s')))) ∧
    (w.en = true → within s0 w.moorAt (us 100) = false → Runs (.moorTimer t) s (fun s' =>
      s'.twin = { w with moorAt := some s0.time } ∧
      (∀ n, n = 128 ∨ n = 129 → (s.port n).st = .up → (s.port n).autowake = false ∨ ((s.port n).slp = .active ∧ (s.port n).slpMove = .none) → ctlUse s n < 256 →
        s'.port n = { s.port n with mgmtQ := (s.port n).mgmtQ ++ [moorCell s0] }) ∧
      (∀ n, (s.port n).st ≠ .up → s'.port n = s.port n) ∧ OnlyChanges [.twin, .ports, .obs] s0 s')) ∧
    (w.dst = .moored → w.lastMoor + us 300 ≤ s0.time ∨ (halfDown (s.port 128) && halfDown (s.port 129)) = true → loadedSlots s = [] → w.xfer = none →
      (s.dev.twinSel = false → Runs (.moorTimeout t) s (fun s' =>
        s'.twin.dst = .simplex ∧ s'.twin.reason = 0x0906 ∧ s'.twin.mine = [] ∧ OnlyChanges [.twin, .jobs, .obs] s0 s')) ∧
      (s.dev.twinSel = true → Runs (.moorTimeout t) s (fun s' =>
        s'.twin.dst = .simplex ∧ s'.twin.reason = 0x0906 ∧ s'.twin.mine = [] ∧ s'.fabric.root = (chooseRoot s0).map (BitVec.ofNat 12) ∧
        OnlyChanges [.twin, .jobs, .obs, .dev, .tide, .fabric, .ports, .free] s0 s')))

/-- Digest records are compared with the twin's: a match is counted, a difference is 0x090A, a record without its partner waits, and what
is open past the deadline ends (R358, R359).
The notices between the twins move a job's twin state, a QUERY is answered, and its REPLY or its timeout decides the start (R360, R364,
Tables TW-5, TW-7).
Completes: digestCell, digestCompareTimeout, jobnoteOut, jobnoteServe, jobnoteQuery, jobnoteReply, queryTimeout.
Model's choices it rests on: log entry 39. -/
def Obligations.TwinDigestsAndNotices : Prop :=
  (∀ (t : Time) (c : Cell) (s s1 : State),
     let s0 := tick t s
     let d := digRec c.pay 0
     (c.cls = clsCtl → c.kind = kAck → bitsN c.ksf 34 3 = 2 → takeTwin c s0 = some s1 → d.fin = false → d.count ≠ 0 →
       (∀ k, 1 ≤ k → k < 6 → (digRec c.pay k).count = 0 ∧ (digRec c.pay k).fin = false) →
       ∀ slot, slotOf d.job.toNat s = some slot → compares s slot = true →
       (∀ m, s.twin.mine.find? (fun m => sameStream m d && m.group = d.group) = some m →
         (m.count = d.count → m.crc = d.crc → Runs (.digestCell t c) s (fun s' =>
           s' = bump (jobCtr m.tile.toNat slot 0x70) 1 (s1.updTwin (fun w => { w with mine := dropFirst (· = m) w.mine })))) ∧
         (m.crc ≠ d.crc → Runs (.digestCell t c) s (fun s' =>
           s'.twin = { s.twin with mine := dropFirst (· = m) s.twin.mine, reason := 0x090A } ∧
           OnlyChanges [.twin, .jobs, .ports, .obs] s0 s'))) ∧
       (s.twin.mine.find? (fun m => sameStream m d && m.group = d.group) = none → Runs (.digestCell t c) s (fun s' =>
         s' = s1.updTwin (fun w => { w with theirs := w.theirs ++ [d] })))) ∧
     (∀ (slot : Slot) (coll : BitVec 12) (i : Inst), s.inst? slot.val coll.toNat = some i →
       i.deadline + us (s.job slot.val).vmargin.toNat ≤ s0.time → Runs (.digestCompareTimeout t slot coll) s (fun s' =>
         (∀ m ∈ s'.twin.mine, ¬ (m.job = (s.job slot.val).tag ∧ m.coll.toNat = coll.toNat ∧
           m.epoch = ((s.job slot.val).entry coll.toNat).epoch)) ∧
         (∀ m ∈ s.twin.mine, ¬ (m.job = (s.job slot.val).tag ∧ m.coll.toNat = coll.toNat ∧
           m.epoch = ((s.job slot.val).entry coll.toNat).epoch) → m ∈ s'.twin.mine) ∧ OnlyChanges [.twin, .obs] s0 s'))) ∧
  (∀ (t : Time) (c : Cell) (s s1 : State), takeTwin c (tick t s) = some s1 →
     let s0 := tick t s
     let tag := noteTagOf c
     let is (note : Nat) : Prop := c.cls = clsCtl ∧ c.kind = kAck ∧ bitsN c.ksf 34 3 = 3 ∧ c.pn 2 1 % 4 = note
     (∀ j, slotOf tag s = some j →
       let x := s.job j
       (is 0 → x.twin = .paired → x.verd = none → s.twin.xfer = none → Runs (.jobnoteOut t c) s (fun s' =>
         (s'.job j).twin = .serving ∧ (∀ i, i ≠ j → s'.job i = s.job i) ∧ OnlyChanges [.twin, .jobs, .ports, .obs] s0 s')) ∧
       (is 0 → x.twin = .out → s.twin.xfer = none → Runs (.jobnoteOut t c) s (fun s' =>
         (s'.job j).twin = .frozen ∧ s'.twin.reason = 0x0909 ∧ (∀ i, i ≠ j → s'.job i = s.job i) ∧
         OnlyChanges [.twin, .jobs, .ports, .obs] s0 s')) ∧
       (is 1 → x.twin = .paired → x.attempt = false → x.ids = [] → jobTiles s j = [] → s.twin.xfer = none →
         Runs (.jobnoteServe t c) s (fun s' =>
           (s'.job j).twin = .out ∧ s'.twin.reason = s.twin.reason ∧ (∀ i, i ≠ j → s'.job i = s.job i) ∧
           OnlyChanges [.twin, .jobs, .ports, .obs] s0 s')) ∧
       (is 1 → x.twin = .serving → s.dev.twinSel = false → Runs (.jobnoteServe t c) s (fun s' => s' = s1)) ∧
       (is 2 → x.st = .running → Runs (.jobnoteQuery t c) s (fun s' =>
         s' = sendNote tag 3 (x.twin.code + 16 * x.st.code) x.startTide.toNat s1)) ∧
       (is 3 → x.query.isSome = true →
         (bitsN (c.pn 3 1) 0 3 = 7 → Runs (.jobnoteReply t c) s (fun s' => s' = decideStart j .serving false s1)) ∧
         (bitsN (c.pn 3 1) 0 3 = 0 → bitsN (c.pn 3 1) 4 3 = 2 → Runs (.jobnoteReply t c) s (fun s' =>
           s' = decideStart j (if c.pn 4 6 = x.startTide.toNat then .paired else .out) false s1)))) ∧
     (is 2 → slotOf tag s = none → Runs (.jobnoteQuery t c) s (fun s' => s' = sendNote tag 3 7 0 s1)) ∧
     (∀ (slot : Slot) (n : Nat) (stopping : Bool) (since : Time), (s.job slot.val).query = some (n, stopping, since) → since + us 100 ≤ s0.time →
       (stopping = true → Runs (.queryTimeout t slot) s (fun s' =>
         (s'.job slot.val).query = some (n + 1, false, s0.time) ∧ (∀ i, i ≠ slot.val → s'.job i = s.job i) ∧
         OnlyChanges [.jobs, .ports, .obs] s0 s')) ∧
       (stopping = false → Runs (.queryTimeout t slot) s (fun s' => s' = decideStart slot.val .serving false s0))))

/-- A transfer: REQ is granted to an OUT job or withdrawn by twin B, GRANT starts the first pass, COPY cells are written, passes end, REJOIN
pairs and END closes (R365 to R367).
Completes: xferWithdraw, xferReq, xferGrant, xferRejoin, xferEnd, copy, resyncPassEnd.
Model's choices it rests on: log entries 28, 62 and 78. -/
def Obligations.Transfers : Prop :=
  ∀ (t : Time) (c : Cell) (s s1 : State), takeTwin c (tick t s) = some s1 →
    let s0 := tick t s
    let tag := noteTagOf c
    let is (op : Nat) : Prop := c.cls = clsCtl ∧ c.kind = kAck ∧ bitsN c.ksf 34 3 = 4 ∧ c.pn 2 1 = op
    let w := s.twin
    (is 2 → Runs (.xferWithdraw t c) s (fun s' => s' = s1)) ∧
    (is 0 → w.dst = .moored → ∀ x, w.xfer = some x → x.src = true → x.granted = false → s.dev.twinSel = false →
      Runs (.xferReq t c) s (fun s' => s' = s1)) ∧
    (∀ j, slotOf tag s = some j →
      let y := s.job j
      (is 0 → w.dst = .moored → y.twin = .out → w.xfer = none → Runs (.xferReq t c) s (fun s' =>
        s'.twin = { w with xfer := some ⟨BitVec.ofNat 12 tag, false, true, 0, [], false⟩ } ∧
        s'.job j = { y with ready := false, copied := 0 } ∧ (∀ i, i ≠ j → s'.job i = s.job i) ∧ OnlyChanges [.twin, .jobs, .ports, .obs] s0 s')) ∧
      (∀ x, is 1 → w.xfer = some x → x.src = true → x.granted = false → x.job.toNat = tag → Runs (.xferGrant t c) s (fun s' =>
        s'.twin = { w with xfer := some { x with granted := true } } ∧ s'.job j = { y with dirty := some [] } ∧
        (∀ i, i ≠ j → s'.job i = s.job i) ∧ OnlyChanges [.twin, .jobs, .ports] s0 s')) ∧
      (is 3 → y.twin = .out → y.ready = true → y.rejoin.isSome = true → Runs (.xferRejoin t c) s (fun s' =>
        s'.job j = { y with twin := .paired, rejoin := none, ready := false, optWaits := true, stale := false } ∧ (∀ i, i ≠ j → s'.job i = s.job i) ∧
        OnlyChanges [.jobs, .ports] s0 s')) ∧
      (∀ x, is 4 → w.xfer = some x → x.src = false → x.job.toNat = tag → w.wanted = none → Runs (.xferEnd t c) s (fun s' =>
        s'.twin = { w with xfer := none } ∧ s'.job j = { y with optWaits := false, copied := 0 } ∧ (∀ i, i ≠ j → s'.job i = s.job i) ∧
        OnlyChanges [.twin, .jobs, .ports] s0 s'))) ∧
    (∀ x j, c.cls = clsUns → c.kind = kRelay → w.xfer = some x → x.src = false → isCopy x.job c = true → slotOf x.job.toNat s = some j →
      Runs (.copy t c) s (fun s' =>
        (∃ y, s'.twin.xfer = some y ∧ y.cur.contains (bitsN c.ksf 0 24) = true ∧ y.passes = x.passes) ∧
        (s'.job j).copied = (s.job j).copied + 1 ∧ (s'.job j).st = (s.job j).st ∧ (∀ i, i ≠ j → s'.job i = s.job i) ∧
        OnlyChanges [.twin, .jobs, .ports] s0 s')) ∧
    (∀ x j, w.xfer = some x → slotOf x.job.toNat s = some j →
      (x.src = false → x.passes = 0 → (∃ g ∈ (s.job j).granules, x.cur.contains g = false) → Runs (.resyncPassEnd t) s (fun s' => s' = s0)) ∧
      (x.src = false → x.passes ≠ 0 → x.cur.length < 4096 → (s.job j).twin = .out → Runs (.resyncPassEnd t) s (fun s' =>
        s'.twin = { w with xfer := some { x with passes := x.passes + 1, cur := [] } } ∧ s'.job j = { s.job j with ready := true } ∧
        (∀ i, i ≠ j → s'.job i = s.job i) ∧ OnlyChanges [.twin, .jobs] s0 s')) ∧
      (x.src = true → x.granted = true → passSent s x.job = true → x.ending = false → Runs (.resyncPassEnd t) s (fun s' =>
        s'.twin = { w with xfer := some { x with passes := x.passes + 1, ending := decide ((s.job j).twin = .paired) } } ∧
        s'.job j = { s.job j with dirty := some [] } ∧ (∀ i, i ≠ j → s'.job i = s.job i) ∧ OnlyChanges [.twin, .jobs, .ports] s0 s')) ∧
      (x.src = true → x.granted = true → passSent s x.job = true → x.ending = true → w.wanted = none → Runs (.resyncPassEnd t) s (fun s' =>
        s'.twin = { w with xfer := none } ∧ s'.job j = { s.job j with dirty := none } ∧ (∀ i, i ≠ j → s'.job i = s.job i) ∧
        OnlyChanges [.twin, .jobs, .ports, .obs] s0 s')))

/-! ### Cells, firing and the step gate (05, 06, 08) -/

/-- A contribution cell: of a collective the tile does not know it is unbound, from a foreign port it is counted so, of a wrong epoch or too
late it is dropped and counted, out of order it is dropped and its instance INCOMPLETE, else its member advances and it is queued
(R110, R117, R205, R251).
Completes: contributionCell.
Model's choices it rests on: log entries 26 and 39. -/
def Obligations.ContributionCells : Prop :=
  ∀ (t : Time) (port : Port) (c : Cell) (slot : Nat) (s s1 : State),
    let s0 := tick t s
    let n := port.val
    let x := s.job slot
    let e := x.entry c.coll
    isMemberCell s0 n c = true → takeRx n c s0 = some s1 → slotOf c.job s0 = some slot →
    (foreignPort s0 slot n = true → Runs (.contributionCell t port c) s (fun s' => s' = bump (jobCtr n slot 0x60) 1 s1)) ∧
    (foreignPort s0 slot n = false → x.ids.contains (BitVec.ofNat 12 c.coll) = false →
      Runs (.contributionCell t port c) s (fun s' => s' = bump (tileCtr n 0x080) 1 s1)) ∧
    (foreignPort s0 slot n = false → x.ids.contains (BitVec.ofNat 12 c.coll) = true → tileDown s0 n = true →
      Runs (.contributionCell t port c) s (fun s' => s' = markCellInc c.job c.coll c.epoch 0x020F s1)) ∧
    (foreignPort s0 slot n = false → x.ids.contains (BitVec.ofNat 12 c.coll) = true → tileDown s0 n = false →
      (fateOf s0 e c = .stale → Runs (.contributionCell t port c) s (fun s' =>
        (s'.job slot).entry c.coll = { e.seen s0.time c with stale := satInc e.stale } ∧ OnlyEntry slot c.coll s s' ∧
        OnlyChanges [.ports, .jobs] s0 s')) ∧
      (fateOf s0 e c = .late → Runs (.contributionCell t port c) s (fun s' =>
        (s'.job slot).entry c.coll = { e.seen s0.time c with latec := satInc e.latec } ∧ OnlyEntry slot c.coll s s' ∧
        OnlyChanges [.ports, .jobs] s0 s')) ∧
      (∀ i : Inst, sourceOf s0 slot n c = .wrong → fateOf s0 e c = .live → s.inst? slot c.coll = some i →
        Runs (.contributionCell t port c) s (fun s' =>
          ((s'.job slot).entry c.coll).order = satInc e.order ∧
          (∃ i', s'.inst? slot c.coll = some i' ∧ i'.members = i.members ∧ stIncomplete ≤ i'.worst.toNat) ∧
          OnlyEntry slot c.coll s s' ∧ OnlyChanges [.ports, .jobs] s0 s')) ∧
      (∀ (pos : Nat) (i : Inst) (m : Member), sourceOf s0 slot n c = .member pos → fateOf s0 e c = .live →
        s.inst? slot c.coll = some i → i.members.find? (fun m => m.port = n) = some m →
        (memberOk e pos m c = false → Runs (.contributionCell t port c) s (fun s' =>
          ((s'.job slot).entry c.coll).order = satInc e.order ∧
          (∃ i', s'.inst? slot c.coll = some i' ∧ i'.members = i.members ∧ stIncomplete ≤ (i'.part n).status.toNat ∧
            stIncomplete ≤ i'.worst.toNat) ∧ OnlyEntry slot c.coll s s' ∧ OnlyChanges [.ports, .jobs] s0 s')) ∧
        (∀ (b : BitVec 256) (p k : Nat) (rest : List Nat), memberOk e pos m c = true → bindingFor s0 n slot c.coll roleIngress = some b →
          Room n slot b p k rest s0 → Runs (.contributionCell t port c) s (fun s' =>
            Queued n p k rest c s0 s' ∧
            (∃ i', s'.inst? slot c.coll = some i' ∧ i'.members = i.members.map (fun q => if q.port = n then Member.next e pos q else q)) ∧
            OnlyEntry slot c.coll s s' ∧ OnlyChanges [.ports, .jobs, .tiles, .obs] s0 s'))))

/-- A cell of a running instance at a stage, a home or an egress tile is queued to its binding; the home counts the last cell of a chunk
and drops a cell of a chunk that is complete; the fragments of a record wait for its last one (R111, R112, R125, R127, R205).
Completes: partialCell, egressCell, shuffleFragment.
Model's choices it rests on: log entries 39, 54, 64, 65 and 68. -/
def Obligations.CellsAtTheirTiles : Prop :=
  ∀ (t : Time) (tile : LTile) (c : Cell) (slot : Nat) (s s1 : State),
    let s0 := tick t s
    let n := tile.val
    let x := s.job slot
    let e := x.entry c.coll
    let num := e.cellChunk c
    c.cls = clsSched → slotOf c.job s0 = some slot → x.ids.contains (BitVec.ofNat 12 c.coll) = true → tileDown s0 n = false →
    fateOf s0 e c = .live →
    (∀ (b : BitVec 256) (p k : Nat) (rest : List Nat), takeTile n c s0 = some s1 → Room n slot b p k rest s0 →
      (c.kind = kPartial ∨ (c.kind = kContribution ∧ (s.tile n).inbox.contains c = true) →
        ((tileChunks s0 n slot c.coll).any (fun q => q.num = num) = false → bindingFor s0 n slot c.coll roleStage = some b →
          Runs (.partialCell t tile c) s (fun s' => Queued n p k rest c s0 s' ∧ OnlyChanges [.ports, .jobs, .tiles, .obs] s0 s')) ∧
        (∀ (q : Chunk) (i : Inst), (tileChunks s0 n slot c.coll).find? (fun q => q.num = num) = some q → s.inst? slot c.coll = some i →
          bindingFor s0 n slot c.coll roleHome = some b →
          (e.passes ≤ q.passes → Runs (.partialCell t tile c) s (fun s' =>
            (s'.tile n).iqs = (s.tile n).iqs ∧ (∃ i', s'.inst? slot c.coll = some i' ∧ i'.chunks = i.chunks ∧
              stIncomplete ≤ (i'.part n).status.toNat) ∧ OnlyEntry slot c.coll s s' ∧ OnlyChanges [.ports, .jobs, .tiles] s0 s')) ∧
          (q.passes < e.passes → c.last = false → Runs (.partialCell t tile c) s (fun s' =>
            Queued n p k rest c s0 s' ∧ (s'.inst? slot c.coll).map (·.chunks) = some i.chunks ∧ OnlyEntry slot c.coll s s' ∧
            OnlyChanges [.ports, .jobs, .tiles, .obs] s0 s')) ∧
          (q.passes < e.passes → c.last = true → c.parity = false → e.op ≠ 0xB → q.count0 + foldCount c < e.m →
            (∀ y ∈ i.chunks, y.settled = y.passes) → Runs (.partialCell t tile c) s (fun s' =>
              Queued n p k rest c s0 s' ∧ (s'.inst? slot c.coll).map (·.chunks) = some (i.chunks.map (fun y =>
                if y.num = num then { q with count0 := q.count0 + foldCount c } else y)) ∧ OnlyEntry slot c.coll s s' ∧
              OnlyChanges [.ports, .jobs, .tiles, .obs] s0 s')))) ∧
      (c.kind = kResult ∨ c.kind = kParameter → bindingFor s0 n slot c.coll roleEgress = some b →
        Runs (.egressCell t tile c) s (fun s' => Queued n p k rest c s0 s' ∧ OnlyChanges [.ports, .jobs, .tiles, .obs] s0 s'))) ∧
    (takeTile n c s0 = some s1 → c.kind = kResult ∨ c.kind = kParameter → bindingFor s0 n slot c.coll roleEgress = none →
      Runs (.egressCell t tile c) s (fun s' => (s'.tile n).iqs = (s.tile n).iqs ∧
        Tbl.get 0 s'.obs.ctrs (tileCtr n 0x080) = Tbl.get 0 s.obs.ctrs (tileCtr n 0x080) + 1 ∧
        OnlyChanges [.ports, .jobs, .tiles, .obs] s0 s')) ∧
    (∀ (port : Port) (pos : Nat) (i : Inst) (m : Member), port.val = n → c.kind = kShuffle → e.op = 9 → takeRx n c s0 = some s1 → foreignPort s0 slot n = false →
      sourceOf s0 slot n c = .member pos → s.inst? slot c.coll = some i → i.members.find? (fun m => m.port = n) = some m →
      c.rank = m.rank → c.fmt = 0 → c.parity = false → c.esc = false → c.prov = false → m.done = false →
      (c.chunk = 0 → m.record = [] → headBad e c = false → recLength c ≠ 0 → c.last = false → Runs (.shuffleFragment t port c) s (fun s' =>
        (∃ i', s'.inst? slot c.coll = some i' ∧ i'.members = i.members.map (fun q =>
          if q.port = n then { q with record := [c], dropping := false } else q)) ∧ OnlyEntry slot c.coll s s' ∧
        OnlyChanges [.ports, .jobs] s0 s')) ∧
      (c.chunk = 0 → m.record = [] → headBad e c = true → Runs (.shuffleFragment t port c) s (fun s' =>
        ((s'.job slot).entry c.coll).shdrop = satInc e.shdrop ∧ OnlyEntry slot c.coll s s' ∧ OnlyChanges [.ports, .jobs] s0 s')) ∧
      (∀ (b : BitVec 256) (p k : Nat) (rest : List Nat), bindingFor s0 n slot c.coll roleIngress = some b → Room n slot b p k rest s0 →
        c.chunk = 0 → m.record = [] → headBad e c = false →
        (recLength c = 0 → Runs (.shuffleFragment t port c) s (fun s' =>
          Queued n p k rest c s0 s' ∧
          (∃ i', s'.inst? slot c.coll = some i' ∧ i'.ends = (if i.ends.contains c.rank then i.ends else i.ends ++ [c.rank]) ∧
            i'.members = i.members.map (fun q => if q.port = n then { q with record := [], dropping := false, done := true } else q)) ∧
          OnlyEntry slot c.coll s s' ∧ OnlyChanges [.ports, .jobs, .tiles, .obs] s0 s')) ∧
        (recLength c ≠ 0 → c.last = true → Runs (.shuffleFragment t port c) s (fun s' =>
          Queued n p k rest c s0 s' ∧
          (∃ i', s'.inst? slot c.coll = some i' ∧ i'.members = i.members.map (fun q =>
            if q.port = n then { q with record := [], dropping := false, sent := q.sent + 1 } else q)) ∧
          OnlyEntry slot c.coll s s' ∧ OnlyChanges [.ports, .jobs, .tiles, .obs] s0 s'))) ∧
      (c.chunk ≠ 0 → m.dropping = false → c.chunk = m.record.length → c.last = false → c.chunk + 1 ≠ ((m.record.head?).map recFrags).getD 0 →
        Runs (.shuffleFragment t port c) s (fun s' =>
          (∃ i', s'.inst? slot c.coll = some i' ∧ i'.members = i.members.map (fun q =>
            if q.port = n then { q with record := m.record ++ [c] } else q)) ∧ OnlyEntry slot c.coll s s' ∧ OnlyChanges [.ports, .jobs] s0 s')))

/-- A firing starts an instance, or is refused with its reason: by a LAUNCH of the entry's launcher, or with the tide; the late limit
aborts an instance that is unfinished at its deadline (R114 to R118, R122, R135, R136).
Completes: prearmedFiring, launch, lateDeadline.
Model's choices it rests on: log entries 40, 64 and 69. -/
def Obligations.Firing : Prop :=
  ∀ (t : Time) (slot : Slot) (coll : BitVec 12) (s : State),
    let s0 := tick t s
    let j := slot.val
    let x := s.job j
    let k := coll.toNat
    let e := x.entry k
    let late := us ({ e with cfg := e.next.getD e.cfg }.late)
    let n := s0.tide.now
    let depoch : Word := BitVec.ofNat 32 { e with cfg := e.next.getD e.cfg }.depoch
    (x.st = .running → x.twin = .paired → x.ids.contains coll = true →
      (e.launched = false → e.period ≠ 0 → x.startTide.toNat ≤ n → n % e.period = e.phase → (e.fired = true → e.epoch.toNat ≠ n / e.period % 16) →
        (x.stepPos k = none → firingCode s0 e false = none → Runs (.prearmedFiring t slot coll) s (fun s' =>
          Started j k (n / e.period % 16) (tideStartTime s0) (tideStartTime s0 + late) depoch s0 s' ∧
          OnlyEntry j k s s' ∧ OnlyChanges [.jobs, .tiles, .twin, .ports, .fabric, .obs] s0 s')) ∧
        (∀ pos, x.stepPos k = some pos → x.attempt = true → x.fired.contains pos = true → Runs (.prearmedFiring t slot coll) s (fun s' =>
          (s'.job j).entry k = { e with reason := 0x070A } ∧ OnlyEntry j k s s' ∧ OnlyChanges [.jobs, .ports, .fabric, .obs] s0 s')) ∧
        (∀ pos, x.stepPos k = some pos → x.attempt = false → firingCode s0 e false = none → Runs (.prearmedFiring t slot coll) s (fun s' =>
          (s'.job j).attempt = true ∧ (s'.job j).gate = .opened ∧ (s'.job j).fired = [pos] ∧
          (s'.job j).deadline = max x.deadline (tideStartTime s0 + late) ∧
          Started j k (n / e.period % 16) (tideStartTime s0) (tideStartTime s0 + late) depoch s0 s' ∧
          OnlyEntry j k s s' ∧ OnlyChanges [.jobs, .tiles, .twin, .ports, .fabric, .obs] s0 s')) ∧
        (∀ code, x.stepPos k = none → firingCode s0 e false = some code → Runs (.prearmedFiring t slot coll) s (fun s' =>
          (s'.job j).entry k = { e with reason := BitVec.ofNat 16 code } ∧ OnlyEntry j k s s' ∧
          OnlyChanges [.jobs, .ports, .fabric, .obs] s0 s'))) ∧
      (∀ (port : Port) (c : Cell) (s1 : State), c.kind = kLaunch → takeRx port.val c s0 = some s1 → slotOf c.job s0 = some j →
        c.pn 0 2 % 4096 = k →
        (launchIgnored s0 x e port.val c = true → Runs (.launch t port c) s (fun s' =>
          (s'.job j).entry k = { e with reason := 0x060C } ∧ OnlyEntry j k s s' ∧ OnlyChanges [.ports, .jobs, .obs] s0 s')) ∧
        (launchIgnored s0 x e port.val c = false → (e.fired = true → e.epoch.toNat ≠ c.pn 0 2 / 4096) → x.stepPos k = none →
          (launchStart c < s0.time → Runs (.launch t port c) s (fun s' =>
            (s'.job j).entry k = { e with reason := 0x060D } ∧ OnlyEntry j k s s' ∧ OnlyChanges [.ports, .jobs, .fabric, .obs] s0 s')) ∧
          (s0.time ≤ launchStart c → firingCode s0 e false = none → Runs (.launch t port c) s (fun s' =>
            Started j k (c.pn 0 2 / 4096) (launchStart c) (launchStart c + late) (BitVec.ofNat 32 (c.pn 10 4)) s0 s' ∧
            OnlyEntry j k s s' ∧ OnlyChanges [.ports, .jobs, .tiles, .twin, .fabric, .obs] s0 s'))))) ∧
    (∀ i, s.inst? j k = some i → e.op ≠ 0xA → i.sent0 = false → unfinished s0 j k e i = true →
      (s0.time < i.deadline → Runs (.lateDeadline t slot coll) s (fun s' => s' = s0)) ∧
      (i.deadline ≤ s0.time → i.worst.toNat < stAborted → Runs (.lateDeadline t slot coll) s (fun s' =>
        ((s'.job j).entry k).status = BitVec.ofNat 4 stAborted ∧ ((s'.job j).entry k).reason = 0x060E ∧
        (∃ i', ((s'.job j).entry k).inst = some i' ∧ i'.ended = true ∧ i'.missing =
          BitVec.ofNat 18 ((i.members.filter (fun m => !m.done)).foldl (fun a m => Nat.min a m.rank.toNat) missNone)) ∧
        (∀ q, q ≠ j → s'.job q = s.job q) ∧
        OnlyChanges [.jobs, .tiles, .ports, .fabric, .twin, .host, .hostMem, .obs] s0 s')))

/-- STATs: one is sent when the device's part of an instance has ended; the verdict tile keeps those of the open attempt, decides when its
deadline passes, and settles its decision with its twin (R121, R149, R150, R152, R156).
Completes: statSend, statCell, verdictDeadline, twinDecision.
Model's choices it rests on: log entries 39, 41, 59, 64 and 66. -/
def Obligations.StatsAndDecisions : Prop :=
  ∀ (t : Time) (slot : Slot) (coll : BitVec 12) (c : Cell) (s : State),
    let s0 := tick t s
    let j := slot.val
    let x := s.job j
    let k := coll.toNat
    let e := x.entry k
    (∀ i, s.inst? j k = some i →
      (partEnded s0 j k i = false → Runs (.statSend t slot coll) s (fun s' => s' = s0)) ∧
      (partEnded s0 j k i = true → e.op ≠ 0xA → comparing s0 j k = false → queuesHold s0 j k = false → hasPart s0 j k = true → i.sent0 = false →
        postsIn s0 j k false = true →
        (e.op ≠ opRum → i.worst.toNat < stComplete → (joinParts i.parts).sat = false → Runs (.statSend t slot coll) s (fun s' =>
          ((s'.job j).entry k).status = BitVec.ofNat 4 stComplete ∧
          (∃ i', ((s'.job j).entry k).inst = some i' ∧ i'.ended = true ∧ i'.sent0 = true) ∧ (∀ q, q ≠ j → s'.job q = s.job q) ∧
          OnlyChanges [.jobs, .tiles, .ports, .fabric, .twin, .host, .hostMem, .obs] s0 s')) ∧
        (e.op = opRum → Runs (.statSend t slot coll) s (fun s' =>
          s'.inst? j k = some { i with sent0 := true } ∧ (∀ q, q ≠ j → s'.job q = s.job q) ∧
          OnlyChanges [.jobs, .ports, .fabric, .obs] s0 s')))) ∧
    (∀ (dev : BitVec 12) (s1 : State), c.kind = kStat → takeAny c s0 = some s1 → slotOf c.job s0 = some j → c.coll = k → ksfBad c = false →
      isVerdict s0 j = true → x.twin = .paired → tileDown s0 (verdictTile x) = false →
      (bindingFor s0 (verdictTile x) j k roleVerdict = none → Runs (.statCell t dev c) s (fun s' =>
        s' = bump (tileCtr (verdictTile x) 0x080) 1 s1)) ∧
      (∀ (b : BitVec 256) (p : Nat), bindingFor s0 (verdictTile x) j k roleVerdict = some b →
      ((s.tile (verdictTile x)).job j).iq[bIq b]? = some p → (iqCells s (verdictTile x) p).length < 1024 →
      (e.op ≠ opRum → let l := e.vstats.filter (fun q => !(q.1 = dev && statTarget q.2 / 4096 = statTarget c.pay / 4096)) ++ [(dev, c.pay)]
        (statDevs x e).any (fun d => !(vstatsOf { e with vstats := l } (statTarget c.pay / 4096)).any (fun q => q.1.toNat = d)) = true →
        Runs (.statCell t dev c) s (fun s' => (s'.job j).entry k = { e.seen s0.time c with vstats := l } ∧ OnlyEntry j k s s' ∧
          OnlyChanges [.ports, .fabric, .jobs, .obs] s0 s')) ∧
      (∀ (pos : Nat) (v : Verd), e.op = opRum → x.steps.findIdx? (fun q => q.1.toNat = k) = some pos → x.verd = some v →
        v.phase = .collecting → v.deadline = 0 →
        let r : StatRec := ⟨dev, pos, ksfSub c = 1, c.pay⟩
        let again := v.stats.any (fun q => q.dev = dev && q.pos = pos && q.round = r.round)
        (statStep c.pay = x.attemptStep → again = false → s.clk.hold = true → Runs (.statCell t dev c) s (fun s' =>
          (s'.job j).verd = some { v with stats := v.stats ++ [r] } ∧
          (∀ q, q ≠ j → s'.job q = s.job q) ∧ OnlyChanges [.ports, .fabric, .jobs, .obs] s0 s')) ∧
        (statStep c.pay = x.attemptStep → again = true → supersedes r = true → s.clk.hold = true → Runs (.statCell t dev c) s (fun s' =>
          (s'.job j).verd = some { v with dropped := v.dropped + 1, stats := addStat r v.stats } ∧
          (∀ q, q ≠ j → s'.job q = s.job q) ∧ OnlyChanges [.ports, .fabric, .jobs, .obs] s0 s')) ∧
        (statStep c.pay ≠ x.attemptStep ∨ (again = true ∧ supersedes r = false) → Runs (.statCell t dev c) s (fun s' =>
          (s'.job j).verd = some { v with dropped := v.dropped + 1 } ∧ OnlyChanges [.ports, .fabric, .jobs, .obs] s0 s'))))) ∧
    (∀ v : Verd, x.verd = some v →
      (v.deadline = 0 → Runs (.verdictDeadline t slot) s (fun s' => s' = s0)) ∧
      (s.clk.hold = true → Runs (.verdictDeadline t slot) s (fun s' => s' = s0)) ∧
      (v.deadline ≠ 0 → v.deadline ≤ s0.time → v.phase = .collecting → full0 x v = false → s.clk.hold = false → x.twin = .serving →
        Runs (.verdictDeadline t slot) s (fun s' =>
          (s'.job j).verd = some { v with phase := .decided } ∧ (∀ q, q ≠ j → s'.job q = s.job q) ∧
          OnlyChanges [.jobs, .ports, .fabric, .obs] s0 s')) ∧
      (∀ s1 : State, c.kind = kVerdict → ksfSub c = 3 → ksfBad c = false → takeTwin c s0 = some s1 → slotOf c.job s0 = some j →
        isVerdict s0 j = true → payN c.pay 0 5 = x.attemptStep →
        (s.clk.hold = true → Runs (.twinDecision t c) s (fun s' =>
          (s'.job j).verd = some { v with theirs := some c.pay } ∧ (∀ q, q ≠ j → s'.job q = s.job q) ∧ OnlyChanges [.ports, .jobs] s0 s')) ∧
        (∀ mine, s.clk.hold = false → x.twin = .paired → alone s0 j v = false → v.phase = .twin1 mine →
          Runs (.twinDecision t c) s (fun s' =>
            (s'.job j).verd = some { v with phase := .decided, theirs := none } ∧ (∀ q, q ≠ j → s'.job q = s.job q) ∧
            OnlyChanges [.jobs, .ports, .fabric, .obs] s0 s'))))

/-- Verdicts: a step VERDICT commits or rejects the open attempt, or is held in a brown-out; the commit word's acknowledgement releases the
gradient hold; an instance VERDICT plans the next window; a clip order begins the rerun (R67, R155, R161, R162, R366, R426).
Completes: stepVerdict, instanceVerdict, clipOrder, commitWordAck.
Model's choices it rests on: log entries 39, 41 and 67. -/
def Obligations.VerdictsApplied : Prop :=
  ∀ (t : Time) (c : Cell) (slot : Slot) (s s1 : State),
    let s0 := tick t s
    let j := slot.val
    let x := s.job j
    let ignored : State := s1.updJob j (fun x => { x with ignored := x.ignored + 1 })
    (c.kind = kVerdict → takeAny c s0 = some s1 → slotOf c.job s0 = some j → ksfBad c = false →
      (ksfSub c = 1 → x.twin = .paired → (s.clk.hold = true → Runs (.stepVerdict t c) s (fun s' =>
          s'.job j = { x with heldVerdicts := x.heldVerdicts ++ [c] } ∧ (∀ q, q ≠ j → s'.job q = s.job q) ∧
          OnlyChanges [.ports, .fabric, .jobs] s0 s')) ∧
        (s.clk.hold = false → ksfPart c = 0 → payN c.pay 0 5 ≠ x.attemptStep → Runs (.stepVerdict t c) s (fun s' => s' = ignored)) ∧
        (s.clk.hold = false → ksfPart c = 0 → payN c.pay 0 5 = x.attemptStep → payN c.pay 27 1 = 0 →
          (payN c.pay 5 1 = 0 ∨ 3 < payN c.pay 5 1 → Runs (.stepVerdict t c) s (fun s' =>
            (s'.job j).ignored = x.ignored + 1 ∧ (s'.job j).attempt = x.attempt ∧ (s'.job j).step = x.step ∧ (∀ q, q ≠ j → s'.job q = s.job q) ∧
            OnlyChanges [.ports, .fabric, .jobs] s0 s')) ∧
          (payN c.pay 5 1 = 1 ∨ payN c.pay 5 1 = 2 → Runs (.stepVerdict t c) s (fun s' =>
            (s'.job j).step = BitVec.ofNat 40 x.attemptStep ∧ (s'.job j).lsexp = BitVec.ofNat 8 (payN c.pay 10 1) ∧
            (s'.job j).clean = BitVec.ofNat 16 (payN c.pay 11 2) ∧ (s'.job j).attempt = false ∧ (x.attempt = true → (s'.job j).gate = .idle) ∧
            (s'.job j).commitPend = some (if x.attempt then some (x.mark (payN c.pay 5 1)) else none) ∧ (∀ q, q ≠ j → s'.job q = s.job q) ∧
            OnlyChanges [.jobs, .tiles, .ports, .fabric, .twin, .host, .hostMem, .obs] s0 s')) ∧
          (payN c.pay 5 1 = 3 → Runs (.stepVerdict t c) s (fun s' =>
            (s'.job j).step = x.step ∧ (s'.job j).lsexp = BitVec.ofNat 8 (payN c.pay 10 1) ∧ (s'.job j).clean = BitVec.ofNat 16 (payN c.pay 11 2) ∧
            (s'.job j).attempt = false ∧ (x.attempt = true → (s'.job j).gate = .idle) ∧ (s'.job j).gradHold = [] ∧ (∀ q, q ≠ j → s'.job q = s.job q) ∧
            OnlyChanges [.jobs, .tiles, .ports, .fabric, .twin, .host, .hostMem, .obs] s0 s')))) ∧
      (ksfSub c = 0 → x.away = false → x.ids.contains (BitVec.ofNat 12 c.coll) = true →
        let k := c.coll
        let e := x.entry k
        let early := e.inst.any (fun i => decide (s0.time < i.start))
        (e.fired = false ∨ c.epoch ≠ e.epoch.toNat ∨ early = true → Runs (.instanceVerdict t c) s (fun s' =>
          (s'.job j).entry k = { e.seen s0.time c with stale := satInc e.stale } ∧ OnlyEntry j k s s' ∧ OnlyChanges [.ports, .fabric, .jobs] s0 s')) ∧
        (e.fired = true → c.epoch = e.epoch.toNat → early = false → payN c.pay 0 2 % 4096 = k →
          payN c.pay 2 1 = stComplete ∨ payN c.pay 2 1 = stSaturated →
          (planAuto e.plan = false → Runs (.instanceVerdict t c) s (fun s' =>
            (s'.job j).entry k = { e with lastSeen := s0.time } ∧ OnlyEntry j k s s' ∧ OnlyChanges [.ports, .fabric, .jobs] s0 s')) ∧
          (∀ i, planAuto e.plan = true → isSumming e.op = true → e.inst = some i → e.next = none → Runs (.instanceVerdict t c) s (fun s' =>
            (s'.job j).entry k = { e with lastSeen := s0.time, cfg := setWtop e.cfg (planNext i.wtop i.w
              (if payN c.pay 8 1 = 0xFF then none else some (payN c.pay 8 1)) (e.m * e.k) (planMargin e.plan)) } ∧
            OnlyEntry j k s s' ∧ OnlyChanges [.ports, .fabric, .jobs] s0 s')))) ∧
      (ksfSub c = 2 → x.away = false →
        let homes := x.steps.any (fun q => !(homeChunks s0 x (x.entry q.1.toNat)).isEmpty)
        (x.gate ≠ .reported ∨ payN c.pay 0 5 ≠ x.attemptStep ∨ homes = false → Runs (.clipOrder t c) s (fun s' => s' = ignored)) ∧
        (x.gate = .reported → payN c.pay 0 5 = x.attemptStep → homes = true → Runs (.clipOrder t c) s (fun s' =>
          (s'.job j).gate = .rerun ∧ (s'.job j).alpha = BitVec.ofNat 32 (payN c.pay 13 4) ∧ (∀ q, q ≠ j → s'.job q = s.job q) ∧
          OnlyChanges [.ports, .fabric, .jobs, .tiles, .obs] s0 s')))) ∧
    ((x.commitPend = none → Runs (.commitWordAck t slot) s (fun s' => s' = s0)) ∧
     (x.commitPend = some none → x.rejoin = none → Runs (.commitWordAck t slot) s (fun s' => s' = s0.updJob j (fun x => { x with commitPend := none }))) ∧
     (∀ m, x.commitPend = some (some m) → x.rejoin = none → Runs (.commitWordAck t slot) s (fun s' =>
       (s'.job j).commitPend = none ∧ (s'.job j).gradHold = [] ∧ (s'.job j).manifest = x.manifest.writeN (m.1 * x.manRec)
         (leBytes 5 m.2.1 ++ leBytes 1 m.2.2.1 ++ leBytes 1 m.2.2.2 ++ leBytes 1 1) ∧ (∀ q, q ≠ j → s'.job q = s.job q) ∧
       OnlyChanges [.jobs] s0 s')) ∧
     (∀ m, x.commitPend = some (some m) → x.twin = .serving → x.rejoin = some (x.step + 1) → Runs (.commitWordAck t slot) s (fun s' =>
       (s'.job j).twin = .paired ∧ (s'.job j).rejoin = none ∧ (s'.job j).commitPend = none ∧ (s'.job j).gradHold = [] ∧
       OnlyChanges [.jobs, .ports, .obs] s0 s')))

/-! ### Tile programs (03, 04, 07, 08) -/

/-- Every instruction that takes data runs at the head of its command queue, unit by unit; it completes, waits, is skipped or is discarded
(R199, R200, R210, R214, R215, R217, R222).
Completes: cvt, qnt, addw, maxl, minl, fastsum, elem, stat, opt, digest, spill, resume, send, mcast, proj, recon, ortho.
Model's choices it rests on: log entries 30, 31, 36, 38, 57 and 58. -/
def Obligations.EngineUnits : Prop :=
  ∀ (t : Time) (tile : LTile) (slot : Slot) (arr : Fin 4) (s : State),
    let s0 := tick t s
    let n := tile.val
    let j := slot.val
    let never : CqEnt → Bool := fun _ => false
    let one : State → CqEnt → Plan := fun _ c => onePlan c
    let whole : State → CqEnt → Plan := fun _ c => ⟨iCnt c.insn, 0, 0⟩
    let m := 2 + arr.val
    RunsUnits (.cvt t tile slot) n j 1 0x03 (fun s c => cvtPlan s n j c) never id
      (fun c g k s => if isAp3 (iDst c.insn) then rawUnit n j c g s else cvtUnit n j (cvtPlan s n j c) c g k s) s s0 ∧
    RunsUnits (.qnt t tile slot) n j 0 0x04 (fun s c => qntPlan s n j c) never id (fun c _ k s => qntUnit n j (qntPlan s n j c) c k s) s s0 ∧
    RunsUnits (.addw t tile slot) n j 0 0x05 one never id (fun c _ _ s => addwUnit n j c s) s s0 ∧
    RunsUnits (.maxl t tile slot) n j 0 0x06 one never id (fun c _ _ s => locUnit true n j c s) s s0 ∧
    RunsUnits (.minl t tile slot) n j 0 0x07 one never id (fun c _ _ s => locUnit false n j c s) s s0 ∧
    RunsUnits (.fastsum t tile slot) n j 0 0x08 one never id (fun c _ _ s => fastUnit n j c s) s s0 ∧
    RunsUnits (.elem t tile slot) n j 1 0x0B (fun _ c => elemPlan c) never id (fun c g k s => elemUnit n j (elemPlan c) c g k s) s s0 ∧
    RunsUnits (.stat t tile slot) n j 1 0x0C (fun _ c => statPlan c) never id (fun c g _ s =>
      if iMod c.insn 16 1 = 1 then .done (postUnit n j c.insn (bindingOf s n j c.insn) s) else rowUnit n j c g s) s s0 ∧
    RunsUnits (.opt t tile slot) n j 1 0x0D (fun _ c => optPlan c) never id (fun c g k s => optStep n j c g k s) s s0 ∧
    RunsUnits (.digest t tile slot) n j 1 0x0F one closes (releaseDigest n j) (fun c g _ s => digestUnit n j c g s) s s0 ∧
    RunsUnits (.spill t tile slot) n j 7 0x10 whole (fun _ => true) id (fun c g _ s => spillUnit n j c g s) s s0 ∧
    RunsUnits (.resume t tile slot) n j 7 0x11 whole (fun _ => true) id (fun c g _ s => resumeUnit n j c g s) s s0 ∧
    RunsUnits (.send t tile slot) n j 6 0x12 one never id (fun c _ _ s =>
      sendUnit n j c (iMod c.insn 11 2) (iMod c.insn 13 4) (iMod c.insn 7 4) (iMod c.insn 6 1 = 1) s) s s0 ∧
    RunsUnits (.mcast t tile slot) n j 6 0x13 one never id (fun c _ _ s =>
      sendUnit n j c clsSched (iMod c.insn 13 4) (iMod c.insn 9 4) (iMod c.insn 8 1 = 1) s) s s0 ∧
    (setUp n j s0 = none → Runs (.proj t tile slot arr) s (fun s' => s' = s0) ∧ Runs (.recon t tile slot arr) s (fun s' => s' = s0) ∧
      Runs (.ortho t tile slot arr) s (fun s' => s' = s0)) ∧
    (∀ s1, setUp n j s0 = some s1 →
      RunsUnits (.proj t tile slot arr) n j m 0x09 one never id (fun c _ _ s => projUnit n j c s) s s1 ∧
      RunsUnits (.recon t tile slot arr) n j m 0x0A whole never id (fun c g _ s => reconUnit n j c g s) s s1 ∧
      RunsUnits (.ortho t tile slot arr) n j m 0x0E (fun s c => orthoPlan s n j c) never id (fun c g _ s => orthoUnit n j c g s) s s1)

/-- Accumulators: an element takes the first operand as it is and joins later ones; sums are exact below 2^95 and saturate beyond; a maximum or
minimum keeps the winner of R70; a cell of W-form integers adds each of its elements (R57, R70, R79, R84).
ADDW, QNT, MAXL, MINL and FASTSUM with CNT 1: the cell or entry is popped, and each of its elements reaches its accumulator element, as an exact
sum, a winner, or an FP32 sum (R55, R57, R70, R73, R79, R209).
PROJ, RECON and ORTHO whose set-up is in force: a cell's runs are promoted, the next tile of the reconstruction is formed, a band row of a product
is formed where no band of another tile is awaited (R186 to R192, R209).
Completes: addw, qnt, maxl, minl, fastsum, proj, recon, ortho.
Model's choices it rests on: log entries 32, 36, 37, 52 and 54. -/
def Obligations.AccumulatorsTakeOperands : Prop :=
  ((∀ a b : Int, -(2 : Int) ^ 95 < a + b → a + b < 2 ^ 95 → (addW96 a b).1.toInt = a + b ∧ (addW96 a b).2 = false) ∧
   (∀ a b : Int, 2 ^ 95 ≤ a + b → (addW96 a b).1.toInt = 2 ^ 95 - 1 ∧ (addW96 a b).2 = true) ∧
   (∀ (n a k : Nat) (f : BitVec 96 → BitVec 96 × Bool) (first : BitVec 96) (s : State), k < 192 →
     let y := (s.tile n).acc a
     let s' := putElem n a k f first s
     (((s'.tile n).acc a).written.getLsbD k = true) ∧
     Tbl.get 0 ((s'.tile n).acc a).elems k = (if y.written.getLsbD k then (f (Tbl.get 0 y.elems k)).1 else first) ∧
     (∀ i, i ≠ k → i < 192 → ((s'.tile n).acc a).written.getLsbD i = y.written.getLsbD i ∧
       Tbl.get 0 ((s'.tile n).acc a).elems i = Tbl.get 0 y.elems i) ∧
     (∀ b, b ≠ a → (s'.tile n).acc b = (s.tile n).acc b) ∧ (∀ m, m ≠ n → s'.tile m = s.tile m) ∧ OnlyChanges [.tiles] s s') ∧
   (∀ (most : Bool) (n a k : Nat) (c : Cand) (s : State), k < 192 →
     let y := (s.tile n).acc a
     Tbl.get 0 (((putCand most n a k c s).tile n).acc a).elems k =
       (if y.written.getLsbD k = true ∧ c.beats most (Cand.of (Tbl.get 0 y.elems k)) = false then Tbl.get 0 y.elems k else c.bits)) ∧
   (∀ (n j coll a seg : Nat) (hat : Bool) (s : State),
     let y := (s.tile n).acc a
     let s' := openAcc n j coll a seg hat s
     (tagState y.tag = accFree → (s'.tile n).acc a =
       { Acc.reset with tag := mkTag accActive false ((s.job j).entry coll).epoch.toNat coll j, seg := seg, hat := hat }) ∧
     (tagState y.tag ≠ accFree → (s'.tile n).acc a = y) ∧ (∀ b, b ≠ a → (s'.tile n).acc b = (s.tile n).acc b)) ∧
   (∀ (n : Nat) (at_ : Nat → Nat) (vals : List (Nat × Int)) (s : State),
     (vals.map (fun q => (at_ (q.1 / 192), q.1 % 192))).Nodup → (∀ q ∈ vals,
       let y := (s.tile n).acc (at_ (q.1 / 192))
       let y' := ((addElems n at_ vals s).tile n).acc (at_ (q.1 / 192))
       Tbl.get 0 y'.elems (q.1 % 192) = (if y.written.getLsbD (q.1 % 192) then (addW96 (Tbl.get 0 y.elems (q.1 % 192)).toInt q.2).1
         else BitVec.ofInt 96 q.2) ∧ y'.written.getLsbD (q.1 % 192) = true))) ∧
  (∀ (t : Time) (tile : LTile) (slot : Slot) (c : CqEnt) (x : Inst) (v : Ent) (s : State),
     let s0 := tick t s
     let n := tile.val
     let j := slot.val
     let i := c.insn
     let b := bindingOf s0 n j i
     let coll := bColl b
     let e := (s.job j).entry coll
     let at_ := accAt s0 n j i b e
     (s.tile n).dispatchQ = [] → AtHead n j 0 c s0 → iCnt i = 1 → s.inst? j coll = some x → srcFault s0 n j i coll 1 = none →
     srcEnts s0 n j i e 1 = [v] →
     (iOpc i = 0x05 → e.op ≠ 0xB → v.fmt.toNat = wFmt x.w → x.fast = false →
       let vals := v.wvalues.map (fun q => (q.1, q.2.1))
       let segs := segsOf (vals.map (·.1))
       Enters n j i b e segs s0 → Runs (.addw t tile slot) s (fun s' => Popped n j 0 i 1 s0 s' ∧
         AccsAs n (addElems n at_ vals (opened n j i b e segs s0)) s' ∧ ∃ x', s'.inst? j coll = some x' ∧ x'.exact = true)) ∧
     (iOpc i = 0x04 → isVq (iDst i) = false → v.fmt.toNat = e.cfmt → x.fast = false →
       let vals := (quantise x v.values).1.map (fun q => (q.idx, q.x))
       let segs := segsOf (vals.map (·.1))
       Enters n j i b e segs s0 → Runs (.qnt t tile slot) s (fun s' => Popped n j 0 i 1 s0 s' ∧
         AccsAs n (addElems n at_ vals (opened n j i b e segs s0)) s' ∧ ∃ x', s'.inst? j coll = some x' ∧ x'.exact = true)) ∧
     ((v.trip = true ∨ isIq (iSrc i) = false ∨ v.fmt.toNat = e.cfmt) → fmtIsW v.fmt.toNat = false →
       let rank := if isIq (iSrc i) then (((srcCells s0 n j (iSrc i) 1).head?).map (·.rank)).getD 0 else portRank s0 j n e
       let l := (candidates e rank v).1
       let segs := dedupNat (l.map (·.1))
       let put (most : Bool) : State := l.foldl (fun z q => putCand most n (at_ q.1) q.2.1 q.2.2 z) (opened n j i b e segs s0)
       Enters n j i b e segs s0 →
       (iOpc i = 0x06 → Runs (.maxl t tile slot) s (fun s' => Popped n j 0 i 1 s0 s' ∧ AccsAs n (put true) s')) ∧
       (iOpc i = 0x07 → Runs (.minl t tile slot) s (fun s' => Popped n j 0 i 1 s0 s' ∧ AccsAs n (put false) s'))) ∧
     (iOpc i = 0x08 → (v.fmt = 0 ∨ v.fmt.toNat = e.cfmt) → x.exact = false →
       let l := (List.range v.valid).map (fun k => (v.idx.toNat + k, (decFp32 v.fmt.toNat (payElem v.fmt.toNat v.pay k) (v.scaleOf k)).1))
       let segs := segsOf (l.map (·.1))
       Enters n j i b e segs s0 → Runs (.fastsum t tile slot) s (fun s' => Popped n j 0 i 1 s0 s' ∧
         AccsAs n (l.foldl (fun z q => (fastPut n (at_ (q.1 / 192)) (q.1 % 192) q.2 z).2) (opened n j i b e segs s0)) s' ∧
         ∃ x', s'.inst? j coll = some x' ∧ x'.fast = true))) ∧
  (∀ (t : Time) (tile : LTile) (slot : Slot) (arr : Fin 4) (c : CqEnt) (x : Inst) (s : State),
     let s0 := tick t s
     let n := tile.val
     let j := slot.val
     let m := 2 + arr.val
     let i := c.insn
     let b := bindingOf s0 n j i
     let coll := bColl b
     let e := (s.job j).entry coll
     (s.tile n).dispatchQ = [] → AtHead n j m c s0 → iCnt i = 1 → s.inst? j coll = some x → (s.tile n).mset = ((s.tile n).job j).mset →
     let q := qEntry (s.job j) e x (qshift i)
     (∀ v : Ent, iOpc i = 0x09 → srcFault s0 n j i coll 1 = none → srcEnts s0 n j i e 1 = [v] → v.fmt.toNat = e.cfmt → e.rowlen % 32 = 0 → x.fast = false →
       let r := projRuns q e.rowlen (v.values.map (fun q => (q.1, q.2.1))) (openRuns ((s.tile n).job j) (iBind i) (projRank i))
       let segs := segsOf (r.1.flatMap (fun p => [p.1, p.1 + projRank i - 1]))
       Enters n j i b e segs s0 → Runs (.proj t tile slot arr) s (fun s' => Popped n j m i 1 s0 s' ∧
         AccsAs n (projPromote n j i b e (x.wlsb + x.s) r.1 (opened n j i b e segs s0)).2 s' ∧
         Tbl.get [] ((s'.tile n).job j).runs (iBind i) = r.2.map runPack ∧ ∃ x', s'.inst? j coll = some x' ∧ x'.exact = true)) ∧
     (∀ (h : Ent) (rest : List Ent) (g : GTile), iOpc i = 0x0A → entsOf s0 n j (iSrc i) = h :: rest → h.void = false → h.bind.toNat = iBind i → h.fmt = 1 →
       inGrant ((s.tile n).job j) (iAcc i) 1 = true →
       let vs := (h :: rest).takeWhile (fun v => v.void || (v.bind.toNat = iBind i && v.fmt = 1))
       nextTile s0 n j i e vs = some g → (vs.take g.reads).any (·.void) = false → meetAcc s0 n j coll (iAcc i) (g.first / 192) = .ready →
       accFull s0 n j [iAcc i] = false → Runs (.recon t tile slot arr) s (fun s' => Left n j m s0 s' ∧ entsOf s' n j (iSrc i) = (h :: rest).drop g.used ∧
         AccsAs n ((List.range g.count).foldl (fun z k => (promote n (iAcc i) k (gHat q vs (projRank i) e.rowlen (g.first + k)) x.wlsb z).2)
           (openAcc n j coll (iAcc i) (g.first / 192) true s0)) s' ∧
         Tbl.get 0 ((s'.tile n).job j).ghat (iBind i) = g.first + g.count ∧ OnlyChanges [.tiles, .jobs, .obs] s0 s')) ∧
     (let k := blockOf b
      let phase := iMod i 15 2
      iOpc i = 0x0E → k.foreign phase = 0 → 0 < k.rows → inGrant ((s.tile n).job j) (iAcc i) k.tiles = true →
       freeTiles (s.tile n) (iAcc i) k.tiles = true →
       let z := orthoStart n j i b s0
       let ws := (orthoRow (z.tile n) j (iBind i) (iAcc i) phase k 0).1
       Runs (.ortho t tile slot arr) s (fun s' => Left n j m s0 s' ∧ (s'.tile n).bands = (z.tile n).bands ∧
         (phase = 0 → AccsAs n (ws.zipIdx.foldl (fun z w => putMat n j (iAcc i) k .a 0 w.2 w.1 z) z) s') ∧
         (phase ≠ 0 → AccsAs n s0 s' ∧ ∀ p, p < ws.length →
           Tbl.get 0 (s'.tile n).prods (prodKey j (iBind i) 0 p) = BitVec.ofNat 32 (ws.getD p 0)) ∧
         OnlyChanges [.tiles, .jobs, .obs] s0 s')))

/-- SPILL saves an accumulator tile with its record and RESUME brings it back; the acknowledgements end them (R81, R82, R88 to R90, Tables AC-2,
AC-3); SEND and MCAST push the cell of an entry; STAT posts the tile's part (R209, R211).
CVT between queues, ELEM, OPT with STAGE 0 and DIGEST with SET 0, on one group, tile, segment or entry: what they pop, push and write
(R36, R91, R138, R145, R168, R209, R357).
Completes: spill, resume, spillAck, resumeDone, send, mcast, stat, cvt, elem, opt, digest.
Model's choices it rests on: log entries 36, 37, 38, 53, 55 and 56. -/
def Obligations.MoverAndExchange : Prop :=
  (∀ (t : Time) (tile : LTile) (slot : Slot) (acc : Fin 2048) (s : State),
     let s0 := tick t s
     let n := tile.val
     let j := slot.val
     let a := acc.val
     let x := s.job j
     (∀ (c : CqEnt) (i : Inst), AtHead n j 7 c s0 → iCnt c.insn = 1 → iAcc c.insn = a → inGrant ((s.tile n).job j) a 1 = true →
       let b := bindingOf s0 n j c.insn
       let coll := bColl b
       let e := x.entry coll
       let ord := iMod c.insn 0 17
       let y := (s.tile n).acc a
       s.inst? j coll = some i →
       (iOpc c.insn = 0x10 → directFault s0 n j coll a = none → let k := settledOn s0 n j coll
         k < e.passes → k ≠ 0 → y.top ≤ k → recordHeld x n ord = true → recValid (Tbl.get [] x.spill (spillKey n ord)) = true →
         Runs (.spill t tile slot) s (fun s' =>
           ((s'.tile n).acc a).tag = retag accSpilling y.tag ∧ ((s'.tile n).acc a).elems = y.elems ∧
           (s'.tile n).spilling = (s.tile n).spilling ++ [(a, j, ord, false)] ∧
           Tbl.get [] (s'.job j).spill (spillKey n ord) = spillRec x.tag.toNat y.seg i.wlsb k y ∧
           (∀ b, b ≠ a → (s'.tile n).acc b = (s.tile n).acc b) ∧ (∀ k, k ≠ n → s'.tile k = s.tile k) ∧
           OnlyChanges [.tiles, .jobs, .obs] s0 s')) ∧
       (∀ seg, iOpc c.insn = 0x11 → segmentAt (s.tile n) j (iBind c.insn) b e a (recSeg (Tbl.get [] x.spill (spillKey n ord))) = some seg →
         (s.tile n).spilling.any (fun q => q.2.1 = j && q.2.2.1 = ord) = false → tagState y.tag = accFree →
         accFull s0 n j [a] = false → Runs (.resume t tile slot) s (fun s' =>
           ((s'.tile n).acc a).tag = mkTag accResuming false e.epoch.toNat coll j ∧
           (∃ r, (s'.tile n).resuming = (s.tile n).resuming ++ [r] ∧ r.acc = a ∧ r.slot = j ∧ r.ord = ord ∧ r.seg = BitVec.ofNat 20 seg ∧ r.drop = false) ∧
           (∀ b, b ≠ a → (s'.tile n).acc b = (s.tile n).acc b) ∧ (∀ k, k ≠ n → s'.tile k = s.tile k) ∧
           OnlyChanges [.tiles, .jobs, .obs] s0 s'))) ∧
     (∀ (ord : Nat) (gone : Bool), cqHead s0 n j 7 = none →
       (s.tile n).spilling.find? (fun q => q.1 = a) = some (a, j, ord, gone) → Runs (.spillAck t tile acc) s (fun s' =>
         (s'.tile n).spilling = (s.tile n).spilling.filter (fun q => q.1 ≠ a) ∧
         (gone = false → ((s'.tile n).acc a).tag = retag accSpilled ((s.tile n).acc a).tag ∧ s'.job j = x) ∧
         (gone = true → (s'.tile n).acc a = { Acc.reset with tag := retag accFree ((s.tile n).acc a).tag } ∧
           Tbl.get [] (s'.job j).spill (spillKey n ord) = invalidRec (Tbl.get [] x.spill (spillKey n ord))) ∧
         (∀ b, b ≠ a → (s'.tile n).acc b = (s.tile n).acc b) ∧ (∀ k, k ≠ n → s'.tile k = s.tile k) ∧ OnlyChanges [.tiles, .jobs] s0 s')) ∧
     ((s.tile n).spilling.find? (fun q => q.1 = a) = none → Runs (.spillAck t tile acc) s (fun s' => s' = s0)) ∧
     (∀ r : Resuming, cqHead s0 n j 7 = none → (s.tile n).resuming.find? (fun r => r.acc = a) = some r → r.slot = j → r.drop = false →
       let bs := Tbl.get [] x.spill (spillKey n r.ord)
       Runs (.resumeDone t tile acc) s (fun s' =>
         (s'.tile n).resuming = (s.tile n).resuming.filter (fun q => q.acc ≠ a) ∧
         (recFits x r bs = true → (s'.tile n).acc a = loadRec (isSumming (x.entry r.coll.toNat).op) r bs) ∧
         (recFits x r bs = false → (s'.tile n).acc a = { Acc.reset with tag := retag accFree ((s.tile n).acc a).tag }) ∧
         (∀ b, b ≠ a → (s'.tile n).acc b = (s.tile n).acc b) ∧ (∀ k, k ≠ n → s'.tile k = s.tile k) ∧ OnlyChanges [.tiles] s0 s')) ∧
     ((s.tile n).resuming.find? (fun r => r.acc = a) = none → Runs (.resumeDone t tile acc) s (fun s' => s' = s0)) ∧
     (∀ (c : CqEnt) (v : Ent) (vs : List Ent) (p k : Nat) (rest : List Nat), AtHead n j 6 c s0 → iCnt c.insn = 1 → isIq (iSrc c.insn) = false →
       (s.tile n).dispatchQ = [] → entsOf s0 n j (iSrc c.insn) = v :: vs → isVq (iSrc c.insn) = true → ((s.tile n).job j).iqOf (iSrc c.insn) = none →
       v.void = false → v.esc = none → v.valid ≠ 0 → v.bind.toNat = iBind c.insn → mute x = false →
       let b := bindingOf s0 n j c.insn
       (x.entry (bColl b)).op ≠ 0xB → ((s.tile n).job j).oqOf (iDst c.insn) = some p → (Tbl.get [] (s.tile n).oqs p).length < 64 →
       cellsHeld s0 j n < ((x.grant n).map (·.cells)).getD 0 → (s.tile n).free = k :: rest →
       let sent (kind fmt : Nat) (prov : Bool) (s' : State) : Prop :=
         Tbl.get [] (s'.tile n).oqs p = Tbl.get [] (s.tile n).oqs p ++ [⟨cellOf s0 j b kind fmt prov v, some k⟩] ∧ (s'.tile n).free = rest ∧
         entsOf s' n j (iSrc c.insn) = vs ∧ (∀ m, m ≠ n → s'.tile m = s.tile m) ∧ OnlyChanges [.tiles, .jobs, .obs] s0 s'
       (iOpc c.insn = 0x12 → iMod c.insn 11 2 = clsSched →
         Runs (.send t tile slot) s (sent (iMod c.insn 13 4) (iMod c.insn 7 4) (iMod c.insn 6 1 = 1))) ∧
       (iOpc c.insn = 0x13 → Runs (.mcast t tile slot) s (sent (iMod c.insn 13 4) (iMod c.insn 9 4) (iMod c.insn 8 1 = 1)))) ∧
     (∀ (c : CqEnt) (i : Inst), AtHead n j 1 c s0 → iOpc c.insn = 0x0C → iMod c.insn 16 1 = 1 → iMod c.insn 15 1 = 0 → (s.tile n).dispatchQ = [] →
       let coll := bColl (bindingOf s0 n j c.insn)
       s.inst? j coll = some i → i.sent0 = false → Runs (.stat t tile slot) s (fun s' =>
         (∃ i', s'.inst? j coll = some i' ∧ i'.posts0 = Tbl.set Part.never i.posts0 n (i.part n) ∧ i'.posts1 = i.posts1) ∧
         Tbl.get [] ((s'.tile n).job j).cqs 1 = (Tbl.get [] ((s.tile n).job j).cqs 1).tail ∧ (∀ k, k ≠ n → s'.tile k = s.tile k) ∧
         OnlyChanges [.tiles, .jobs, .obs] s0 s'))) ∧
  (∀ (t : Time) (tile : LTile) (slot : Slot) (c : CqEnt) (x : Inst) (s : State),
     let s0 := tick t s
     let n := tile.val
     let j := slot.val
     let i := c.insn
     let b := bindingOf s0 n j i
     let coll := bColl b
     let e := (s.job j).entry coll
     let y := s.job j
     (s.tile n).dispatchQ = [] → AtHead n j 1 c s0 → s.inst? j coll = some x →
     (∀ p m : Nat, iOpc i = 0x03 → isAp3 (iSrc i) = false → isAp3 (iDst i) = false → cvtPlan s0 n j c = ⟨1, p, m⟩ → 0 < m →
       srcFault s0 n j i coll p = none → p ≤ srcLen s0 n j (iSrc i) →
       (isIq (iSrc i) = true ∨ ((s.tile n).job j).vqOf (iSrc i) ≠ ((s.tile n).job j).vqOf (iDst i)) →
       let vs := srcEnts s0 n j i e p
       (∀ v ∈ vs, v.fmt.toNat = iMod i 13 4) → isParam e b i = false → m ≤ roomOf s0 n j (iDst i) →
       Runs (.cvt t tile slot) s (fun s' => Popped n j 1 i p s0 s' ∧
         entsOf s' n j (iDst i) = entsOf s0 n j (iDst i) ++ (List.range m).flatMap (fun k => (convert n j i e b x vs k s0).1))) ∧
     (iOpc i = 0x0B → iCnt i = 1 → e.fuse ≠ 0 → isSelecting e.op = false → directFault s0 n j coll (iAcc i) = none → operandOk s0 n j i e = true →
       (e.fuse < 3 ∨ operandWaits s0 x = false) → 8 ≤ roomOf s0 n j (iDst i) →
       let a := iAcc i
       let z := (s.tile n).acc a
       let ws := drainWords e x (fuseOp e) (operandOf (s.tile n) e (iMod i 0 11) (a - elemBase (s.tile n) j i)) z
       Runs (.elem t tile slot) s (fun s' => Left n j 1 s0 s' ∧
         entsOf s' n j (iDst i) = entsOf s0 n j (iDst i) ++
           (List.range 8).map (fun k => fp32Ent e (iBind i) z k (ws.map (·.1)) (drainPar y e b z)) ∧
         (s'.tile n).acc a = { Acc.reset with tag := retag accFree z.tag } ∧ (∀ d, d ≠ a → (s'.tile n).acc d = (s.tile n).acc d) ∧
         OnlyChanges [.tiles, .jobs, .obs] s0 s')) ∧
     (∀ q : Seg, iOpc i = 0x0D → iCnt i = 1 → iMod i 14 3 = 0 → iDst i = qNone → y.optWaits = false → y.biasDone = true → y.replay = none → y.home = true →
       let p := (optPlan c).popN
       p ≤ srcLen s0 n j (iSrc i) → srcFault s0 n j i coll p = none → segOf s0 n j i b 0 = some q →
       let vs := srcEnts s0 n j i e p
       (∀ v ∈ vs, v.fmt = 0) →
       let old := y.committed.readN (y.blockOff q.ord) 1216
       let es := (gradWords y (vs.isEmpty || decide (y.gate = .rerun)) vs q).zipIdx.map (fun r =>
         (microProgram (algoOf y coll) (y.hyper q.pos) r.1.v (blockElem old r.2)).s)
       let new := (freshBlock (decide (algoOf y coll = 0)) (y.attemptStep % 2 ^ 32) (es ++ List.replicate (192 - q.valid) (⟨0, 0, 0⟩ : Wmv))).1
       Runs (.opt t tile slot) s (fun s' => Popped n j 1 i p s0 s' ∧ (s'.job j).committed = y.committed ∧
         (s'.job j).alternate = y.alternate.writeN (y.blockOff q.ord) new)) ∧
     (∀ (v : Ent) (vs : List Ent), iOpc i = 0x0F → iCnt i = 1 → iMod i 15 2 = 0 → iMod i 14 1 = 0 → entsOf s0 n j (iSrc i) = v :: vs →
       v.void = false → v.bind.toNat = iBind i → v.esc = none → ((s.tile n).job j).vqOf (iSrc i) ≠ ((s.tile n).job j).vqOf (iDst i) → x.fast = false →
       mute y = false → openOn s0 n < 1024 → 1 ≤ roomOf s0 n j (iDst i) →
       (∀ h, (Tbl.get [] ((s.tile n).job j).cqs 1).tail.head? = some h → h.held = false) →
       let d := digOf ((s.tile n).job j) 0 (iBind i) (roundNow y e) 0
       d.count + 1 < 64 → Runs (.digest t tile slot) s (fun s' => Popped n j 1 i 1 s0 s' ∧
         entsOf s' n j (iDst i) = entsOf s0 n j (iDst i) ++ [v] ∧
         digOf ((s'.tile n).job j) 0 (iBind i) (roundNow y e) 0 = { d with crc := crcMore d.crc (resultCell s0 j b v).bytes, count := d.count + 1 })))

/-- NOP leaves its queue; WAIT stays until its event and takes it; a BARRIER holds its queues and leaves them together
(R209, R218, Table TP-8).
Completes: nop, wait, waitRelease, barrier, barrierRelease.
Model's choices it rests on: log entries 25, 30 and 57. -/
def Obligations.QueueControl : Prop :=
  ∀ (t : Time) (tile : LTile) (slot : Slot) (cq : Fin 8) (c : CqEnt) (s : State),
    let s0 := tick t s
    let n := tile.val
    let j := slot.val
    let q := cq.val
    let x := (s.tile n).job j
    let leaves (s' : State) : Prop :=
      Tbl.get [] ((s'.tile n).job j).cqs q = (Tbl.get [] x.cqs q).tail ∧
      (∀ p, p ≠ q → Tbl.get [] ((s'.tile n).job j).cqs p = Tbl.get [] x.cqs p) ∧
      (∀ k, k ≠ j → (s'.tile n).job k = (s.tile n).job k) ∧ (∀ k, k ≠ n → s'.tile k = s.tile k) ∧ OnlyChanges [.tiles, .obs] s0 s'
    (s.tile n).dispatchQ = [] →
    (AtHead n j q c s0 → iOpc c.insn = 0x00 → Runs (.nop t tile slot cq) s leaves) ∧
    (AtHead n j q c s0 → iOpc c.insn = 0x02 → iMod c.insn 11 3 = 3 → let f := iMod c.insn 0 5
      (x.flags.getLsbD (iMod c.insn 0 11 % 32) = true →
        Runs (.wait t tile slot cq) s (fun s' => leaves s' ∧ ((s'.tile n).job j).flags = x.flags &&& ~~~((1 : BitVec 32) <<< f)) ∧
        Runs (.waitRelease t tile slot cq) s (fun s' => leaves s' ∧ ((s'.tile n).job j).flags = x.flags &&& ~~~((1 : BitVec 32) <<< f))) ∧
      (x.flags.getLsbD (iMod c.insn 0 11 % 32) = false → Runs (.wait t tile slot cq) s (fun s' => s' = s0) ∧
        Runs (.waitRelease t tile slot cq) s (fun s' => s' = s0))) ∧
    ((∀ p, p < 8 → p ≠ q → cqHead s0 n j p = none) → iOpc c.insn = 0x01 → iMod c.insn 8 1 = 0 → cqsOf c.insn = [q] →
      (AtHead n j q c s0 → Runs (.barrier t tile slot cq) s (fun s' =>
        cqHead s' n j q = some { c with done := 1, held := true } ∧
        Tbl.get [] ((s'.tile n).job j).cqs q = { c with done := 1, held := true } :: (Tbl.get [] x.cqs q).tail ∧
        (∀ k, k ≠ n → s'.tile k = s.tile k) ∧ OnlyChanges [.tiles] s0 s')) ∧
      (Tbl.get [] x.cqs q = [c] → c.held = true → tileDown s0 n = false → Runs (.barrierRelease t tile slot) s leaves))

/-- The pilot core: an event's triggers dispatch their blocks, TPCMDHI and TPRUNB dispatch, TPEVQ pops, TPFLAG sets a flag, TPACCREL frees a
spilled tile, TPCELLPOP pops a cell, TPCELLSEND sends one, TPWDOG restarts the watchdog (R222 to R227, Table TP-14).
The watchdogs: a pilot core that is silent for PTIME resets its island, a command queue without completion for QTIME discards its job's
queued instructions (R467, R430).
Completes: triggerDispatch, tpcmdhiWrite, tprunbWrite, tpevqRead, tpflagWrite, tpaccrelWrite, tpcellpopWrite, tpcellsendWrite, tpwdogWrite, pilotWatchdog, queueWatchdog.
Model's choices it rests on: log entries 27 and 38. -/
def Obligations.PilotAndWatchdogs : Prop :=
  (∀ (t : Time) (tile : LTile) (v : Word) (s : State),
     let s0 := tick t s
     let n := tile.val
     let x := s.tile n
     let others (s' : State) : Prop := ∀ k, k ≠ n → s'.tile k = s.tile k
     let j := bitsN x.tpruna.toNat 16 6
     (tileDown s0 n = true ∨ stalled x = true → Runs (.triggerDispatch t tile) s (fun s' => s' = s0) ∧ Runs (.tpcmdhiWrite t tile v) s (fun s' => s' = s0) ∧
       Runs (.tprunbWrite t tile v) s (fun s' => s' = s0) ∧ Runs (.tpevqRead t tile) s (fun s' => s' = s0) ∧
       Runs (.tpflagWrite t tile v) s (fun s' => s' = s0) ∧ Runs (.tpaccrelWrite t tile v) s (fun s' => s' = s0) ∧
       Runs (.tpcellpopWrite t tile v) s (fun s' => s' = s0) ∧ Runs (.tpcellsendWrite t tile v) s (fun s' => s' = s0) ∧
       Runs (.tpwdogWrite t tile v) s (fun s' => s' = s0)) ∧
     (tileDown s0 n = false → stalled x = false →
       (x.evq = [] → Runs (.triggerDispatch t tile) s (fun s' => s' = s0)) ∧
       (∀ w rest, x.evq = w :: rest → ((List.range (x.job (evSlot w)).ntrig).map (x.imgTrig (evSlot w))).filter (trMatches w) = [] →
         Runs (.triggerDispatch t tile) s (fun s' => s' = s0.updTile n (fun x => { x with evq := rest }))) ∧
       (∀ w rest g q, x.evq = w :: rest → x.dispatchQ = [] → (x.job (evSlot w)).loaded = true → (s.job (evSlot w)).away = false →
         ((List.range (x.job (evSlot w)).ntrig).map (x.imgTrig (evSlot w))).filter (trMatches w) = [g] → trEach g = false → trCount g = 1 →
         let i := x.imgInsn (evSlot w) (trBlock g)
         let y := x.job (evSlot w)
         cqsOf i = [q] → (Tbl.get [] y.cqs q).length < 32 → Runs (.triggerDispatch t tile) s (fun s' =>
           Tbl.get [] ((s'.tile n).job (evSlot w)).cqs q = Tbl.get [] y.cqs q ++ [⟨i, trLop g, y.orders, false, 0, false, false⟩] ∧
           (s'.tile n).evq = rest ∧ (s'.tile n).dispatchQ = [] ∧ others s' ∧ OnlyChanges [.tiles, .obs] s0 s')) ∧
       (∀ q, x.dispatchQ = [] → cqsOf (v ++ x.tpcmdlo) = [q] → (Tbl.get [] (x.job j).cqs q).length < 32 → Runs (.tpcmdhiWrite t tile v) s (fun s' =>
         Tbl.get [] ((s'.tile n).job j).cqs q = Tbl.get [] (x.job j).cqs q ++ [⟨v ++ x.tpcmdlo, x.tplop, (x.job j).orders, false, 0, false, false⟩] ∧
         (∀ p, p ≠ q → Tbl.get [] ((s'.tile n).job j).cqs p = Tbl.get [] (x.job j).cqs p) ∧ others s' ∧ OnlyChanges [.tiles] s0 s')) ∧
       (∀ q, let i := x.imgInsn j (bitsN x.tpruna.toNat 0 15)
         x.dispatchQ = [] → (s.job j).away = false → bitsN v.toNat 0 15 = 0 → v.getLsbD 26 = false → cqsOf i = [q] → (Tbl.get [] (x.job j).cqs q).length < 32 →
         Runs (.tprunbWrite t tile v) s (fun s' =>
           Tbl.get [] ((s'.tile n).job j).cqs q = Tbl.get [] (x.job j).cqs q ++ [⟨i, x.tplop, (x.job j).orders, false, 0, false, false⟩] ∧
           others s' ∧ OnlyChanges [.tiles, .obs] s0 s')) ∧
       (Runs (.tpevqRead t tile) s (fun s' => s'.dev = { s.dev with rdata := (x.evq.headD 0).zeroExtend 64 } ∧
         s'.tile n = { x with evq := x.evq.tail } ∧ others s' ∧ OnlyChanges [.dev, .tiles] s0 s')) ∧
       (let k := bitsN v.toNat 21 6;
         ((x.job k).loaded = true → Runs (.tpflagWrite t tile v) s (fun s' =>
           (s'.tile n).job k = { x.job k with flags := (x.job k).flags ||| ((1 : BitVec 32) <<< bitsN v.toNat 0 5) } ∧
           (∀ i, i ≠ k → (s'.tile n).job i = x.job i) ∧ others s' ∧ OnlyChanges [.tiles] s0 s')) ∧
         ((x.job k).loaded = false → Runs (.tpflagWrite t tile v) s (fun s' => s' = s0))) ∧
       (let a := bitsN v.toNat 0 11;
         (tagState (x.acc a).tag = accSpilled → Runs (.tpaccrelWrite t tile v) s (fun s' =>
           (s'.tile n).acc a = { Acc.reset with tag := retag accFree (x.acc a).tag } ∧ (∀ i, i ≠ a → (s'.tile n).acc i = x.acc i) ∧ others s' ∧
           OnlyChanges [.tiles] s0 s')) ∧
         (tagState (x.acc a).tag ≠ accSpilled → Runs (.tpaccrelWrite t tile v) s (fun s' => s' = s0))) ∧
       (let p := bitsN x.tpcellsel.toNat 0 6;
         (iqCells s n p = [] → Runs (.tpcellpopWrite t tile v) s (fun s' => s' = s0)) ∧
         (∀ c rest, iqCells s n p = c :: rest → Runs (.tpcellpopWrite t tile v) s (fun s' =>
           iqCells s' n p = rest ∧ (∀ q, q ≠ p → iqCells s' n q = iqCells s n q) ∧ others s' ∧ OnlyChanges [.tiles, .obs] s0 s'))) ∧
       (let c := sendWindow x;
         (c.cls ≠ clsCtl → Runs (.tpcellsendWrite t tile v) s (fun s' => s' = s0)) ∧
         (c.cls = clsCtl → c.mgrp = 0 → c.ddev = s.dev.id.toNat → s.dev.idValid = true → forEndpoint s0 c = false → Runs (.tpcellsendWrite t tile v) s (fun s' =>
           s'.fabric = { s.fabric with hmRx := s.fabric.hmRx ++ [c] } ∧ OnlyChanges [.fabric] s0 s'))) ∧
       Runs (.tpwdogWrite t tile v) s (fun s' => s'.tile n = { x with wdogAt := s0.time } ∧ others s' ∧ OnlyChanges [.tiles] s0 s'))) ∧
  (∀ (t : Time) (tile : LTile) (slot : Slot) (cq : Fin 8) (s : State),
     let s0 := tick t s
     let n := tile.val
     let j := slot.val
     let x := s.tile n
     (∀ p, physOf s n = some p →
       (s0.time < x.wdogAt + ms s.obs.ptime.toNat → Runs (.pilotWatchdog t tile) s (fun s' => s' = s0)) ∧
       (x.wdogAt + ms s.obs.ptime.toNat ≤ s0.time → powered (s.island p) = true → s.dev.resetting.contains p = false →
         Runs (.pilotWatchdog t tile) s (fun s' => s'.dev.resetting.contains p = true))) ∧
     (s.obs.qtime = 0 → Runs (.queueWatchdog t tile slot cq) s (fun s' => s' = s0)) ∧
     (Tbl.get [] (x.job j).cqs cq.val = [] → Runs (.queueWatchdog t tile slot cq) s (fun s' => s' = s0)) ∧
     (s.obs.qtime ≠ 0 → Tbl.get [] (x.job j).cqs cq.val ≠ [] → tileDown s0 n = false →
       Tbl.get 0 (x.job j).lastDone cq.val + ms s.obs.qtime.toNat ≤ s0.time → Runs (.queueWatchdog t tile slot cq) s (fun s' =>
         (∀ q, q < 8 → Tbl.get [] ((s'.tile n).job j).cqs q = []) ∧ (∀ k, k ≠ n → s'.tile k = s.tile k) ∧
         OnlyChanges [.tiles, .jobs, .obs] s0 s')))

/-! ### Reset and invariants -/

/-- The registers after reset read as their tables give: identity, device, tide, ring, twin, port, clock, power, monitor, recorder and trace
registers (R1, Tables RG-3 to RG-6, FB-1, SW-10, SW-11, HI-13, TW-8, TW-9, TW-11, LN-9 to LN-12, FB-7, CP-12, CP-14, CP-15, DP-8, OB-13, OB-14).
After reset the device boots, no job is loaded, every port is DISABLED, every accumulator tile FREE, and no command waits; the block then
idles.
Model's choices it rests on: log entries 1, 4, 5, 8, 9, 10, 11 and 12. -/
def Obligations.Reset : Prop :=
  (let s := State.reset
   reg32 s 0x00 = some 0x1B1284E3 ∧ reg32 s 0x20 = some 0 ∧ reg32 s 0x24 = some 0 ∧ (reg32 s 0x28).map (· % 4096) = some 0 ∧
   (reg32 s 0x28).map (· / 2 ^ 28) = some 0 ∧ reg32 s 0x1000 = some 0 ∧ reg32 s 0x1004 = some 0 ∧
   (∀ r, r < 10 → reg32 s (0x2010 + 0x40 * r) = some 0x06000000 ∧ reg32 s (0x2014 + 0x40 * r) = some 0 ∧ reg64 s (0x2000 + 0x40 * r) = some 0 ∧
     reg64 s (0x2018 + 0x40 * r) = some 0) ∧ reg64 s 0x2800 = some 0 ∧
   reg32 s 0x3000 = some 0 ∧ (reg32 s 0x3004).map (· / 2 ^ 14) = some 0 ∧ reg64 s 0x3008 = some 0 ∧ reg32 s 0x3010 = some 0xE0000000 ∧
   (∀ j, j < 64 → reg32 s (0x4000 + 4 * j) = some 0) ∧
   (∀ n, n < 130 → reg32 s (0x10000 + 0x200 * n) = some 0x00040000 ∧ reg32 s (0x10004 + 0x200 * n) = some 0 ∧ reg32 s (0x10008 + 0x200 * n) = some 0 ∧
     reg32 s (0x1000C + 0x200 * n) = some 0 ∧
     reg32 s (0x10010 + 0x200 * n) = some (if n < 128 then 8 else 0)) ∧
   (∀ p, p < 136 → reg32 s (0x40000 + 4 * p) = some 0x2004 ∧ (reg32 s (0x44000 + 4 * p)).map (· % 2) =
     some (if (ltileOf s p).isNone then 1 else 0)) ∧
   reg32 s 0x48000 = some 0 ∧ reg32 s 0x58000 = some 1 ∧ reg32 s 0x58004 = some 0 ∧ reg32 s 0x58008 = some 0x00320064) ∧
  (let s := State.reset
   s.dev.st = .boot ∧ (∀ j, (s.job j).st = .free) ∧ (∀ n, (s.port n).st = .disabled) ∧ (∀ r, (s.ring r).st = .disabled) ∧
   (∀ n a, tagState ((s.tile n).acc a).tag = accFree ∧ ((s.tile n).acc a).written = 0) ∧ (∀ n, (s.tile n).evq = [] ∧ (s.tile n).dispatchQ = []) ∧
   s.twin.dst = .unmoored ∧ s.tide.pending = false ∧ s.pending = [] ∧ Mem.wf s.hostMem = true ∧
   Machine.step s = .next s)

/-- Every step keeps: fabric time does not move back, host memory stays in its canonical form, and the commands that wait are the same but the
one that ran (R302).
Model's choices it rests on: log entries 1, 2 and 3. -/
def Obligations.StepKeepsTimeMemoryAndQueue : Prop :=
  ∀ (T : Time) (s s' : State), T ≤ s.time → Mem.wf s.hostMem = true → Machine.step s = .next s' →
    T ≤ s'.time ∧ Mem.wf s'.hostMem = true ∧ s'.pending = s.pending.tail

/-- Every command is carried out: exec answers a next state for each of them, and never a fault or a refusal.
Model's choices it rests on: log entry 49. -/
def Obligations.EveryCommandRuns : Prop := ∀ (c : Instr) (s : State), ∃ s', exec c s = .next s'
end

