-- ==== Sys2Proof/Laws/Tbl.lean ====
section
/-! SUPPORT. Sparse tables and memories: reading what was written, leaving every other key alone, keeping the canonical form. -/

namespace Sys2Proof.Machine

variable {α : Type}

@[simp] theorem Tbl.get_nil (d : α) (k : Nat) : Tbl.get d [] k = d := rfl

@[simp] theorem Tbl.get_del_same (d : α) (t : Tbl α) (k : Nat) : Tbl.get d (Tbl.del k t) k = d := by
  induction t with
  | nil => rfl
  | cons e rest ih =>
    obtain ⟨j, v⟩ := e
    by_cases h : j = k <;> simp [Tbl.del, Tbl.get, h, ih]

theorem Tbl.get_del_other (d : α) (t : Tbl α) {k m : Nat} (h : m ≠ k) : Tbl.get d (Tbl.del k t) m = Tbl.get d t m := by
  induction t with
  | nil => rfl
  | cons e rest ih =>
    obtain ⟨j, v⟩ := e
    by_cases hk : j = k
    · simp [Tbl.del, Tbl.get, hk, ih, Ne.symm h]
    · simp [Tbl.del, Tbl.get, hk, ih]

theorem Tbl.get_ins_other (d : α) (t : Tbl α) {k m : Nat} (v : α) (h : m ≠ k) : Tbl.get d (Tbl.ins k v t) m = Tbl.get d t m := by
  induction t with
  | nil => simp [Tbl.ins, Tbl.get, Ne.symm h]
  | cons e rest ih =>
    obtain ⟨j, w⟩ := e
    by_cases hk : k < j
    · simp [Tbl.ins, Tbl.get, hk, Ne.symm h]
    · simp [Tbl.ins, Tbl.get, hk, ih]

/-- After an insertion into a table without the key, the key reads the value inserted. -/
theorem Tbl.get_ins_same (d : α) (t : Tbl α) (k : Nat) (v : α) : Tbl.get d (Tbl.ins k v (Tbl.del k t)) k = v := by
  induction t with
  | nil => simp [Tbl.del, Tbl.ins, Tbl.get]
  | cons e rest ih =>
    obtain ⟨j, w⟩ := e
    by_cases h : j = k
    · simp [Tbl.del, h, ih]
    · by_cases hk : k < j <;> simp [Tbl.del, Tbl.ins, Tbl.get, h, hk, ih]

theorem Tbl.del_del (t : Tbl α) (k : Nat) : Tbl.del k (Tbl.del k t) = Tbl.del k t := by
  induction t with
  | nil => rfl
  | cons e rest ih =>
    obtain ⟨j, v⟩ := e
    by_cases h : j = k <;> simp [Tbl.del, h, ih]

theorem Tbl.del_ins (t : Tbl α) (k : Nat) (v : α) : Tbl.del k (Tbl.ins k v t) = Tbl.del k t := by
  induction t with
  | nil => simp [Tbl.ins, Tbl.del]
  | cons e rest ih =>
    obtain ⟨j, w⟩ := e
    by_cases hk : k < j
    · simp [Tbl.ins, Tbl.del, hk]
    · by_cases h : j = k <;> simp [Tbl.ins, Tbl.del, hk, h, ih]

variable [DecidableEq α]

/-- Key k reads what was written there. -/
@[simp] theorem Tbl.get_set_same (d : α) (t : Tbl α) (k : Nat) (v : α) : Tbl.get d (Tbl.set d t k v) k = v := by
  by_cases h : v = d
  · simp [Tbl.set, h]
  · simp [Tbl.set, h, Tbl.get_ins_same]

/-- A write leaves every other key alone. -/
theorem Tbl.get_set_other (d : α) (t : Tbl α) {k m : Nat} (v : α) (h : m ≠ k) : Tbl.get d (Tbl.set d t k v) m = Tbl.get d t m := by
  by_cases hv : v = d
  · simp [Tbl.set, hv, Tbl.get_del_other d t h]
  · simp [Tbl.set, hv, Tbl.get_ins_other d _ v h, Tbl.get_del_other d t h]

@[simp] theorem Tbl.get_upd_same (d : α) (t : Tbl α) (k : Nat) (f : α → α) : Tbl.get d (Tbl.upd d t k f) k = f (Tbl.get d t k) :=
  Tbl.get_set_same d t k _

theorem Tbl.get_upd_other (d : α) (t : Tbl α) {k m : Nat} (f : α → α) (h : m ≠ k) : Tbl.get d (Tbl.upd d t k f) m = Tbl.get d t m :=
  Tbl.get_set_other d t _ h

/-! ### Two writes of one key -/

/-- Of two writes of one key the later holds. -/
@[simp] theorem Tbl.set_set (d : α) (t : Tbl α) (k : Nat) (v w : α) : Tbl.set d (Tbl.set d t k v) k w = Tbl.set d t k w := by
  have h : Tbl.del k (Tbl.set d t k v) = Tbl.del k t := by
    by_cases hv : v = d <;> simp [Tbl.set, hv, Tbl.del_del, Tbl.del_ins]
  rw [Tbl.set, h, ← Tbl.set]

@[simp] theorem Tbl.upd_upd (d : α) (t : Tbl α) (k : Nat) (f g : α → α) : Tbl.upd d (Tbl.upd d t k f) k g = Tbl.upd d t k (fun x => g (f x)) := by
  simp [Tbl.upd]

theorem Tbl.upd_congr (d : α) (t : Tbl α) (k : Nat) {f g : α → α} (h : f (Tbl.get d t k) = g (Tbl.get d t k)) :
    Tbl.upd d t k f = Tbl.upd d t k g := by
  simp [Tbl.upd, h]

/-! ### The canonical form -/

theorem Tbl.wfFrom_mono {d : α} {lo lo' : Nat} {t : Tbl α} (h : Tbl.wfFrom d lo' t = true) (hl : lo ≤ lo') :
    Tbl.wfFrom d lo t = true := by
  cases t with
  | nil => rfl
  | cons e rest =>
    obtain ⟨j, v⟩ := e
    simp only [Tbl.wfFrom, Bool.and_eq_true, decide_eq_true_eq] at h ⊢
    exact ⟨⟨by omega, h.1.2⟩, h.2⟩

theorem Tbl.del_wfFrom (d : α) (k : Nat) (t : Tbl α) (lo : Nat) (h : Tbl.wfFrom d lo t = true) : Tbl.wfFrom d lo (Tbl.del k t) = true := by
  induction t generalizing lo with
  | nil => rfl
  | cons e rest ih =>
    obtain ⟨j, v⟩ := e
    simp only [Tbl.wfFrom, Bool.and_eq_true, decide_eq_true_eq] at h
    by_cases hk : j = k
    · simpa [Tbl.del, hk] using ih lo (Tbl.wfFrom_mono h.2 (by omega))
    · simp only [Tbl.del, hk, ite_false, Tbl.wfFrom, Bool.and_eq_true, decide_eq_true_eq]
      exact ⟨h.1, ih _ h.2⟩

/-- An insertion keeps the form. -/
theorem Tbl.ins_wfFrom (d : α) (k : Nat) (v : α) (hv : v ≠ d) (t : Tbl α) (lo : Nat) (hlo : lo ≤ k)
    (h : Tbl.wfFrom d lo (Tbl.del k t) = true) : Tbl.wfFrom d lo (Tbl.ins k v (Tbl.del k t)) = true := by
  induction t generalizing lo with
  | nil => simp [Tbl.del, Tbl.ins, Tbl.wfFrom, hlo, hv]
  | cons e rest ih =>
    obtain ⟨j, w⟩ := e
    by_cases hk : j = k
    · simp only [Tbl.del, hk, ite_true] at h ⊢
      exact ih lo hlo h
    · simp only [Tbl.del, hk, ite_false, Tbl.wfFrom, Bool.and_eq_true, decide_eq_true_eq] at h
      by_cases hj : k < j
      · simp only [Tbl.del, hk, ite_false, Tbl.ins, hj, ite_true, Tbl.wfFrom, Bool.and_eq_true, decide_eq_true_eq]
        exact ⟨⟨hlo, hv⟩, ⟨by omega, h.1.2⟩, h.2⟩
      · simp only [Tbl.del, hk, ite_false, Tbl.ins, hj, Tbl.wfFrom, Bool.and_eq_true, decide_eq_true_eq]
        exact ⟨h.1, ih _ (by omega) h.2⟩

/-- A write keeps the canonical form. -/
theorem Tbl.set_wf (d : α) (t : Tbl α) (k : Nat) (v : α) (h : Tbl.wf d t = true) : Tbl.wf d (Tbl.set d t k v) = true := by
  unfold Tbl.wf at *
  by_cases hv : v = d
  · simpa [Tbl.set, hv] using Tbl.del_wfFrom d k t 0 h
  · simpa [Tbl.set, hv] using Tbl.ins_wfFrom d k v hv t 0 (Nat.zero_le _) (Tbl.del_wfFrom d k t 0 h)

theorem Tbl.upd_wf (d : α) (t : Tbl α) (k : Nat) (f : α → α) (h : Tbl.wf d t = true) : Tbl.wf d (Tbl.upd d t k f) = true :=
  Tbl.set_wf d t k _ h

/-! ### Byte memories -/

@[simp] theorem Mem.read_write_same (m : Mem) (a : Nat) (b : Byte) : Mem.read (Mem.write m a b) a = b := Tbl.get_set_same _ _ _ _

theorem Mem.read_write_other (m : Mem) {a x : Nat} (b : Byte) (h : x ≠ a) : Mem.read (Mem.write m a b) x = Mem.read m x :=
  Tbl.get_set_other _ _ _ h

/-- A write of several bytes leaves every byte outside it alone. -/
theorem Mem.read_writeN_outside (bs : List Byte) (m : Mem) (a x : Nat) (h : x < a ∨ a + bs.length ≤ x) :
    Mem.read (Mem.writeN m a bs) x = Mem.read m x := by
  induction bs generalizing m a with
  | nil => rfl
  | cons b bs ih =>
    simp only [List.length_cons] at h
    rw [Mem.writeN, ih _ _ (by omega), Mem.read_write_other _ _ (by omega)]

/-- A write of several bytes puts each at its place. -/
theorem Mem.read_writeN_inside (bs : List Byte) (m : Mem) (a i : Nat) (h : i < bs.length) :
    Mem.read (Mem.writeN m a bs) (a + i) = bs[i] := by
  induction bs generalizing m a i with
  | nil => simp at h
  | cons b bs ih =>
    cases i with
    | zero => simp [Mem.writeN, Mem.read_writeN_outside]
    | succ i =>
      have := ih (Mem.write m a b) (a + 1) i (by simpa using h)
      simpa [Mem.writeN, Nat.add_assoc, Nat.add_comm 1 i] using this

theorem Mem.write_wf (m : Mem) (a : Nat) (b : Byte) (h : Mem.wf m = true) : Mem.wf (Mem.write m a b) = true := Tbl.set_wf _ _ _ _ h

/-- A write of several bytes keeps the canonical form. -/
theorem Mem.writeN_wf (bs : List Byte) (m : Mem) (a : Nat) (h : Mem.wf m = true) : Mem.wf (Mem.writeN m a bs) = true := by
  induction bs generalizing m a with
  | nil => exact h
  | cons b bs ih => exact ih _ _ (Mem.write_wf m a b h)

end Sys2Proof.Machine
end

