-- ==== Sys2Proof/Laws/State.lean ====
section
/-! SUPPORT. What each update of the state leaves and changes, field by field: one lemma for each field of each update. -/

namespace Sys2Proof.Machine


/-! ### updDev -/

@[simp] theorem updDev_time (f : Dev → Dev) (s : State) : (s.updDev f).time = s.time := rfl
@[simp] theorem updDev_dev (f : Dev → Dev) (s : State) : (s.updDev f).dev = f s.dev := rfl
@[simp] theorem updDev_tide (f : Dev → Dev) (s : State) : (s.updDev f).tide = s.tide := rfl
@[simp] theorem updDev_host (f : Dev → Dev) (s : State) : (s.updDev f).host = s.host := rfl
@[simp] theorem updDev_hostMem (f : Dev → Dev) (s : State) : (s.updDev f).hostMem = s.hostMem := rfl
@[simp] theorem updDev_twin (f : Dev → Dev) (s : State) : (s.updDev f).twin = s.twin := rfl
@[simp] theorem updDev_ports (f : Dev → Dev) (s : State) : (s.updDev f).ports = s.ports := rfl
@[simp] theorem updDev_fabric (f : Dev → Dev) (s : State) : (s.updDev f).fabric = s.fabric := rfl
@[simp] theorem updDev_tiles (f : Dev → Dev) (s : State) : (s.updDev f).tiles = s.tiles := rfl
@[simp] theorem updDev_jobs (f : Dev → Dev) (s : State) : (s.updDev f).jobs = s.jobs := rfl
@[simp] theorem updDev_clk (f : Dev → Dev) (s : State) : (s.updDev f).clk = s.clk := rfl
@[simp] theorem updDev_obs (f : Dev → Dev) (s : State) : (s.updDev f).obs = s.obs := rfl
@[simp] theorem updDev_flash (f : Dev → Dev) (s : State) : (s.updDev f).flash = s.flash := rfl
@[simp] theorem updDev_side (f : Dev → Dev) (s : State) : (s.updDev f).side = s.side := rfl
@[simp] theorem updDev_free (f : Dev → Dev) (s : State) : (s.updDev f).free = s.free := rfl
@[simp] theorem updDev_pending (f : Dev → Dev) (s : State) : (s.updDev f).pending = s.pending := rfl
@[simp] theorem updDev_port (f : Dev → Dev) (s : State) (m : Nat) : (s.updDev f).port m = s.port m := rfl
@[simp] theorem updDev_tile (f : Dev → Dev) (s : State) (m : Nat) : (s.updDev f).tile m = s.tile m := rfl
@[simp] theorem updDev_job (f : Dev → Dev) (s : State) (m : Nat) : (s.updDev f).job m = s.job m := rfl
@[simp] theorem updDev_ring (f : Dev → Dev) (s : State) (m : Nat) : (s.updDev f).ring m = s.ring m := rfl
@[simp] theorem updDev_island (f : Dev → Dev) (s : State) (m : Nat) : (s.updDev f).island m = s.island m := rfl

/-! ### updTide -/

@[simp] theorem updTide_time (f : Tide → Tide) (s : State) : (s.updTide f).time = s.time := rfl
@[simp] theorem updTide_dev (f : Tide → Tide) (s : State) : (s.updTide f).dev = s.dev := rfl
@[simp] theorem updTide_tide (f : Tide → Tide) (s : State) : (s.updTide f).tide = f s.tide := rfl
@[simp] theorem updTide_host (f : Tide → Tide) (s : State) : (s.updTide f).host = s.host := rfl
@[simp] theorem updTide_hostMem (f : Tide → Tide) (s : State) : (s.updTide f).hostMem = s.hostMem := rfl
@[simp] theorem updTide_twin (f : Tide → Tide) (s : State) : (s.updTide f).twin = s.twin := rfl
@[simp] theorem updTide_ports (f : Tide → Tide) (s : State) : (s.updTide f).ports = s.ports := rfl
@[simp] theorem updTide_fabric (f : Tide → Tide) (s : State) : (s.updTide f).fabric = s.fabric := rfl
@[simp] theorem updTide_tiles (f : Tide → Tide) (s : State) : (s.updTide f).tiles = s.tiles := rfl
@[simp] theorem updTide_jobs (f : Tide → Tide) (s : State) : (s.updTide f).jobs = s.jobs := rfl
@[simp] theorem updTide_clk (f : Tide → Tide) (s : State) : (s.updTide f).clk = s.clk := rfl
@[simp] theorem updTide_obs (f : Tide → Tide) (s : State) : (s.updTide f).obs = s.obs := rfl
@[simp] theorem updTide_flash (f : Tide → Tide) (s : State) : (s.updTide f).flash = s.flash := rfl
@[simp] theorem updTide_side (f : Tide → Tide) (s : State) : (s.updTide f).side = s.side := rfl
@[simp] theorem updTide_free (f : Tide → Tide) (s : State) : (s.updTide f).free = s.free := rfl
@[simp] theorem updTide_pending (f : Tide → Tide) (s : State) : (s.updTide f).pending = s.pending := rfl
@[simp] theorem updTide_port (f : Tide → Tide) (s : State) (m : Nat) : (s.updTide f).port m = s.port m := rfl
@[simp] theorem updTide_tile (f : Tide → Tide) (s : State) (m : Nat) : (s.updTide f).tile m = s.tile m := rfl
@[simp] theorem updTide_job (f : Tide → Tide) (s : State) (m : Nat) : (s.updTide f).job m = s.job m := rfl
@[simp] theorem updTide_ring (f : Tide → Tide) (s : State) (m : Nat) : (s.updTide f).ring m = s.ring m := rfl
@[simp] theorem updTide_island (f : Tide → Tide) (s : State) (m : Nat) : (s.updTide f).island m = s.island m := rfl

/-! ### updHost -/

@[simp] theorem updHost_time (f : HostIf → HostIf) (s : State) : (s.updHost f).time = s.time := rfl
@[simp] theorem updHost_dev (f : HostIf → HostIf) (s : State) : (s.updHost f).dev = s.dev := rfl
@[simp] theorem updHost_tide (f : HostIf → HostIf) (s : State) : (s.updHost f).tide = s.tide := rfl
@[simp] theorem updHost_host (f : HostIf → HostIf) (s : State) : (s.updHost f).host = f s.host := rfl
@[simp] theorem updHost_hostMem (f : HostIf → HostIf) (s : State) : (s.updHost f).hostMem = s.hostMem := rfl
@[simp] theorem updHost_twin (f : HostIf → HostIf) (s : State) : (s.updHost f).twin = s.twin := rfl
@[simp] theorem updHost_ports (f : HostIf → HostIf) (s : State) : (s.updHost f).ports = s.ports := rfl
@[simp] theorem updHost_fabric (f : HostIf → HostIf) (s : State) : (s.updHost f).fabric = s.fabric := rfl
@[simp] theorem updHost_tiles (f : HostIf → HostIf) (s : State) : (s.updHost f).tiles = s.tiles := rfl
@[simp] theorem updHost_jobs (f : HostIf → HostIf) (s : State) : (s.updHost f).jobs = s.jobs := rfl
@[simp] theorem updHost_clk (f : HostIf → HostIf) (s : State) : (s.updHost f).clk = s.clk := rfl
@[simp] theorem updHost_obs (f : HostIf → HostIf) (s : State) : (s.updHost f).obs = s.obs := rfl
@[simp] theorem updHost_flash (f : HostIf → HostIf) (s : State) : (s.updHost f).flash = s.flash := rfl
@[simp] theorem updHost_side (f : HostIf → HostIf) (s : State) : (s.updHost f).side = s.side := rfl
@[simp] theorem updHost_free (f : HostIf → HostIf) (s : State) : (s.updHost f).free = s.free := rfl
@[simp] theorem updHost_pending (f : HostIf → HostIf) (s : State) : (s.updHost f).pending = s.pending := rfl
@[simp] theorem updHost_port (f : HostIf → HostIf) (s : State) (m : Nat) : (s.updHost f).port m = s.port m := rfl
@[simp] theorem updHost_tile (f : HostIf → HostIf) (s : State) (m : Nat) : (s.updHost f).tile m = s.tile m := rfl
@[simp] theorem updHost_job (f : HostIf → HostIf) (s : State) (m : Nat) : (s.updHost f).job m = s.job m := rfl
@[simp] theorem updHost_island (f : HostIf → HostIf) (s : State) (m : Nat) : (s.updHost f).island m = s.island m := rfl

/-! ### updTwin -/

@[simp] theorem updTwin_time (f : Twin → Twin) (s : State) : (s.updTwin f).time = s.time := rfl
@[simp] theorem updTwin_dev (f : Twin → Twin) (s : State) : (s.updTwin f).dev = s.dev := rfl
@[simp] theorem updTwin_tide (f : Twin → Twin) (s : State) : (s.updTwin f).tide = s.tide := rfl
@[simp] theorem updTwin_host (f : Twin → Twin) (s : State) : (s.updTwin f).host = s.host := rfl
@[simp] theorem updTwin_hostMem (f : Twin → Twin) (s : State) : (s.updTwin f).hostMem = s.hostMem := rfl
@[simp] theorem updTwin_twin (f : Twin → Twin) (s : State) : (s.updTwin f).twin = f s.twin := rfl
@[simp] theorem updTwin_ports (f : Twin → Twin) (s : State) : (s.updTwin f).ports = s.ports := rfl
@[simp] theorem updTwin_fabric (f : Twin → Twin) (s : State) : (s.updTwin f).fabric = s.fabric := rfl
@[simp] theorem updTwin_tiles (f : Twin → Twin) (s : State) : (s.updTwin f).tiles = s.tiles := rfl
@[simp] theorem updTwin_jobs (f : Twin → Twin) (s : State) : (s.updTwin f).jobs = s.jobs := rfl
@[simp] theorem updTwin_clk (f : Twin → Twin) (s : State) : (s.updTwin f).clk = s.clk := rfl
@[simp] theorem updTwin_obs (f : Twin → Twin) (s : State) : (s.updTwin f).obs = s.obs := rfl
@[simp] theorem updTwin_flash (f : Twin → Twin) (s : State) : (s.updTwin f).flash = s.flash := rfl
@[simp] theorem updTwin_side (f : Twin → Twin) (s : State) : (s.updTwin f).side = s.side := rfl
@[simp] theorem updTwin_free (f : Twin → Twin) (s : State) : (s.updTwin f).free = s.free := rfl
@[simp] theorem updTwin_pending (f : Twin → Twin) (s : State) : (s.updTwin f).pending = s.pending := rfl
@[simp] theorem updTwin_port (f : Twin → Twin) (s : State) (m : Nat) : (s.updTwin f).port m = s.port m := rfl
@[simp] theorem updTwin_tile (f : Twin → Twin) (s : State) (m : Nat) : (s.updTwin f).tile m = s.tile m := rfl
@[simp] theorem updTwin_job (f : Twin → Twin) (s : State) (m : Nat) : (s.updTwin f).job m = s.job m := rfl
@[simp] theorem updTwin_ring (f : Twin → Twin) (s : State) (m : Nat) : (s.updTwin f).ring m = s.ring m := rfl
@[simp] theorem updTwin_island (f : Twin → Twin) (s : State) (m : Nat) : (s.updTwin f).island m = s.island m := rfl

/-! ### updFabric -/

@[simp] theorem updFabric_time (f : Fabric → Fabric) (s : State) : (s.updFabric f).time = s.time := rfl
@[simp] theorem updFabric_dev (f : Fabric → Fabric) (s : State) : (s.updFabric f).dev = s.dev := rfl
@[simp] theorem updFabric_tide (f : Fabric → Fabric) (s : State) : (s.updFabric f).tide = s.tide := rfl
@[simp] theorem updFabric_host (f : Fabric → Fabric) (s : State) : (s.updFabric f).host = s.host := rfl
@[simp] theorem updFabric_hostMem (f : Fabric → Fabric) (s : State) : (s.updFabric f).hostMem = s.hostMem := rfl
@[simp] theorem updFabric_twin (f : Fabric → Fabric) (s : State) : (s.updFabric f).twin = s.twin := rfl
@[simp] theorem updFabric_ports (f : Fabric → Fabric) (s : State) : (s.updFabric f).ports = s.ports := rfl
@[simp] theorem updFabric_fabric (f : Fabric → Fabric) (s : State) : (s.updFabric f).fabric = f s.fabric := rfl
@[simp] theorem updFabric_tiles (f : Fabric → Fabric) (s : State) : (s.updFabric f).tiles = s.tiles := rfl
@[simp] theorem updFabric_jobs (f : Fabric → Fabric) (s : State) : (s.updFabric f).jobs = s.jobs := rfl
@[simp] theorem updFabric_clk (f : Fabric → Fabric) (s : State) : (s.updFabric f).clk = s.clk := rfl
@[simp] theorem updFabric_obs (f : Fabric → Fabric) (s : State) : (s.updFabric f).obs = s.obs := rfl
@[simp] theorem updFabric_flash (f : Fabric → Fabric) (s : State) : (s.updFabric f).flash = s.flash := rfl
@[simp] theorem updFabric_side (f : Fabric → Fabric) (s : State) : (s.updFabric f).side = s.side := rfl
@[simp] theorem updFabric_free (f : Fabric → Fabric) (s : State) : (s.updFabric f).free = s.free := rfl
@[simp] theorem updFabric_pending (f : Fabric → Fabric) (s : State) : (s.updFabric f).pending = s.pending := rfl
@[simp] theorem updFabric_port (f : Fabric → Fabric) (s : State) (m : Nat) : (s.updFabric f).port m = s.port m := rfl
@[simp] theorem updFabric_tile (f : Fabric → Fabric) (s : State) (m : Nat) : (s.updFabric f).tile m = s.tile m := rfl
@[simp] theorem updFabric_job (f : Fabric → Fabric) (s : State) (m : Nat) : (s.updFabric f).job m = s.job m := rfl
@[simp] theorem updFabric_ring (f : Fabric → Fabric) (s : State) (m : Nat) : (s.updFabric f).ring m = s.ring m := rfl
@[simp] theorem updFabric_island (f : Fabric → Fabric) (s : State) (m : Nat) : (s.updFabric f).island m = s.island m := rfl

/-! ### updClk -/

@[simp] theorem updClk_time (f : Clk → Clk) (s : State) : (s.updClk f).time = s.time := rfl
@[simp] theorem updClk_dev (f : Clk → Clk) (s : State) : (s.updClk f).dev = s.dev := rfl
@[simp] theorem updClk_tide (f : Clk → Clk) (s : State) : (s.updClk f).tide = s.tide := rfl
@[simp] theorem updClk_host (f : Clk → Clk) (s : State) : (s.updClk f).host = s.host := rfl
@[simp] theorem updClk_hostMem (f : Clk → Clk) (s : State) : (s.updClk f).hostMem = s.hostMem := rfl
@[simp] theorem updClk_twin (f : Clk → Clk) (s : State) : (s.updClk f).twin = s.twin := rfl
@[simp] theorem updClk_ports (f : Clk → Clk) (s : State) : (s.updClk f).ports = s.ports := rfl
@[simp] theorem updClk_fabric (f : Clk → Clk) (s : State) : (s.updClk f).fabric = s.fabric := rfl
@[simp] theorem updClk_tiles (f : Clk → Clk) (s : State) : (s.updClk f).tiles = s.tiles := rfl
@[simp] theorem updClk_jobs (f : Clk → Clk) (s : State) : (s.updClk f).jobs = s.jobs := rfl
@[simp] theorem updClk_clk (f : Clk → Clk) (s : State) : (s.updClk f).clk = f s.clk := rfl
@[simp] theorem updClk_obs (f : Clk → Clk) (s : State) : (s.updClk f).obs = s.obs := rfl
@[simp] theorem updClk_flash (f : Clk → Clk) (s : State) : (s.updClk f).flash = s.flash := rfl
@[simp] theorem updClk_side (f : Clk → Clk) (s : State) : (s.updClk f).side = s.side := rfl
@[simp] theorem updClk_free (f : Clk → Clk) (s : State) : (s.updClk f).free = s.free := rfl
@[simp] theorem updClk_pending (f : Clk → Clk) (s : State) : (s.updClk f).pending = s.pending := rfl
@[simp] theorem updClk_port (f : Clk → Clk) (s : State) (m : Nat) : (s.updClk f).port m = s.port m := rfl
@[simp] theorem updClk_tile (f : Clk → Clk) (s : State) (m : Nat) : (s.updClk f).tile m = s.tile m := rfl
@[simp] theorem updClk_job (f : Clk → Clk) (s : State) (m : Nat) : (s.updClk f).job m = s.job m := rfl
@[simp] theorem updClk_ring (f : Clk → Clk) (s : State) (m : Nat) : (s.updClk f).ring m = s.ring m := rfl

/-! ### updObs -/

@[simp] theorem updObs_time (f : Obs → Obs) (s : State) : (s.updObs f).time = s.time := rfl
@[simp] theorem updObs_dev (f : Obs → Obs) (s : State) : (s.updObs f).dev = s.dev := rfl
@[simp] theorem updObs_tide (f : Obs → Obs) (s : State) : (s.updObs f).tide = s.tide := rfl
@[simp] theorem updObs_host (f : Obs → Obs) (s : State) : (s.updObs f).host = s.host := rfl
@[simp] theorem updObs_hostMem (f : Obs → Obs) (s : State) : (s.updObs f).hostMem = s.hostMem := rfl
@[simp] theorem updObs_twin (f : Obs → Obs) (s : State) : (s.updObs f).twin = s.twin := rfl
@[simp] theorem updObs_ports (f : Obs → Obs) (s : State) : (s.updObs f).ports = s.ports := rfl
@[simp] theorem updObs_fabric (f : Obs → Obs) (s : State) : (s.updObs f).fabric = s.fabric := rfl
@[simp] theorem updObs_tiles (f : Obs → Obs) (s : State) : (s.updObs f).tiles = s.tiles := rfl
@[simp] theorem updObs_jobs (f : Obs → Obs) (s : State) : (s.updObs f).jobs = s.jobs := rfl
@[simp] theorem updObs_clk (f : Obs → Obs) (s : State) : (s.updObs f).clk = s.clk := rfl
@[simp] theorem updObs_obs (f : Obs → Obs) (s : State) : (s.updObs f).obs = f s.obs := rfl
@[simp] theorem updObs_flash (f : Obs → Obs) (s : State) : (s.updObs f).flash = s.flash := rfl
@[simp] theorem updObs_side (f : Obs → Obs) (s : State) : (s.updObs f).side = s.side := rfl
@[simp] theorem updObs_free (f : Obs → Obs) (s : State) : (s.updObs f).free = s.free := rfl
@[simp] theorem updObs_pending (f : Obs → Obs) (s : State) : (s.updObs f).pending = s.pending := rfl
@[simp] theorem updObs_port (f : Obs → Obs) (s : State) (m : Nat) : (s.updObs f).port m = s.port m := rfl
@[simp] theorem updObs_tile (f : Obs → Obs) (s : State) (m : Nat) : (s.updObs f).tile m = s.tile m := rfl
@[simp] theorem updObs_job (f : Obs → Obs) (s : State) (m : Nat) : (s.updObs f).job m = s.job m := rfl
@[simp] theorem updObs_ring (f : Obs → Obs) (s : State) (m : Nat) : (s.updObs f).ring m = s.ring m := rfl
@[simp] theorem updObs_island (f : Obs → Obs) (s : State) (m : Nat) : (s.updObs f).island m = s.island m := rfl

/-! ### updFlash -/

@[simp] theorem updFlash_time (f : Flash → Flash) (s : State) : (s.updFlash f).time = s.time := rfl
@[simp] theorem updFlash_dev (f : Flash → Flash) (s : State) : (s.updFlash f).dev = s.dev := rfl
@[simp] theorem updFlash_tide (f : Flash → Flash) (s : State) : (s.updFlash f).tide = s.tide := rfl
@[simp] theorem updFlash_host (f : Flash → Flash) (s : State) : (s.updFlash f).host = s.host := rfl
@[simp] theorem updFlash_hostMem (f : Flash → Flash) (s : State) : (s.updFlash f).hostMem = s.hostMem := rfl
@[simp] theorem updFlash_twin (f : Flash → Flash) (s : State) : (s.updFlash f).twin = s.twin := rfl
@[simp] theorem updFlash_ports (f : Flash → Flash) (s : State) : (s.updFlash f).ports = s.ports := rfl
@[simp] theorem updFlash_fabric (f : Flash → Flash) (s : State) : (s.updFlash f).fabric = s.fabric := rfl
@[simp] theorem updFlash_tiles (f : Flash → Flash) (s : State) : (s.updFlash f).tiles = s.tiles := rfl
@[simp] theorem updFlash_jobs (f : Flash → Flash) (s : State) : (s.updFlash f).jobs = s.jobs := rfl
@[simp] theorem updFlash_clk (f : Flash → Flash) (s : State) : (s.updFlash f).clk = s.clk := rfl
@[simp] theorem updFlash_obs (f : Flash → Flash) (s : State) : (s.updFlash f).obs = s.obs := rfl
@[simp] theorem updFlash_flash (f : Flash → Flash) (s : State) : (s.updFlash f).flash = f s.flash := rfl
@[simp] theorem updFlash_side (f : Flash → Flash) (s : State) : (s.updFlash f).side = s.side := rfl
@[simp] theorem updFlash_free (f : Flash → Flash) (s : State) : (s.updFlash f).free = s.free := rfl
@[simp] theorem updFlash_pending (f : Flash → Flash) (s : State) : (s.updFlash f).pending = s.pending := rfl
@[simp] theorem updFlash_port (f : Flash → Flash) (s : State) (m : Nat) : (s.updFlash f).port m = s.port m := rfl
@[simp] theorem updFlash_tile (f : Flash → Flash) (s : State) (m : Nat) : (s.updFlash f).tile m = s.tile m := rfl
@[simp] theorem updFlash_job (f : Flash → Flash) (s : State) (m : Nat) : (s.updFlash f).job m = s.job m := rfl
@[simp] theorem updFlash_ring (f : Flash → Flash) (s : State) (m : Nat) : (s.updFlash f).ring m = s.ring m := rfl
@[simp] theorem updFlash_island (f : Flash → Flash) (s : State) (m : Nat) : (s.updFlash f).island m = s.island m := rfl

/-! ### updSide -/

@[simp] theorem updSide_time (f : Side → Side) (s : State) : (s.updSide f).time = s.time := rfl
@[simp] theorem updSide_dev (f : Side → Side) (s : State) : (s.updSide f).dev = s.dev := rfl
@[simp] theorem updSide_tide (f : Side → Side) (s : State) : (s.updSide f).tide = s.tide := rfl
@[simp] theorem updSide_host (f : Side → Side) (s : State) : (s.updSide f).host = s.host := rfl
@[simp] theorem updSide_hostMem (f : Side → Side) (s : State) : (s.updSide f).hostMem = s.hostMem := rfl
@[simp] theorem updSide_twin (f : Side → Side) (s : State) : (s.updSide f).twin = s.twin := rfl
@[simp] theorem updSide_ports (f : Side → Side) (s : State) : (s.updSide f).ports = s.ports := rfl
@[simp] theorem updSide_fabric (f : Side → Side) (s : State) : (s.updSide f).fabric = s.fabric := rfl
@[simp] theorem updSide_tiles (f : Side → Side) (s : State) : (s.updSide f).tiles = s.tiles := rfl
@[simp] theorem updSide_jobs (f : Side → Side) (s : State) : (s.updSide f).jobs = s.jobs := rfl
@[simp] theorem updSide_clk (f : Side → Side) (s : State) : (s.updSide f).clk = s.clk := rfl
@[simp] theorem updSide_obs (f : Side → Side) (s : State) : (s.updSide f).obs = s.obs := rfl
@[simp] theorem updSide_flash (f : Side → Side) (s : State) : (s.updSide f).flash = s.flash := rfl
@[simp] theorem updSide_side (f : Side → Side) (s : State) : (s.updSide f).side = f s.side := rfl
@[simp] theorem updSide_free (f : Side → Side) (s : State) : (s.updSide f).free = s.free := rfl
@[simp] theorem updSide_pending (f : Side → Side) (s : State) : (s.updSide f).pending = s.pending := rfl
@[simp] theorem updSide_port (f : Side → Side) (s : State) (m : Nat) : (s.updSide f).port m = s.port m := rfl
@[simp] theorem updSide_tile (f : Side → Side) (s : State) (m : Nat) : (s.updSide f).tile m = s.tile m := rfl
@[simp] theorem updSide_job (f : Side → Side) (s : State) (m : Nat) : (s.updSide f).job m = s.job m := rfl
@[simp] theorem updSide_ring (f : Side → Side) (s : State) (m : Nat) : (s.updSide f).ring m = s.ring m := rfl
@[simp] theorem updSide_island (f : Side → Side) (s : State) (m : Nat) : (s.updSide f).island m = s.island m := rfl

/-! ### updPort -/

@[simp] theorem updPort_time (n : Nat) (f : PortS → PortS) (s : State) : (s.updPort n f).time = s.time := rfl
@[simp] theorem updPort_dev (n : Nat) (f : PortS → PortS) (s : State) : (s.updPort n f).dev = s.dev := rfl
@[simp] theorem updPort_tide (n : Nat) (f : PortS → PortS) (s : State) : (s.updPort n f).tide = s.tide := rfl
@[simp] theorem updPort_host (n : Nat) (f : PortS → PortS) (s : State) : (s.updPort n f).host = s.host := rfl
@[simp] theorem updPort_hostMem (n : Nat) (f : PortS → PortS) (s : State) : (s.updPort n f).hostMem = s.hostMem := rfl
@[simp] theorem updPort_twin (n : Nat) (f : PortS → PortS) (s : State) : (s.updPort n f).twin = s.twin := rfl
@[simp] theorem updPort_fabric (n : Nat) (f : PortS → PortS) (s : State) : (s.updPort n f).fabric = s.fabric := rfl
@[simp] theorem updPort_tiles (n : Nat) (f : PortS → PortS) (s : State) : (s.updPort n f).tiles = s.tiles := rfl
@[simp] theorem updPort_jobs (n : Nat) (f : PortS → PortS) (s : State) : (s.updPort n f).jobs = s.jobs := rfl
@[simp] theorem updPort_clk (n : Nat) (f : PortS → PortS) (s : State) : (s.updPort n f).clk = s.clk := rfl
@[simp] theorem updPort_obs (n : Nat) (f : PortS → PortS) (s : State) : (s.updPort n f).obs = s.obs := rfl
@[simp] theorem updPort_flash (n : Nat) (f : PortS → PortS) (s : State) : (s.updPort n f).flash = s.flash := rfl
@[simp] theorem updPort_side (n : Nat) (f : PortS → PortS) (s : State) : (s.updPort n f).side = s.side := rfl
@[simp] theorem updPort_free (n : Nat) (f : PortS → PortS) (s : State) : (s.updPort n f).free = s.free := rfl
@[simp] theorem updPort_pending (n : Nat) (f : PortS → PortS) (s : State) : (s.updPort n f).pending = s.pending := rfl
@[simp] theorem updPort_tile (n : Nat) (f : PortS → PortS) (s : State) (m : Nat) : (s.updPort n f).tile m = s.tile m := rfl
@[simp] theorem updPort_job (n : Nat) (f : PortS → PortS) (s : State) (m : Nat) : (s.updPort n f).job m = s.job m := rfl
@[simp] theorem updPort_ring (n : Nat) (f : PortS → PortS) (s : State) (m : Nat) : (s.updPort n f).ring m = s.ring m := rfl
@[simp] theorem updPort_island (n : Nat) (f : PortS → PortS) (s : State) (m : Nat) : (s.updPort n f).island m = s.island m := rfl
@[simp] theorem updPort_port_same (n : Nat) (f : PortS → PortS) (s : State) : (s.updPort n f).port n = f (s.port n) := Tbl.get_upd_same _ _ _ _
@[simp] theorem updPort_twice (n : Nat) (f g : PortS → PortS) (s : State) : (s.updPort n f).updPort n g = s.updPort n (fun x => g (f x)) := by
  simp [State.updPort]
theorem updPort_congr {n : Nat} {f g : PortS → PortS} {s : State} (h : f (s.port n) = g (s.port n)) : s.updPort n f = s.updPort n g := by
  have h' := Tbl.upd_congr _ _ _ h
  simp [State.updPort, h']
theorem updPort_port_other {n m : Nat} (h : m ≠ n) (f : PortS → PortS) (s : State) : (s.updPort n f).port m = s.port m := Tbl.get_upd_other _ _ _ h

/-! ### updTile -/

@[simp] theorem updTile_time (n : Nat) (f : TileS → TileS) (s : State) : (s.updTile n f).time = s.time := rfl
@[simp] theorem updTile_dev (n : Nat) (f : TileS → TileS) (s : State) : (s.updTile n f).dev = s.dev := rfl
@[simp] theorem updTile_tide (n : Nat) (f : TileS → TileS) (s : State) : (s.updTile n f).tide = s.tide := rfl
@[simp] theorem updTile_host (n : Nat) (f : TileS → TileS) (s : State) : (s.updTile n f).host = s.host := rfl
@[simp] theorem updTile_hostMem (n : Nat) (f : TileS → TileS) (s : State) : (s.updTile n f).hostMem = s.hostMem := rfl
@[simp] theorem updTile_twin (n : Nat) (f : TileS → TileS) (s : State) : (s.updTile n f).twin = s.twin := rfl
@[simp] theorem updTile_ports (n : Nat) (f : TileS → TileS) (s : State) : (s.updTile n f).ports = s.ports := rfl
@[simp] theorem updTile_fabric (n : Nat) (f : TileS → TileS) (s : State) : (s.updTile n f).fabric = s.fabric := rfl
@[simp] theorem updTile_jobs (n : Nat) (f : TileS → TileS) (s : State) : (s.updTile n f).jobs = s.jobs := rfl
@[simp] theorem updTile_clk (n : Nat) (f : TileS → TileS) (s : State) : (s.updTile n f).clk = s.clk := rfl
@[simp] theorem updTile_obs (n : Nat) (f : TileS → TileS) (s : State) : (s.updTile n f).obs = s.obs := rfl
@[simp] theorem updTile_flash (n : Nat) (f : TileS → TileS) (s : State) : (s.updTile n f).flash = s.flash := rfl
@[simp] theorem updTile_side (n : Nat) (f : TileS → TileS) (s : State) : (s.updTile n f).side = s.side := rfl
@[simp] theorem updTile_free (n : Nat) (f : TileS → TileS) (s : State) : (s.updTile n f).free = s.free := rfl
@[simp] theorem updTile_pending (n : Nat) (f : TileS → TileS) (s : State) : (s.updTile n f).pending = s.pending := rfl
@[simp] theorem updTile_port (n : Nat) (f : TileS → TileS) (s : State) (m : Nat) : (s.updTile n f).port m = s.port m := rfl
@[simp] theorem updTile_job (n : Nat) (f : TileS → TileS) (s : State) (m : Nat) : (s.updTile n f).job m = s.job m := rfl
@[simp] theorem updTile_ring (n : Nat) (f : TileS → TileS) (s : State) (m : Nat) : (s.updTile n f).ring m = s.ring m := rfl
@[simp] theorem updTile_island (n : Nat) (f : TileS → TileS) (s : State) (m : Nat) : (s.updTile n f).island m = s.island m := rfl
@[simp] theorem updTile_tile_same (n : Nat) (f : TileS → TileS) (s : State) : (s.updTile n f).tile n = f (s.tile n) := Tbl.get_upd_same _ _ _ _
@[simp] theorem updTile_twice (n : Nat) (f g : TileS → TileS) (s : State) : (s.updTile n f).updTile n g = s.updTile n (fun x => g (f x)) := by
  simp [State.updTile]
theorem updTile_congr {n : Nat} {f g : TileS → TileS} {s : State} (h : f (s.tile n) = g (s.tile n)) : s.updTile n f = s.updTile n g := by
  have h' := Tbl.upd_congr _ _ _ h
  simp [State.updTile, h']
theorem updTile_tile_other {n m : Nat} (h : m ≠ n) (f : TileS → TileS) (s : State) : (s.updTile n f).tile m = s.tile m := Tbl.get_upd_other _ _ _ h

/-! ### updJob -/

@[simp] theorem updJob_time (n : Nat) (f : Job → Job) (s : State) : (s.updJob n f).time = s.time := rfl
@[simp] theorem updJob_dev (n : Nat) (f : Job → Job) (s : State) : (s.updJob n f).dev = s.dev := rfl
@[simp] theorem updJob_tide (n : Nat) (f : Job → Job) (s : State) : (s.updJob n f).tide = s.tide := rfl
@[simp] theorem updJob_host (n : Nat) (f : Job → Job) (s : State) : (s.updJob n f).host = s.host := rfl
@[simp] theorem updJob_hostMem (n : Nat) (f : Job → Job) (s : State) : (s.updJob n f).hostMem = s.hostMem := rfl
@[simp] theorem updJob_twin (n : Nat) (f : Job → Job) (s : State) : (s.updJob n f).twin = s.twin := rfl
@[simp] theorem updJob_ports (n : Nat) (f : Job → Job) (s : State) : (s.updJob n f).ports = s.ports := rfl
@[simp] theorem updJob_fabric (n : Nat) (f : Job → Job) (s : State) : (s.updJob n f).fabric = s.fabric := rfl
@[simp] theorem updJob_tiles (n : Nat) (f : Job → Job) (s : State) : (s.updJob n f).tiles = s.tiles := rfl
@[simp] theorem updJob_clk (n : Nat) (f : Job → Job) (s : State) : (s.updJob n f).clk = s.clk := rfl
@[simp] theorem updJob_obs (n : Nat) (f : Job → Job) (s : State) : (s.updJob n f).obs = s.obs := rfl
@[simp] theorem updJob_flash (n : Nat) (f : Job → Job) (s : State) : (s.updJob n f).flash = s.flash := rfl
@[simp] theorem updJob_side (n : Nat) (f : Job → Job) (s : State) : (s.updJob n f).side = s.side := rfl
@[simp] theorem updJob_free (n : Nat) (f : Job → Job) (s : State) : (s.updJob n f).free = s.free := rfl
@[simp] theorem updJob_pending (n : Nat) (f : Job → Job) (s : State) : (s.updJob n f).pending = s.pending := rfl
@[simp] theorem updJob_port (n : Nat) (f : Job → Job) (s : State) (m : Nat) : (s.updJob n f).port m = s.port m := rfl
@[simp] theorem updJob_tile (n : Nat) (f : Job → Job) (s : State) (m : Nat) : (s.updJob n f).tile m = s.tile m := rfl
@[simp] theorem updJob_ring (n : Nat) (f : Job → Job) (s : State) (m : Nat) : (s.updJob n f).ring m = s.ring m := rfl
@[simp] theorem updJob_island (n : Nat) (f : Job → Job) (s : State) (m : Nat) : (s.updJob n f).island m = s.island m := rfl
@[simp] theorem updJob_job_same (n : Nat) (f : Job → Job) (s : State) : (s.updJob n f).job n = f (s.job n) := Tbl.get_upd_same _ _ _ _
@[simp] theorem updJob_twice (n : Nat) (f g : Job → Job) (s : State) : (s.updJob n f).updJob n g = s.updJob n (fun x => g (f x)) := by
  simp [State.updJob]
theorem updJob_congr {n : Nat} {f g : Job → Job} {s : State} (h : f (s.job n) = g (s.job n)) : s.updJob n f = s.updJob n g := by
  have h' := Tbl.upd_congr _ _ _ h
  simp [State.updJob, h']
theorem updJob_job_other {n m : Nat} (h : m ≠ n) (f : Job → Job) (s : State) : (s.updJob n f).job m = s.job m := Tbl.get_upd_other _ _ _ h

/-! ### updRing -/

@[simp] theorem updRing_time (n : Nat) (f : Ring → Ring) (s : State) : (s.updRing n f).time = s.time := rfl
@[simp] theorem updRing_dev (n : Nat) (f : Ring → Ring) (s : State) : (s.updRing n f).dev = s.dev := rfl
@[simp] theorem updRing_tide (n : Nat) (f : Ring → Ring) (s : State) : (s.updRing n f).tide = s.tide := rfl
@[simp] theorem updRing_hostMem (n : Nat) (f : Ring → Ring) (s : State) : (s.updRing n f).hostMem = s.hostMem := rfl
@[simp] theorem updRing_twin (n : Nat) (f : Ring → Ring) (s : State) : (s.updRing n f).twin = s.twin := rfl
@[simp] theorem updRing_ports (n : Nat) (f : Ring → Ring) (s : State) : (s.updRing n f).ports = s.ports := rfl
@[simp] theorem updRing_fabric (n : Nat) (f : Ring → Ring) (s : State) : (s.updRing n f).fabric = s.fabric := rfl
@[simp] theorem updRing_tiles (n : Nat) (f : Ring → Ring) (s : State) : (s.updRing n f).tiles = s.tiles := rfl
@[simp] theorem updRing_jobs (n : Nat) (f : Ring → Ring) (s : State) : (s.updRing n f).jobs = s.jobs := rfl
@[simp] theorem updRing_clk (n : Nat) (f : Ring → Ring) (s : State) : (s.updRing n f).clk = s.clk := rfl
@[simp] theorem updRing_obs (n : Nat) (f : Ring → Ring) (s : State) : (s.updRing n f).obs = s.obs := rfl
@[simp] theorem updRing_flash (n : Nat) (f : Ring → Ring) (s : State) : (s.updRing n f).flash = s.flash := rfl
@[simp] theorem updRing_side (n : Nat) (f : Ring → Ring) (s : State) : (s.updRing n f).side = s.side := rfl
@[simp] theorem updRing_free (n : Nat) (f : Ring → Ring) (s : State) : (s.updRing n f).free = s.free := rfl
@[simp] theorem updRing_pending (n : Nat) (f : Ring → Ring) (s : State) : (s.updRing n f).pending = s.pending := rfl
@[simp] theorem updRing_port (n : Nat) (f : Ring → Ring) (s : State) (m : Nat) : (s.updRing n f).port m = s.port m := rfl
@[simp] theorem updRing_tile (n : Nat) (f : Ring → Ring) (s : State) (m : Nat) : (s.updRing n f).tile m = s.tile m := rfl
@[simp] theorem updRing_job (n : Nat) (f : Ring → Ring) (s : State) (m : Nat) : (s.updRing n f).job m = s.job m := rfl
@[simp] theorem updRing_island (n : Nat) (f : Ring → Ring) (s : State) (m : Nat) : (s.updRing n f).island m = s.island m := rfl
@[simp] theorem updRing_ring_same (n : Nat) (f : Ring → Ring) (s : State) : (s.updRing n f).ring n = f (s.ring n) := Tbl.get_upd_same _ _ _ _
@[simp] theorem updRing_twice (n : Nat) (f g : Ring → Ring) (s : State) : (s.updRing n f).updRing n g = s.updRing n (fun x => g (f x)) := by
  simp [State.updRing]
theorem updRing_congr {n : Nat} {f g : Ring → Ring} {s : State} (h : f (s.ring n) = g (s.ring n)) : s.updRing n f = s.updRing n g := by
  have h' := Tbl.upd_congr _ _ _ h
  simp [State.updRing, h']
theorem updRing_ring_other {n m : Nat} (h : m ≠ n) (f : Ring → Ring) (s : State) : (s.updRing n f).ring m = s.ring m := Tbl.get_upd_other _ _ _ h

/-! ### updIsland -/

@[simp] theorem updIsland_time (n : Nat) (f : Island → Island) (s : State) : (s.updIsland n f).time = s.time := rfl
@[simp] theorem updIsland_dev (n : Nat) (f : Island → Island) (s : State) : (s.updIsland n f).dev = s.dev := rfl
@[simp] theorem updIsland_tide (n : Nat) (f : Island → Island) (s : State) : (s.updIsland n f).tide = s.tide := rfl
@[simp] theorem updIsland_host (n : Nat) (f : Island → Island) (s : State) : (s.updIsland n f).host = s.host := rfl
@[simp] theorem updIsland_hostMem (n : Nat) (f : Island → Island) (s : State) : (s.updIsland n f).hostMem = s.hostMem := rfl
@[simp] theorem updIsland_twin (n : Nat) (f : Island → Island) (s : State) : (s.updIsland n f).twin = s.twin := rfl
@[simp] theorem updIsland_ports (n : Nat) (f : Island → Island) (s : State) : (s.updIsland n f).ports = s.ports := rfl
@[simp] theorem updIsland_fabric (n : Nat) (f : Island → Island) (s : State) : (s.updIsland n f).fabric = s.fabric := rfl
@[simp] theorem updIsland_tiles (n : Nat) (f : Island → Island) (s : State) : (s.updIsland n f).tiles = s.tiles := rfl
@[simp] theorem updIsland_jobs (n : Nat) (f : Island → Island) (s : State) : (s.updIsland n f).jobs = s.jobs := rfl
@[simp] theorem updIsland_obs (n : Nat) (f : Island → Island) (s : State) : (s.updIsland n f).obs = s.obs := rfl
@[simp] theorem updIsland_flash (n : Nat) (f : Island → Island) (s : State) : (s.updIsland n f).flash = s.flash := rfl
@[simp] theorem updIsland_side (n : Nat) (f : Island → Island) (s : State) : (s.updIsland n f).side = s.side := rfl
@[simp] theorem updIsland_free (n : Nat) (f : Island → Island) (s : State) : (s.updIsland n f).free = s.free := rfl
@[simp] theorem updIsland_pending (n : Nat) (f : Island → Island) (s : State) : (s.updIsland n f).pending = s.pending := rfl
@[simp] theorem updIsland_port (n : Nat) (f : Island → Island) (s : State) (m : Nat) : (s.updIsland n f).port m = s.port m := rfl
@[simp] theorem updIsland_tile (n : Nat) (f : Island → Island) (s : State) (m : Nat) : (s.updIsland n f).tile m = s.tile m := rfl
@[simp] theorem updIsland_job (n : Nat) (f : Island → Island) (s : State) (m : Nat) : (s.updIsland n f).job m = s.job m := rfl
@[simp] theorem updIsland_ring (n : Nat) (f : Island → Island) (s : State) (m : Nat) : (s.updIsland n f).ring m = s.ring m := rfl
@[simp] theorem updIsland_island_same (n : Nat) (f : Island → Island) (s : State) : (s.updIsland n f).island n = f (s.island n) := Tbl.get_upd_same _ _ _ _
@[simp] theorem updIsland_twice (n : Nat) (f g : Island → Island) (s : State) : (s.updIsland n f).updIsland n g = s.updIsland n (fun x => g (f x)) := by
  simp [State.updIsland]
theorem updIsland_congr {n : Nat} {f g : Island → Island} {s : State} (h : f (s.island n) = g (s.island n)) : s.updIsland n f = s.updIsland n g := by
  have h' := Tbl.upd_congr _ _ _ h
  simp [State.updIsland, h']
theorem updIsland_island_other {n m : Nat} (h : m ≠ n) (f : Island → Island) (s : State) : (s.updIsland n f).island m = s.island m := Tbl.get_upd_other _ _ _ h

/-! ### tick -/

@[simp] theorem tick_time (t : Time) (s : State) : (tick t s).time = max s.time t := rfl
@[simp] theorem tick_dev (t : Time) (s : State) : (tick t s).dev = s.dev := rfl
@[simp] theorem tick_tide (t : Time) (s : State) : (tick t s).tide = s.tide.advance (max s.time t) := rfl
@[simp] theorem tick_host (t : Time) (s : State) : (tick t s).host = s.host := rfl
@[simp] theorem tick_hostMem (t : Time) (s : State) : (tick t s).hostMem = s.hostMem := rfl
@[simp] theorem tick_twin (t : Time) (s : State) : (tick t s).twin = s.twin := rfl
@[simp] theorem tick_ports (t : Time) (s : State) : (tick t s).ports = s.ports := rfl
@[simp] theorem tick_fabric (t : Time) (s : State) : (tick t s).fabric = s.fabric := rfl
@[simp] theorem tick_tiles (t : Time) (s : State) : (tick t s).tiles = s.tiles := rfl
@[simp] theorem tick_jobs (t : Time) (s : State) : (tick t s).jobs = s.jobs := rfl
@[simp] theorem tick_clk (t : Time) (s : State) : (tick t s).clk = s.clk := rfl
@[simp] theorem tick_obs (t : Time) (s : State) : (tick t s).obs = s.obs := rfl
@[simp] theorem tick_flash (t : Time) (s : State) : (tick t s).flash = s.flash := rfl
@[simp] theorem tick_side (t : Time) (s : State) : (tick t s).side = s.side.watch (alertBits s) := rfl
@[simp] theorem tick_free (t : Time) (s : State) : (tick t s).free = s.free := rfl
@[simp] theorem tick_pending (t : Time) (s : State) : (tick t s).pending = s.pending := rfl
@[simp] theorem tick_port (t : Time) (s : State) (m : Nat) : (tick t s).port m = s.port m := rfl
@[simp] theorem tick_tile (t : Time) (s : State) (m : Nat) : (tick t s).tile m = s.tile m := rfl
@[simp] theorem tick_job (t : Time) (s : State) (m : Nat) : (tick t s).job m = s.job m := rfl
@[simp] theorem tick_ring (t : Time) (s : State) (m : Nat) : (tick t s).ring m = s.ring m := rfl
@[simp] theorem tick_island (t : Time) (s : State) (m : Nat) : (tick t s).island m = s.island m := rfl

/-! ### Counters and events touch the observability block alone -/

@[simp] theorem bump_time (a n : Nat) (s : State) : (bump a n s).time = s.time := rfl
@[simp] theorem bump_dev (a n : Nat) (s : State) : (bump a n s).dev = s.dev := rfl
@[simp] theorem bump_tide (a n : Nat) (s : State) : (bump a n s).tide = s.tide := rfl
@[simp] theorem bump_host (a n : Nat) (s : State) : (bump a n s).host = s.host := rfl
@[simp] theorem bump_hostMem (a n : Nat) (s : State) : (bump a n s).hostMem = s.hostMem := rfl
@[simp] theorem bump_twin (a n : Nat) (s : State) : (bump a n s).twin = s.twin := rfl
@[simp] theorem bump_ports (a n : Nat) (s : State) : (bump a n s).ports = s.ports := rfl
@[simp] theorem bump_fabric (a n : Nat) (s : State) : (bump a n s).fabric = s.fabric := rfl
@[simp] theorem bump_tiles (a n : Nat) (s : State) : (bump a n s).tiles = s.tiles := rfl
@[simp] theorem bump_jobs (a n : Nat) (s : State) : (bump a n s).jobs = s.jobs := rfl
@[simp] theorem bump_clk (a n : Nat) (s : State) : (bump a n s).clk = s.clk := rfl
@[simp] theorem bump_flash (a n : Nat) (s : State) : (bump a n s).flash = s.flash := rfl
@[simp] theorem bump_side (a n : Nat) (s : State) : (bump a n s).side = s.side := rfl
@[simp] theorem bump_free (a n : Nat) (s : State) : (bump a n s).free = s.free := rfl
@[simp] theorem bump_pending (a n : Nat) (s : State) : (bump a n s).pending = s.pending := rfl
@[simp] theorem bump_port (a n : Nat) (s : State) (m : Nat) : (bump a n s).port m = s.port m := rfl
@[simp] theorem bump_tile (a n : Nat) (s : State) (m : Nat) : (bump a n s).tile m = s.tile m := rfl
@[simp] theorem bump_job (a n : Nat) (s : State) (m : Nat) : (bump a n s).job m = s.job m := rfl
@[simp] theorem bump_ring (a n : Nat) (s : State) (m : Nat) : (bump a n s).ring m = s.ring m := rfl
@[simp] theorem bump_island (a n : Nat) (s : State) (m : Nat) : (bump a n s).island m = s.island m := rfl
@[simp] theorem bumpMax_time (a n : Nat) (s : State) : (bumpMax a n s).time = s.time := rfl
@[simp] theorem bumpMax_dev (a n : Nat) (s : State) : (bumpMax a n s).dev = s.dev := rfl
@[simp] theorem bumpMax_tide (a n : Nat) (s : State) : (bumpMax a n s).tide = s.tide := rfl
@[simp] theorem bumpMax_host (a n : Nat) (s : State) : (bumpMax a n s).host = s.host := rfl
@[simp] theorem bumpMax_hostMem (a n : Nat) (s : State) : (bumpMax a n s).hostMem = s.hostMem := rfl
@[simp] theorem bumpMax_twin (a n : Nat) (s : State) : (bumpMax a n s).twin = s.twin := rfl
@[simp] theorem bumpMax_ports (a n : Nat) (s : State) : (bumpMax a n s).ports = s.ports := rfl
@[simp] theorem bumpMax_fabric (a n : Nat) (s : State) : (bumpMax a n s).fabric = s.fabric := rfl
@[simp] theorem bumpMax_tiles (a n : Nat) (s : State) : (bumpMax a n s).tiles = s.tiles := rfl
@[simp] theorem bumpMax_jobs (a n : Nat) (s : State) : (bumpMax a n s).jobs = s.jobs := rfl
@[simp] theorem bumpMax_clk (a n : Nat) (s : State) : (bumpMax a n s).clk = s.clk := rfl
@[simp] theorem bumpMax_flash (a n : Nat) (s : State) : (bumpMax a n s).flash = s.flash := rfl
@[simp] theorem bumpMax_side (a n : Nat) (s : State) : (bumpMax a n s).side = s.side := rfl
@[simp] theorem bumpMax_free (a n : Nat) (s : State) : (bumpMax a n s).free = s.free := rfl
@[simp] theorem bumpMax_pending (a n : Nat) (s : State) : (bumpMax a n s).pending = s.pending := rfl
@[simp] theorem bumpMax_port (a n : Nat) (s : State) (m : Nat) : (bumpMax a n s).port m = s.port m := rfl
@[simp] theorem bumpMax_tile (a n : Nat) (s : State) (m : Nat) : (bumpMax a n s).tile m = s.tile m := rfl
@[simp] theorem bumpMax_job (a n : Nat) (s : State) (m : Nat) : (bumpMax a n s).job m = s.job m := rfl
@[simp] theorem bumpMax_ring (a n : Nat) (s : State) (m : Nat) : (bumpMax a n s).ring m = s.ring m := rfl
@[simp] theorem bumpMax_island (a n : Nat) (s : State) (m : Nat) : (bumpMax a n s).island m = s.island m := rfl
@[simp] theorem logEv_time (c u v a : Nat) (s : State) : (logEv c u v a s).time = s.time := rfl
@[simp] theorem logEv_dev (c u v a : Nat) (s : State) : (logEv c u v a s).dev = s.dev := rfl
@[simp] theorem logEv_tide (c u v a : Nat) (s : State) : (logEv c u v a s).tide = s.tide := rfl
@[simp] theorem logEv_host (c u v a : Nat) (s : State) : (logEv c u v a s).host = s.host := rfl
@[simp] theorem logEv_hostMem (c u v a : Nat) (s : State) : (logEv c u v a s).hostMem = s.hostMem := rfl
@[simp] theorem logEv_twin (c u v a : Nat) (s : State) : (logEv c u v a s).twin = s.twin := rfl
@[simp] theorem logEv_ports (c u v a : Nat) (s : State) : (logEv c u v a s).ports = s.ports := rfl
@[simp] theorem logEv_fabric (c u v a : Nat) (s : State) : (logEv c u v a s).fabric = s.fabric := rfl
@[simp] theorem logEv_tiles (c u v a : Nat) (s : State) : (logEv c u v a s).tiles = s.tiles := rfl
@[simp] theorem logEv_jobs (c u v a : Nat) (s : State) : (logEv c u v a s).jobs = s.jobs := rfl
@[simp] theorem logEv_clk (c u v a : Nat) (s : State) : (logEv c u v a s).clk = s.clk := rfl
@[simp] theorem logEv_flash (c u v a : Nat) (s : State) : (logEv c u v a s).flash = s.flash := rfl
@[simp] theorem logEv_side (c u v a : Nat) (s : State) : (logEv c u v a s).side = s.side := rfl
@[simp] theorem logEv_free (c u v a : Nat) (s : State) : (logEv c u v a s).free = s.free := rfl
@[simp] theorem logEv_pending (c u v a : Nat) (s : State) : (logEv c u v a s).pending = s.pending := rfl
@[simp] theorem logEv_port (c u v a : Nat) (s : State) (m : Nat) : (logEv c u v a s).port m = s.port m := rfl
@[simp] theorem logEv_tile (c u v a : Nat) (s : State) (m : Nat) : (logEv c u v a s).tile m = s.tile m := rfl
@[simp] theorem logEv_job (c u v a : Nat) (s : State) (m : Nat) : (logEv c u v a s).job m = s.job m := rfl
@[simp] theorem logEv_ring (c u v a : Nat) (s : State) (m : Nat) : (logEv c u v a s).ring m = s.ring m := rfl
@[simp] theorem logEv_island (c u v a : Nat) (s : State) (m : Nat) : (logEv c u v a s).island m = s.island m := rfl
@[simp] theorem logCode_time (c u : Nat) (s : State) : (logCode c u s).time = s.time := rfl
@[simp] theorem logCode_dev (c u : Nat) (s : State) : (logCode c u s).dev = s.dev := rfl
@[simp] theorem logCode_tide (c u : Nat) (s : State) : (logCode c u s).tide = s.tide := rfl
@[simp] theorem logCode_host (c u : Nat) (s : State) : (logCode c u s).host = s.host := rfl
@[simp] theorem logCode_hostMem (c u : Nat) (s : State) : (logCode c u s).hostMem = s.hostMem := rfl
@[simp] theorem logCode_twin (c u : Nat) (s : State) : (logCode c u s).twin = s.twin := rfl
@[simp] theorem logCode_ports (c u : Nat) (s : State) : (logCode c u s).ports = s.ports := rfl
@[simp] theorem logCode_fabric (c u : Nat) (s : State) : (logCode c u s).fabric = s.fabric := rfl
@[simp] theorem logCode_tiles (c u : Nat) (s : State) : (logCode c u s).tiles = s.tiles := rfl
@[simp] theorem logCode_jobs (c u : Nat) (s : State) : (logCode c u s).jobs = s.jobs := rfl
@[simp] theorem logCode_clk (c u : Nat) (s : State) : (logCode c u s).clk = s.clk := rfl
@[simp] theorem logCode_flash (c u : Nat) (s : State) : (logCode c u s).flash = s.flash := rfl
@[simp] theorem logCode_side (c u : Nat) (s : State) : (logCode c u s).side = s.side := rfl
@[simp] theorem logCode_free (c u : Nat) (s : State) : (logCode c u s).free = s.free := rfl
@[simp] theorem logCode_pending (c u : Nat) (s : State) : (logCode c u s).pending = s.pending := rfl
@[simp] theorem logCode_port (c u : Nat) (s : State) (m : Nat) : (logCode c u s).port m = s.port m := rfl
@[simp] theorem logCode_tile (c u : Nat) (s : State) (m : Nat) : (logCode c u s).tile m = s.tile m := rfl
@[simp] theorem logCode_job (c u : Nat) (s : State) (m : Nat) : (logCode c u s).job m = s.job m := rfl
@[simp] theorem logCode_ring (c u : Nat) (s : State) (m : Nat) : (logCode c u s).ring m = s.ring m := rfl
@[simp] theorem logCode_island (c u : Nat) (s : State) (m : Nat) : (logCode c u s).island m = s.island m := rfl

/-! ### Host memory -/

@[simp] theorem hostWrite_time (a : Nat) (bs : List Byte) (s : State) : (hostWrite a bs s).time = s.time := rfl
@[simp] theorem hostWrite_dev (a : Nat) (bs : List Byte) (s : State) : (hostWrite a bs s).dev = s.dev := rfl
@[simp] theorem hostWrite_tide (a : Nat) (bs : List Byte) (s : State) : (hostWrite a bs s).tide = s.tide := rfl
@[simp] theorem hostWrite_host (a : Nat) (bs : List Byte) (s : State) : (hostWrite a bs s).host = s.host := rfl
@[simp] theorem hostWrite_twin (a : Nat) (bs : List Byte) (s : State) : (hostWrite a bs s).twin = s.twin := rfl
@[simp] theorem hostWrite_ports (a : Nat) (bs : List Byte) (s : State) : (hostWrite a bs s).ports = s.ports := rfl
@[simp] theorem hostWrite_fabric (a : Nat) (bs : List Byte) (s : State) : (hostWrite a bs s).fabric = s.fabric := rfl
@[simp] theorem hostWrite_tiles (a : Nat) (bs : List Byte) (s : State) : (hostWrite a bs s).tiles = s.tiles := rfl
@[simp] theorem hostWrite_jobs (a : Nat) (bs : List Byte) (s : State) : (hostWrite a bs s).jobs = s.jobs := rfl
@[simp] theorem hostWrite_clk (a : Nat) (bs : List Byte) (s : State) : (hostWrite a bs s).clk = s.clk := rfl
@[simp] theorem hostWrite_flash (a : Nat) (bs : List Byte) (s : State) : (hostWrite a bs s).flash = s.flash := rfl
@[simp] theorem hostWrite_side (a : Nat) (bs : List Byte) (s : State) : (hostWrite a bs s).side = s.side := rfl
@[simp] theorem hostWrite_free (a : Nat) (bs : List Byte) (s : State) : (hostWrite a bs s).free = s.free := rfl
@[simp] theorem hostWrite_pending (a : Nat) (bs : List Byte) (s : State) : (hostWrite a bs s).pending = s.pending := rfl
@[simp] theorem hostWrite_hostMem (a : Nat) (bs : List Byte) (s : State) : (hostWrite a bs s).hostMem = s.hostMem.writeN a bs := rfl
@[simp] theorem hostWrite_port (a : Nat) (bs : List Byte) (s : State) (m : Nat) : (hostWrite a bs s).port m = s.port m := rfl
@[simp] theorem hostWrite_tile (a : Nat) (bs : List Byte) (s : State) (m : Nat) : (hostWrite a bs s).tile m = s.tile m := rfl
@[simp] theorem hostWrite_job (a : Nat) (bs : List Byte) (s : State) (m : Nat) : (hostWrite a bs s).job m = s.job m := rfl
@[simp] theorem hostWrite_ring (a : Nat) (bs : List Byte) (s : State) (m : Nat) : (hostWrite a bs s).ring m = s.ring m := rfl
@[simp] theorem hostWrite_island (a : Nat) (bs : List Byte) (s : State) (m : Nat) : (hostWrite a bs s).island m = s.island m := rfl
@[simp] theorem hostRead_time (n : Nat) (s : State) : (hostRead n s).time = s.time := rfl
@[simp] theorem hostRead_dev (n : Nat) (s : State) : (hostRead n s).dev = s.dev := rfl
@[simp] theorem hostRead_tide (n : Nat) (s : State) : (hostRead n s).tide = s.tide := rfl
@[simp] theorem hostRead_host (n : Nat) (s : State) : (hostRead n s).host = s.host := rfl
@[simp] theorem hostRead_hostMem (n : Nat) (s : State) : (hostRead n s).hostMem = s.hostMem := rfl
@[simp] theorem hostRead_twin (n : Nat) (s : State) : (hostRead n s).twin = s.twin := rfl
@[simp] theorem hostRead_ports (n : Nat) (s : State) : (hostRead n s).ports = s.ports := rfl
@[simp] theorem hostRead_fabric (n : Nat) (s : State) : (hostRead n s).fabric = s.fabric := rfl
@[simp] theorem hostRead_tiles (n : Nat) (s : State) : (hostRead n s).tiles = s.tiles := rfl
@[simp] theorem hostRead_jobs (n : Nat) (s : State) : (hostRead n s).jobs = s.jobs := rfl
@[simp] theorem hostRead_clk (n : Nat) (s : State) : (hostRead n s).clk = s.clk := rfl
@[simp] theorem hostRead_flash (n : Nat) (s : State) : (hostRead n s).flash = s.flash := rfl
@[simp] theorem hostRead_side (n : Nat) (s : State) : (hostRead n s).side = s.side := rfl
@[simp] theorem hostRead_free (n : Nat) (s : State) : (hostRead n s).free = s.free := rfl
@[simp] theorem hostRead_pending (n : Nat) (s : State) : (hostRead n s).pending = s.pending := rfl
@[simp] theorem hostRead_port (n : Nat) (s : State) (m : Nat) : (hostRead n s).port m = s.port m := rfl
@[simp] theorem hostRead_tile (n : Nat) (s : State) (m : Nat) : (hostRead n s).tile m = s.tile m := rfl
@[simp] theorem hostRead_job (n : Nat) (s : State) (m : Nat) : (hostRead n s).job m = s.job m := rfl
@[simp] theorem hostRead_ring (n : Nat) (s : State) (m : Nat) : (hostRead n s).ring m = s.ring m := rfl
@[simp] theorem hostRead_island (n : Nat) (s : State) (m : Nat) : (hostRead n s).island m = s.island m := rfl

end Sys2Proof.Machine
end

