-- ==== Sys2Proof/Laws/Frame.lean ====
section
/-! SUPPORT. Frames of the shared operations: what each of them can change, said once. -/

namespace Sys2Proof.Safety

open Sys2Proof.Machine

theorem OnlyChanges.refl (l : List Region) (s : State) : OnlyChanges l s s :=
  ⟨rfl, rfl, fun a _ => by cases a <;> rfl⟩

theorem OnlyChanges.trans {l : List Region} {s s' s'' : State} (h : OnlyChanges l s s') (h' : OnlyChanges l s' s'') :
    OnlyChanges l s s'' := by
  refine ⟨h'.1.trans h.1, h'.2.1.trans h.2.1, fun a ha => ?_⟩
  have h1 := h.2.2 a ha
  have h2 := h'.2.2 a ha
  cases a <;> exact Eq.trans h2 h1

theorem OnlyChanges.mono {l l' : List Region} {s s' : State} (h : OnlyChanges l s s') (hl : ∀ a ∈ l, a ∈ l') : OnlyChanges l' s s' :=
  ⟨h.1, h.2.1, fun a ha => h.2.2 a (fun hm => ha (hl a hm))⟩

/-- A list of updates keeps a frame that each of them keeps. -/
theorem OnlyChanges.foldl {α : Type} {l : List Region} (f : State → α → State) (hf : ∀ s a, OnlyChanges l s (f s a)) (xs : List α) (s : State) :
    OnlyChanges l s (xs.foldl f s) := by
  induction xs generalizing s with
  | nil => exact .refl l s
  | cons a xs ih => exact (hf s a).trans (ih _)

/-! ### Single updates -/

theorem updDev_only (f : Dev → Dev) (s : State) : OnlyChanges [.dev] s (s.updDev f) := ⟨rfl, rfl, fun a ha => by cases a <;> first | rfl | simp at ha⟩
theorem updTide_only (f : Tide → Tide) (s : State) : OnlyChanges [.tide] s (s.updTide f) := ⟨rfl, rfl, fun a ha => by cases a <;> first | rfl | simp at ha⟩
theorem updHost_only (f : HostIf → HostIf) (s : State) : OnlyChanges [.host] s (s.updHost f) := ⟨rfl, rfl, fun a ha => by cases a <;> first | rfl | simp at ha⟩
theorem updRing_only (r : Nat) (f : Ring → Ring) (s : State) : OnlyChanges [.host] s (s.updRing r f) := ⟨rfl, rfl, fun a ha => by cases a <;> first | rfl | simp at ha⟩
theorem updTwin_only (f : Twin → Twin) (s : State) : OnlyChanges [.twin] s (s.updTwin f) := ⟨rfl, rfl, fun a ha => by cases a <;> first | rfl | simp at ha⟩
theorem updPort_only (n : Nat) (f : PortS → PortS) (s : State) : OnlyChanges [.ports] s (s.updPort n f) := ⟨rfl, rfl, fun a ha => by cases a <;> first | rfl | simp at ha⟩
theorem updFabric_only (f : Fabric → Fabric) (s : State) : OnlyChanges [.fabric] s (s.updFabric f) := ⟨rfl, rfl, fun a ha => by cases a <;> first | rfl | simp at ha⟩
theorem updTile_only (n : Nat) (f : TileS → TileS) (s : State) : OnlyChanges [.tiles] s (s.updTile n f) := ⟨rfl, rfl, fun a ha => by cases a <;> first | rfl | simp at ha⟩
theorem updJob_only (n : Nat) (f : Job → Job) (s : State) : OnlyChanges [.jobs] s (s.updJob n f) := ⟨rfl, rfl, fun a ha => by cases a <;> first | rfl | simp at ha⟩
theorem updClk_only (f : Clk → Clk) (s : State) : OnlyChanges [.clk] s (s.updClk f) := ⟨rfl, rfl, fun a ha => by cases a <;> first | rfl | simp at ha⟩
theorem updIsland_only (p : Nat) (f : Island → Island) (s : State) : OnlyChanges [.clk] s (s.updIsland p f) := ⟨rfl, rfl, fun a ha => by cases a <;> first | rfl | simp at ha⟩
theorem updObs_only (f : Obs → Obs) (s : State) : OnlyChanges [.obs] s (s.updObs f) := ⟨rfl, rfl, fun a ha => by cases a <;> first | rfl | simp at ha⟩
theorem updFlash_only (f : Flash → Flash) (s : State) : OnlyChanges [.flash] s (s.updFlash f) := ⟨rfl, rfl, fun a ha => by cases a <;> first | rfl | simp at ha⟩
theorem updSide_only (f : Side → Side) (s : State) : OnlyChanges [.side] s (s.updSide f) := ⟨rfl, rfl, fun a ha => by cases a <;> first | rfl | simp at ha⟩
theorem bump_only (a n : Nat) (s : State) : OnlyChanges [.obs] s (bump a n s) := ⟨rfl, rfl, fun a ha => by cases a <;> first | rfl | simp at ha⟩
theorem bumpMax_only (a n : Nat) (s : State) : OnlyChanges [.obs] s (bumpMax a n s) := ⟨rfl, rfl, fun a ha => by cases a <;> first | rfl | simp at ha⟩
theorem logEv_only (c u v x : Nat) (s : State) : OnlyChanges [.obs] s (logEv c u v x s) := ⟨rfl, rfl, fun a ha => by cases a <;> first | rfl | simp at ha⟩
theorem logCode_only (c u : Nat) (s : State) : OnlyChanges [.obs] s (logCode c u s) := logEv_only c u 0 0 s
theorem hostWrite_only (a : Nat) (bs : List Byte) (s : State) : OnlyChanges [.hostMem, .obs] s (hostWrite a bs s) :=
  ⟨rfl, rfl, fun a ha => by cases a <;> first | rfl | simp at ha⟩
theorem hostRead_only (n : Nat) (s : State) : OnlyChanges [.obs] s (hostRead n s) := ⟨rfl, rfl, fun a ha => by cases a <;> first | rfl | simp at ha⟩

/-! ### Rings and completions: the host block, host memory and the counters -/

/-- What the rings' operations may change. -/
def ringAreas : List Region := [.host, .hostMem, .obs]

theorem ringAreas_host {s s' : State} (h : OnlyChanges [.host] s s') : OnlyChanges ringAreas s s' := h.mono (by simp [ringAreas])
theorem ringAreas_obs {s s' : State} (h : OnlyChanges [.obs] s s') : OnlyChanges ringAreas s s' := h.mono (by simp [ringAreas])
theorem ringAreas_write (a : Nat) (bs : List Byte) (s : State) : OnlyChanges ringAreas s (hostWrite a bs s) :=
  (hostWrite_only a bs s).mono (by simp [ringAreas])

theorem sendMsix_only (v : BitVec 6) (s : State) : OnlyChanges ringAreas s (sendMsix v s) := by
  unfold sendMsix
  split
  · exact ringAreas_host (updHost_only _ _)
  · exact (ringAreas_host (updHost_only _ _)).trans (ringAreas_obs (bump_only _ _ _))

theorem ringFault_only (r c : Nat) (s : State) : OnlyChanges ringAreas s (ringFault r c s) :=
  (ringAreas_host (updRing_only _ _ _)).trans (ringAreas_host (updHost_only _ _))

theorem afterCompletion_only (r : Nat) (irq : Bool) (s : State) : OnlyChanges ringAreas s (afterCompletion r irq s) := by
  unfold afterCompletion
  dsimp only
  split <;> split
  all_goals first
    | exact (ringAreas_host (updRing_only _ _ _)).trans (sendMsix_only _ _)
    | exact ringAreas_host (updRing_only _ _ _)

theorem putCompletion_only (r : Nat) (c : Compl) (s : State) : OnlyChanges ringAreas s (putCompletion r c s) := by
  unfold putCompletion
  split
  · exact ringFault_only _ _ _
  · exact ((((ringAreas_write _ _ _).trans (ringAreas_write _ _ _)).trans (ringAreas_host (updRing_only _ _ _))).trans
      (ringAreas_write _ _ _)).trans (afterCompletion_only _ _ _)

theorem flushN_only (n r : Nat) (s : State) : OnlyChanges ringAreas s (flushN n r s) := by
  induction n generalizing s with
  | zero => exact .refl _ _
  | succ n ih =>
    unfold flushN
    dsimp only
    split
    · exact .refl _ _
    · split
      · exact .refl _ _
      · split
        · exact .refl _ _
        · exact ((ringAreas_host (updRing_only _ _ _)).trans (putCompletion_only _ _ _)).trans (ih _)

theorem drainRing_only (r : Nat) (s : State) : OnlyChanges ringAreas s (drainRing r s) := by
  unfold drainRing
  dsimp only
  split
  · exact ringAreas_host (updRing_only _ _ _)
  · exact .refl _ _

theorem flushRing_only (r : Nat) (s : State) : OnlyChanges ringAreas s (flushRing r s) := by
  unfold flushRing
  dsimp only
  refine OnlyChanges.trans ?_ (drainRing_only _ _)
  split
  · exact (flushN_only _ _ _).trans (ringAreas_host (updRing_only _ _ _))
  · split
    · exact (flushN_only _ _ _).trans (ringAreas_host (updRing_only _ _ _))
    · exact flushN_only _ _ _

theorem postCompletion_only (x : Exec) (st code : Nat) (res : List Byte) (ok : Bool) (s : State) :
    OnlyChanges ringAreas s (postCompletion x st code res ok s) := by
  unfold postCompletion
  split
  · exact .refl _ _
  · exact (ringAreas_host (updRing_only _ _ _)).trans (flushRing_only _ _)

/-- Completing a command changes the host block, host memory and counters alone. -/
theorem finish_only (x : Exec) (st code : Nat) (res : List Byte) (ok : Bool) (s : State) : OnlyChanges ringAreas s (finish x st code res ok s) :=
  (((ringAreas_host (updHost_only _ _)).trans (ringAreas_obs (bump_only _ _ _))).trans (postCompletion_only _ _ _ _ _ _)).trans
    (drainRing_only _ _)

/-- Writing a command's data buffer changes host memory and counters alone. -/
theorem writeBuffer_only (es : List (Nat × Nat)) (bs : List Byte) (s : State) : OnlyChanges ringAreas s (writeBuffer es bs s) := by
  induction es generalizing bs s with
  | nil => exact .refl _ _
  | cons e es ih => exact (ringAreas_write _ _ _).trans (ih _ _)

end Sys2Proof.Safety
end

