-- ==== Sys2Proof/Laws/Ops.lean ====
section
/-! SUPPORT. The shared operations that stand around a command's own effect: a register write over BAR0, a host command. -/

namespace Sys2Proof.Safety

open Sys2Proof.Machine

/-- A register write of a device that serves BAR0 is its effect at the command's time. -/
theorem bar0_serving {t : Time} {f : State → State} {s : State} (h : Serving s) : bar0 t f s = f (tick t s) := by
  obtain ⟨h1, h2⟩ := h
  simp [bar0, h1, h2]

/-- A host command that may run is its body on the command in execution, its data counted as read. -/
theorem hostCmd_given {op : Nat} {t : Time} {h : HostCmd} {x : Exec} {body : Exec → State → State} {s : State} (hg : Given op h x s) :
    hostCmd op t h body s = body x (hostRead h.data.length (tick t s)) := by
  obtain ⟨⟨⟨h1, h2⟩, h3⟩, hx, hr, hst, hok⟩ := hg
  have hx' : cmdOf h op (tick t s) = some x := hx
  have hr' : mayRun x (tick t s) = true := hr
  simp [hostCmd, hx', hr', h1, h2, h3, hst, hok]

/-- A check of an enable bit runs at once outside BOOT and RESTART. -/
theorem startCheck_now {c : WaitCheck} {run : State → State} {s : State} (h1 : s.dev.st ≠ .boot) (h2 : s.dev.st ≠ .restart) :
    startCheck c run s = run s := by
  simp [startCheck, h1, h2]

/-! ### Messages and completions -/

/-- A message leaves the rings and the commands in execution alone. -/
@[simp] theorem sendMsix_ring (v : BitVec 6) (s : State) (q : Nat) : (sendMsix v s).ring q = s.ring q := by
  unfold sendMsix
  split <;> rfl
@[simp] theorem sendMsix_exec (v : BitVec 6) (s : State) : (sendMsix v s).host.exec = s.host.exec := by
  unfold sendMsix
  split <;> rfl
@[simp] theorem sendMsix_outs (v : BitVec 6) (s : State) : (sendMsix v s).host.outs = s.host.outs := by
  unfold sendMsix
  split <;> rfl
@[simp] theorem sendMsix_dbbase (v : BitVec 6) (s : State) : (sendMsix v s).host.dbbase = s.host.dbbase := by
  unfold sendMsix
  split <;> rfl
@[simp] theorem sendMsix_hostMem (v : BitVec 6) (s : State) : (sendMsix v s).hostMem = s.hostMem := by
  unfold sendMsix
  split <;> rfl

@[simp] theorem updRing_exec (r : Nat) (f : Ring → Ring) (s : State) : (s.updRing r f).host.exec = s.host.exec := rfl
@[simp] theorem updRing_outs (r : Nat) (f : Ring → Ring) (s : State) : (s.updRing r f).host.outs = s.host.outs := rfl
@[simp] theorem updRing_dbbase (r : Nat) (f : Ring → Ring) (s : State) : (s.updRing r f).host.dbbase = s.host.dbbase := rfl

/-- What the message rules of R390 leave of a ring after a completion. -/
def afterRing (irq : Bool) (x : Ring) : Ring :=
  let n := x.coalN + 1
  let due := x.coal ≠ 0 && n ≥ x.coal.toNat
  { x with coalN := if due then 0 else n, unsent := !(irq || due) }

@[simp] theorem afterCompletion_ring_same (r : Nat) (irq : Bool) (s : State) : (afterCompletion r irq s).ring r = afterRing irq (s.ring r) := by
  unfold afterCompletion
  dsimp only
  split <;> simp [afterRing]

theorem afterCompletion_ring_other {r q : Nat} (h : q ≠ r) (irq : Bool) (s : State) : (afterCompletion r irq s).ring q = s.ring q := by
  unfold afterCompletion
  dsimp only
  split <;> simp [updRing_ring_other h]

@[simp] theorem afterCompletion_exec (r : Nat) (irq : Bool) (s : State) : (afterCompletion r irq s).host.exec = s.host.exec := by
  unfold afterCompletion
  dsimp only
  split <;> simp

@[simp] theorem afterCompletion_outs (r : Nat) (irq : Bool) (s : State) : (afterCompletion r irq s).host.outs = s.host.outs := by
  unfold afterCompletion
  dsimp only
  split <;> simp

@[simp] theorem afterCompletion_hostMem (r : Nat) (irq : Bool) (s : State) : (afterCompletion r irq s).hostMem = s.hostMem := by
  unfold afterCompletion
  dsimp only
  split <;> simp

/-- Host memory after a completion of ring x, number r, with the doorbell page at db (R378, R388). -/
def completionMem (m : Mem) (x : Ring) (db r bits : Nat) : Mem :=
  let a := x.cbase.toNat + 32 * (x.cpi.toNat % x.slots)
  ((m.writeN a (leBytes 28 bits)).writeN (a + 28) (leBytes 4 ((x.cpi.toNat + 1) % 2 ^ 32))).writeN (db + 0x800 + 64 * r + 4)
    (leBytes 4 (x.cpi + 1).toNat)

/-- A completion that the host takes: its bytes, SEQ and CPI in host memory, CPI one up, the rest as the message rules leave it. -/
theorem putCompletion_ok {r : Nat} {c : Compl} {s : State} (hok : c.ok = true) :
    (putCompletion r c s).hostMem = completionMem s.hostMem (s.ring r) s.host.dbbase.toNat r c.bits.toNat ∧
    (putCompletion r c s).ring r = afterRing c.irq { s.ring r with cpi := (s.ring r).cpi + 1 } ∧
    (∀ q, q ≠ r → (putCompletion r c s).ring q = s.ring q) ∧
    (putCompletion r c s).host.exec = s.host.exec ∧ (putCompletion r c s).host.outs = s.host.outs := by
  unfold putCompletion
  simp only [hok, Bool.not_true, Bool.false_eq_true, if_false]
  refine ⟨?_, ?_, ?_, ?_, ?_⟩
  · simp [writeBack, completionMem]
  · simp [writeBack]
  · intro q hq
    simp [afterCompletion_ring_other hq, writeBack, updRing_ring_other hq]
  · simp [writeBack]
  · simp [writeBack]

/-- A running ring with room and nothing waiting is left as it is. -/
theorem flushRing_idle {r : Nat} {s : State} (hw : (s.ring r).waiting = []) (h : (s.ring r).st = .running) (hf : (s.ring r).full = false) :
    flushRing r s = s := by
  have : flushN ((s.ring r).waiting.length + 1) r s = s := by simp [flushN, hw]
  simp [flushRing, this, h, hf, drainRing]

/-- A ring that has no room left is STALLED (R378). -/
def stallFull (r : Nat) (s : State) : State := if (s.ring r).full then s.updRing r (fun x => { x with st := .stalled }) else s

/-- A running ring with one completion waiting and room writes it, and is STALLED where that took the last slot. -/
theorem flushRing_one {r : Nat} {c : Compl} {s : State} (hw : (s.ring r).waiting = [c]) (h : (s.ring r).st = .running)
    (hf : (s.ring r).full = false) (hok : c.ok = true) :
    flushRing r s = stallFull r (putCompletion r c (s.updRing r (fun x => { x with waiting := [] }))) := by
  obtain ⟨_, hr, _⟩ := putCompletion_ok (r := r) (s := s.updRing r (fun x => { x with waiting := [] })) hok
  have hrun : ((putCompletion r c (s.updRing r (fun x => { x with waiting := [] }))).ring r).st = .running := by
    rw [hr]; simp [afterRing, h]
  have hwt : ((putCompletion r c (s.updRing r (fun x => { x with waiting := [] }))).ring r).waiting = [] := by
    rw [hr]; simp [afterRing]
  have : flushN ((s.ring r).waiting.length + 1) r s = putCompletion r c (s.updRing r (fun x => { x with waiting := [] })) := by
    simp [flushN, hw, h, hf, hwt]
  simp only [flushRing, this, hrun, stallFull]
  split <;> simp_all [drainRing]

end Sys2Proof.Safety
end

