-- ==== Sys2Proof/Machine/Package.lean ====
section
/-! DEFINITION. Where the device's signals meet its balls (19 R479 to R483). -/

namespace Sys2Proof.Machine

/-- A ball by row and column, each from 1 to 125, counted from the corner of the lid's chamfer (R479). -/
structure Ball where
  row : Nat
  col : Nat
  deriving DecidableEq, Repr

/-- Dies 2 and 3 lie toward row 125, dies 1 and 2 toward column 125 (R479). -/
def dieLow (d : Nat) : Bool := d = 2 || d = 3
def dieRight (d : Nat) : Bool := d = 1 || d = 2

/-- The ball of port n's block at row offset o and column offset c (R481). -/
def portBall (n o c : Nat) : Ball :=
  let d := n / 32
  let i := n % 32 / 4
  let j := n % 4
  ⟨if dieLow d then 125 - 6 * i - o else 1 + 6 * i + o, if dieRight d then 125 - 12 * j - c else 1 + 12 * j + c⟩

/-- The ball of a twin-link half's block (R482). -/
def twinBall (h o c : Nat) : Ball := ⟨if h = 0 then 52 + o else 74 - o, 125 - c⟩

/-- The ball of the PCIe block (R482). -/
def pcieBall (o c : Nat) : Ball := ⟨52 + o, 1 + c⟩

/-- Offsets in its block of a lane's P ball; N lies one column offset higher (Table PK-4). -/
def laneAt (tx : Bool) (l : Nat) : Nat × Nat :=
  let rc : Nat × Nat := match l with
    | 0 => (0, 0) | 1 => (0, 4) | 2 => (0, 8) | 3 => (1, 2) | 4 => (1, 10) | 5 => (2, 0) | 6 => (2, 4) | _ => (2, 8)
  (rc.1 + (if tx then 3 else 0), rc.2)

/-- The same of the clock lane; on the PCIe block the receive place carries PCIE_REFCLK and the transmit place is GND (R482). -/
def clockAt (tx : Bool) : Nat × Nat := (if tx then 4 else 1, 6)

/-- P and N of a pair at its offsets in a block. -/
def pairAt (block : Nat → Nat → Ball) (at_ : Nat × Nat) : Ball × Ball := (block at_.1 at_.2, block at_.1 (at_.2 + 1))

/-- Lanes of a port, of a twin-link lane 0 to 15, and of PCIe. -/
def portLane (n : Nat) (tx : Bool) (l : Nat) : Ball × Ball := pairAt (portBall n) (laneAt tx l)
def twinLane (tx : Bool) (l : Nat) : Ball × Ball := pairAt (twinBall (l / 8)) (laneAt tx (l % 8))
def pcieLane (tx : Bool) (l : Nat) : Ball × Ball := pairAt pcieBall (laneAt tx l)
def pcieRefclk : Ball × Ball := pairAt pcieBall (clockAt false)

/-- The central cross (R480). -/
def inCross (b : Ball) : Bool := (49 ≤ b.row && b.row ≤ 77) || (49 ≤ b.col && b.col ≤ 77)

/-- Balls of each group (Table PK-2). -/
def ballGroups : List (String × Nat) :=
  [("Fabric port lanes and clock lanes", 4608), ("Twin-link lanes and clock lanes", 72), ("PCIe lanes and PCIe REFCLK", 34),
   ("Other signals", 49), ("RSVD", 62), ("VDD_CORE", 2800), ("VDD_SRAM", 600), ("VDD_SER_A", 900), ("VDD_SER_H", 300),
   ("VDD_HBM", 400), ("VDDQ_HBM", 480), ("VPP_HBM", 80), ("VDD_IO", 40), ("GND", 5200)]

/-- Direction of a signal ball. -/
inductive PinDir where
  | input
  | output
  | both
  deriving DecidableEq, Repr

/-- A signal ball with its direction and whether it is open drain (Table PK-3). -/
structure Pin where
  name : String
  ball : Ball
  dir : PinDir
  od : Bool
  deriving DecidableEq, Repr

/-- Reference clocks and sense pairs of Table PK-3. -/
def analogPins : List Pin :=
  [⟨"REFCLK0_P", ⟨50, 50⟩, .input, false⟩, ⟨"REFCLK0_N", ⟨50, 51⟩, .input, false⟩, ⟨"REFCLK1_P", ⟨50, 76⟩, .input, false⟩,
   ⟨"REFCLK1_N", ⟨50, 75⟩, .input, false⟩, ⟨"REFCLK2_P", ⟨76, 76⟩, .input, false⟩, ⟨"REFCLK2_N", ⟨76, 75⟩, .input, false⟩,
   ⟨"REFCLK3_P", ⟨76, 50⟩, .input, false⟩, ⟨"REFCLK3_N", ⟨76, 51⟩, .input, false⟩,
   ⟨"CORE_SENSE0_P", ⟨51, 50⟩, .output, false⟩, ⟨"CORE_SENSE0_N", ⟨51, 51⟩, .output, false⟩, ⟨"CORE_SENSE1_P", ⟨51, 76⟩, .output, false⟩,
   ⟨"CORE_SENSE1_N", ⟨51, 75⟩, .output, false⟩, ⟨"CORE_SENSE2_P", ⟨75, 76⟩, .output, false⟩, ⟨"CORE_SENSE2_N", ⟨75, 75⟩, .output, false⟩,
   ⟨"CORE_SENSE3_P", ⟨75, 50⟩, .output, false⟩, ⟨"CORE_SENSE3_N", ⟨75, 51⟩, .output, false⟩,
   ⟨"SRAM_SENSE_P", ⟨63, 63⟩, .output, false⟩, ⟨"SRAM_SENSE_N", ⟨63, 64⟩, .output, false⟩]

/-- The 1.8 V balls of Table PK-3. -/
def ioPins : List Pin :=
  [⟨"PERST_N", ⟨58, 1⟩, .input, false⟩, ⟨"SMB_SCL", ⟨60, 1⟩, .both, true⟩, ⟨"SMB_SDA", ⟨60, 2⟩, .both, true⟩,
   ⟨"SMB_ALERT_N", ⟨60, 3⟩, .output, true⟩, ⟨"I2C_SCL", ⟨61, 1⟩, .output, true⟩, ⟨"I2C_SDA", ⟨61, 2⟩, .both, true⟩,
   ⟨"QSPI_CLK", ⟨62, 1⟩, .output, false⟩, ⟨"QSPI_CS_N", ⟨62, 2⟩, .output, false⟩, ⟨"QSPI_RST_N", ⟨62, 3⟩, .output, false⟩,
   ⟨"QSPI_IO3", ⟨63, 4⟩, .both, false⟩, ⟨"QSPI_IO2", ⟨63, 3⟩, .both, false⟩, ⟨"QSPI_IO1", ⟨63, 2⟩, .both, false⟩,
   ⟨"QSPI_IO0", ⟨63, 1⟩, .both, false⟩, ⟨"TCK", ⟨64, 1⟩, .input, false⟩, ⟨"TMS", ⟨64, 2⟩, .input, false⟩,
   ⟨"TDI", ⟨64, 3⟩, .input, false⟩, ⟨"TDO", ⟨64, 4⟩, .output, false⟩, ⟨"TRST_N", ⟨64, 5⟩, .input, false⟩,
   ⟨"POR_N", ⟨65, 1⟩, .input, false⟩, ⟨"WARM_RST_N", ⟨65, 2⟩, .input, false⟩, ⟨"THERMTRIP_N", ⟨65, 3⟩, .output, true⟩,
   ⟨"DEV_ALERT_N", ⟨65, 4⟩, .output, true⟩, ⟨"TIME_PPS_IN", ⟨66, 1⟩, .input, false⟩, ⟨"TIME_PPS_OUT", ⟨66, 2⟩, .output, false⟩,
   ⟨"TWIN_SEL", ⟨67, 1⟩, .input, false⟩] ++
  (List.range 6).map (fun k => ⟨"FAB_POS" ++ toString k, ⟨67, 2 + k⟩, .input, false⟩)

end Sys2Proof.Machine
end

