-- ==== Sys2Proof/WellFormed.lean ====
section
/-! DEFINITION. Which commands can be sent at all: shape conditions that the operand types do not say. A condition that the
spec answers with a reason code, a counter or ACCERR is no matter of form and stands in the meaning instead. -/

namespace Sys2Proof

/-- A data buffer has at most 2^32 - 1 bytes (LEN of Table HI-4). -/
def HostCmd.wf (h : HostCmd) : Bool := decide (h.data.length < 2 ^ 32)

/-- A slot comes over 8, 4 or 2 lanes (R326), a compatibility slot over 8 lanes of 8 blocks (R336). -/
def SlotRx.wf : SlotRx → Bool
  | .native lanes => lanes.length == 8 || lanes.length == 4 || lanes.length == 2
  | .compat lanes => lanes.length == 8 && lanes.all (·.length == 8)

/-- At most two fused positions a die and eight in the package (R10). -/
def ColdPins.wf (p : ColdPins) : Bool :=
  decide p.fused.Nodup && (List.finRange 4).all (fun d => decide ((p.fused.filter (·.1 = d)).length ≤ 2))

/-- Accesses of 4 or 8 bytes, naturally aligned; any other access is the command accessError (R400). -/
def accessWf (addr : Word) (size : Nat) : Bool := (size == 4 || size == 8) && addr.toNat % size == 0

/-- A pilot core writes CSRs as words, and bytes, half-words and words of its memory map. -/
def busWf (b : RegBus) (addr : Word) (size : Nat) : Bool :=
  match b with
  | .host => accessWf addr size
  | .csr _ => size == 4 && decide (addr.toNat < 4096)
  | .mem _ => (size == 1 || size == 2 || size == 4) && addr.toNat % size == 0

def Instr.wf : Instr → Bool
  | .jobLoad _ h | .jobStart _ h | .jobStop _ h | .jobQuota _ h | .collDefine _ h | .tideLoad _ h | .stateWrite _ h
  | .stateRead _ h | .shardEncode _ h _ _ | .shardRebuild _ h _ _ | .stepReplay _ h | .tileSelftest _ h | .fwStage _ h
  | .fwActivate _ h | .traceArm _ h | .traceStop _ h | .traceCopyOut _ h | .dump _ h | .telemDrain _ h => h.wf
  | .slotReceived _ _ rx => rx.wf
  | .coldReset _ p | .brownoutReset _ _ p => p.wf
  | .registerWrite _ b a n _ => busWf b a n
  | .diagWindowRead _ a n => accessWf a n && decide (a.toNat < 0x100000)
  | .lowHalfRead _ a n => accessWf a n
  | .lowHalfWrite _ a _ => accessWf a 8
  | .highHalfWrite _ a _ => a.toNat % 8 == 4
  | .hwmCounterWrite _ a _ => accessWf a 4
  | _ => true

end Sys2Proof
end

