-- ==== Sys2Proof/Tests/Slice0.lean ====
section
/-! SUPPORT. Own tests: well-formedness refuses each ill-formed term, and the states that the witnesses of the statements use. -/

namespace Sys2Proof.Tests

set_option Elab.async false

open Sys2Proof Sys2Proof.Machine Sys2Proof.Safety

/-! ### Well-formedness -/

def host (data : List Byte) : HostCmd := ⟨0, 0, 0, data, true, true⟩

theorem wf_host : (Instr.dump 0 (host [1, 2])).wf = true := by decide
theorem wf_host_length : ∀ h : HostCmd, h.data.length = 2 ^ 32 → h.wf = false := by
  intro h hl
  simp [HostCmd.wf, hl]
theorem wf_slot : (Instr.slotReceived 0 0 (.native [[], [], [], [], [], [], [], []])).wf = true := by decide
theorem wf_slot_lanes : (Instr.slotReceived 0 0 (.native [[], [], []])).wf = false := by decide
theorem wf_slot_blocks : (Instr.slotReceived 0 0 (.compat [[], [], [], [], [], [], [], []])).wf = false := by decide
theorem wf_pins : (Instr.coldReset 0 ⟨false, 0, 0, [(0, 3), (0, 5)]⟩).wf = true := by decide
theorem wf_pins_die : (Instr.coldReset 0 ⟨false, 0, 0, [(0, 3), (0, 5), (0, 7)]⟩).wf = false := by decide
theorem wf_pins_twice : (Instr.brownoutReset 0 true ⟨false, 0, 0, [(1, 3), (1, 3)]⟩).wf = false := by decide
theorem wf_write : (Instr.registerWrite 0 .host 0x20 4 1).wf = true := by decide
theorem wf_write_size : (Instr.registerWrite 0 .host 0x20 2 1).wf = false := by decide
theorem wf_write_csr : (Instr.registerWrite 0 (.csr 0) 0x1000 4 1).wf = false := by decide
theorem wf_write_memory : (Instr.registerWrite 0 (.mem 0) 2 4 1).wf = false := by decide
theorem wf_window : (Instr.diagWindowRead 0 0x100000 4).wf = false := by decide
theorem wf_read : (Instr.lowHalfRead 0 0x12 4).wf = false := by decide
theorem wf_low : (Instr.lowHalfWrite 0 0x1004 0).wf = false := by decide
theorem wf_high : (Instr.highHalfWrite 0 0x1008 0).wf = false := by decide
theorem wf_hwm : (Instr.hwmCounterWrite 0 0x480102 0).wf = false := by decide

/-! ### States -/

/-- A device that has booted. -/
def up : State := { State.reset with dev := { Dev.reset with st := .ready } }

theorem up_serving : Serving up := ⟨rfl, by decide⟩
theorem up_working : Working up := ⟨up_serving, by decide⟩

/-- A ring that runs with one descriptor posted. -/
def ring0 : Ring := { Ring.reset with base := 0x10000, cbase := 0x20000, en := true, st := .running, pi := 1 }

/-- A device whose ring 0 runs. -/
def rings : State := (up.updHost (fun h => { h with dbbase := 0x30000 })).updRing 0 (fun _ => ring0)

theorem rings_serving : Serving rings := ⟨rfl, by decide⟩
theorem rings_working : Working rings := ⟨rings_serving, by decide⟩

/-- A descriptor: operation, flags, job, bytes from 24 on. -/
def descr (op flags job : Nat) (rest : Nat) : BitVec 512 := BitVec.ofNat 512 (op + 2 ^ 8 * flags + 2 ^ 16 * job + 2 ^ 192 * rest)

/-- A command in execution on ring 0, and the command that names it. -/
def running (d : BitVec 512) (s : State) : State := s.updHost (fun h => { h with exec := [⟨0, 0, d, [], false, false⟩] })
def naming (d : BitVec 512) (data : List Byte) : HostCmd := ⟨0, 0, d, data, true, true⟩

/-- Serving and working carry over to any state with the same device state and thermal trip. -/
theorem serving_of {s : State} (h1 : s.clk.thermtrip = false) (h2 : s.dev.st = .ready) : Serving s := ⟨h1, by simp [h2]⟩
theorem working_of {s : State} (h1 : s.clk.thermtrip = false) (h2 : s.dev.st = .ready) : Working s := ⟨serving_of h1 h2, by simp [h2]⟩

end Sys2Proof.Tests
end

