-- ==== Sys2Proof/Tests/HostPort.lean ====
section
/-! SUPPORT. Witnesses of the statements about rings, registers, counters, the recorder and the sideband: each shows a state and operands that
meet a statement's hypotheses, clause by clause. -/

namespace Sys2Proof.Tests

set_option Elab.async false

open Sys2Proof Sys2Proof.Machine Sys2Proof.Safety

/-- Ring 0 set up and not yet enabled. -/
def idleRing : State := rings.updRing 0 (fun x => { x with en := false, st := .disabled, pi := 0 })

/-- RING_CTL as ring 0 takes it. -/
def taken (v : Word) : State := (tick 5 idleRing).updRing 0 (fun x => { x with
  size := v.extractLsb' 24 4, vec := v.extractLsb' 16 6, coal := v.extractLsb' 8 8, irqen := v.getLsbD 1, en := true })

theorem witness_RingEnabling_enable : Working idleRing ∧ (idleRing.ring 0).en = false ∧ checking (.ring 0) idleRing = false ∧
    ringCheck 0 (taken 0x06000001) = none ∧ ringCheck 0 (taken 0x05000001) = some 0x0407 :=
  ⟨working_of rfl rfl, by decide +kernel⟩

/-- The four outcomes of the check, at the borders of its clauses: size 5 and 6, a base of 0, an overlap. -/
theorem witness_RingEnabling_check : ringCheck 0 (rings.updRing 0 (fun x => { x with size := 5 })) = some 0x0407 ∧
    ringCheck 0 (rings.updRing 0 (fun x => { x with base := 0 })) = some 0x0408 ∧
    ringCheck 0 (rings.updRing 0 (fun x => { x with cbase := 0x10000 })) = none ∧
    ringCheck 0 (rings.updRing 0 (fun x => { x with base := 0x30000 })) = some 0x0409 ∧ ringCheck 0 rings = none := by decide +kernel

theorem witness_RingEnabling_disable : Serving rings ∧ (rings.ring 0).en = true ∧ checking (.ring 0) rings = false ∧ (rings.ring 0).st = .running :=
  ⟨rings_serving, by decide +kernel⟩

theorem witness_DoorbellPollTakesWord : (rings.ring 0).st = .running ∧ (rings.ring 0).waiting = [] ∧
    ((rings.updRing 8 (fun _ => ring0)).ring 8).st = .running ∧ Tbl.get none rings.host.outs 8 = none := by decide +kernel

/-- A DUMP, and a descriptor with a reserved OP. -/
theorem witness_DescriptorPickup : Working rings ∧ pickupStopped rings = false ∧ nextRing rings = some 0 ∧ rings.host.exec.length < 32 ∧
    (rings.ring 0).fence = none ∧ (descFlags (descr 0x11 0 0 0)).testBit 2 = false ∧
    descFormBad (descr 0x10 0 0 0) = false ∧ descOp (descr 0x10 0 0 0) ≠ 0x0F ∧
    readLists (descr 0x10 0 0 0) none [] = .ok [] ∧
    lenBad (descr 0x10 0 0 0) = false ∧ descJob (descr 0x10 0 0 0) = 0 ∧ namesJob 0x10 = false ∧
    0x11 < descOp (descr 0x12 0 0 0) ∧ (descFlags (descr 0x12 0 0 0)).testBit 2 = false ∧ (rings.ring 0).waiting = [] ∧
    (rings.ring 0).full = false := ⟨rings_working, by decide +kernel⟩

theorem witness_Completions : (⟨0, 0, 0, [], false, false⟩ : Exec).mute = false ∧ (rings.ring 0).st = .running ∧ (rings.ring 0).waiting = [] ∧
    (rings.ring 0).full = false ∧ (let s := rings.updRing 0 (fun x => { x with irqen := true, unsent := true });
      (s.ring 0).irqen = true ∧ (s.ring 0).unsent = true ∧ (s.ring 0).st ≠ .paused ∧
      (Tbl.get msixMasked s.host.msix 0).getLsbD 96 = true ∧
      (Tbl.get msixMasked (s.updHost (fun h => { h with msix := [(0, 5)] })).host.msix 0).getLsbD 96 = false) := by decide +kernel

theorem witness_SixtyFourBit : Serving up ∧ (0x80 : Word).toNat % 8 = 0 ∧ reg64 (tick 7 up) 0x80 = some 7 ∧ reg64 (tick 7 up) 0x1008 = some 0 :=
  ⟨up_serving, by decide +kernel⟩

theorem witness_RegisterAccess : Serving up ∧ up.tide.en = false ∧ (up.updTide (fun x => { x with en := true })).tide.en = true ∧
    (∀ r, r < 10 → (up.ring r).en = false) ∧ (rings.ring 0).en = true ∧ (6 ≠ 4 ∧ 6 ≠ 8) ∧ (0x02000000 : Word).toNat < 0x03FF0000 :=
  ⟨up_serving, by decide +kernel⟩

/-- The window's target and index set. -/
def select (target : BitVec 8) (index : BitVec 16) : State := up.updDev (fun d => { d with dwTarget := target, dwIndex := index })

theorem witness_WindowMisses : Serving (select 0 0) ∧ (select 0x0B 0).dev.dwTarget.toNat > 0x0A ∧ (select 4 128).dev.dwIndex.toNat ≥ 128 ∧
    (select 8 256).dev.dwIndex.toNat ≥ 256 ∧ (select 9 2).dev.dwIndex.toNat ≥ 2 ∧ (select 7 1).dev.dwIndex.toNat ≠ 0 ∧
    (let s := (select 1 3).updIsland 3 (fun i => { i with pst := .gated });
      physOf s 3 = some 3 ∧ (s.island 3).pst = .gated) ∧
    (∃ m ∈ ((select 1 3).updDev (fun d => { d with moves := [⟨3, 3, 33, .waking⟩] })).dev.moves, m.tile = 3) := ⟨serving_of rfl rfl, by decide +kernel⟩

theorem witness_WindowReads : Serving (select 1 0) ∧ (select 1 0).dev.dwIndex.toNat < 128 ∧ dumpBarred (select 1 0) 0 = false ∧
    dumpBarred (select 4 127) 127 = false := ⟨serving_of rfl rfl, by decide +kernel⟩

theorem witness_CounterClears : Serving up ∧ hwmLevel up 0 0x100 = some 0 ∧ hwmLevel up 0 0x040 = none ∧ (0x0F : Word).toNat % 256 ≤ 0x0F ∧
    0x0F < (0x10 : Word).toNat % 256 := ⟨up_serving, by decide +kernel⟩

theorem witness_RecorderWindowAndClears : Serving up ∧ (0x8000000000000000 : DWord).getLsbD 63 = true ∧ (5 : DWord).getLsbD 63 = false ∧
    (let s := up.updObs (fun o => { o with wready := false, cursor := 0x8000000000000000, clearing := true, scope := 3 });
      s.obs.wready = false ∧ s.obs.cursor.getLsbD 63 = true ∧ s.obs.clearing = true ∧ s.obs.scope.getLsbD 0 = true ∧ s.obs.scope.getLsbD 1 = true) :=
  ⟨up_serving, by decide +kernel⟩

/-- The example of R466: 1,000,100 ns on a device 1.25 ns ahead. -/
theorem test_toRef : toRef (1000100 * 65536) [{ OffsetRec.reset with theta := 81920 }] = 65536 * 1000098 + 49152 := by decide

/-- The example of R481: port 75. -/
theorem test_port75 : portLane 75 false 0 = (⟨113, 89⟩, ⟨113, 88⟩) ∧ pairAt (portBall 75) (clockAt false) = (⟨112, 83⟩, ⟨112, 82⟩) ∧
    portLane 75 true 7 = (⟨108, 81⟩, ⟨108, 80⟩) := by decide

/-- Table PK-2 sums to the array of R478, and its other signals are those of Table PK-3. -/
theorem test_balls : (ballGroups.map (·.2)).sum = 125 * 125 ∧ (analogPins ++ ioPins).length = 49 := by decide

/-- An aggregate that waits: its bucket is empty. -/
def waits : State := up.updObs (fun o => { o with
  aggs := [(0x0101, { Agg.reset with count := 2, tokens := 16 })], toFlash := [9], flashOk := true })

theorem witness_EventsAndRecords : 0x0101 ≠ 0x0C09 ∧ up.obs.toFlash.length < 4096 ∧ (up.obs.agg 0x0101).tokens < (up.obs.agg 0x0101).rate.toNat ∧
    (waits.obs.agg 0x0101).rate.toNat ≤ (waits.obs.agg 0x0101).tokens ∧ (waits.obs.agg 0x0101).count ≠ 0 ∧ (up.obs.agg 0x0101).count = 0 ∧
    (up.obs.agg 0x0101).rate ≠ 0 ∧ waits.obs.toFlash = [9] ∧ waits.obs.clearing = false ∧ waits.obs.flashOk = true ∧
    (waits.flash.evrNext + 1) % 1024 ≠ 0 ∧ (waits.obs.agg 0x0101).tokens ≠ 0 ∧ (waits.obs.agg 0x0101).tokens ≤ (waits.obs.agg 0x0101).rate.toNat ∧
    (waits.obs.agg 0x0101).nextToken ≤ max waits.time (sec 4) ∧ max waits.time 0 < (waits.obs.agg 0x0101).nextToken ∧
    (let a := (up.updObs (fun o => { o with aggs := [(0x0101, { Agg.reset with tokens := 1 })] })).obs.agg 0x0101
     a.rate ≠ 0 ∧ a.tokens ≠ 0 ∧ a.nextToken ≤ max up.time (sec 4) ∧ a.count = 0) := by decide +kernel

theorem witness_Sideband : up.side.porAt + us 20 ≤ max up.time (us 20) ∧ up.side.everReady = false ∧
    (up.updSide (fun x => { x with everReady := true })).side.everReady = true ∧ 5 < (0x40 : Byte).toNat ∧
    (tick 0 (up.updSide (fun x => { x with smbAlert := true }))).side.smbAlert = true ∧ up.side.i2cStuck = false ∧
    true ∈ ([false, true] : List Bool).take 3 ∧ true ∉ ([] : List Bool).take 3 ∧
    (let s := up.updSide (fun x => { x with i2cStuck := true });
      s.side.i2cStuck = true ∧ s.side.i2cAt + sec 10 ≤ max s.time (sec 10)) ∧ (9 : Byte).toNat ≠ 0x20 := by decide +kernel

end Sys2Proof.Tests
end

