-- ==== Sys2Proof/Tests/HostCommands.lean ====
section
/-! SUPPORT. Witnesses of the statements about host commands: a small load package, a job, and states that meet each statement's
hypotheses, clause by clause. -/

namespace Sys2Proof.Tests

set_option Elab.async false

open Sys2Proof Sys2Proof.Machine Sys2Proof.Safety

/-- Given over a concrete state. -/
theorem given_of {op : Nat} {h : HostCmd} {x : Exec} {s : State} (w : Working s)
    (g : cmdOf h op s = some x ∧ mayRun x s = true ∧ x.started = false ∧ h.readOk = true) : Given op h x s := ⟨w, g⟩

/-- The command in execution of a state built by `running`. -/
def theCmd (d : BitVec 512) : Exec := ⟨0, 0, d, [], false, false⟩

/-! ### Check codes of test data, computed state by state -/

/-- A function of a number, applied once the number is evaluated. -/
def forced {α : Type} (n : Nat) (f : Nat → α) : α := match n with
  | 0 => f 0
  | k + 1 => f (k + 1)

theorem forced_eq {α : Type} (n : Nat) (f : Nat → α) : forced n f = f n := by cases n <;> rfl

/-- CRC-32C with every state evaluated before the next byte. -/
def crcForced : List Byte → Nat → Nat
  | [], a => a
  | b :: bs, a => forced (crcByte (BitVec.ofNat 32 a) b).toNat (crcForced bs)

theorem crcForced_eq (bs : List Byte) : ∀ a : Word, crcForced bs a.toNat = (bs.foldl crcByte a).toNat := by
  induction bs with
  | nil => intro a; rfl
  | cons b bs ih => intro a; simp only [crcForced, forced_eq, List.foldl_cons, ← ih, BitVec.ofNat_toNat, BitVec.setWidth_eq]

theorem crc32c_forced (bs : List Byte) : crc32c bs = BitVec.ofNat 32 (crcForced bs 0xFFFFFFFF) ^^^ 0xFFFFFFFF#32 := by
  have h := crcForced_eq bs 0xFFFFFFFF#32
  simp only [crc32c]
  rw [show (0xFFFFFFFF : Nat) = (0xFFFFFFFF#32 : Word).toNat from rfl, h]
  simp

/-! ### A load package with one BROADCAST entry, of identifier 16, whose one member is port 5 of device 0 -/

def entry16 : Nat := 16 + 3 * 2 ^ 16 + 1 * 2 ^ 56 + 0x00020000 * 2 ^ 64 + 48 * 2 ^ 128 + 0x2710 * 2 ^ 256 + 1 * 2 ^ 432

def pkgSect (typ count off len : Nat) : List Byte := leBytes 2 typ ++ leBytes 2 count ++ leBytes 4 off ++ leBytes 4 len ++ leBytes 4 0

def pkgBody : List Byte :=
  pkgSect 1 1 256 2 ++ pkgSect 2 1 320 128 ++ pkgSect 3 0 576 0 ++ pkgSect 4 0 576 0 ++ pkgSect 5 1 448 64 ++ pkgSect 6 1 512 64 ++
  pkgSect 7 0 576 0 ++ pkgSect 8 0 576 0 ++ pkgSect 10 0 576 0 ++ List.replicate 48 0 ++
  leBytes 64 0 ++ leBytes 128 entry16 ++ leBytes 64 (5 * 2 ^ 30) ++ leBytes 64 (0x03E8 * 2 ^ 96 + 0x03E8 * 2 ^ 112)

theorem pkgBody_crc : crc32c pkgBody = 0xe9e55863#32 := by rw [crc32c_forced]; decide +kernel


def pkg : List Byte :=
  leBytes 4 0x4B504A4C ++ leBytes 2 1 ++ leBytes 2 9 ++ leBytes 8 77 ++ leBytes 2 1 ++ leBytes 2 0 ++ leBytes 8 0 ++
  leBytes 4 3924121699 ++ leBytes 32 0 ++ pkgBody

theorem pkg_drop : pkg.drop 64 = pkgBody := by decide +kernel
theorem pkg_header : headerBad pkg = false := by
  unfold headerBad
  rw [pkg_drop, pkgBody_crc]
  decide +kernel

/-- JOB_LOAD of tag 0x2A7, UPRIO 1, RESADDR 0x1000. -/
def loadDesc : BitVec 512 := descr 0x01 0 0x2A7 (1 + 0x1000 * 2 ^ 128)

/-- The code of the package's first failing check in a state. -/
def admission (s : State) : Option (Option Nat) := (parsePkg 0x2A7 pkg).map (fun p =>
  admitCode (at_ 5 (naming loadDesc pkg) s) 0x2A7 (candidate 0x2A7 1 p pkg) p pkg.length)

theorem pkg_admitted : admission (running loadDesc up) = some none := by
  unfold admission parsePkg
  rw [pkg_header]
  decide +kernel

theorem pkg_tag_taken : admission ((running loadDesc up).updJob 7 (fun x => { x with st := .loaded, tag := 0x2A7 })) = some (some 0x0501) := by
  unfold admission parsePkg
  rw [pkg_header]
  decide +kernel

theorem witness_JobLoadAdmits : Given 0x01 (naming loadDesc pkg) (theCmd loadDesc) (running loadDesc up) ∧ descN loadDesc 40 8 ≠ 0 ∧
    descJob loadDesc = 0x2A7 ∧ descN loadDesc 24 1 = 1 ∧ admission (running loadDesc up) = some none ∧
    admission ((running loadDesc up).updJob 7 (fun x => { x with st := .loaded, tag := 0x2A7 })) = some (some 0x0501) ∧
    (up.job 0).st = .free ∧ ∀ i, i < 0 → (up.job i).st ≠ .free :=
  ⟨given_of (working_of rfl rfl) (by decide +kernel), by decide +kernel, by decide +kernel, by decide +kernel, pkg_admitted, pkg_tag_taken,
    by decide +kernel, by simp⟩

/-! ### A job of tag 0x2A7 in slot 0 -/

def job (st : JobSt) : State := up.updJob 0 (fun x => { x with
  st := st, tag := 0x2A7, devset := [0, 1], ids := [16], entries := [(16, Entry.ofCfg (BitVec.ofNat 1024 entry16))]
  control := memOf (leBytes 64 (5 * 2 ^ 30)), ctlLen := 64, shardb := 4096, stateBytes := 4864
  grants := [{ tile := 3, iq := 0, vq := 0, oq := 0, bs := 0, acc := 16, reqBase := 0, base := 0, cells := 100, prog := 0, records := 2, held := [] }] })

def stopped : State := job .stopped

/-- JOB_START with tide 3, JOB_STOP with UNLOAD, JOB_QUOTA of kind, tile and value. -/
def startDesc : BitVec 512 := descr 0x02 0 0x2A7 3
def stopDesc : BitVec 512 := descr 0x03 0 0x2A7 1
def quotaDesc (kind tile q : Nat) : BitVec 512 := descr 0x04 0 0x2A7 (kind + tile * 2 ^ 8 + q * 2 ^ 64)

/-- The state with a command in execution and its twin MOORED. -/
def moored (s : State) : State := s.updTwin (fun w => { w with dst := .moored })

theorem witness_JobControl_start : Given 0x02 (naming startDesc []) (theCmd startDesc) (running startDesc stopped) ∧
    (let s := running startDesc stopped;
      slotOf (descJob startDesc) s = some 0 ∧ (s.job 0).st = .stopped ∧ (at_ 5 (naming startDesc []) s).tide.now < descN startDesc 24 6 ∧
      startsEarly (at_ 5 (naming startDesc []) s) 0 3 = false ∧ s.twin.dst ≠ .moored ∧ (s.job 0).stale = false ∧
      begunFor 0x02 0 (beginExec (theCmd startDesc) (at_ 5 (naming startDesc []) s)) = some { theCmd startDesc with started := true } ∧
      (moored s).twin.dst = .moored ∧ slotOf (descJob startDesc) (running startDesc (job .running)) = some 0 ∧
      ¬ ((job .running).job 0).st = .stopped ∧ descN (descr 0x02 0 0x2A7 0) 24 6 ≤ s.tide.now) :=
  ⟨given_of (working_of rfl rfl) (by decide +kernel), by decide +kernel⟩

theorem witness_JobControl_stop : Given 0x03 (naming stopDesc []) (theCmd stopDesc) (running stopDesc stopped) ∧
    slotOf (descJob stopDesc) (running stopDesc (job .running)) = some 0 ∧ ((running stopDesc (job .running)).job 0).st = .running ∧
    bitN (descN stopDesc 24 1) 0 = true ∧ ((running stopDesc stopped).job 0).st = .stopped ∧ ((job .loaded).job 0).st = .loaded ∧
    ((job .stopping).job 0).st = .stopping ∧ allStopped (tick 5 (job .stopping)) 0 = true ∧ ((job .stopping).job 0).unload = false ∧
    allStopped (tick 5 ((job .stopping).updJob 0 (fun x => { x with commitPend := some none }))) 0 = false :=
  ⟨given_of (working_of rfl rfl) (by decide +kernel), by decide +kernel⟩

theorem witness_JobControl_quota : Given 0x04 (naming (quotaDesc 0 3 16) []) (theCmd (quotaDesc 0 3 16)) (running (quotaDesc 0 3 16) stopped) ∧
    (stopped.job 0).st ≠ .stopping ∧ descN (quotaDesc 0 3 16) 25 1 = 3 ∧ descN (quotaDesc 0 3 16) 32 8 = 16 ∧ 16 ≤ quotaGrant (stopped.job 0) 0 3 ∧
    100 ≤ quotaGrant (stopped.job 0) 1 3 ∧ 4736 ≤ (stopped.job 0).spillGrant ∧ quotaGrant (stopped.job 0) 0 3 < 17 ∧
    descN (quotaDesc 2 0 4736) 25 1 = 0 :=
  ⟨given_of (working_of rfl rfl) (by decide +kernel), by decide +kernel⟩

/-- COLL_DEFINE of entry 16, unchanged and with an unknown identifier. -/
def defineDesc : BitVec 512 := descr 0x05 0 0x2A7 0

theorem witness_CollDefineWrites : Given 0x05 (naming defineDesc (leBytes 128 entry16)) (theCmd defineDesc) (running defineDesc stopped) ∧
    slotOf (descJob defineDesc) (running defineDesc stopped) = some 0 ∧ (stopped.job 0).st ≠ .stopping ∧
    defineCode (at_ 5 (naming defineDesc []) (running defineDesc stopped)) 0 (BitVec.ofNat 1024 entry16) = none ∧
    defineCode (at_ 5 (naming defineDesc []) (running defineDesc stopped)) 0 (BitVec.ofNat 1024 (entry16 + 1)) = some 0x040B ∧
    ((stopped.job 0).entry 16).status.toNat ≠ stRunning :=
  ⟨given_of (working_of rfl rfl) (by decide +kernel), by decide +kernel⟩

/-! ### A tide image of 64 slots for a device, all its entries 0 -/

theorem leNat_leBytes (n : Nat) : ∀ x, leNat (leBytes n x) = x % 256 ^ n := by
  induction n with
  | zero => intro x; simp [leBytes, leNat, Nat.mod_one]
  | succ n ih =>
    intro x
    have hb : (BitVec.ofNat 8 (x % 256)).toNat = x % 256 := by simp
    simp only [leBytes, leNat, ih, hb]
    rw [Nat.pow_succ, Nat.mul_comm (256 ^ n) 256, Nat.mod_mul]

theorem bsN_left (a b : List Byte) (k n : Nat) (h : k + n ≤ a.length) : bsN (a ++ b) k n = bsN a k n := by
  simp only [bsN]
  rw [List.drop_append_of_le_length (by omega), List.take_append_of_le_length (by simp; omega)]

theorem bsN_right (a b : List Byte) (k n : Nat) (h : a.length ≤ k) : bsN (a ++ b) k n = bsN b (k - a.length) n := by
  simp only [bsN, List.drop_append]
  rw [List.drop_eq_nil_of_le h, List.nil_append]

theorem leNat_zeros (n : Nat) : leNat (List.replicate n 0#8) = 0 := by
  induction n with
  | zero => rfl
  | succ n ih => simp [List.replicate_succ, leNat, ih]

theorem bsN_zeros (m k n : Nat) : bsN (List.replicate m 0) k n = 0 := by
  simp [bsN, List.drop_replicate, List.take_replicate, leNat_zeros]

theorem records_zero (n k : Nat) : ∀ m, ∀ r ∈ chunksOf n k (List.replicate m 0), leNat r = 0 := by
  induction k with
  | zero => intro m r hr; simp [chunksOf] at hr
  | succ k ih =>
    intro m r hr
    simp only [chunksOf] at hr
    split at hr
    · simp at hr
    · rcases List.mem_cons.mp hr with rfl | hr
      · simp [List.take_replicate, leNat_zeros]
      · rw [List.drop_replicate] at hr; exact ih _ r hr

def tideBody : List Byte := List.replicate 33024 0

def tideHead (dev t : Nat) (c : Word) : List Byte :=
  leBytes 4 0x45444954 ++ (leBytes 4 1 ++ (leBytes 4 t ++ (leBytes 4 dev ++ (leBytes 4 c.toNat ++ (leBytes 4 9 ++ List.replicate 40 0)))))

def tideImage (dev t : Nat) : List Byte := tideHead dev t (crc32c tideBody) ++ tideBody

theorem tideHead_length (dev t : Nat) (c : Word) : (tideHead dev t c).length = 64 := rfl

theorem tideImage_length (dev t : Nat) : (tideImage dev t).length = 33088 := by
  simp only [tideImage, List.length_append, tideHead_length, tideBody, List.length_replicate]

theorem tideImage_drop (dev t : Nat) : (tideImage dev t).drop 64 = tideBody := by
  rw [tideImage, List.drop_append_of_le_length (by rw [tideHead_length]), ← tideHead_length dev t (crc32c tideBody), List.drop_length, List.nil_append]

theorem tideImage_take (dev t : Nat) : (tideImage dev t).take 64 = tideHead dev t (crc32c tideBody) := by
  rw [tideImage, List.take_append_of_le_length (by rw [tideHead_length]), ← tideHead_length dev t (crc32c tideBody), List.take_length]

theorem tideImage_bank (dev t : Nat) : (bankOf (tideImage dev t)).slices = [] ∧ (bankOf (tideImage dev t)).ents = [] := by
  constructor
  · simp only [bankOf]
    refine List.filterMap_eq_nil_iff.mpr (fun k _ => ?_)
    rw [tideImage, bsN_right _ _ _ _ (by rw [tideHead_length]; omega), tideBody, bsN_zeros]
    rfl
  · simp only [bankOf]
    refine List.filterMap_eq_nil_iff.mpr (fun q hq => ?_)
    have : (tideImage dev t).drop 320 = List.replicate 32768 0 := by
      rw [show (320 : Nat) = 64 + 256 from rfl, ← List.drop_drop, tideImage_drop, tideBody, List.drop_replicate]
    rw [this] at hq
    have hm : q.1 ∈ recsOf 4 (List.replicate 32768 0) := by
      have := List.mem_zipIdx hq
      exact this.2.2 ▸ List.getElem_mem _
    rw [records_zero 4 _ _ _ hm]
    rfl

theorem tideHead_crc (dev t : Nat) (c : Word) : bsN (tideHead dev t c) 16 4 = c.toNat := by
  show leNat (leBytes 4 c.toNat) = _
  rw [leNat_leBytes]
  exact Nat.mod_eq_of_lt c.isLt

theorem tideImage_form : tideFormBad (tideImage 0 64) = false := by
  obtain ⟨hs, he⟩ := tideImage_bank 0 64
  have hl (k n : Nat) (h : k + n ≤ 64) : bsN (tideImage 0 64) k n = bsN (tideHead 0 64 (crc32c tideBody)) k n :=
    bsN_left _ _ _ _ (by rw [tideHead_length]; exact h)
  unfold tideFormBad
  rw [tideImage_length, tideImage_drop, tideImage_take, hs, he, hl 0 4 (by decide), hl 4 2 (by decide), hl 6 2 (by decide), hl 12 2 (by decide),
    hl 14 2 (by decide), hl 16 4 (by decide), tideHead_crc]
  generalize crc32c tideBody = c
  simp only [List.any_nil, Bool.or_false, decide_not, ne_eq, not_true, decide_false]
  rfl

theorem tideImage_len : tideLenBad (tideImage 0 64) = false := by
  unfold tideLenBad
  rw [tideImage_length, tideImage, bsN_left _ _ _ _ (by rw [tideHead_length]; decide)]
  rfl

def tideDesc : BitVec 512 := descr 0x06 0 0 0

/-- A device with the identity that the image is compiled for. -/
def identified (s : State) : State := s.updDev (fun d => { d with idValid := true })

theorem witness_TideLoadStages : Given 0x06 (naming tideDesc (tideImage 0 64)) (theCmd tideDesc) (running tideDesc (identified up)) ∧
    up.tide.pending = false ∧ up.tide.hold = false ∧ (up.updTide (fun x => { x with hold := true })).tide.hold = true ∧
    tideFormBad [] = true ∧ tideFormBad (tideImage 0 64) = false ∧ up.dev.idValid = false ∧ (identified up).dev.idValid = true ∧
    (bankOf (tideImage 0 64)).device = up.dev.id ∧ tideLenBad (tideImage 0 64) = false ∧
    slicesDiffer (at_ 5 (naming tideDesc (tideImage 0 64)) (running tideDesc (identified up))) (bankOf (tideImage 0 64)) = false := by
  have hb (k n : Nat) (h : k + n ≤ 64) : bsN (tideImage 0 64) k n = bsN (tideHead 0 64 (crc32c tideBody)) k n :=
    bsN_left _ _ _ _ (by rw [tideHead_length]; exact h)
  refine ⟨given_of (working_of rfl rfl) ?_, by decide +kernel, by decide +kernel, by decide +kernel, by decide +kernel, tideImage_form,
    by decide +kernel, by decide +kernel, ?_, tideImage_len, ?_⟩
  · decide +kernel
  · show BitVec.ofNat 12 (bsN (tideImage 0 64) 12 2) = _
    rw [hb 12 2 (by decide)]
    rfl
  · have hj : loadedSlots (at_ 5 (naming tideDesc (tideImage 0 64)) (running tideDesc (identified up))) = [] := rfl
    have hlen : (bankOf (tideImage 0 64)).len = 64 := by
      show bsN (tideImage 0 64) 8 4 = _
      rw [hb 8 4 (by decide)]
      rfl
    simp only [slicesDiffer, slicesFit, hj, hlen, List.any_nil, List.map_nil, List.sum_nil, Bool.or_false]
    decide

end Sys2Proof.Tests
end

