-- ==== Sys2Proof/Tests/HostCommands2.lean ====
section
/-! SUPPORT. Witnesses of the statements about state access, shards, replay, self-test, firmware, restarts, trace, dumps and telemetry. -/

namespace Sys2Proof.Tests

set_option Elab.async false

open Sys2Proof Sys2Proof.Machine Sys2Proof.Safety

/-- A descriptor with LEN. -/
def descrLen (op flags job len rest : Nat) : BitVec 512 := descr op flags job rest ||| BitVec.ofNat 512 (len * 2 ^ 128)

/-- STATE_WRITE and STATE_READ of 8 bytes at offset 0 of a target. -/
def writeDesc (target : Nat) : BitVec 512 := descrLen 0x07 0 0x2A7 8 target
def readDesc (target : Nat) : BitVec 512 := descrLen 0x08 0 0x2A7 8 target

/-- A job stopped, with a step list of one RUM entry whose home is this device, and a gradient hold. -/
def rumEntry : Nat := 16 + 5 * 2 ^ 16 + 1 * 2 ^ 56 + 0x00020000 * 2 ^ 64 + 192 * 2 ^ 128 + 0x2710 * 2 ^ 256 + 1 * 2 ^ 320 + 1 * 2 ^ 432

def rumOn (s : State) : State := s.updJob 0 (fun x => { x with
  entries := [(16, Entry.ofCfg (BitVec.ofNat 1024 rumEntry))], steps := [(16, 1)], control := memOf (leBytes 128 (5 * 2 ^ 30)), ctlLen := 128
  home := true, segs := 1, holdGrant := true, step := 7 })

theorem witness_StateAccess_write : Given 0x07 (naming (writeDesc 3) (leBytes 8 5)) (theCmd (writeDesc 3)) (running (writeDesc 3) (rumOn stopped)) ∧
    slotOf (descJob (writeDesc 3)) (running (writeDesc 3) (rumOn stopped)) = some 0 ∧ ((rumOn stopped).job 0).st = .stopped ∧
    writeCode ((rumOn stopped).job 0) (writeDesc 3) (leBytes 8 5) = none ∧ writeCode ((rumOn stopped).job 0) (writeDesc 5) (leBytes 8 5) = none ∧
    writeCode ((rumOn stopped).job 0) (writeDesc 0xB) (leBytes 8 5) = none ∧ stTarget (writeDesc 0xB) = 0xB ∧ stTarget (writeDesc 7) = 7 ∧
    writeCode ((rumOn stopped).job 0) (writeDesc 4) (leBytes 8 5) = none ∧ writeCode ((rumOn stopped).job 0) (writeDesc 1) (leBytes 8 5) = none ∧
    ((rumOn stopped).updClk (fun c => { c with hold := true })).clk.hold = true ∧ (rumOn stopped).clk.hold = false :=
  ⟨given_of (working_of rfl rfl) (by decide +kernel), by decide +kernel⟩

/-- A write of the operand tensor of a fused entry, outside and inside a running instance. -/
def fused (st : JobSt) (s : State) : State := s.updJob 0 (fun x => { x with
  st := st, entries := [(16, Entry.ofCfg (BitVec.ofNat 1024 (entry16 - 3 * 2 ^ 16 + 3 * 2 ^ 44)))] })
def operandDesc : BitVec 512 := descrLen 0x07 0 0x2A7 8 (9 + 16 * 2 ^ 16)

theorem witness_StateAccess_operand : stTarget operandDesc = 9 ∧ stColl operandDesc = 16 ∧
    writeCode ((fused .stopped stopped).job 0) operandDesc (leBytes 8 5) = none ∧
    holdsWrite (theCmd operandDesc) 0 (fused .stopped stopped) = false ∧
    (let s := startInst 0 16 3 5 10 0 (fused .running stopped);
      writeCode (s.job 0) operandDesc (leBytes 8 5) = none ∧ holdsWrite (theCmd operandDesc) 0 s = true) := by decide +kernel

theorem witness_StateAccess_read : Given 0x08 (naming (readDesc 0xB) []) (theCmd (readDesc 0xB)) (running (readDesc 0xB) (rumOn stopped)) ∧
    accessCode ((rumOn stopped).job 0) (readDesc 0xB) = none ∧ accessCode ((rumOn stopped).job 0) (readDesc 0) = some 0x040C ∧
    accessCode ((rumOn stopped).job 0) (readDesc 7) = some 0x040B :=
  ⟨given_of (working_of rfl rfl) (by decide +kernel), by decide +kernel⟩

/-! ### Shards: a group of one data position, P and Q -/

/-- SHARD_ENCODE and SHARD_REBUILD of K, the own position, and lost positions. -/
def encodeDesc (pos : Nat) : BitVec 512 := descrLen 0x09 0 0x2A7 6 (1 + pos * 2 ^ 8)
def rebuildDesc (pos lost : Nat) : BitVec 512 := descrLen 0x0A 0 0x2A7 6 (1 + pos * 2 ^ 8 + lost * 2 ^ 16 + 0xFF * 2 ^ 24)
def shardGroup : List Byte := leBytes 6 (0 + 1 * 2 ^ 16 + 1 * 2 ^ 32)

/-- The data shard of the peer at position 0, and the parity shard P. -/
def dataPeer : ShardIn := ⟨0, 7, [1, 2, 3], true⟩
def parityPeer : ShardIn := ⟨1, 7, [1, 2, 3], true⟩

theorem witness_ShardCommands_encode : Given 0x09 (naming (encodeDesc 1) shardGroup) (theCmd (encodeDesc 1)) (running (encodeDesc 1) stopped) ∧
    slotOf (descJob (encodeDesc 1)) (running (encodeDesc 1) stopped) = some 0 ∧ shardCode (stopped.job 0) (encodeDesc 1) shardGroup = none ∧
    shardCode (stopped.job 0) (encodeDesc 0) shardGroup = none ∧ descN (encodeDesc 0) 25 1 < descN (encodeDesc 0) 24 1 ∧
    descN (encodeDesc 1) 25 1 = descN (encodeDesc 1) 24 1 ∧
    (dataShards (shardLen (stopped.job 0) (groupDevs shardGroup) 1) 1 [dataPeer]).length = 1 ∧
    (∀ p ∈ [dataPeer], p.pos < 1 → p.step.toNat = 7) :=
  ⟨given_of (working_of rfl rfl) (by decide +kernel), by decide +kernel⟩

theorem witness_ShardCommands_rebuild : Given 0x0A (naming (rebuildDesc 0 0) shardGroup) (theCmd (rebuildDesc 0 0)) (running (rebuildDesc 0 0) stopped) ∧
    shardCode (stopped.job 0) (rebuildDesc 0 0) shardGroup = none ∧ descN (rebuildDesc 0 2) 26 1 < 1 + 2 ∧ descN (rebuildDesc 0 2) 27 1 = 0xFF ∧
    descN (rebuildDesc 0 2) 25 1 ≠ descN (rebuildDesc 0 2) 26 1 ∧ descN (rebuildDesc 0 0) 25 1 = descN (rebuildDesc 0 0) 26 1 ∧
    (∀ p ∈ [parityPeer], p.pos ≠ 0 ∧ p.step.toNat = 7 ∧ p.valid = true) ∧
    (rebuildAt (shardLen (stopped.job 0) (groupDevs shardGroup) 1) 1 0 [0] [parityPeer]).isSome = true ∧
    ((job .running).job 0).st = .running :=
  ⟨given_of (working_of rfl rfl) (by decide +kernel), by decide +kernel⟩

/-! ### STEP_REPLAY -/

/-- STEP_REPLAY of step 7, attempt 2, all positions, RESADDR 0x1000. -/
def replayDesc : BitVec 512 := descr 0x0B 0 0x2A7 (7 + 2 * 2 ^ 40 + 1 * 2 ^ 48 + 0x1000 * 2 ^ 128)

/-- The job with that attempt in its manifest. -/
def recordedJob : State := (rumOn stopped).updJob 0 (fun x => { x with manifest := [(0, 7), (5, 2), (7, 1)] })

/-- The job in a replay of positions, with a deadline. -/
def replaying (ps : List Nat) (s : State) : State :=
  s.updJob 0 (fun x => { x with replay := some ⟨0, ps, ps.map (fun _ => (0, 0)), 10, [], [], theCmd replayDesc, 0x1000⟩ })

/-- The RUM entry with an instance whose part has ended. -/
def ended (s : State) : State := (startInst 0 16 3 5 10 0 s).updInst 0 16 (fun i => { i with members := [], chunks := [] })

theorem witness_StepReplayArms : Given 0x0B (naming replayDesc []) (theCmd replayDesc) (running replayDesc recordedJob) ∧
    slotOf (descJob replayDesc) (running replayDesc recordedJob) = some 0 ∧
    replayCode (at_ 5 (naming replayDesc []) (running replayDesc recordedJob)) 0 replayDesc [] = none ∧
    replayCode (at_ 5 (naming replayDesc []) (running replayDesc (rumOn stopped))) 0 replayDesc [] = some 0x070D ∧
    ((replaying [] recordedJob).job 0).replay.isSome = true ∧ ((replaying [0] recordedJob).job 0).steps[0]?.isSome = true ∧
    (replaying [0] recordedJob |>.job 0).steps[0]? = some (16, 1) ∧
    replayed (tick 5 (ended (replaying [0] recordedJob))) 0 16 = true ∧ replayed (tick 12 (replaying [0] recordedJob)) 0 16 = false ∧
    10 ≤ (tick 12 (replaying [0] recordedJob)).time :=
  ⟨given_of (working_of rfl rfl) (by decide +kernel), by decide +kernel⟩

/-! ### Self-test, firmware, restarts -/

/-- TILE_SELFTEST of position 33, the spare of die 0. -/
def testDesc : BitVec 512 := descr 0x0C 0 0 (0 + 33 * 2 ^ 8)

/-- A self-test in progress, and its command begun. -/
def testing : State := (up.updDev (fun d => { d with tests := [⟨false, 33, 0, none⟩] })).updHost (fun h => { h with
  exec := [{ theCmd testDesc with started := true }] })

theorem witness_SelfTestRuns : Given 0x0C (naming testDesc []) (theCmd testDesc) (running testDesc up) ∧ descN testDesc 24 1 = 0 ∧
    descN testDesc 25 1 < 136 ∧ descN testDesc 26 1 < 3 ∧ (up.island 33).pst ≠ .fused ∧ unitBusy up 33 = false ∧ testBarred up 33 = false ∧
    unitBusy testing 33 = true ∧ ltileOf testing 33 = none ∧
    (let q : SelfTest := ⟨false, 33, 0, none⟩
     testing.dev.tests.find? (fun q' => q'.lanes = q.lanes && q'.unit = q.unit) = some q ∧
     testCmd q (endTest q false (testing.updDev (fun d => { d with tests := d.tests.filter (· ≠ q) }))) =
      some { theCmd testDesc with started := true }) :=
  ⟨given_of (working_of rfl rfl) (by decide +kernel), by decide +kernel⟩

/-- TILE_SELFTEST of the lanes of port 5, which is off, and which is UP. -/
def laneDesc : BitVec 512 := descr 0x0C 0 0 (2 + 5 * 2 ^ 8 + 3 * 2 ^ 16)

theorem witness_SelfTestRuns_lanes : Given 0x0C (naming laneDesc []) (theCmd laneDesc) (running laneDesc up) ∧ descN laneDesc 24 1 = 2 ∧
    descN laneDesc 25 1 < 130 ∧ descN laneDesc 26 1 = 3 ∧ (∀ q ∈ up.dev.tests, ¬ (q.lanes = true ∧ q.unit = 5)) ∧ (up.port 5).st = .disabled ∧
    ((up.updPort 5 (fun p => { p with st := .up })).port 5).st ≠ .disabled :=
  ⟨given_of (working_of rfl rfl) (by decide +kernel), by decide +kernel⟩

/-- FW_STAGE of a pilot-core image, FW_ACTIVATE of the staged one at tide 100,000. -/
def stageDesc : BitVec 512 := descr 0x0D 0 0 1
def activateDesc : BitVec 512 := descr 0x0E 0 0 (1 + 100000 * 2 ^ 16)
def fwImage : List Byte := leBytes 4 0x57464D54 ++ leBytes 4 3 ++ [1] ++ leBytes 247 0

/-- The device with its idle pilot-core image verified, and with an operation on firmware in progress. -/
def verified : State := up.updFlash (fun f => { f with
  images := (List.range 4).map (fun k => (k, ⟨3, 0, 256, true⟩)) })
def firmware (x : FwRun) (s : State) : State := s.updFlash (fun f => { f with fw := some x })

theorem witness_FirmwareImages_stage : Given 0x0D (naming stageDesc fwImage) (theCmd stageDesc) (running stageDesc up) ∧
    up.flash.fw = none ∧ fwFormBad (fwWhich stageDesc) fwImage = false ∧ fwFormBad (fwWhich stageDesc) [] = true ∧
    (firmware (.stage true (imageOf fwImage) (theCmd stageDesc)) (running stageDesc up)).flash.fw ≠ none :=
  ⟨given_of (working_of rfl rfl) (by decide +kernel), by decide +kernel⟩

theorem witness_FirmwareImages_activate : Given 0x0E (naming activateDesc []) (theCmd activateDesc) (running activateDesc verified) ∧
    fwActivateCode (at_ 5 (naming activateDesc []) (running activateDesc verified)) true 100000 = none ∧
    fwActivateCode (at_ 5 (naming activateDesc []) (running activateDesc up)) true 100000 = some 0x0B13 ∧
    (let s := firmware (.activate true 0 (theCmd activateDesc)) verified;
      (0 : BitVec 48).toNat ≤ (tick 5 s).tide.now ∧ before (theCmd activateDesc) s = [] ∧ s.clk.hold = false ∧ s.dev.moves = []) ∧
    (let s := firmware (.restarting false (theCmd activateDesc) 0) verified; s.flash.fw.isSome = true ∧ 0 + ms 200 ≤ max s.time (ms 200)) :=
  ⟨given_of (working_of rfl rfl) (by decide +kernel), by decide +kernel⟩

/-- A restart under way that ring 0 waits out. -/
def restarting : State := (rings.updDev (fun d => { d with st := .restart, before := .ready })).updRing 0 (fun r => { r with
  st := .paused, before := .running })

theorem witness_HarbourmasterRestarts : rings.dev.st ≠ .boot ∧ rings.dev.st ≠ .restart ∧ rings.host.exec = [] ∧
    (∀ j, j < 64 → (rings.job j).query = none ∧ (rings.job j).replay = none) ∧ (rings.ring 0).st = .running ∧
    restarting.dev.st = .restart ∧ restarting.dev.waiting = [] ∧ restarting.flash.fw = none ∧
    (∀ r, r < 10 → (restarting.ring r).waiting = [] ∧ (restarting.ring r).before ≠ .draining) ∧ (restarting.ring 0).st = .paused ∧
    (restarting.ring 0).before = .running := by decide +kernel

/-! ### Trace, dump, telemetry -/

/-- TRACE_CTL with an action, on die 0 with tile mask 1. -/
def traceDesc (action : Nat) : BitVec 512 := descrLen 0x0F 0 0 64 (action + 1 * 2 ^ 8 + 1 * 2 ^ 128)

/-- Die 0 armed. -/
def armed : State := armDie 0 1 up

theorem witness_TraceDumpTelemetry_trace : Given 0x0F (naming (traceDesc 1) []) (theCmd (traceDesc 1)) (running (traceDesc 1) up) ∧
    traceBad (traceDesc 1) = false ∧ descN (traceDesc 1) 24 1 = 1 ∧ descN (traceDesc 0) 24 1 = 0 ∧ descN (traceDesc 2) 24 1 = 2 ∧
    traceDies (traceDesc 2) = [0] ∧ (Tbl.get TraceDie.reset up.obs.trace 0).armed = false ∧
    ((traceDies (traceDesc 2)).flatMap (fun d => traceImage d (Tbl.get TraceDie.reset up.obs.trace d))).length ≤ descLen (traceDesc 2) ∧
    (Tbl.get TraceDie.reset armed.obs.trace 0).armed = true :=
  ⟨given_of (working_of rfl rfl) (by decide +kernel), by decide +kernel⟩

/-- DUMP of tile 5 and of no tile; TELEM_DRAIN of set 1. -/
def dumpDesc (n : Nat) : BitVec 512 := descr 0x10 0 0 n
def telemDesc (n : Nat) : BitVec 512 := descr 0x11 0 0 n

/-- The output rings run. -/
def outRings : State := (up.updRing 8 (fun _ => ring0)).updRing 9 (fun _ => ring0)

theorem witness_TraceDumpTelemetry_dump : Given 0x10 (naming (dumpDesc 5) []) (theCmd (dumpDesc 5)) (running (dumpDesc 5) outRings) ∧
    dumpBarred outRings 5 = false ∧ (outRings.ring 8).st = .running ∧ Tbl.get none outRings.host.outs 8 = none ∧ (outRings.tile 5).snap = none ∧
    ((outRings.updTile 5 (fun x => { x with snap := some ⟨2, 0, []⟩ })).tile 5).snap.isSome = true ∧ 127 < descN (dumpDesc 128) 24 1 ∧
    dumpBarred (outRings.updIsland 5 (fun i => { i with pst := .gated })) 5 = true :=
  ⟨given_of (working_of rfl rfl) (by decide +kernel), by decide +kernel⟩

theorem witness_TraceDumpTelemetry_telem : Given 0x11 (naming (telemDesc 7) []) (theCmd (telemDesc 7)) (running (telemDesc 7) outRings) ∧
    descN (telemDesc 7) 24 1 = 7 ∧ descJob (telemDesc 7) = 0 ∧ (outRings.ring 9).st = .running ∧ Tbl.get none outRings.host.outs 9 = none ∧
    7 < descN (telemDesc 8) 24 1 ∧ (up.ring 9).st ≠ .running :=
  ⟨given_of (working_of rfl rfl) (by decide +kernel), by decide +kernel⟩

end Sys2Proof.Tests
end

