-- ==== Sys2Proof/Tests/LinkPorts.lean ====
section
/-! SUPPORT. Witnesses of the statements about links: slots, handshakes, port control, training, lane detectors. -/

namespace Sys2Proof.Tests

set_option Elab.async false

open Sys2Proof Sys2Proof.Machine Sys2Proof.Safety

/-- Port 5 with some of its fields set. -/
def port5 (f : PortS → PortS) : State := up.updPort 5 f

/-- A port UP at full width, and the slot of four idle cells with number 0 as its partner sends it. -/
def upPort (p : PortS) : PortS := { p with st := .up, laneSet := 0xFF, rxLanes := 0xFF, en := true }
def linked : State := port5 upPort
def idle4 : List Cell := [idleCell, idleCell, idleCell, idleCell]
def idleSlot0 : TxSlot := ⟨idle4, [0, 0, 0, 0], 0, 1, 0, 0, 0⟩

/-- A slot that was sent and waits for its acknowledgement. -/
def heldOnce (replays : Nat) : State := port5 (fun p => { upPort p with held := [{ idleSlot0 with replays := replays }], heldAt := 0 })

/-- CRC-32 of R329 with every state evaluated before the next bit. -/
def crcBitsForced : List Bool → Nat → Nat
  | [], a => a
  | b :: bs, a => forced (crc32Bit (BitVec.ofNat 32 a) b).toNat (crcBitsForced bs)

theorem crcBitsForced_eq (bs : List Bool) : ∀ a : Word, crcBitsForced bs a.toNat = (bs.foldl crc32Bit a).toNat := by
  induction bs with
  | nil => intro a; rfl
  | cons b bs ih => intro a; simp only [crcBitsForced, forced_eq, List.foldl_cons, ← ih, BitVec.ofNat_toNat, BitVec.setWidth_eq]

theorem crc32Bits_forced (bs : List Bool) : crc32Bits bs = BitVec.ofNat 32 (crcBitsForced bs 0xFFFFFFFF) ^^^ 0xFFFFFFFF#32 := by
  have h := crcBitsForced_eq bs 0xFFFFFFFF#32
  simp only [crc32Bits]
  rw [show (0xFFFFFFFF : Nat) = (0xFFFFFFFF#32 : Word).toNat from rfl, h]
  simp

/-- The frames of slot 0 with its CRC, and its symbols on the lanes of port 5 with the partner's seed 1. -/
def word0 : SlotWord := ⟨mkCtlw 0 0xFFF false 1 0, [0, 0, 0, 0]⟩
def frames0 : List Frame := (List.range 8).map (fun k => mkFrame (slotBytes idle4) word0 1500952367 0 k)
def seeded (s : State) : State := s.updPort 5 (fun p => (List.range 8).foldl (fun p k => p.updLane k (fun l => { l with rxScr := laneSeed 1 k })) p)
def lanes0 : List (List (BitVec 2)) := frames0.zipIdx.map (fun q => (laneSend frameLen (frameSymbols q.1) ⟨laneSeed 1 q.2, (0, 0)⟩).1)

theorem frames0_check : (checkSlot false frames0).map (fun k => (k.word.ctlw, k.cells.all (fun c => isIdle c && !hdrBad c))) =
    some (word0.ctlw, true) := by
  unfold checkSlot
  simp only [crc32Bits_forced]
  decide +kernel

theorem lanes0_frames : (nativeFrames ((seeded linked).port 5) lanes0).map (fun r => (r.1, r.2.rxFec)) = some (frames0, false) := by decide +kernel

theorem witness_LinkSlots_passing : ((seeded linked).port 5).st = .up ∧ ((seeded linked).port 5).coding = false ∧ ((seeded linked).port 5).held = [] ∧
    ctlwCtl word0.ctlw ≠ ctlVoid ∧ ctlwSeq word0.ctlw = ((seeded linked).port 5).rxSeq + 1 ∧
    ctlwSeq word0.ctlw ≠ (((seeded linked).updPort 5 (fun p => { p with rxSeq := 0 })).port 5).rxSeq + 1 ∧
    (let p := (heldOnce 8).port 5; p.again = none ∧ ∃ y ∈ p.held, y.seq = idleSlot0.seq ∧ 8 ≤ y.replays) := by decide +kernel

theorem witness_LinkSlots_failing : (linked.port 5).st = .up ∧ (linked.port 5).coding = false ∧ (linked.port 5).switchIn.length ≤ (linked.port 5).switchOut.length ∧
    nativeFrames (linked.port 5) [] = none ∧ (linked.port 5).held = [] ∧ (heldOnce 0).port 5 ≠ (linked.port 5) ∧
    ((heldOnce 0).port 5).held ≠ [] ∧ ns 200 ≤ (tick (ns 200) (heldOnce 0)).time - ((heldOnce 0).port 5).heldAt := by decide +kernel

/-- Port 5 UP with a handshake code received. -/
def told (c : BitVec 4) (f : PortS → PortS) : State := port5 (fun p => f { upPort p with rxCtl := [c] })

theorem witness_LinkHandshakes : ((told (ctlWreq 1) id).port 5).rxCtl.contains (ctlWreq 1) = true ∧ ((told (ctlWreq 1) id).port 5).slp ≠ .negotiating ∧
    ((told (ctlWreq 1) id).port 5).req = none ∧ ((told (ctlWreq 1) (fun p => { p with slp := .negotiating })).port 5).slp = .negotiating ∧
    (let s := told (ctlWreq 1) (fun p => { p with req := some (.width 2), peerEp := true }); (s.port 5).req = some (.width 2) ∧ ownStands s 5 = true) ∧
    (let s := told (ctlWreq 1) (fun p => { p with req := some (.width 2) }); (s.port 5).req = some (.width 2) ∧ ownStands s 5 = false) ∧
    (let s := told ctlWack (fun p => { p with req := some (.width 2) });
      (s.port 5).rxCtl.contains ctlWack = true ∧ (s.port 5).req = some (.width 2)) ∧
    ((told ctlWdraw id).port 5).rxCtl.contains ctlWdraw = true ∧
    (let s := told ctlSwitch (fun p => { p with switchIn := [.width 2] });
      (s.port 5).rxCtl.contains ctlSwitch = true ∧ (s.port 5).switchIn = [.width 2]) ∧
    ((told ctlRtreq id).port 5).rxCtl.contains ctlRtreq = true ∧
    (let s := told ctlRtack (fun p => { p with req := some .retrain });
      (s.port 5).rxCtl.contains ctlRtack = true ∧ (s.port 5).req = some .retrain) ∧
    ((told ctlFecon id).port 5).rxCtl.contains ctlFecon = true ∧ fecAllowed (told ctlFecon id) 5 = true ∧
    fecAllowed (told ctlFecon (fun p => { p with coding := true })) 5 = false ∧ ((told ctlFecoff id).port 5).rxCtl.contains ctlFecoff = true ∧
    fecAllowed (told ctlFecoff id) 5 = true ∧ fecAllowed (told ctlFecoff (fun p => { p with coding := true })) 5 = false ∧
    (let s := told ctlFecack (fun p => { p with fecReq := some true });
      (s.port 5).rxCtl.contains ctlFecack = true ∧ (s.port 5).fecReq = some true) := by decide +kernel

/-- A running job whose slice port 5 carries. -/
def sliced (s : State) : State := s.updJob 0 (fun x => { x with st := .running, tag := 0x2A7, slices := [⟨5, true, 1, 0⟩] })

theorem witness_PortControl : Working up ∧ checking (.port 5) up = false ∧ (up.port 5).en = false ∧ portCheck 5 { PortS.reset with width := 3 } = some 0x0101 ∧
    portCheck 5 PortS.reset = none ∧ (0 : Word).extractLsb' 24 2 = 0 ∧ (linked.port 5).en = true ∧ checking (.port 5) linked = false ∧
    (let v : Word := 0x00040003; v.extractLsb' 24 2 = (linked.port 5).loop ∧ v.extractLsb' 14 2 = (linked.port 5).width ∧
      v.getLsbD 17 = (linked.port 5).fec ∧ v.getLsbD 0 = true) ∧
    (linked.port 5).st = .up ∧ (linked.port 5).req = none ∧ (linked.port 5).slp ≠ .negotiating ∧
    (let v : Word := 0x00020001; v.getLsbD 0 = true ∧ v.getLsbD 1 = false ∧ v.getLsbD 17 ≠ (linked.port 5).fec ∧
      v.extractLsb' 24 2 = (linked.port 5).loop ∧ v.extractLsb' 14 2 = (linked.port 5).width) ∧
    fecAllowed linked 5 = true ∧ fecAllowed (sliced linked) 5 = false ∧
    (let v : Word := 0x00004001; v.extractLsb' 14 2 ≠ (linked.port 5).width ∧ v.extractLsb' 14 2 ≠ 3 ∧ v.getLsbD 17 = (linked.port 5).fec) ∧
    carriesSlice linked 5 = false ∧ (linked.port 5).coding = false ∧ carriesSlice (sliced linked) 5 = true ∧
    (let v : Word := 0x01000001; v.extractLsb' 24 2 ≠ (linked.port 5).loop ∧ v.extractLsb' 24 2 ≠ 0 ∧ v.extractLsb' 14 2 = (linked.port 5).width) :=
  ⟨working_of rfl rfl, by decide +kernel⟩

/-- Port 5 in a phase of training. -/
def trains (ph : Phase) (st : PortSt) : State := port5 (fun p => { upPort p with phase := ph, st := st })

/-- A training word of a phase with EQDONE, and its CRC. -/
def trainWord (phase : Nat) : BitVec 128 := BitVec.ofNat 128 (phase + 0x80 * 2 ^ 8)
def measured (c : Bool) : TrainMeas := ⟨true, c, false, 0, 0, 0, 0, 0, 0⟩

theorem witness_PortTraining : ((trains .detect .detect).port 5).phase = .detect ∧ ((trains .clock .training).port 5).phase = .clock ∧
    ((trains .eq .training).port 5).en = true ∧ ((trains .eq .training).port 5).phase = .eq ∧ twN (trainWord 1) 0 1 % 16 = 1 ∧
    (measured true).converged = true ∧ bitN (twN (trainWord 1) 1 1) 7 = true ∧ (measured false).converged = false ∧ ((trains .eq .training).port 5).coding = false ∧
    (let p := (port5 (fun p => (List.range 8).foldl (fun p k => p.updLane k (fun l => { l with eqPeer := true, eqReq := 0x80 })) p)).port 5;
      ∀ l ∈ lanesIn (setFor p p.nextWidth), l ≠ 2 → (p.lane l).eqPeer = true ∧ (p.lane l).eqReq = 0x80) ∧
    2 ∈ lanesIn (setFor ((trains .eq .training).port 5) ((trains .eq .training).port 5).nextWidth) ∧
    ((trains .done .training).port 5).phase = .done ∧ ((trains .done .training).port 5).st ≠ .up ∧ twN (trainWord 4) 0 1 % 16 = 4 ∧
    ((trains .done .training).port 5).short = false ∧ training ((trains .eq .training).port 5) = true ∧
    (phaseLimit ((trains .eq .training).port 5)).1 ≤ (tick (us 500) (trains .eq .training)).time - ((trains .eq .training).port 5).phaseAt ∧
    ((trains .idle .down).port 5).st = .down ∧ ms 10 ≤ (tick (ms 10) (trains .idle .down)).time - ((trains .idle .down).port 5).phaseAt ∧
    crc32c (leBytes 16 (trainWord 1).toNat) ≠ 0 := by decide +kernel

theorem witness_LaneDetectors : (linked.port 5).laneSet.getLsbD 2 = true ∧ (linked.port 5).st = .up ∧
    (widest ((linked.port 5).updLane 2 (fun x => { x with healthy := false })) 0).isSome = true ∧
    (let p := { (linked.port 5) with lanes := (List.range 8).map (fun k => (k, { Lane.reset with healthy := false })) };
      widest (p.updLane 2 (fun x => { x with healthy := false })) 0 = none) ∧
    (let p := { (linked.port 5) with laneSet := 4 };
      allLanes (p.updLane 2 (fun x => { x with los := true, healthy := false })) (·.los) = true ∧
      allLanes (p.updLane 2 (fun x => { x with lol := true, healthy := false })) (·.lol) = true ∧
      allLanes (p.updLane 3 (fun x => { x with los := true, healthy := false })) (·.los) = false ∧
      allLanes (p.updLane 3 (fun x => { x with lol := true, healthy := false })) (·.lol) = false ∧ p.laneSet.getLsbD 3 = false) ∧
    (linked.port 5).clk = false ∧ (linked.port 5).en = true ∧ ((linked.port 5).lane 2).los = false ∧
    (((linked.port 5).updLane 2 (fun x => { x with los := true })).lane 2).los = true ∧
    ((port5 (fun p => { p with coding := true })).port 5).coding = true ∧
    (let p := (port5 (fun p => (upPort p).updLane 2 (fun l => { l with locked := false, hdrs := 64 }))).port 5; (p.lane 2).locked = false ∧ 64 ≤ (p.lane 2).hdrs) ∧
    ((linked.port 5).lane 2).hdrs < 64 ∧
    (let p := (port5 (fun p => { (upPort p).updLane 2 (fun l => { l with locked := true, badHdrs := 16 }) with laneSet := 4 })).port 5;
      (p.lane 2).locked = true ∧ 16 ≤ (p.lane 2).badHdrs ∧ allLanes (p.updLane 2 (fun x => { x with locked := false, lol := true, healthy := false })) (·.lol) = true ∧
      allLanes (p.updLane 3 (fun x => { x with locked := false, lol := true, healthy := false })) (·.lol) = false ∧ p.laneSet.getLsbD 3 = false) ∧ (linked.port 5).st ≠ .retrain ∧
    ((port5 (fun p => { p with fecAuto := false })).port 5).fecAuto = false := by decide +kernel

end Sys2Proof.Tests
end

