-- ==== Sys2Proof/Tests/Twins.lean ====
section
/-! SUPPORT. Witnesses of the statements about twin operation. -/

namespace Sys2Proof.Tests

set_option Elab.async false

open Sys2Proof Sys2Proof.Machine Sys2Proof.Safety

/-- The twin link enabled. -/
def twinOn (s : State) : State := s.updTwin (fun w => { w with en := true })

/-- A job of tag 0x2A7 with nothing but its twin state, named by TWIN_JOB, with STEP 9. -/
def twinJob (tw : JTwin) (st : JobSt) (s : State) : State :=
  (s.updJob 0 (fun x => { x with st := st, tag := 0x2A7, twin := tw, step := 3 })).updTwin (fun w => { w with jobTag := 0x2A7, jobStep := 9 })

/-- A MOOR of twin B with an ID, and one of no numerics level of ours. -/
def moorOf (id side level : Nat) : Cell :=
  mkRouted clsMgmt kDiscovery 0 0 0 0 0 0 0 0 0 (payOf (leBytes 2 (id + 0x1000 + 0x2000 * side) ++ leBytes 8 5 ++ leBytes 1 level ++ leBytes 1 0))

/-- A cell received on half 0 of the twin link. -/
def fromTwin (c : Cell) (s : State) : State := (twinOn s).updPort 128 (fun p => { upPort p with rxCells := [(0, c)] })

theorem witness_TwinMooring_enable : Working up ∧ checking .twin up = false ∧ up.twin.en = false ∧ (0x1 : Word).extractLsb' 28 4 = 0 ∧
    up.dev.idValid = false ∧ (identified up).dev.idValid = true ∧
    (let s := (identified up).updPort 129 (fun p => { p with width := 1 }); (halfBad (s.port 128) || halfBad (s.port 129)) = true) ∧
    halfBad (up.port 128) = false ∧ halfBad (up.port 129) = false ∧ (up.port 128).loop = 0 ∧ (up.port 129).loop = 0 ∧
    checking .twin (twinOn up) = false ∧ (twinOn up).twin.en = true := ⟨working_of rfl rfl, by decide +kernel⟩

theorem witness_TwinMooring_commands : Serving up ∧ (0x1 : Word).getLsbD 0 = (twinOn up).twin.en ∧ namedJob (twinOn up) = none ∧
    (let s := twinJob .serving .running (twinOn up); namedJob s = some 0 ∧ (s.job 0).twin ≠ .paired ∧ (s.job 0).twin = .serving ∧
      (moored s).twin.dst = .moored ∧ s.twin.xfer = none ∧ (s.job 0).step.toNat + 1 < s.twin.jobStep.toNat ∧
      (s.updTwin (fun w => { w with jobStep := 4 })).twin.jobStep.toNat ≤ (s.job 0).step.toNat + 1 ∧
      (s.updTwin (fun w => { w with xfer := some ⟨0x2A7, true, false, 0, [], false⟩ })).twin.xfer.isSome = true) ∧
    (let s := twinJob .paired .running (twinOn up); (s.job 0).twin = .paired ∧ (s.job 0).attempt = false ∧ (s.job 0).ids = [] ∧
      jobTiles s 0 = []) ∧
    (let s := (twinJob .out .running (twinOn up)).updJob 0 (fun x => { x with ready := true }); (s.job 0).twin = .out ∧ (s.job 0).ready = true) :=
  ⟨up_serving, by decide +kernel⟩

theorem witness_TwinMooring_moor : (moorOf 0 1 0).cls = clsMgmt ∧ (moorOf 0 1 0).kind = kDiscovery ∧ bitsN (moorOf 0 1 0).ksf 34 3 = 0 ∧
    (let s := fromTwin (moorOf 0 1 0) (identified up); s.twin.en = true ∧ isNext (moorOf 0 1 0) ((s.port (128 + (0 : Fin 2).val)).rxCells.map (·.2)) = true ∧
      moorCode s (moorOf 0 1 0) = none ∧ moorCode s (moorOf 1 1 0) = some 0x0903 ∧ moorCode s (moorOf 0 0 0) = some 0x0904 ∧
      moorCode s (moorOf 0 1 7) = some 0x0905 ∧ s.twin.dst ≠ .moored ∧
      ({ s with clk := { s.clk with autospare := false } }).clk.autospare = false ∧ s.dev.twinSel = false ∧
      (let s := { s with dev := { s.dev with twinSel := true } }; moorCode s (moorOf 0 0 0) = none ∧ s.twin.dst ≠ .moored ∧ s.dev.twinSel = true)) ∧
    within (tick 5 (twinOn up)) (twinOn up).twin.moorAt (us 100) = false ∧ ((fromTwin (moorOf 0 1 0) up).port 128).st = .up ∧
    ((fromTwin (moorOf 0 1 0) up).port 128).slp = .active ∧ ((fromTwin (moorOf 0 1 0) up).port 128).slpMove = .none ∧ ctlUse (fromTwin (moorOf 0 1 0) up) 128 < 256 ∧ (moored up).twin.dst = .moored ∧
    up.dev.twinSel = false ∧ (halfDown (up.port 128) && halfDown (up.port 129)) = true ∧
    (moored up).twin.lastMoor + us 300 ≤ (tick (us 300) (moored up)).time ∧ loadedSlots (moored up) = [] ∧ (moored up).twin.xfer = none := by
  decide +kernel

/-- A digest cell of one record: tag 0x2A7, collective 16, epoch 3, tile 2, 64 cells, group 0, CRC 0x55. -/
def digOne : Cell := mkRouted clsCtl kAck 0 0 0 0 0 0 0 0 (2 * 2 ^ 34) (payOf (
  leBytes 2 0x2A7 ++ leBytes 2 (16 + 0x3000) ++ leBytes 1 2 ++ leBytes 1 64 ++ leBytes 2 0 ++ leBytes 4 0x55 ++ leBytes 4 0))

/-- The device's own open records, its job PAIRED and moored. -/
def comparingWith (l : List DigRec) : State := (fromTwin digOne (moored (twinJob .paired .running up))).updTwin (fun w => { w with mine := l })

theorem witness_TwinDigestsAndNotices_digests : digOne.cls = clsCtl ∧ digOne.kind = kAck ∧ bitsN digOne.ksf 34 3 = 2 ∧
    (takeTwin digOne (tick 5 (comparingWith []))).isSome = true ∧ (digRec digOne.pay 0).fin = false ∧ (digRec digOne.pay 0).count ≠ 0 ∧
    (∀ k, k < 6 → 1 ≤ k → (digRec digOne.pay k).count = 0 ∧ (digRec digOne.pay k).fin = false) ∧
    slotOf (digRec digOne.pay 0).job.toNat (comparingWith []) = some 0 ∧ compares (comparingWith []) 0 = true ∧
    (let d := digRec digOne.pay 0;
      (comparingWith [d]).twin.mine.find? (fun m => sameStream m d && m.group = d.group) = some d ∧
      (comparingWith [{ d with crc := 0 }]).twin.mine.find? (fun m => sameStream m d && m.group = d.group) = some { d with crc := 0 } ∧
      (0 : Word) ≠ d.crc ∧ (comparingWith []).twin.mine.find? (fun m => sameStream m d && m.group = d.group) = none) ∧
    (let s := startInst 0 16 3 5 10 0 (rumOn stopped);
      (s.inst? 0 16).isSome = true ∧ ((s.inst? 0 16).map (·.deadline)) = some 10 ∧
      10 + us (s.job 0).vmargin.toNat ≤ (tick (us 1001) s).time) := by decide +kernel

/-- A note or a transfer cell of the twin for tag 0x2A7. -/
def noteCell (note state start : Nat) : Cell := mkRouted clsCtl kAck 0 0 0 0 0 0 0 0 (3 * 2 ^ 34) (payOf (
  leBytes 2 0x2A7 ++ leBytes 1 note ++ leBytes 1 state ++ leBytes 6 start))
def xferCell (op : Nat) : Cell := mkRouted clsCtl kAck 0 0 0 0 0 0 0 0 (4 * 2 ^ 34) (payOf (leBytes 2 0x2A7 ++ leBytes 1 op))

theorem witness_TwinDigestsAndNotices_notices : (∀ k, k < 4 → (noteCell k 0 0).cls = clsCtl ∧ (noteCell k 0 0).kind = kAck ∧
      bitsN (noteCell k 0 0).ksf 34 3 = 3 ∧ (noteCell k 0 0).pn 2 1 % 4 = k ∧ noteTagOf (noteCell k 0 0) = 0x2A7 ∧
      (takeTwin (noteCell k 0 0) (tick 5 (fromTwin (noteCell k 0 0) (twinJob .paired .running up)))).isSome = true) ∧
    (let s := twinJob .paired .running up; slotOf 0x2A7 s = some 0 ∧ (s.job 0).twin = .paired ∧ (s.job 0).verd = none ∧ s.twin.xfer = none ∧
      (s.job 0).attempt = false ∧ (s.job 0).ids = [] ∧ jobTiles s 0 = [] ∧ (s.job 0).st = .running) ∧
    ((twinJob .out .running up).job 0).twin = .out ∧ ((twinJob .serving .running up).job 0).twin = .serving ∧ up.dev.twinSel = false ∧
    (let s := (twinJob .paired .loaded up).updJob 0 (fun x => { x with query := some (1, true, 0) });
      (s.job 0).query = some (1, true, 0) ∧ 0 + us 100 ≤ (tick (us 100) s).time) ∧
    (let s := (twinJob .paired .loaded up).updJob 0 (fun x => { x with query := some (1, false, 0) });
      (s.job 0).query.isSome = true) ∧
    bitsN ((noteCell 3 7 0).pn 3 1) 0 3 = 7 ∧ bitsN ((noteCell 3 0x20 0).pn 3 1) 0 3 = 0 ∧ bitsN ((noteCell 3 0x20 0).pn 3 1) 4 3 = 2 ∧
    slotOf 0x2A7 up = none := by decide +kernel

/-- A transfer of the job, and a COPY cell of granule 0. -/
def transfer (x : Xfer) (s : State) : State := s.updTwin (fun w => { w with xfer := some x })
def copyOne : Cell := mkRouted clsUns kRelay 0 0 0 0 0 0 0 0 (1 * 2 ^ 36 + 0x2A7 * 2 ^ 24) 0

theorem witness_Transfers_cells : (∀ k, k < 5 → (xferCell k).cls = clsCtl ∧ (xferCell k).kind = kAck ∧ bitsN (xferCell k).ksf 34 3 = 4 ∧
      (xferCell k).pn 2 1 = k ∧ noteTagOf (xferCell k) = 0x2A7 ∧
      (takeTwin (xferCell k) (tick 5 (fromTwin (xferCell k) (twinJob .out .running up)))).isSome = true) ∧
    (let s := moored (transfer ⟨0x2A7, true, false, 0, [], false⟩ up);
      s.twin.dst = .moored ∧ s.twin.xfer = some ⟨0x2A7, true, false, 0, [], false⟩ ∧ s.dev.twinSel = false) ∧
    (let s := moored (twinJob .out .running up); slotOf 0x2A7 s = some 0 ∧ (s.job 0).twin = .out ∧ s.twin.xfer = none) ∧
    (0x2A7 : BitVec 12).toNat = 0x2A7 ∧
    (let s := (twinJob .out .running up).updJob 0 (fun x => { x with ready := true, rejoin := some 4 });
      (s.job 0).twin = .out ∧ (s.job 0).ready = true ∧ (s.job 0).rejoin.isSome = true) ∧
    (let s := transfer ⟨0x2A7, false, true, 1, [], false⟩ (twinJob .out .running up);
      s.twin.xfer = some ⟨0x2A7, false, true, 1, [], false⟩ ∧ s.twin.wanted = none ∧ isCopy 0x2A7 copyOne = true ∧ copyOne.cls = clsUns ∧
      copyOne.kind = kRelay ∧ (takeTwin copyOne (tick 5 (fromTwin copyOne s))).isSome = true) := by decide +kernel

theorem witness_Transfers_passes :
    (let s := transfer ⟨0x2A7, false, true, 0, [], false⟩ (rumOn stopped);
      slotOf 0x2A7 s = some 0 ∧ ∃ g ∈ (s.job 0).granules, ([] : List Nat).contains g = false) ∧
    (let s := transfer ⟨0x2A7, false, true, 1, [], false⟩ (twinJob .out .running up);
      (1 : Nat) ≠ 0 ∧ ([] : List Nat).length < 4096 ∧ (s.job 0).twin = .out ∧ s.twin.xfer.isSome = true) ∧
    (let s := transfer ⟨0x2A7, true, true, 1, [], true⟩ (twinJob .serving .running up);
      passSent s 0x2A7 = true ∧ s.twin.wanted = none ∧ slotOf 0x2A7 s = some 0) := by decide +kernel

end Sys2Proof.Tests
end

