-- ==== Sys2Proof/Tests/Cells.lean ====
section
/-! SUPPORT. Witnesses of the statements about cells at their tiles, firing, STATs, decisions and verdicts. -/

namespace Sys2Proof.Tests

set_option Elab.async false

open Sys2Proof Sys2Proof.Machine Sys2Proof.Safety

/-- A binding of collective 16 in a role, with input queue 0. -/
def bindAs (role : Nat) : BitVec 256 := BitVec.ofNat 256 (16 + role * 2 ^ 16 + 1 * 2 ^ 31)

/-- Job slot 0 loaded on a tile with one binding, one queue of each sort and 100 cells. -/
def onTile (n role : Nat) (s : State) : State := (s.updTile n (fun x => ({ x with bind := [(0, bindAs role)], freeList := some [7, 8] }).updJob 0 (fun t => { t with
  loaded := true, iq := [0], vq := [0], oq := [0], bslots := [0], nbind := 1, accCount := 4, cells := 100 }))).updJob 0 (fun x => { x with
  grants := [{ tile := n, iq := 1, vq := 1, oq := 1, bs := 1, acc := 4, reqBase := 0, base := 0, cells := 100, prog := 0, records := 2, held := [] }] })

/-- The RUM entry with two members, job RUNNING. -/
def summing (s : State) : State := ((rumOn (s.updJob 0 (fun x => { x with st := .running, tag := 0x2A7, ids := [16], devset := [0, 1], twin := .paired }))).updJob 0
  (fun x => { x with entries := [(16, Entry.ofCfg (BitVec.ofNat 1024 (rumEntry + 1 * 2 ^ 224)))] }))

/-- Its instance of epoch 3 runs, with the late limit at 9,000 us. -/
def firing (s : State) : State := startInst 0 16 3 5 (us 9000) 0 (summing s)

/-- A scheduled cell of job 0x2A7, collective 16: kind, last of its chunk, epoch, chunk field, rank. -/
def schedCell (kind : Nat) (last : Bool) (epoch ord rank : Nat) (pay : Payload) : Cell :=
  mkColl kind 0 false last false false 0x2A7 16 epoch ord rank 0 pay

/-- The cell has come on port 5. -/
def comes (c : Cell) (s : State) : State := s.updPort 5 (fun p => { upPort p with rxCells := [(0, c)] })

theorem witness_ContributionCells :
    (let c := schedCell 1 false 3 0 0 0
     let s := comes c (firing (onTile 5 roleIngress up))
     let s0 := tick 10 s
     let e := (s.job 0).entry 16
     isMemberCell s0 5 c = true ∧ (takeRx 5 c s0).isSome = true ∧ slotOf c.job s0 = some 0 ∧ (s.job 0).ids.contains (BitVec.ofNat 12 c.coll) = true ∧
      tileDown s0 5 = false ∧ foreignPort s0 0 5 = false ∧ sourceOf s0 0 5 c = .member 0 ∧ fateOf s0 e c = .live ∧
      tileDown (s.updDev (fun d => { d with resetting := [5, 6] })) 5 = true ∧ fateOf s0 e (schedCell 1 false 2 0 0 0) = .stale ∧ fateOf (tick (us 9000) s) e c = .late ∧
      ((s.inst? 0 16).bind (fun i => i.members.find? (fun m => m.port = 5))).map (fun m =>
        (memberOk e 0 m c, memberOk e 0 m (schedCell 1 false 3 1 0 0))) = some (true, false) ∧
      bindingFor s0 5 0 16 roleIngress = some (bindAs roleIngress) ∧ Room 5 0 (bindAs roleIngress) 0 7 [8] s0) ∧
    (let s := firing (onTile 5 roleIngress up)
     let c := schedCell 1 false 3 0 0 0
     let f := (s.updPort 6 (fun p => { upPort p with kind := .endpoint, rxCells := [(0, c)] }))
     foreignPort f 0 6 = true ∧ isMemberCell f 6 c = true ∧ (takeRx 6 c f).isSome = true ∧
      (s.job 0).ids.contains (BitVec.ofNat 12 17) = false) ∧
    (let c := schedCell 1 false 3 0 0 0
     let s := (firing (onTile 5 roleIngress up)).updJob 0 (fun x => { x with
       ids := [16, 17], control := memOf (leBytes 128 (5 * 2 ^ 30 + 2 ^ 512 * (6 * 2 ^ 30)))
       entries := x.entries ++ [(17, Entry.ofCfg (BitVec.ofNat 1024 (rumEntry + 1 + 2 ^ 224 + 2 ^ 288)))] })
     let f := s.updPort 6 (fun p => { upPort p with kind := .endpoint, rxCells := [(0, c)] })
     foreignPort f 0 6 = false ∧ sourceOf f 0 6 c = .wrong ∧ fateOf (tick 10 f) ((f.job 0).entry 16) c = .live ∧ (f.inst? 0 16).isSome = true ∧
      isMemberCell f 6 c = true ∧ (takeRx 6 c f).isSome = true) := by
  unfold Room
  decide +kernel

/-- The exchange has brought the cell to a tile. -/
def brought (n : Nat) (c : Cell) (s : State) : State := s.updTile n (fun x => { x with inbox := [c] })

/-- The instance's chunk 0 with a number of finished passes. -/
def passed (k : Nat) (s : State) : State := s.updInst 0 16 (fun i => { i with chunks := [⟨0, 0, 0, k, k, 0, false⟩] })

theorem witness_CellsAtTheirTiles_sums :
    (let c := schedCell 2 false 3 0 0 0
     let s := brought 75 c (firing (onTile 75 roleHome up))
     let s0 := tick 10 s
     let e := (s.job 0).entry 16
     c.cls = clsSched ∧ slotOf c.job s0 = some 0 ∧ (s.job 0).ids.contains (BitVec.ofNat 12 c.coll) = true ∧ tileDown s0 75 = false ∧
      fateOf s0 e c = .live ∧ (takeTile 75 c s0).isSome = true ∧ Room 75 0 (bindAs roleHome) 0 7 [8] s0 ∧ c.kind = kPartial ∧
      (tileChunks s0 75 0 16).find? (fun q => q.num = e.cellChunk c) = some ⟨0, 0, 0, 0, 0, 0, false⟩ ∧ (s.inst? 0 16).isSome = true ∧
      bindingFor s0 75 0 16 roleHome = some (bindAs roleHome) ∧ c.last = false ∧ 0 < e.passes ∧
      (tileChunks (passed 1 s) 75 0 16).find? (fun q => q.num = e.cellChunk c) = some ⟨0, 0, 0, 1, 1, 0, false⟩ ∧ e.passes ≤ 1 ∧
      (let d := schedCell 2 true 3 7 0 0; d.last = true ∧ d.parity = false ∧ e.op ≠ 0xB ∧ 0 + foldCount d < e.m ∧ e.cellChunk d = 0)) ∧
    (let c := schedCell 1 false 3 0 0 0
     let s := brought 4 c (firing (onTile 4 roleStage up))
     c.kind = kContribution ∧ (s.tile 4).inbox.contains c = true ∧ (tileChunks s 4 0 16).any (fun q => q.num = 0) = false ∧
      bindingFor s 4 0 16 roleStage = some (bindAs roleStage) ∧ Room 4 0 (bindAs roleStage) 0 7 [8] s) ∧
    (let c := schedCell 3 false 3 0 0 0
     let s := brought 5 c (firing (onTile 5 roleEgress up))
     c.kind = kResult ∧ bindingFor s 5 0 16 roleEgress = some (bindAs roleEgress) ∧ (takeTile 5 c s).isSome = true ∧
      Room 5 0 (bindAs roleEgress) 0 7 [8] s ∧ bindingFor (onTile 5 roleHome s) 5 0 16 roleEgress = none) := by
  unfold Room
  decide +kernel

/-- A SHUFFLE entry of 64 records with port 5 as its one member, and a fragment 0 of a record of index, length and fragments. -/
def shuffling : State := startInst 0 16 3 5 (us 9000) 0 ((summing (onTile 5 roleIngress up)).updJob 0 (fun x => { x with
  entries := [(16, Entry.ofCfg (BitVec.ofNat 1024 (rumEntry + 4 * 2 ^ 16 + 64 * 2 ^ 512)))], steps := [] }))
def head (last : Bool) (idx len frags : Nat) : Cell := schedCell 6 last 3 0 0 (payOf (leBytes 5 idx ++ leBytes 3 len ++ leBytes 2 frags))
def next_ : Cell := schedCell 6 false 3 1 0 0

/-- The member of port 5 with a record held. -/
def holds (l : List Cell) (s : State) : State := s.updInst 0 16 (fun i => { i with members := i.members.map (fun m => { m with record := l }) })

theorem witness_CellsAtTheirTiles_records :
    (let c := head false 3 200 3
     let s := comes c shuffling
     let s0 := tick 10 s
     let e := (s.job 0).entry 16
     c.kind = kShuffle ∧ e.op = 9 ∧ (takeRx 5 c s0).isSome = true ∧ sourceOf s0 0 5 c = .member 0 ∧ foreignPort s0 0 5 = false ∧ fateOf s0 e c = .live ∧ tileDown s0 5 = false ∧
      ((s.inst? 0 16).bind (fun i => i.members.find? (fun m => m.port = 5))).map (fun m =>
        (m.rank.toNat, m.done, m.record, m.dropping)) = some (c.rank, false, [], false) ∧
      c.fmt = 0 ∧ c.parity = false ∧ c.esc = false ∧ c.prov = false ∧ c.chunk = 0 ∧ headBad e c = false ∧ recLength c ≠ 0 ∧ c.last = false ∧
      headBad e (head false 64 200 3) = true ∧ headBad e (head true 0 0 1) = false ∧ recLength (head true 0 0 1) = 0 ∧ (let d := head true 3 40 1; headBad e d = false ∧ recLength d ≠ 0 ∧ d.last = true) ∧
      bindingFor s0 5 0 16 roleIngress = some (bindAs roleIngress) ∧ Room 5 0 (bindAs roleIngress) 0 7 [8] s0) ∧
    (let s := holds [head false 3 200 3] shuffling
     next_.chunk ≠ 0 ∧ next_.last = false ∧ (takeRx 5 next_ (comes next_ s)).isSome = true ∧
      ((s.inst? 0 16).bind (fun i => i.members.find? (fun m => m.port = 5))).map (fun m =>
        (m.dropping, m.record.length, ((m.record.head?).map recFrags).getD 0)) = some (false, next_.chunk, 3) ∧ next_.chunk + 1 ≠ 3) := by
  unfold Room
  decide +kernel

/-! ### Firing -/

/-- The entry in its job, set to fire every tide from tide 2 on. -/
def due (steps : Bool) (s : State) : State := ((summing s).updJob 0 (fun x => { x with startTide := 2, steps := if steps then x.steps else [] })).updTide
  (fun t => { t with now := 4 })

/-- The same entry, started by LAUNCHes of rank 0, and one toward epoch 4 that starts at a time. -/
def launched (s : State) : State := (due false s).updJob 0 (fun x => { x with
  entries := [(16, Entry.ofCfg (BitVec.ofNat 1024 (rumEntry + 1 * 2 ^ 24)))] })
def launchCell (start rank : Nat) : Cell := mkRouted clsCtl kLaunch 0 0x2A7 16 4 0 0 0 0 0 (payOf (
  leBytes 2 (16 + 0x4000) ++ leBytes 8 start ++ leBytes 4 9 ++ leBytes 3 rank))

theorem witness_Firing_tide :
    (let s := tick 5 (due false up); let x := s.job 0; let e := x.entry 16
     x.st = .running ∧ x.twin = .paired ∧ x.ids.contains (16 : BitVec 12) = true ∧ e.launched = false ∧ e.period ≠ 0 ∧
      x.startTide.toNat ≤ s.tide.now ∧ s.tide.now % e.period = e.phase ∧ e.fired = false ∧ x.stepPos 16 = none ∧ firingCode s e false = none) ∧
    (let s := tick 5 (due true up); let x := s.job 0; x.stepPos 16 = some 0 ∧ x.attempt = false ∧ firingCode s (x.entry 16) false = none) ∧
    (let s := (due true up).updJob 0 (fun x => { x with attempt := true, fired := [0] }); let x := s.job 0
     x.stepPos 16 = some 0 ∧ x.attempt = true ∧ x.fired.contains 0 = true ∧ (x.entry 16).fired = false) ∧
    (let s := tick 5 ((firing up).updJob 0 (fun x => { x with steps := [] })); let e := (s.job 0).entry 16
     (s.job 0).stepPos 16 = none ∧ firingCode s e false = some 0x060A ∧ e.fired = true ∧ e.epoch.toNat ≠ 4 / e.period % 16) := by decide +kernel

theorem witness_Firing_launch :
    (let c := launchCell 100 0; let s := comes c (launched up); let s0 := tick 5 s; let x := s.job 0; let e := x.entry 16
     c.kind = kLaunch ∧ (takeRx 5 c s0).isSome = true ∧ slotOf c.job s0 = some 0 ∧ c.pn 0 2 % 4096 = 16 ∧ launchIgnored s0 x e 5 c = false ∧
      launchIgnored s0 x e 5 (launchCell 100 1) = true ∧ e.fired = false ∧ x.stepPos 16 = none ∧ s0.time ≤ launchStart c ∧
      firingCode s0 e false = none ∧ launchStart (launchCell 1 0) < s0.time ∧ launchIgnored s0 x e 5 (launchCell 1 0) = false) ∧
    (let s := firing up; let e := (s.job 0).entry 16
     (s.inst? 0 16).map (fun i => (i.sent0, unfinished s 0 16 e i, i.deadline, i.worst)) = some (false, true, us 9000, 0) ∧ e.op ≠ 0xA ∧
      (0 : BitVec 4).toNat < stAborted ∧ (tick 10 s).time < us 9000 ∧ us 9000 ≤ (tick (us 9000) s).time) := by decide +kernel

/-! ### STATs, decisions, verdicts -/

/-- The instance's part has ended: its chunk drained, its members done. -/
def partDone (s : State) : State := s.updInst 0 16 (fun i => { i with chunks := [⟨0, 0, 0, 1, 1, 1, true⟩], members := [], left := [(0, 9999), (5, 9999)] })

/-- The same job with a SUM entry in place of the RUM, outside the step list; with a second device in its home map. -/
def sumOnly (s : State) : State := (summing s).updJob 0 (fun x => { x with
  entries := [(16, Entry.ofCfg (BitVec.ofNat 1024 (rumEntry - 5 * 2 ^ 16 + 1 * 2 ^ 224)))], steps := []
  control := memOf (leBytes 128 (5 * 2 ^ 30 + 2 ^ 64 * (1 * 2 ^ 18))) })

/-- A STAT of the job toward epoch 3 for a step, and one of a kind and sub given. -/
def statOf (step sub : Nat) : Cell := mkRouted clsCtl kStat 0 0x2A7 16 3 0 0 0 0 (sub * 2 ^ 34) (payOf (leBytes 2 (16 + 0x3000) ++ leBytes 5 step))

/-- The device has its ID, so that its verdict tile works; a cell is delivered to it. -/
def verdicts (v : Option Verd) (s : State) : State := (identified (summing s)).updJob 0 (fun x => { x with verd := v })
def delivered (c : Cell) (s : State) : State := s.updFabric (fun f => { f with hmRx := [c] })
/-- Tile 39, the verdict tile of tag 0x2A7, with its VERDICT binding; and a second firing's STAT. -/
def statSecond : Payload := payOf (leBytes 2 (16 + 0x3000) ++ leBytes 5 8 ++ leBytes 1 stAborted ++ leBytes 2 0x070A)
def withVerdict (s : State) : State := onTile 39 roleVerdict s
def bound39 (s : State) : Prop := tileDown s (verdictTile (s.job 0)) = false ∧
  bindingFor s (verdictTile (s.job 0)) 0 16 roleVerdict = some (bindAs roleVerdict) ∧
  ((s.tile (verdictTile (s.job 0))).job 0).iq[bIq (bindAs roleVerdict)]? = some 0 ∧ (iqCells s (verdictTile (s.job 0)) 0).length < 1024
def verdAt (deadline : Time) (ph : VPhase) : Verd := ⟨[], deadline, ph, none, 0x3F800000, 0, 0⟩
def held (s : State) : State := s.updClk (fun c => { c with hold := true })

theorem witness_StatsAndDecisions_send :
    ((firing up).inst? 0 16).map (partEnded (firing up) 0 16) = some false ∧
    (let s := partDone (firing up)
     (s.inst? 0 16).map (fun i => (partEnded s 0 16 i, i.sent0)) = some (true, false) ∧ ((s.job 0).entry 16).op = opRum ∧ comparing s 0 16 = false ∧
      queuesHold s 0 16 = false ∧ hasPart s 0 16 = true ∧ postsIn s 0 16 false = true) ∧
    (let s := partDone (startInst 0 16 3 5 (us 9000) 0 (sumOnly up))
     (s.inst? 0 16).map (fun i => (partEnded s 0 16 i, i.sent0, i.worst, (joinParts i.parts).sat)) = some (true, false, 0, false) ∧
      ((s.job 0).entry 16).op ≠ opRum ∧ ((s.job 0).entry 16).op ≠ 0xA ∧ comparing s 0 16 = false ∧ queuesHold s 0 16 = false ∧
      hasPart s 0 16 = true ∧ postsIn s 0 16 false = true) := by decide +kernel

theorem witness_StatsAndDecisions_stats :
    (let c := statOf 8 0; let s := delivered c (withVerdict (verdicts (some (verdAt 0 .collecting)) up)); let x := s.job 0
     c.kind = kStat ∧ (takeAny c s).isSome = true ∧ slotOf c.job s = some 0 ∧ c.coll = 16 ∧ ksfBad c = false ∧ isVerdict s 0 = true ∧
      x.twin = .paired ∧ x.ids.contains (16 : BitVec 12) = true ∧ (x.entry 16).op = opRum ∧
      x.steps.findIdx? (fun q => q.1.toNat = 16) = some 0 ∧ x.verd = some (verdAt 0 .collecting) ∧ statStep c.pay = x.attemptStep ∧
      (held s).clk.hold = true ∧ statStep (statOf 9 0).pay ≠ x.attemptStep ∧ bound39 s ∧
      (let u : StatRec := ⟨0, 0, false, statSecond⟩; let v := { verdAt 0 .collecting with stats := [⟨0, 0, false, c.pay⟩] }
       v.stats.any (fun q => q.dev = 0 && q.pos = 0 && q.round = false) = true ∧ supersedes u = true ∧ statStep u.pay = x.attemptStep ∧
        supersedes ⟨0, 0, false, c.pay⟩ = false) ∧
      (let s := delivered c (verdicts (some (verdAt 0 .collecting)) up); bindingFor s 39 0 16 roleVerdict = none ∧ tileDown s 39 = false)) ∧
    (let c := statOf 0 0; let s := delivered c (withVerdict (identified (sumOnly up))); let x := s.job 0; let e := x.entry 16
     (takeAny c s).isSome = true ∧ isVerdict s 0 = true ∧ e.op ≠ opRum ∧ statTarget c.pay / 4096 = 3 ∧
      (statDevs x e).any (fun d => !(vstatsOf { e with vstats := [(0, c.pay)] } 3).any (fun q => q.1.toNat = d)) = true ∧ bound39 s) := by
  unfold bound39
  decide +kernel

theorem witness_StatsAndDecisions_decisions :
    ((verdicts (some (verdAt 0 .collecting)) up).job 0).verd = some (verdAt 0 .collecting) ∧ (held up).clk.hold = true ∧
    (let s := (verdicts (some (verdAt 9 .collecting)) up).updJob 0 (fun x => { x with twin := .serving }); let x := s.job 0
     x.verd = some (verdAt 9 .collecting) ∧ 9 ≤ (tick 9 s).time ∧ full0 x (verdAt 9 .collecting) = false ∧ s.clk.hold = false ∧
      x.twin = .serving) ∧
    (let c := mkRouted clsCtl kVerdict 0 0x2A7 16 3 0 0 0 0 (3 * 2 ^ 34) (payOf (leBytes 5 8))
     let v := verdAt 9 (.twin1 0)
     let s := moored (fromTwin c (verdicts (some v) up)); let x := s.job 0
     c.kind = kVerdict ∧ ksfSub c = 3 ∧ ksfBad c = false ∧ (takeTwin c s).isSome = true ∧ slotOf c.job s = some 0 ∧ isVerdict s 0 = true ∧
      payN c.pay 0 5 = x.attemptStep ∧ (held s).clk.hold = true ∧ s.clk.hold = false ∧ x.twin = .paired ∧ alone s 0 v = false ∧
      x.verd = some v ∧ v.phase = .twin1 0) := by decide +kernel

/-- A step VERDICT or clip order for a step with a decision, and an instance VERDICT of epoch 3. -/
def stepVerd (sub step dec : Nat) : Cell := mkRouted clsCtl kVerdict 0 0x2A7 0 0 0 0 0 0 (sub * 2 ^ 34) (payOf (leBytes 5 step ++ leBytes 1 dec))
def instVerd : Cell := mkRouted clsCtl kVerdict 0 0x2A7 16 3 0 0 0 0 0 (payOf (leBytes 2 (16 + 0x3000) ++ leBytes 1 stComplete))

/-- The job in an open attempt; and with a planned entry. -/
def attempting (s : State) : State := (firing s).updJob 0 (fun x => { x with attempt := true, fired := [0], gate := .opened })
def planned (s : State) : State := startInst 0 16 3 5 (us 9000) 0 ((summing s).updJob 0 (fun x => { x with
  entries := [(16, Entry.ofCfg (BitVec.ofNat 1024 (rumEntry + 2 ^ 85)))] }))

theorem witness_VerdictsApplied_verdicts :
    (let c := stepVerd 1 8 1; let s := delivered c (attempting up); let x := s.job 0
     c.kind = kVerdict ∧ (takeAny c s).isSome = true ∧ slotOf c.job s = some 0 ∧ ksfBad c = false ∧ ksfSub c = 1 ∧ x.twin = .paired ∧
      (held s).clk.hold = true ∧ s.clk.hold = false ∧ ksfPart c = 0 ∧ payN (stepVerd 1 9 1).pay 0 5 ≠ x.attemptStep ∧
      payN c.pay 0 5 = x.attemptStep ∧ payN c.pay 27 1 = 0 ∧ x.attempt = true ∧ payN c.pay 5 1 = 1 ∧ payN (stepVerd 1 8 2).pay 5 1 = 2 ∧
      payN (stepVerd 1 8 3).pay 5 1 = 3 ∧ payN (stepVerd 1 8 0).pay 5 1 = 0 ∧ 3 < payN (stepVerd 1 8 4).pay 5 1) ∧
    (let c := instVerd; let s := delivered c (planned up); let x := s.job 0; let e := x.entry 16
     (takeAny c s).isSome = true ∧ ksfBad c = false ∧ ksfSub c = 0 ∧ x.away = false ∧ x.ids.contains (BitVec.ofNat 12 c.coll) = true ∧ payN c.pay 0 2 % 4096 = 16 ∧
      e.fired = true ∧ c.epoch = e.epoch.toNat ∧ e.inst.any (fun i => decide ((tick 10 s).time < i.start)) = false ∧
      e.inst.any (fun i => decide ((tick 1 s).time < i.start)) = true ∧ instVerd.epoch ≠ 4 ∧ payN c.pay 2 1 = stComplete ∧ planAuto e.plan = true ∧ isSumming e.op = true ∧
      e.inst.isSome = true ∧ e.next = none ∧ planAuto (((attempting up).job 0).entry 16).plan = false) ∧
    (let c := stepVerd 2 8 2; let s := delivered c (attempting up); let x := s.job 0
     ksfSub c = 2 ∧ ksfBad c = false ∧ x.away = false ∧ payN c.pay 0 5 = x.attemptStep ∧
      x.steps.any (fun q => !(homeChunks s x (x.entry q.1.toNat)).isEmpty) = true ∧ x.gate ≠ .reported ∧
      ((s.updJob 0 (fun x => { x with gate := .reported })).job 0).gate = .reported) := by decide +kernel

/-- A commit word that waits for its acknowledgement. -/
def committing (m : Option (Option (Nat × Nat × Nat × Nat))) (s : State) : State := (attempting s).updJob 0 (fun x => { x with commitPend := m })

theorem witness_VerdictsApplied_acks : ((committing none up).job 0).commitPend = none ∧ ((committing (some none) up).job 0).commitPend = some none ∧
    (let x := (committing (some (some (0, 8, 1, 0))) up).job 0; x.commitPend = some (some (0, 8, 1, 0)) ∧ x.rejoin = none) ∧
    (let x := ((committing (some (some (0, 8, 1, 0))) up).updJob 0 (fun x => { x with twin := .serving, rejoin := some 8 })).job 0
     x.commitPend = some (some (0, 8, 1, 0)) ∧ x.twin = .serving ∧ x.rejoin = some (x.step + 1)) := ⟨rfl, rfl, ⟨rfl, rfl⟩, rfl, rfl, rfl⟩

end Sys2Proof.Tests
end

