-- ==== Sys2Proof/Tests/Engines.lean ====
section
/-! SUPPORT. Witnesses of the statements about tile programs, the pilot core, the watchdogs, reset and the step. -/

namespace Sys2Proof.Tests

set_option Elab.async false

open Sys2Proof Sys2Proof.Machine Sys2Proof.Safety

/-- An instruction of opcode, local binding 0, SRC, DST, ACC, and MOD. -/
def insn (opc src dst acc mod : Nat) : DWord := BitVec.ofNat 64 (opc * 2 ^ 59 + src * 2 ^ 46 + dst * 2 ^ 40 + acc * 2 ^ 29 + mod)
def queued (i : DWord) : CqEnt := ⟨i, 0, 0, false, 0, false, false⟩

/-- The home binding with a window of one segment. -/
def wide (n : Nat) (s : State) : State := s.updTile n (fun x => { x with bind := [(0, bindAs roleHome ||| BitVec.ofNat 256 (2 ^ 48))] })

/-- The instance runs, and an instruction stands at the head of a command queue of tile 75. -/
def atWork (q : Nat) (i : DWord) (s : State) : State := (firing (wide 75 (onTile 75 roleHome s))).updTile 75 (fun x => x.updJob 0 (fun t =>
  { t with cqs := [(q, [queued i])] }))

/-- A contribution of FP32 zeros in input queue 0. -/
def fed (s : State) : State := s.updTile 75 (fun x => { x with iqs := [(0, [⟨schedCell 1 false 3 0 0 0, none⟩])] })

def addwInsn : DWord := insn 0x05 0x00 0x1C 0 0

/-- The state that a unit leaves. -/
def left (r : Res) : Option State := match r with
  | .done s => some s
  | _ => none

def adding : State := tick 5 (fed (atWork 0 addwInsn up))
def added : Res := addwUnit 75 0 (queued addwInsn) adding

theorem witness_EngineUnits_head : AtHead 75 0 0 (queued addwInsn) adding ∧
    (onePlan (queued addwInsn)).units = 1 ∧ (left added).isSome = true ∧
    (left added).map (fun s => cqHead s 75 0 0) = some (some (queued addwInsn)) ∧
    addwUnit 75 0 (queued addwInsn) (tick 5 (atWork 0 addwInsn up)) = .wait := by
  unfold AtHead
  decide +kernel

/-- A unit that is done, run as the one unit of its head. -/
theorem one_unit {n j q : Nat} {p : Plan} {unit : Unit'} {c : CqEnt} {s s1 : State} (h1 : cqHead s n j q = some c) (h2 : c.skipped = false)
    (h3 : c.done < p.units) (h4 : unit c (c.done / max 1 p.pushN) (c.done % max 1 p.pushN) s = .done s1) :
    UnitsRun n j q p unit 1 s (updHead n j q (fun e => { e with done := e.done + 1 }) s1) := ⟨c, s1, h1, h2, h3, h4, rfl⟩

theorem of_left {r : Res} (h : (left r).isSome = true) : ∃ s, r = .done s := by
  cases r <;> simp_all [left]

theorem added_done : ∃ s, added = .done s := of_left witness_EngineUnits_head.2.2.1

/-- One unit runs, and the head stands with it counted. -/
theorem witness_EngineUnits_run : ∃ s, UnitsRun 75 0 0 (onePlan (queued addwInsn)) (fun c _ _ s => addwUnit 75 0 c s) 1
    adding (updHead 75 0 0 (fun e => { e with done := e.done + 1 }) s) :=
  added_done.elim (fun s hs => ⟨s, one_unit witness_EngineUnits_head.1.1 rfl (by decide) hs⟩)

/-- An FP32 ADDW from a vector queue is skipped, a reserved MOD bit is illegal, and without an instance the head is discarded. -/
def oddEnt : Ent := ⟨0, 0, 0, 0, 0, 24, 1, false, none, 0, 0, false, false⟩
def addwVq : DWord := insn 0x05 0x10 0x1C 0 0

theorem witness_EngineUnits_others :
    (let s := (atWork 0 addwVq up).updTile 75 (fun x => { x with vqs := [(0, [oddEnt])] })
     AtHead 75 0 0 (queued addwVq) s ∧ addwUnit 75 0 (queued addwVq) s = .skip 0x0810 ∧ 0 < (onePlan (queued addwVq)).units) ∧
    (let c := queued (insn 0x05 0x00 0x1C 0 1); let s := atWork 0 c.insn up
     cqHead s 75 0 0 = some c ∧ c.done = 0 ∧ c.skipped = false ∧ c.held = false ∧ tileDown s 75 = false ∧ discards s 75 0 c.insn = false ∧
      illegalCode s 75 0 c = some 0x0802 ∧ skipUnit 75 0 c.insn (onePlan c) 0 0 (skipHead 75 0 0 c 0x0802 true s) = .wait) ∧
    (let s := (atWork 0 addwInsn up).updJob 0 (fun x => x.updEntry 16 (fun e => { e with inst := none }))
     cqHead s 75 0 0 = some (queued addwInsn) ∧ discards s 75 0 addwInsn = true) ∧
    (setUp 75 0 (atWork 2 0 up)).isSome = true ∧ (setUp 75 0 ((atWork 2 0 up).updTile 75 (fun x => { x with mset := 1 }.updJob 1 (fun t => { t with mset := 1, cqs := [(2, [queued 0])] })))) = none := by
  unfold AtHead
  decide +kernel

/-- The cqe of every opcode that takes data meets the hypothesis on its opcode. -/
theorem witness_EngineUnits_opcodes : ∀ k, k < 20 → 3 ≤ k → iOpc (insn k 0 0 0 0) = k := by decide

theorem witness_AccumulatorsTakeOperands : (-(2 : Int) ^ 95 < 1 + 1 ∧ (1 : Int) + 1 < 2 ^ 95) ∧ (2 : Int) ^ 95 ≤ (2 ^ 95 - 1) + 1 ∧ 191 < 192 ∧
    tagState ((up.tile 0).acc 0).tag = accFree ∧
    (let s := (firing (onTile 75 roleHome up)); tagState (((openAcc 75 0 16 0 0 false s).tile 75).acc 0).tag ≠ accFree) ∧
    ((([(0, 5), (1, 6), (192, 7)] : List (Nat × Int)).map (fun q => (q.1 / 192, q.1 % 192))).Nodup) := by decide +kernel

/-! ### Direct completions -/

/-- Entries wait in vector queue 0 of tile 75; a cell waits in its input queue 0. -/
def vqHas (l : List Ent) (s : State) : State := s.updTile 75 (fun x => { x with vqs := [(0, l)] })
def iqHas (c : Cell) (s : State) : State := s.updTile 75 (fun x => { x with iqs := [(0, [⟨c, none⟩])] })
def entAs (fmt valid pay : Nat) : Ent := ⟨BitVec.ofNat 768 pay, 0, 0, 0, 0, valid, BitVec.ofNat 4 fmt, false, none, 0, 0, false, false⟩

/-- The collective with another entry. -/
def entryIs (cfg : Nat) (s : State) : State := s.updJob 0 (fun x => x.updEntry 16 (fun e => { e with cfg := BitVec.ofNat 1024 cfg }))
def opIs (op : Nat) (s : State) : State := entryIs (rumEntry + 1 * 2 ^ 224 + op * 2 ^ 16 - 5 * 2 ^ 16) s

/-- An entry that an instruction takes, and the accumulator tiles of its binding's window for the segments it touches. -/
def InWindow (i : DWord) (b : BitVec 256) (e : Entry) (v : Ent) (segs : List Nat) (s : State) : Prop :=
  bColl b = 16 ∧ srcEnts s 75 0 i e 1 = [v] ∧ windowBad ((s.tile 75).job 0) b e (iAcc i) = false ∧
    (∀ g ∈ segs, windowTile (s.tile 75) 0 b e (iAcc i) g = some (accAt s 75 0 i b e g) ∧ meetAcc s 75 0 16 (accAt s 75 0 i b e g) g = .ready) ∧
    accFull s 75 0 (segs.map (accAt s 75 0 i b e)) = false

/-- What ReduceResults and MatrixResults ask of an instruction at the head of a queue of tile 75 that takes one cell or entry. -/
def TakesOne (q : Nat) (i : DWord) (v : Ent) (segs : List Nat) (s : State) : Prop := InWindow i (bindingOf s 75 0 i) ((s.job 0).entry 16) v segs s ∧
  (s.tile 75).dispatchQ = [] ∧ AtHead 75 0 q (queued i) s ∧ iCnt i = 1 ∧ (s.inst? 0 16).map (fun x => (x.fast, x.exact)) = some (false, false) ∧ srcFault s 75 0 i 16 1 = none

def oneFp32 : Cell := schedCell 1 false 3 0 0 (BitVec.ofNat 768 0x3F800000)
def oneEnt : Ent := entAs 0 24 0x3F800000
def qntInsn : DWord := insn 0x04 0x00 0x1C 0 0
def locInsn (opc : Nat) : DWord := insn opc 0x00 0x1D 0 0
def fastInsn : DWord := insn 0x08 0x00 0x1C 0 0 ||| (1 <<< 58)

theorem witness_ReduceResults_sums :
    (let v := entAs 0xC 24 (5 + 2 ^ 32 * 7); let s := tick 5 (vqHas [v] (atWork 0 addwVq up))
     TakesOne 0 addwVq v [0] s ∧ iOpc addwVq = 0x05 ∧ ((s.job 0).entry 16).op ≠ 0xB ∧ (s.inst? 0 16).map (fun x => wFmt x.w) = some v.fmt.toNat ∧
      segsOf (v.wvalues.map (·.1)) = [0]) ∧
    (let s := tick 5 (iqHas oneFp32 (atWork 0 qntInsn up))
     TakesOne 0 qntInsn oneEnt [0] s ∧ iOpc qntInsn = 0x04 ∧ isVq (iDst qntInsn) = false ∧ oneEnt.fmt.toNat = ((s.job 0).entry 16).cfmt ∧
      (s.inst? 0 16).map (fun x => segsOf ((quantise x oneEnt.values).1.map (·.idx))) = some [0]) := by
  unfold TakesOne InWindow AtHead
  decide +kernel

theorem witness_ReduceResults_others :
    (let s := tick 5 (opIs 6 (iqHas oneFp32 (atWork 0 (locInsn 6) up)))
     TakesOne 0 (locInsn 6) oneEnt [0] s ∧ oneEnt.fmt.toNat = ((s.job 0).entry 16).cfmt ∧ fmtIsW oneEnt.fmt.toNat = false ∧
      dedupNat ((candidates ((s.job 0).entry 16) 0 oneEnt).1.map (·.1)) = [0]) ∧
    TakesOne 0 (locInsn 7) oneEnt [0] (tick 5 (opIs 7 (iqHas oneFp32 (atWork 0 (locInsn 7) up)))) ∧
    TakesOne 0 fastInsn oneEnt [0] (tick 5 (opIs 0 (iqHas oneFp32 (atWork 0 fastInsn up)))) ∧ iOpc fastInsn = 0x08 ∧
    segsOf ((List.range oneEnt.valid).map (fun k => oneEnt.idx.toNat + k)) = [0] := by
  unfold TakesOne InWindow AtHead
  refine ⟨?_, ?_, ?_, rfl, ?_⟩ <;> decide +kernel

/-- The entry sums BF16 rows of 32. -/
def rows32 (s : State) : State := entryIs (rumEntry + 1 * 2 ^ 224 - 5 * 2 ^ 16 + 2 ^ 32 + 31 * 2 ^ 160) s
def projInsn : DWord := insn 0x09 0x00 0x1E 0 0
def reconInsn : DWord := insn 0x0A 0x10 0x1E 0 0
def orthoInsn (phase : Nat) : DWord := BitVec.ofNat 64 (0x0E * 2 ^ 59 + qNone * 2 ^ 40 + phase * 2 ^ 15)
def bf16Pay : Nat := 0x3F803F80 + 0x4000 * 2 ^ 496
def bf16Cell : Cell := mkColl kContribution 1 false false false false 0x2A7 16 3 0 0 0 (BitVec.ofNat 768 bf16Pay)

/-- A GROUP binding of an ORTHO block of 2 x 4 whose group is tile 75 alone. -/
def groupOne (s : State) : State := s.updTile 75 (fun x => { x with
  bind := [(0, bindAs roleGroup ||| BitVec.ofNat 256 (2 * 2 ^ 96 + 4 * 2 ^ 112 + 75 * 2 ^ 128))] })

theorem witness_MatrixResults_proj :
    (let s := tick 5 (rows32 (iqHas bf16Cell (atWork 2 projInsn up))); let v := entAs 1 48 bf16Pay; let e := (s.job 0).entry 16
     TakesOne 2 projInsn v [0] s ∧ (s.tile 75).mset = ((s.tile 75).job 0).mset ∧ iOpc projInsn = 0x09 ∧ v.fmt.toNat = e.cfmt ∧ e.rowlen % 32 = 0 ∧
      (s.inst? 0 16).map (fun x => segsOf ((projRuns (qEntry (s.job 0) e x (qshift projInsn)) e.rowlen (v.values.map (fun q => (q.1, q.2.1)))
        (openRuns ((s.tile 75).job 0) (iBind projInsn) (projRank projInsn))).1.flatMap (fun p => [p.1, p.1 + projRank projInsn - 1]))) = some [0]) := by
  unfold TakesOne InWindow AtHead
  decide +kernel

theorem witness_MatrixResults_others :
    (let h := entAs 1 6 0x3F803F80; let s := tick 5 (rows32 (vqHas [h] (atWork 2 reconInsn up))); let e := (s.job 0).entry 16
     AtHead 75 0 2 (queued reconInsn) s ∧ iCnt reconInsn = 1 ∧ (s.tile 75).mset = ((s.tile 75).job 0).mset ∧ iOpc reconInsn = 0x0A ∧
      entsOf s 75 0 (iSrc reconInsn) = [h] ∧ h.void = false ∧ h.bind.toNat = iBind reconInsn ∧ h.fmt = 1 ∧
      inGrant ((s.tile 75).job 0) (iAcc reconInsn) 1 = true ∧ nextTile s 75 0 reconInsn e [h] = some ⟨0, 192, 1, 1⟩ ∧
      meetAcc s 75 0 16 (iAcc reconInsn) 0 = .ready ∧ accFull s 75 0 [iAcc reconInsn] = false) ∧
    (∀ phase ∈ [0, 1, 2], let i := orthoInsn phase; let s := tick 5 (groupOne (atWork 4 i up)); let k := blockOf (bindingOf s 75 0 i)
     AtHead 75 0 4 (queued i) s ∧ iCnt i = 1 ∧ iMod i 15 2 = phase ∧ iOpc i = 0x0E ∧ k.foreign phase = 0 ∧ 0 < k.rows ∧
      inGrant ((s.tile 75).job 0) (iAcc i) k.tiles = true ∧ freeTiles (s.tile 75) (iAcc i) k.tiles = true ∧ (s.inst? 0 16).isSome = true) := by
  unfold AtHead
  decide +kernel

def cvtInsn : DWord := insn 0x03 0x00 0x10 0 (1 * 2 ^ 13)
def elemInsn : DWord := insn 0x0B 0x1F 0x10 0 0

theorem witness_VectorResults_queues :
    (let s := tick 5 (iqHas bf16Cell (atWork 1 cvtInsn up)); let i := cvtInsn
     AtHead 75 0 1 (queued i) s ∧ iOpc i = 0x03 ∧ isAp3 (iSrc i) = false ∧ isAp3 (iDst i) = false ∧ cvtPlan s 75 0 (queued i) = ⟨1, 1, 2⟩ ∧
      srcFault s 75 0 i 16 1 = none ∧ 1 ≤ srcLen s 75 0 (iSrc i) ∧ isIq (iSrc i) = true ∧
      (∀ v ∈ srcEnts s 75 0 i ((s.job 0).entry 16) 1, v.fmt.toNat = iMod i 13 4) ∧ isParam ((s.job 0).entry 16) (bindingOf s 75 0 i) i = false ∧
      2 ≤ roomOf s 75 0 (iDst i) ∧ (s.inst? 0 16).isSome = true) ∧
    (let i := elemInsn; let e := rumEntry + 1 * 2 ^ 224 - 5 * 2 ^ 16 + 1 * 2 ^ 44
     let s := tick 5 ((entryIs e (openAcc 75 0 16 0 0 false (atWork 1 i up))).updInst 0 16 (fun x => { x with chunks := [⟨0, 0, 0, 1, 1, 0, false⟩] }))
     AtHead 75 0 1 (queued i) s ∧ iOpc i = 0x0B ∧ iCnt i = 1 ∧ ((s.job 0).entry 16).fuse = 1 ∧ isSelecting ((s.job 0).entry 16).op = false ∧
      directFault s 75 0 16 (iAcc i) = none ∧ operandOk s 75 0 i ((s.job 0).entry 16) = true ∧ 8 ≤ roomOf s 75 0 (iDst i)) := by
  unfold AtHead
  decide +kernel

/-- The HOME binding with chunk 0 in its directory, at state ordinal 0. -/
def listed (s : State) : State := s.updTile 75 (fun x => { x with bind := [(0, bindAs roleHome ||| BitVec.ofNat 256 (2 ^ 48 + 2 ^ 80))] })
def optInsn : DWord := insn 0x0D 0x10 qNone 0 0
def digInsn : DWord := insn 0x0F 0x10 0x11 0 0

theorem witness_VectorResults_state :
    (let i := optInsn; let s := tick 5 ((vqHas ((List.range 8).map (fun k => { entAs 0 24 0x3F800000 with idx := BitVec.ofNat 40 (24 * k) }))
       (listed (atWork 1 i up))).updJob 0 (fun x => { x with biasDone := true, gate := .opened, attempt := true })); let y := s.job 0
     AtHead 75 0 1 (queued i) s ∧ iOpc i = 0x0D ∧ iCnt i = 1 ∧ iMod i 14 3 = 0 ∧ iDst i = qNone ∧ y.optWaits = false ∧ y.biasDone = true ∧
      y.replay = none ∧ y.home = true ∧ (optPlan (queued i)).popN ≤ srcLen s 75 0 (iSrc i) ∧ srcFault s 75 0 i 16 8 = none ∧
      segOf s 75 0 i (bindingOf s 75 0 i) 0 = some ⟨0, 192, 0, 0⟩ ∧ (∀ v ∈ srcEnts s 75 0 i (y.entry 16) 8, v.fmt = 0)) ∧
    (let i := digInsn; let v := entAs 1 48 0x3F803F80
     let s := tick 5 ((vqHas [v] (atWork 1 i up)).updTile 75 (fun x => x.updJob 0 (fun t => { t with vq := [0, 1] }))); let t := (s.tile 75).job 0
     AtHead 75 0 1 (queued i) s ∧ iOpc i = 0x0F ∧ iCnt i = 1 ∧ iMod i 15 2 = 0 ∧ iMod i 14 1 = 0 ∧ entsOf s 75 0 (iSrc i) = [v] ∧ v.void = false ∧
      v.bind.toNat = iBind i ∧ v.esc = none ∧ t.vqOf (iSrc i) ≠ t.vqOf (iDst i) ∧ (s.inst? 0 16).map (·.fast) = some false ∧ mute (s.job 0) = false ∧
      openOn s 75 < 1024 ∧ 1 ≤ roomOf s 75 0 (iDst i) ∧ (Tbl.get [] t.cqs 1).tail = [] ∧
      (digOf t 0 (iBind i) (roundNow (s.job 0) ((s.job 0).entry 16)) 0).count + 1 < 64) := by
  unfold AtHead
  decide +kernel

/-! ### Queue control -/

def nopInsn : DWord := BitVec.ofNat 64 (qNone * 2 ^ 46 + qNone * 2 ^ 40 + 1 * 2 ^ 14)
def waitInsn : DWord := BitVec.ofNat 64 (2 * 2 ^ 59 + qNone * 2 ^ 46 + qNone * 2 ^ 40 + 1 * 2 ^ 14 + 3 * 2 ^ 11 + 4)
def barInsn : DWord := BitVec.ofNat 64 (1 * 2 ^ 59 + qNone * 2 ^ 46 + qNone * 2 ^ 40 + 2 * 2 ^ 9)

theorem witness_QueueControl :
    (let s := atWork 1 nopInsn up; AtHead 75 0 1 (queued nopInsn) s ∧ iOpc nopInsn = 0 ∧ (s.tile 75).dispatchQ = []) ∧
    (let s := atWork 1 waitInsn up; AtHead 75 0 1 (queued waitInsn) s ∧ iOpc waitInsn = 2 ∧ iMod waitInsn 11 3 = 3 ∧
      ((s.tile 75).job 0).flags.getLsbD (iMod waitInsn 0 11 % 32) = false ∧
      (((s.updTile 75 (fun x => x.updJob 0 (fun t => { t with flags := 0x10 }))).tile 75).job 0).flags.getLsbD (iMod waitInsn 0 11 % 32) = true) ∧
    (let s := atWork 1 barInsn up; AtHead 75 0 1 (queued barInsn) s ∧ iOpc barInsn = 1 ∧ iMod barInsn 8 1 = 0 ∧ cqsOf barInsn = [1] ∧
      (∀ p, p < 8 → p ≠ 1 → cqHead s 75 0 p = none) ∧ Tbl.get [] ((s.tile 75).job 0).cqs 1 = [queued barInsn] ∧
      tileDown s 75 = false ∧ ({ queued barInsn with held := true } : CqEnt).held = true) := by
  unfold AtHead
  decide +kernel

/-! ### The mover and the exchange -/

/-- Accumulator tile 0 ACTIVE with segment 0 of the instance, its chunk past its one pass of two. -/
def active (s : State) : State := (openAcc 75 0 16 0 0 false s)

/-- SPILL of tile 0 to record 1, RESUME into tile 0 from record 1. -/
def spillInsn : DWord := insn 0x10 0x1F qNone 0 1
def resumeInsn : DWord := insn 0x11 qNone 0x1F 0 1

/-- The entry with K = 2, and its chunk settled once. -/
def half (s : State) : State := (s.updJob 0 (fun x => x.updEntry 16 (fun e => { e with
  cfg := BitVec.ofNat 1024 (rumEntry + 1 * 2 ^ 224 + 1 * 2 ^ 56) }))).updInst 0 16 (fun i => { i with chunks := [⟨0, 0, 0, 1, 1, 0, false⟩] })

theorem witness_MoverAndExchange_mover :
    (let c := queued spillInsn
     let s := (half (active (atWork 7 spillInsn up))).updJob 0 (fun x => { x with spill := [(spillKey 75 1, List.replicate 11 0 ++ [1])] })
     AtHead 75 0 7 c s ∧ iCnt c.insn = 1 ∧ iAcc c.insn = 0 ∧ inGrant ((s.tile 75).job 0) 0 1 = true ∧ (s.inst? 0 16).isSome = true ∧
      bColl (bindingOf s 75 0 c.insn) = 16 ∧ iOpc c.insn = 0x10 ∧ directFault s 75 0 16 0 = none ∧
      settledOn s 75 0 16 < ((s.job 0).entry 16).passes ∧ settledOn s 75 0 16 ≠ 0 ∧
      ((s.tile 75).acc 0).par = decide ((settledOn s 75 0 16 - 1) % 2 = 1) ∧ recordHeld (s.job 0) 75 1 = true ∧
      recValid (Tbl.get [] (s.job 0).spill (spillKey 75 1)) = true) ∧
    (let c := queued resumeInsn; let s := atWork 7 resumeInsn up
     AtHead 75 0 7 c s ∧ iCnt c.insn = 1 ∧ iAcc c.insn = 0 ∧ inGrant ((s.tile 75).job 0) 0 1 = true ∧ iOpc c.insn = 0x11 ∧
      (s.tile 75).spilling.any (fun q => q.2.1 = 0 && q.2.2.1 = 1) = false ∧ tagState ((s.tile 75).acc 0).tag = accFree ∧
      accFull s 75 0 [0] = false) := by
  unfold AtHead
  decide +kernel

theorem witness_MoverAndExchange_acks : cqHead up 75 0 7 = none ∧
    (∀ gone ∈ [false, true], (let s := up.updTile 75 (fun x => { x with spilling := [(0, 0, 1, gone)] })
      (s.tile 75).spilling.find? (fun q => q.1 = 0) = some (0, 0, 1, gone))) ∧
    (up.tile 75).spilling.find? (fun q => q.1 = 0) = none ∧ (up.tile 75).resuming.find? (fun r => r.acc = 0) = none ∧
    (let r : Resuming := ⟨0, 0, 1, 16, 3, 0, 0, false⟩; let s := up.updTile 75 (fun x => { x with resuming := [r] })
     (s.tile 75).resuming.find? (fun r => r.acc = 0) = some r ∧ r.slot = 0 ∧ r.drop = false ∧ recFits (s.job 0) r [] = false ∧
      recFits { Job.reset with tag := 0x2A7 } r (leBytes 4 (mkTag accSpilled false 3 16 0).toNat ++ leBytes 4 (0x2A7 * 2 ^ 20) ++ leBytes 2 0 ++
        leBytes 1 1 ++ leBytes 1 1) = true) := by decide +kernel

/-- SEND of a scheduled parameter from vector queue 0 to output queue 0; MCAST of the same; STAT of round 0 that posts. -/
def sendInsn : DWord := insn 0x12 0x10 0x20 0 (4 * 2 ^ 13)
def mcastInsn : DWord := insn 0x13 0x10 0x20 0 (4 * 2 ^ 13)
def statInsn : DWord := insn 0x0C qNone qNone 0 (1 * 2 ^ 16)
def goodEnt : Ent := ⟨0, 0, 0, 0, 0, 24, 0, false, none, 0, 0, false, false⟩

/-- A vector entry waits. -/
def outgoing (s : State) : State := s.updTile 75 (fun x => { x with vqs := [(0, [goodEnt])] })

/-- The instruction heads the exchange output's queue, its entry with a multicast group. -/
def pushing (i : DWord) : State := (outgoing (atWork 6 i up)).updJob 0 (fun x => x.updEntry 16 (fun e => { e with
  cfg := BitVec.ofNat 1024 (rumEntry + 2 ^ 368) }))

theorem witness_MoverAndExchange_heads : AtHead 75 0 6 (queued sendInsn) (pushing sendInsn) ∧ AtHead 75 0 6 (queued mcastInsn) (pushing mcastInsn) := by
  unfold AtHead
  decide +kernel

theorem witness_MoverAndExchange_sends :
    (let s := pushing sendInsn
     iCnt sendInsn = 1 ∧ isIq (iSrc sendInsn) = false ∧ (s.tile 75).dispatchQ = [] ∧
      entsOf s 75 0 (iSrc sendInsn) = [goodEnt] ∧ isVq (iSrc sendInsn) = true ∧ ((s.tile 75).job 0).iqOf (iSrc sendInsn) = none ∧
      goodEnt.void = false ∧ goodEnt.esc = none ∧ goodEnt.valid ≠ 0 ∧ goodEnt.bind.toNat = iBind sendInsn ∧ mute (s.job 0) = false ∧
      ((s.job 0).entry 16).op ≠ 0xB ∧ ((s.tile 75).job 0).oqOf (iDst sendInsn) = some 0 ∧ (Tbl.get [] (s.tile 75).oqs 0).length < 64 ∧
      cellsHeld s 0 75 < (((s.job 0).grant 75).map (·.cells)).getD 0 ∧ (s.tile 75).free = [7, 8]) ∧
    iOpc sendInsn = 0x12 ∧ iMod sendInsn 11 2 = clsSched ∧ iOpc mcastInsn = 0x13 ∧ iSrc mcastInsn = iSrc sendInsn ∧
    iDst mcastInsn = iDst sendInsn ∧ iCnt mcastInsn = 1 := by decide +kernel

theorem witness_MoverAndExchange_stat : AtHead 75 0 1 (queued statInsn) (atWork 1 statInsn up) ∧
    (let s := atWork 1 statInsn up
     iOpc statInsn = 0x0C ∧ iMod statInsn 16 1 = 1 ∧ iMod statInsn 15 1 = 0 ∧ (s.tile 75).dispatchQ = [] ∧
      (s.inst? 0 16).map (·.sent0) = some false) := by
  unfold AtHead
  decide +kernel

/-! ### The pilot core and the watchdogs -/

/-- Tile 75 with an event of job slot 0, and with a program of one trigger for it that runs instruction 0. -/
def eventOf (w : Word) (s : State) : State := s.updTile 75 (fun x => { x with evq := [w] })
def programmed (s : State) : State := (onTile 75 roleHome s).updTile 75 (fun x =>
  { x with prog := memOf (List.replicate 96 0 ++ leBytes 16 (0xFFFF * 2 ^ 16) ++ leBytes 8 nopInsn.toNat) }.updJob 0 (fun t => { t with
    ntrig := 1, ninsn := 1, progUnits := [0] }))

theorem witness_PilotCore :
    tileDown (up.updDev (fun d => { d with resetting := [((up.dev.place[75]?).join).getD 0] })) 75 = true ∧ tileDown up 75 = false ∧ stalled (up.tile 75) = false ∧
    stalled ((up.updTile 75 (fun x => { x with dispatchQ := List.replicate 9 ⟨0, nopInsn, 0, false, true⟩ })).tile 75) = true ∧
    (up.tile 75).evq = [] ∧ (let s := eventOf 5 up; (s.tile 75).evq = [5] ∧
      ((List.range ((s.tile 75).job 0).ntrig).map ((s.tile 75).imgTrig 0)).filter (trMatches 5) = []) ∧
    (let s := eventOf 0 (programmed up); let x := s.tile 75; let g : BitVec 128 := BitVec.ofNat 128 (0xFFFF * 2 ^ 16)
     x.evq = [0] ∧ x.dispatchQ = [] ∧ evSlot 0 = 0 ∧ (x.job 0).loaded = true ∧ (s.job 0).away = false ∧
      ((List.range (x.job 0).ntrig).map (x.imgTrig 0)).filter (trMatches 0) = [g] ∧ trEach g = false ∧ trCount g = 1 ∧
      x.imgInsn 0 (trBlock g) = nopInsn ∧ cqsOf nopInsn = [1] ∧ (Tbl.get [] (x.job 0).cqs 1).length < 32 ∧
      bitsN x.tpruna.toNat 0 15 = 0 ∧ bitsN (0 : Word).toNat 0 15 = 0 ∧ (0 : Word).getLsbD 26 = false) ∧
    (let s := up.updTile 75 (fun x => { x with tpcmdlo := nopInsn.extractLsb' 0 32 }); cqsOf (nopInsn.extractLsb' 32 32 ++ (s.tile 75).tpcmdlo) = [1]) ∧
    ((up.tile 75).job 0).loaded = false ∧
    (let s := up.updTile 75 (fun x => x.updAcc 3 (fun y => { y with tag := retag accSpilled y.tag })); tagState ((s.tile 75).acc 3).tag = accSpilled) ∧
    tagState ((up.tile 75).acc 3).tag ≠ accSpilled ∧ iqCells up 75 0 = [] ∧ iqCells (fed up) 75 0 = [⟨schedCell 1 false 3 0 0 0, none⟩] ∧
    (sendWindow (up.tile 75)).cls ≠ clsCtl ∧
    (let s := (identified up).updTile 75 (fun x => { x with sendWin := BitVec.ofNat 896 0x80 }); let c := sendWindow (s.tile 75)
     c.cls = clsCtl ∧ c.mgrp = 0 ∧ c.ddev = s.dev.id.toNat ∧ s.dev.idValid = true ∧ forEndpoint s c = false) := by decide +kernel

theorem witness_Watchdogs :
    (∃ p, physOf up 75 = some p ∧ up.time < (up.tile 75).wdogAt + ms up.obs.ptime.toNat ∧ powered (up.island p) = true ∧
      up.dev.resetting.contains p = false ∧ (up.tile 75).wdogAt + ms up.obs.ptime.toNat ≤ (tick (ms 65535) up).time) ∧
    ((up.updObs (fun o => { o with qtime := 0 })).obs.qtime = 0) ∧ Tbl.get [] ((up.tile 75).job 0).cqs 1 = [] ∧
    (let s := (atWork 1 nopInsn up).updObs (fun o => { o with qtime := 1 })
     s.obs.qtime ≠ 0 ∧ Tbl.get [] ((s.tile 75).job 0).cqs 1 ≠ [] ∧ tileDown s 75 = false ∧
      Tbl.get 0 ((s.tile 75).job 0).lastDone 1 + ms 1 ≤ (tick (ms 1) s).time) :=
  ⟨⟨((physOf up 75).getD 0), by decide +kernel⟩, by decide +kernel⟩

/-! ### The step -/

theorem witness_StepKeepsTimeMemoryAndQueue : (0 : Time) ≤ State.reset.time ∧ Mem.wf State.reset.hostMem = true ∧
    Machine.step State.reset = .next State.reset := ⟨Nat.zero_le _, rfl, rfl⟩

/-- A step with a command in front runs it. -/
theorem witness_StepKeeps_command : ∃ s', Machine.step { State.reset with pending := [.tpwdogWrite 5 75 1] } = .next s' := ⟨_, rfl⟩

end Sys2Proof.Tests
end

