-- ==== Sys2Proof/Tests/FabricPorts.lean ====
section
/-! SUPPORT. Witnesses of the statements about sleep, identity, neighbours, the database, fabric time and tide agreement. -/

namespace Sys2Proof.Tests

set_option Elab.async false

open Sys2Proof Sys2Proof.Machine Sys2Proof.Safety

/-- Port 5 UP, with a cell received. -/
def receiving (c : Cell) (f : PortS → PortS) : State := port5 (fun p => f { upPort p with rxCells := [(0, c)] })

theorem witness_PortSleep : Serving linked ∧ (linked.port 5).slp = .active ∧ (linked.port 5).slpMove = .none ∧ maySleep linked 5 = true ∧
    maySleep (sliced linked) 5 = false ∧ ((sliced linked).port 5).slp = .active ∧
    ((port5 (fun p => { upPort p with slp := .light })).port 5).slp = .light ∧
    (let s := receiving (sleepCell 0 true) id;
      (sleepCell 0 true).cls = clsMgmt ∧ (sleepCell 0 true).kind = kSleep ∧ bitsN (sleepCell 0 true).ksf 34 3 = 0 ∧
      isNext (sleepCell 0 true) ((s.port 5).rxCells.map (·.2)) = true ∧ maySleep s 5 = true ∧ maySleep (sliced s) 5 = false) ∧
    (let s := receiving (sleepCell 1 true) (fun p => { p with slp := .negotiating });
      bitsN (sleepCell 1 true).ksf 34 3 = 1 ∧ isNext (sleepCell 1 true) ((s.port 5).rxCells.map (·.2)) = true ∧ (s.port 5).slp = .negotiating) ∧
    (let s := receiving (sleepCell 2 true) (fun p => { p with slp := .negotiating });
      bitsN (sleepCell 2 true).ksf 34 3 = 2 ∧ isNext (sleepCell 2 true) ((s.port 5).rxCells.map (·.2)) = true ∧
      (s.port 5).slpAt + us 10 ≤ (tick (us 10) s).time) ∧
    (let s := port5 (fun p => { upPort p with slpMove := .entering false, slpDeep := true });
      (s.port 5).slpMove = .entering false ∧ (s.port 5).slpAt + (if (s.port 5).slpDeep then ns 400 else ns 60) ≤ (tick (ns 400) s).time ∧
      heldBusy (s.port 5) = false ∧ (s.port 5).mgmtQ = []) ∧
    (port5 (fun p => { upPort p with slpMove := .entering true })).port 5 ≠ linked.port 5 ∧ ctlUse linked 5 < 512 ∧ heldBusy (linked.port 5) = false ∧
    heldBusy { linked.port 5 with held := [{ idleSlot0 with cells := [sleepCell 0 true] }] } = true ∧
    ownStands (receiving (sleepCell 0 true) (fun p => { p with slp := .negotiating })) 5 = false ∧
    ownStands (receiving (sleepCell 0 true) (fun p => { p with slp := .negotiating, peerEp := true })) 5 = true ∧
    (let s := receiving (sleepCell 1 true) (fun p => { p with woken := true }); (s.port 5).slpMove = .none ∧ (s.port 5).woken = true) ∧
    (let s := port5 (fun p => { upPort p with slpMove := .exiting, slp := .light }); (s.port 5).slpMove = .exiting ∧ (s.port 5).slp = .light) ∧
    (let s := port5 (fun p => { upPort p with slpMove := .exiting, slp := .deep }); (s.port 5).slpMove = .exiting ∧ (s.port 5).slp = .deep) :=
  ⟨serving_of rfl rfl, by decide +kernel⟩

/-- The device enabled. -/
def enabled (s : State) : State := (identified s).updDev (fun d => { d with en := true, st := .enabled })

theorem witness_IdentityAndNeighbours_identity : Working up ∧ checking .dev up = false ∧ up.dev.en = false ∧ (identified up).dev.idValid = true ∧
    up.dev.idValid = false ∧ checking .dev (enabled up) = false ∧ (enabled up).dev.en = true ∧ (enabled up).dev.st = .enabled ∧
    (enabled up).dev.before ≠ .enabled ∧
    (let s := up.updDev (fun d => { d with readyAt := some 0 });
      s.dev.readyAt = some 0 ∧ s.dev.idSource = 0 ∧ s.dev.noFb = false ∧ s.dev.en = false ∧ s.dev.st = .ready ∧
      0 + sec 2 ≤ (tick (sec 2) s).time ∧ (tick 5 s).time < 0 + sec 2) := ⟨working_of rfl rfl, by decide +kernel⟩

/-- A HELLO of device 1, port 3, on the plane given, that sees device d's port 5 or nobody. -/
def helloOf (plane : Nat) (sees : Bool) : Cell := fabCell clsMgmt kDiscovery 0 0 0 0 (payOf (
  leBytes 2 (1 + 0x1000 + 0x2000 * plane) ++ leBytes 1 3 ++ leBytes 4 (if sees then 5 * 2 ^ 12 + 2 ^ 19 else 0) ++ leBytes 8 77 ++ leBytes 19 0))

theorem witness_IdentityAndNeighbours_hello : within (tick 5 up) up.fabric.helloAt (us 100) = false ∧ up.dev.st ≠ .boot ∧ awake (linked.port 5) = true ∧
    awake (linked.port 6) = false ∧ (helloOf 0 true).cls = clsMgmt ∧ (helloOf 0 true).kind = kDiscovery ∧ bitsN (helloOf 0 true).ksf 34 3 = 0 ∧
    isNext (helloOf 0 true) (((receiving (helloOf 0 true) id).port 5).rxCells.map (·.2)) = true ∧ helloBad (helloOf 0 true) = false ∧
    helloBad (fabCell clsMgmt kDiscovery 0 0 0 0 (payOf (leBytes 2 0xC001))) = true ∧ bitN ((helloOf 1 true).pn 0 2) 13 ≠ up.dev.twinSel ∧
    bitN ((helloOf 0 true).pn 0 2) 13 = up.dev.twinSel ∧ (linked.port 5).adj = .down ∧ bitN ((helloOf 0 true).pn 0 2) 12 = true ∧
    (let s := port5 (fun p => { upPort p with adj := .twoway }); (s.port 5).adj = .twoway ∧ (s.port 5).slp = .active ∧ (s.port 5).slpMove = .none ∧
      (s.port 5).lastHello + us 300 ≤ (tick (us 300) s).time) ∧
    (linked.port 5).st = .up ∧ (linked.port 5).kind = .unknown ∧ (linked.port 5).upAt + ms 1 ≤ (tick (ms 1) linked).time := by decide +kernel

/-- Part 0 of 1 of an LSA of a device and serial, LSEQ 4, no links. -/
def lsaPart1 (dev serial : Nat) : Cell := fabCell clsCtl kDiscovery 1 0 2 0 (payOf (leBytes 2 dev ++ leBytes 4 4 ++ leBytes 2 0 ++ leBytes 8 serial))

/-- A complete LSA of device 2. -/
def lsa2 : Lsa := ⟨2, 1, 9, 1, [], 0⟩

theorem witness_IdentityAndNeighbours_database : takesPart (enabled up) = true ∧ (enabled up).fabric.lseq = 0 ∧
    (let s := (enabled up).updFabric (fun f => { f with lseq := 5, changedAt := some 0 }); s.fabric.changedAt.isSome = true ∧ s.fabric.originAt + us 20 ≤ (tick (us 20) s).time) ∧ (lsaPart1 3 9).cls = clsCtl ∧
    (lsaPart1 3 9).kind = kDiscovery ∧ bitsN (lsaPart1 3 9).ksf 34 3 = 1 ∧ isNext (lsaPart1 3 9) (((receiving (lsaPart1 3 9) id).port 5).rxCells.map (·.2)) = true ∧
    partBad (lsaPart1 3 9) = false ∧ partBad (lsaPart1 0x1003 9) = true ∧ up.fabric.db.find? (fun l => l.origin.toNat = 3) = none ∧
    bitsN ((lsaPart1 3 9).pn 0 2) 0 12 = 3 ∧ bitsN ((lsaPart1 3 9).pbyte 6) 4 3 + 1 = 1 ∧ (lsaPart1 3 9).pay ≠ 0 ∧
    (let s := (enabled (receiving (lsaPart1 0 4) id)).updDev (fun d => { d with serial := 5 });
      s.dev.idValid = true ∧ bitsN ((lsaPart1 0 4).pn 0 2) 0 12 = s.dev.id.toNat ∧ (lsaPart1 0 4).pn 8 8 < s.dev.serial.toNat ∧ s.dev.st = .enabled ∧
      bitsN ((lsaPart1 0 4).pbyte 6) 0 3 = 0 ∧ (lsaPart1 0 4).pay ≠ 0) ∧
    (let c := fabCell clsCtl kAck 1 0 0 0 0;
      c.cls = clsCtl ∧ c.kind = kAck ∧ bitsN c.ksf 34 3 = 1 ∧ isNext c (((receiving c id).port 5).rxCells.map (·.2)) = true) ∧
    (let s := port5 (fun p => { upPort p with unacked := [⟨lsaPart1 3 9, 20, 0⟩] });
      ∃ u ∈ (s.port 5).unacked, u.at_ + us 50 ≤ (tick (us 50) s).time ∧ 20 ≤ u.sends) ∧
    (let s := port5 (fun p => { upPort p with unacked := [⟨lsaPart1 3 9, 19, 0⟩], autowake := false });
      (s.port 5).unacked = [⟨lsaPart1 3 9, 19, 0⟩] ∧ 0 + us 50 ≤ (tick (us 50) s).time ∧ linkAlive (s.port 5) = true ∧
      ctlUse s 5 < 512 ∧ (s.port 5).slp = .active) ∧
    ((port5 (fun p => { upPort p with slp := .light })).port 5).slp ≠ .active ∧
    (let s := up.updFabric (fun f => { f with full := [lsa2] }); ∃ l ∈ s.fabric.full, l.at_ + sec 1 ≤ (tick (sec 1) s).time) ∧
    (let s := up.updFabric (fun f => { f with dbAt := some 0 });
      s.fabric.dbAt = some 0 ∧ 0 + us 200 ≤ (tick (us 200) s).time ∧ loadedSlots s = []) := by decide +kernel

/-- In a fresh device no port has an adjacency. -/
theorem no_adjacency (k : Nat) : ((receiving (lsaPart1 3 9) id).port k).adj ≠ .twoway := by
  by_cases h : k = 5
  · subst h; decide +kernel
  · have : (receiving (lsaPart1 3 9) id).port k = up.port k :=
      Tbl.get_upd_other PortS.reset up.ports (fun p => { upPort p with rxCells := [(0, lsaPart1 3 9)] }) h
    rw [this]
    show PortS.reset.adj ≠ .twoway
    decide

/-- A time cell: subkind, exchange number, T1 to T3. -/
def timeCell (sub seq t1 t2 t3 : Nat) : Cell := fabCell clsMgmt kTime sub 0 0 seq (payOf (leBytes 8 t1 ++ leBytes 8 t2 ++ leBytes 8 t3))

/-- A device whose parent is port 5 and that has sent T1 = 100 in exchange 1; c came from the parent. -/
def asking (c : Cell) (locked : Bool) : State := (receiving c id).updFabric (fun f => { f with
  parent := some 5, exch := 1, reqSeq := 1, sentT1 := some 100, tlock := locked })

/-- Offset of the exchange: T2 and T3 of the parent against 100 and the arrival. -/
def thetaOf (c : Cell) (arrival : BitVec 64) : Int :=
  (exchange ⟨BitVec.ofNat 64 (c.pn 0 8), BitVec.ofNat 64 (c.pn 8 8), BitVec.ofNat 64 (c.pn 16 8), arrival⟩ 0).1

theorem witness_FabricTime : (let s := asking (timeCell 0 1 0 0 0) false; s.fabric.parent = some 5 ∧ within (tick 5 s) s.fabric.exchAt (ms 1) = false ∧ ctlUse s 5 < ctlLimit 5 ∧ (s.port 5).slp = .active ∧ (s.port 5).slpMove = .none) ∧
    (let s := receiving (timeCell 0 1 0 0 0) id; (timeCell 0 1 0 0 0).cls = clsMgmt ∧ (timeCell 0 1 0 0 0).kind = kTime ∧
      bitsN (timeCell 0 1 0 0 0).ksf 34 3 = 0 ∧ isNext (timeCell 0 1 0 0 0) ((s.port 5).rxCells.map (·.2)) = true) ∧
    (let c := timeCell 1 1 100 400 400; let s := asking c true;
      bitsN c.ksf 34 3 = 1 ∧ c.seq = s.fabric.reqSeq.toNat ∧ (s.port 5).startEx = none ∧ s.fabric.sentT1 = some (BitVec.ofNat 64 (c.pn 0 8)) ∧ s.fabric.tlock = true ∧
      asymOf (s.port 5) = 0 ∧ -65536000 ≤ thetaOf c 500 ∧ thetaOf c 500 ≤ 65536000 ∧ isNext c ((s.port 5).rxCells.map (·.2)) = true) ∧
    (let c := timeCell 1 1 100 (100 + 2 * 65536001) (100 + 2 * 65536001); 65536000 < thetaOf c 100) ∧
    (let s := asking (timeCell 1 1 100 400 400) false; s.fabric.tlock = false ∧ anyRunning s = false ∧ anyRunning (sliced s) = true) ∧
    (let s := ((sliced (port5 (fun p => { upPort p with adj := .twoway }))));
      (s.job 0).st = .running ∧ (tick 5 s).tide.now = (s.job 0).startTide.toNat ∧ exchanges (s.port 5) = true ∧ (s.port 5).startEx = none ∧
      (s.port 5).offset.valid = false) ∧
    (let c := timeCell 1 1 100 400 400; let s := (sliced (receiving c id)).updPort 5 (fun p => { p with startEx := some ⟨0x2A7, 0, 1, some 100⟩ });
     (s.job 0).tag = 0x2A7 ∧ (s.port 5).startEx = some ⟨(s.job 0).tag, (s.job 0).startTide, BitVec.ofNat 16 c.seq, some (BitVec.ofNat 64 (c.pn 0 8))⟩ ∧
      c.seq < 65536) ∧
    (let s := up.updClk (fun x => { x with ppsInEn := true, ppsPresent := true });
      s.clk.ppsInEn = true ∧ s.clk.ppsPresent = true ∧ s.clk.ppsAt + ms 1500 ≤ (tick (ms 1500) s).time) := by decide +kernel

/-- A tide cell of a subkind for tide 9, 64 slots, and a device with it at its harbourmaster. -/
def tideCell (sub tide len : Nat) : Cell := fabCell clsCtl kDiscovery sub 0 0 0 (tidePay tide len 0)
def atHm (c : Cell) (s : State) : State := s.updFabric (fun f => { f with hmRx := [c] })

/-- A switch pending at a tide, in a device that is the root of plane A alone. -/
def switching (tide : Nat) : State := ((identified up).updTide (fun x => { x with
  pending := true, switchAt := BitVec.ofNat 48 tide, bank1 := x.bank0 })).updFabric (fun f => { f with
  root := some 0, groups := [(1, BitVec.ofNat 256 (1 * 2 ^ 141 + 1 * 2 ^ 140))] })

theorem witness_TideAgreement : isTideCell 2 (tideCell 2 9 64) = true ∧ (atHm (tideCell 2 9 64) up).fabric.hmRx.contains (tideCell 2 9 64) = true ∧
    takeTwin (tideCell 2 9 64) (atHm (tideCell 2 9 64) up) = none ∧
    (takeTwin (tideCell 2 9 64) (up.updPort 128 (fun p => { p with rxCells := [(0, tideCell 2 9 64)] }))).isSome = true ∧
    isTideCell 5 (tideCell 5 9 64) = true ∧ up.tide.decided ≠ some 9 ∧ up.tide.withdrawn.contains (7 : BitVec 12) = false ∧
    (let s := switching 9; decisionTide s = some 9 ∧ s.fabric.root = some s.dev.id ∧ s.dev.idValid = true ∧ s.tide.decided ≠ some 9 ∧
      tideStart5 (tick 5 s) 9 ≤ 5 * (((tick 5 s).time + us 100 : Nat) : Int) ∧ s.twin.dst ≠ .moored ∧
      planeReady s 9 = none ∧ s.tide.ready = [] ∧
      planeReady (s.updTide (fun x => { x with ready := [⟨0, 9, 64, 0⟩] })) 9 = some 64) ∧
    isTideCell 3 (tideCell 3 100000 64) = true ∧ (switching 100000).tide.pending = true ∧
    payTide (tideCell 3 100000 64) = (switching 100000).tide.switchAt.toNat ∧ payLen (tideCell 3 100000 64) = (switching 100000).otherBank.len ∧
    beforeSwitch (tick 5 (switching 100000)) (us 20) = true ∧ beforeSwitch (tick 5 (switching 9)) (us 20) = false ∧
    isTideCell 4 (tideCell 4 9 64) = true ∧ payTide (tideCell 4 9 64) = (switching 9).tide.switchAt.toNat ∧ (switching 9).tide.go = false := by
  decide +kernel

/-- The group of the tide root's cells, of this device alone. -/
theorem witness_TideAgreement_group : grpValid (Tbl.get 0 (switching 9).fabric.groups 1) = true ∧ grpJob (Tbl.get 0 (switching 9).fabric.groups 1) = 0 ∧
    grpPorts (Tbl.get 0 (switching 9).fabric.groups 1) = [] ∧ grpLocal (Tbl.get 0 (switching 9).fabric.groups 1) = true := by decide +kernel

end Sys2Proof.Tests
end

