-- ==== Sys2Proof/Tests/Power.lean ====
section
/-! SUPPORT. Witnesses of the statements about operating points, islands, resets, boot, sparing and monitors. -/

namespace Sys2Proof.Tests

set_option Elab.async false

open Sys2Proof Sys2Proof.Machine Sys2Proof.Safety

/-- Island 2 with some of its fields set. -/
def island2 (f : Island → Island) : State := up.updIsland 2 f

theorem witness_OperatingPointChanges : Serving up ∧ (up.island 2).pst ≠ .fused ∧ (7 : Word).toNat % 8 = 7 ∧
    (0x2003 : Word).toNat % 8 < 7 ∧ (0x2003 : Word).getLsbD 13 = true ∧ (3 : Word).getLsbD 13 = false ∧
    oppRefusal (tick 5 up) 2 3 = none ∧ (oppRefusal (tick 5 up) 2 6).isSome = true ∧ up.clk.hold = false ∧ (up.island 2).held = false ∧ (up.island 2).point ≠ 3 ∧
    (up.island 2).auto = true ∧ (up.island 2).pst = .on ∧ (up.island 2).busy = false ∧
    oppRefusal (tick 5 up) 2 (autoPoint (tick 5 up) 2 0) = none ∧ (island2 (fun i => { i with cur := 4 })).clk.hold = false ∧
    (let s := island2 (fun i => { i with cur := 4 }); oppRefusal (tick 5 s) 2 (autoPoint (tick 5 s) 2 0) = none ∧ (s.island 2).point ≠ autoPoint (tick 5 s) 2 0) ∧
    (let s := island2 (fun i => { i with busy := true, target := 3 }); oppMv (s.island 2).target.toNat ≤ vddOf s 0 ∧ (s.island 2).busy = true) ∧
    (let s := island2 (fun i => { i with busy := true, target := 6 }); vddOf s 0 < oppMv (s.island 2).target.toNat) ∧
    (neighbours 2).contains 3 = true ∧ powered (up.island 2) = true ∧ powered (up.island 3) = true ∧
    (let s := island2 (fun i => { i with cur := 4 }); floorOf (tick 5 s) 2 < (s.island 2).point) ∧
    (let s := (island2 (fun i => { i with cur := 0, held := true })).updIsland 3 (fun i => { i with cur := 0 });
      (s.island 2).point ≤ floorOf (tick 5 s) 2 ∧ (s.island 3).point ≤ floorOf (tick 5 s) 3 ∧ (s.island 2).held = true ∧ (s.island 3).point < 6 ∧
      s.clk.hold = false ∧ vddServes (tick 5 s) 3 ((s.island 3).point + 1) = true ∧ (s.island 3).raisedAt = none) ∧
    (let s := up.updIsland 3 (fun i => { i with raisedAt := some 3 }); (s.island 3).raisedAt = some 3 ∧ (tick 5 s).time < 3 + us 10) ∧
    (let s := island2 (fun i => { i with held := true, okSince := some 0 });
      (s.island 2).okSince.getD 0 + us 100 ≤ (tick (us 100) s).time ∧ (s.island 2).held = true) :=
  ⟨up_serving, by decide +kernel⟩

theorem witness_IslandsGateWakeReset : Serving up ∧ (up.island 2).pst = .on ∧ (0 : Word).getLsbD 1 = false ∧ mayGate (tick 5 up) 2 = true ∧
    mayGate (tick 5 (job .running)) 3 = false ∧ ((job .running).island 3).pst = .on ∧
    (up.island 33).pst = .gated ∧ ((island2 (fun _ => Island.fused)).island 2).pst = .fused ∧
    ((island2 (fun i => { i with pst := .waking })).island 2).pst = .waking ∧ up.dev.moves = [] ∧ checking .tide up = false ∧
    (let s := (island2 (fun i => { i with pst := .waking })).updDev (fun d => { d with moves := [⟨7, 7, 2, .waking⟩] });
      s.dev.moves = [⟨7, 7, 2, .waking⟩] ∧ (s.island 2).pst = .waking ∧ checking .tide s = false) ∧ up.dev.resetting.contains 2 = false ∧
    ltileOf up 2 = some 2 ∧ ltileOf up 33 = none ∧ (up.updDev (fun d => { d with resetting := [2] })).dev.resetting.contains 2 = true ∧
    up.clk.refDown ||| 1 ≠ 0xF ∧ (up.updClk (fun c => { c with refDown := 0xE })).clk.refDown ||| 1 = 0xF ∧
    (let s := (up.updIsland 16 (fun i => { i with cur := 6 })); (neighbours 33).contains 16 = true ∧ (s.island 16).pst = .on ∧
      700 < oppMv (s.island 16).point ∧ floorOf (tick 5 s) 16 < 4) := ⟨up_serving, by decide +kernel⟩

/-- The device at the end of its boot, both images sound. -/
def booting : State := up.updDev (fun d => { d with st := .boot })
def sound (a b c d : Bool) : BootInfo := { numlvl := 1, imageOkA := a, imageOkB := b, pilotOkA := c, pilotOkB := d, eepromOk := true, regs := [], monitors := true, fast := false, subsys := 0, flashOk := true }

theorem witness_ResetsAndBoot : booting.dev.st = .boot ∧ booting.dev.bootAt + sec 2 ≤ (tick (sec 2) booting).time ∧ (bootOrder booting).headD 0 = 0 ∧
    (let b := sound true true true false; (bootOrder booting).find? (fun k => if k = 0 then b.imageOkA else b.imageOkB) = some 0 ∧
      (slotOrder booting.flash 2).find? (fun k => if k = 0 then b.pilotOkA else b.pilotOkB) = some 0) ∧
    (let b := sound false false true true; (bootOrder booting).find? (fun k => if k = 0 then b.imageOkA else b.imageOkB) = none) ∧
    (let b := sound true true false false; (slotOrder booting.flash 2).find? (fun k => if k = 0 then b.pilotOkA else b.pilotOkB) = none) ∧
    ((job .stopped).job 0).st ≠ .free ∧ Tbl.wf TileS.reset up.tiles = true ∧
    (let s := island2 (fun i => { i with cur := 4 }); (s.island 2).pst = .on ∧ floorOf (tick 5 s) 2 < (s.island 2).point) ∧
    (let s := up.updClk (fun c => { c with hold := true, holdEnd := 3 });
      s.clk.hold = true ∧ s.clk.holdEnd ≤ (tick 5 s).time ∧ (∀ j, j < 64 → (s.job j).st = .free ∧ (s.job j).heldVerdicts = []) ∧
      (∀ p, p < 136 → (s.island p).held = false)) ∧
    dipSeen (tick 5 booting) (.core 1) (668 : BitVec 16).toNat (3200 : Word).toNat = true ∧
    dipSeen (tick 5 booting) .sram (705 : BitVec 16).toNat (3200 : Word).toNat = false := by decide +kernel

/-- A live move of tile 2 from its position to the spare of die 0, its memory test under way. -/
def moving : State := (up.updDev (fun d => { d with moves := [⟨2, 2, 33, .testing⟩] })).updIsland 33 (fun i => { i with pst := .on })

theorem witness_SparingAndMonitors : Serving up ∧ (2 : Word).getLsbD 31 = false ∧ (0x80000002 : Word).getLsbD 31 = true ∧
    (0x80000002 : Word).toNat % 128 = 2 ∧ mayCarry (tick 5 (moored up)) 2 = true ∧ jobsOn (tick 5 up) 2 = [] ∧ physOf up 2 = some 2 ∧
    (spareOf up 0).isSome = true ∧ up.dev.moves = [] ∧ unitBusy up 2 = false ∧ unitBusy up 33 = false ∧ unitBusy moving 33 = true ∧
    (let m : Move := ⟨2, 2, 33, .testing⟩; moving.dev.moves.find? (fun x => x.new = 33 && x.stage = .testing) = some m ∧ m.old ≠ m.new ∧
      (∀ n, n < 129 → n ≠ m.tile → moving.dev.place[n]? ≠ some (some m.old) ∧ moving.dev.place[n]? ≠ some (some m.new)) ∧
      moving.dev.place.length ≤ 128 ∧ moving.dev.place[m.tile]? = some (some m.old)) ∧
    alarmHolds (tick 5 (island2 (fun i => { i with alarm := true, cur := 0 }))) 2 .timingAtFloor = true ∧ tagState ((up.tile 2).acc 3).tag = accFree ∧
    up.inst? 0 16 = none ∧ ((startInst 0 16 3 5 (us 9000) 0 (rumOn up)).inst? 0 16).isSome = true ∧ up.clk.autospare = false ∧ 40 < (41 : BitVec 16).toNat ∧ (10 : BitVec 8).toNat < 11 ∧
    mayCarry (tick 5 ((job .running).updJob 0 (fun x => { x with grants := x.grants.map (fun g => { g with tile := 2 }) }))) 2 = false := ⟨up_serving, by decide +kernel⟩

end Sys2Proof.Tests
end

