-- ==== Sys2Proof/Tests/Switching.lean ====
section
/-! SUPPORT. Witnesses of the statements about tides, the switch core and the buffer pool. -/

namespace Sys2Proof.Tests

set_option Elab.async false

open Sys2Proof Sys2Proof.Machine Sys2Proof.Safety

/-- A tide switch pending, with GO. -/
def pendingTide : State := up.updTide (fun x => { x with pending := true, en := true, go := true, switchAt := 0 })

/-- A tide staged for tide 100,000, of one slot, a control slot of every port; it is that short to keep the check small. -/
def stagedTide : State := up.updTide (fun x => { x with
  bank1 := { x.bank0 with len := 1, ents := (List.range 128).map (fun n => (n, 0xC0000000)) }, staged := true, switchAt := 100000 })

/-- A staged tide of two slots whose slot 1 is tile 3's to receive in, by the slice of job slot 0, with a core supply that does not carry OPP 4 yet. -/
def raisingTide : State := ((stagedTide.updTide (fun x => { x with
  bank1 := { x.bank1 with len := 2, slices := [(0, 0x12A7)], ents := (List.range 128).flatMap (fun n => (2 * n, 0xC0000000) :: (if n = 3 then [(2 * n + 1, 0x40000000)] else [])) } })).updJob 0
  (fun x => { x with st := .stopped, tag := 0x2A7, slices := [⟨3, false, 1, 0⟩] })).updClk (fun c => { c with vdd := [(0, 600)] })

/-- EN's check has raised the tiles that the staged bank uses. -/
def raisedBy (s : State) : State := (List.range 128).foldl (fun s n => if bankUses (s.otherBank) n then raiseTile n s else s) (s.updTide (fun x => { x with en := true }))

/-- A switch just done: the old bank held from time 0. -/
def heldTide : State := up.updTide (fun x => { x with hold := true, switchedAt := 0 })

theorem witness_TideSwitches_check : Working stagedTide ∧ stagedTide.tide.en = false ∧ tideCheck (tick 5 stagedTide) = none ∧
    stagedTide.fabric.root = none ∧ tideCheck (tick 5 up) = some 0x0209 :=
  ⟨working_of rfl rfl, by decide +kernel, by decide +kernel, by decide +kernel, by decide +kernel⟩

theorem witness_TideSwitches_raising : raisingTide.tide.en = false ∧ raising (raisedBy stagedTide) stagedTide.otherBank = false ∧
    tideCheck (tick 5 raisingTide) = none ∧ raising (raisedBy raisingTide) raisingTide.otherBank = true := by decide +kernel

theorem witness_TideSwitches_switch : Serving pendingTide ∧ checking .tide pendingTide = false ∧ pendingTide.tide.pending = true ∧
    pendingTide.fabric.root = none ∧ up.tide.pending = false ∧ pendingTide.tide.go = true ∧
    tideStart5 (tick 5 pendingTide) pendingTide.tide.switchAt.toNat ≤ 5 * ((tick 5 pendingTide).time : Int) ∧
    (let s := pendingTide.updTide (fun x => { x with switchAt := 9 }); 5 * ((tick 5 s).time : Int) < tideStart5 (tick 5 s) 9) ∧
    heldTide.tide.hold = true ∧ 5 * heldTide.tide.switchedAt + 2048 * slotFifths ≤ 5 * (tick (us 5) heldTide).time :=
  ⟨serving_of rfl rfl, by decide +kernel⟩

/-- A cell of the control class for a device, a payload apart. -/
def ctlCell (k : Nat) : Cell := fabCell clsCtl kDiscovery 1 1 0 k 0

/-- A tide of 64 slots without entries. -/
def noTide (s : State) : State := s.updTide (fun x => { x with bank0 := { x.bank0 with len := 64, ents := [] } })

/-- Port 5 UP with five control cells to send. -/
def sending : State := (noTide up).updPort 5 (fun p => { p with st := .up, laneSet := 0xFF, ctlQ := [ctlCell 1, ctlCell 2, ctlCell 3, ctlCell 4, ctlCell 5] })

/-- Tile 3 with two unscheduled cells for port 9, at full rate. -/
def matching : State := (((noTide up).updTile 3 (fun x => { x with voqs := [(4 * 9 + 2, [⟨ctlCell 1, none⟩, ⟨ctlCell 2, none⟩])] })).updIsland 3
  (fun i => { i with cur := 4 })).updIsland 9 (fun i => { i with cur := 4 })

theorem witness_SlotsAndMatcher : sending.bank.ents = [] ∧ sending.otherBank.ents = [] ∧ (∀ j, j < 64 → (sending.job j).st ≠ .running) ∧
    (∀ k, k < 130 → k ≠ 5 → (sending.port k).st ≠ .up ∧ (sending.port k).st ≠ .retrain ∧ (sending.port k).st ≠ .loopback ∧ (sending.port k).schedQ = []) ∧
    (sending.port 5).owesRetrain = false ∧ (∀ x ∈ [ctlCell 1, ctlCell 2, ctlCell 3, ctlCell 4], x.cls ≠ clsSched) ∧
    (sending.port 5).st = .up ∧ (sending.port 5).txFree ≤ 5 * (tick 5 sending).time ∧ (sending.port 5).slpMove = .none ∧
    (sending.port 5).again = none ∧ (sending.port 5).replay = [] ∧ (sending.port 5).held = [] ∧ (sending.port 5).ctlOut = [] ∧
    (sending.port 5).schedQ = [] ∧ (sending.port 5).slipQ = [] ∧
    (sending.port 5).ctlQ = [ctlCell 1, ctlCell 2, ctlCell 3, ctlCell 4, ctlCell 5] ∧
    matching.bank.ents = [] ∧ matching.otherBank.ents = [] ∧ (∀ n, n < 128 → (matching.tile n).bands = [] ∧ (matching.port n).passCells = []) ∧
    (∀ n, n < 128 → n ≠ 3 → (matching.tile n).voqs = []) ∧
    (matching.tile 3).voqs = [(4 * 9 + 2, ([ctlCell 1, ctlCell 2] : List Cell).map (fun c => ⟨c, none⟩))] ∧
    fullRate matching 3 = true ∧ fullRate matching 9 = true ∧ (matching.port 9).unsQ.length ≤ 60 := by decide +kernel

/-- A tide entry of port 5: RX PASS to port 7. -/
def passing : State := ((up.updTide (fun x => { x with bank0 := { x.bank0 with ents := [(5 * 64, 0x80000007)] } })).updPort 5
  (fun p => { p with passCells := [⟨0, 64, 0x80000007, ctlCell 1⟩] })).updPort 7 (fun p => { p with st := .up })

/-- An unscheduled cell for a device, and port 5 where it came. -/
def unsCell (ddev : Nat) : Cell := fabCell clsUns kContribution 0 ddev 0 0 0
def staging (c : Cell) : State := (identified up).updPort 5 (fun p => { p with rxCells := [(0, c)] })

/-- Routes to device 1 over port 7, forwarding. -/
def routed (s : State) : State := (s.updFabric (fun f => { f with routes := [(1, 0x1000000000000000 + 7 + 128 * 7)] })).updPort 7
  (fun p => { p with st := .up })

theorem witness_CellsThroughTheSwitch : (let e : Word := 0x80000007; (passing.port 5).passCells.find? (fun q => q.label = 0 && q.cell = ctlCell 1) = some ⟨0, 64, e, ctlCell 1⟩ ∧
      teRx e = rxPass ∧ teMc e = false ∧ teTile e = false ∧ teUnit e = 7 ∧
      linkAlive (passing.port 7) = true ∧ (passing.port 7).slp = .active ∧ (passing.port 7).slpMove = .none) ∧
    (unsCell 0).cls = clsUns ∧ isNext (unsCell 0) (((staging (unsCell 0)).port 5).rxCells.map (·.2)) = true ∧
    ((staging (unsCell 0)).port 5).staged = [] ∧ ((staging (unsCell 0)).port 5).creditHold = false ∧ noTag (unsCell 0) (staging (unsCell 0)) = false ∧
    unsTargets 5 (unsCell 0) (tick 5 (staging (unsCell 0))) = .go [] true ∧ cellSlot (staging (unsCell 0)) (unsCell 0) = none ∧
    transitUse (staging (unsCell 0)) 5 < 1024 ∧ (((staging (unsCell 0)).updTile 5 (fun x => { x with freeList := some [0, 1] })).tile 5).free = [0, 1] ∧
    unsTargets 5 (unsCell 9) (tick 5 (staging (unsCell 9))) = .unreach ∧
    (let s := (staging (unsCell 0)).updPort 5 (fun p => { p with creditHold := true, staged := [⟨unsCell 0, none⟩] });
      (s.port 5).creditHold = true ∧ (s.port 5).staged = [⟨unsCell 0, none⟩] ∧ unsTargets 5 (unsCell 0) (tick 5 s) = .go [] true) ∧
    (let s := up.updPort 6 (fun p => { p with slipQ := [⟨0, ctlCell 1, false⟩] });
      let s := { s with time := us 100 };
      (s.port 6).slipQ.find? (fun x => x.pos + 8192 ≤ posNow (tick (us 100) s)) = some ⟨0, ctlCell 1, false⟩ ∧ slotOf (ctlCell 1).job s = none) := by
  decide +kernel

/-- An unscheduled cell that port 7 takes on to device 1, and buffer 0 for it. -/
theorem witness_CellsThroughTheSwitch_forwarded :
    (let s := routed ((staging (unsCell 1)).updDev (fun d => { d with st := .enabled }));
      unsTargets 5 (unsCell 1) (tick 5 s) = .go [7] false ∧ linkAlive (s.port 7) = true ∧ (s.port 7).slp = .active ∧ (s.port 7).slpMove = .none ∧ cellSlot s (unsCell 1) = none ∧
      transitUse s 5 < 1024 ∧ noTag (unsCell 1) s = false ∧ isNext (unsCell 1) ((s.port 5).rxCells.map (·.2)) = true ∧
      ((s.updTile 5 (fun x => { x with freeList := some [0, 1] })).tile 5).free = [0, 1]) := by decide +kernel

/-- Tile 2 with buffer 0 out of the free list in the given state and use count. -/
def buffer0 (st : Bool) (count : Nat) : State := up.updTile 2 (fun x => { x with
  freeList := some [1, 2, 3], bufs := [(0, ⟨st, count, false, some .transit, false⟩)] })

theorem witness_BufferPool : ¬ ((1835008 : Word).toNat < 1835008 ∧ (1835008 : Word).toNat % 112 = 0) ∧
    ((0 : Word).toNat < 1835008 ∧ (0 : Word).toNat % 112 = 0) ∧ (((buffer0 false 0).tile 2).buf 0).state = false ∧
    (((buffer0 true 2).tile 2).buf 0).state = true ∧ 1 < (((buffer0 true 2).tile 2).buf 0).count ∧
    (((buffer0 true 1).tile 2).buf 0).count ≤ 1 ∧ ((buffer0 false 0).tile 2).audit = 0 ∧
    (((buffer0 false 0).tile 2).free.filter (· = 0)).length = 0 ∧
    (let s := (buffer0 false 0).updTile 2 (fun x => { x with audit := 1 });
      ((s.tile 2).buf 1).state = false ∧ ((s.tile 2).free.filter (· = 1)).length = 1) := by decide +kernel

end Sys2Proof.Tests
end

section
/-! PROOF. What reset leaves (O58): the register map by address, the tables of the reset state, and the statement. -/

namespace Sys2Proof.Machine

/-! ### The register map: the address of a register selects its block, unit and offset (Table RG-1) -/

theorem reg32_ring (s : State) {a r off : Nat} (hr : r < 10) (ho : off < 0x40) (ha : a = 0x2000 + 0x40 * r + off) :
    reg32 s a = ringReg s r off := by
  have hunit : (a - 0x2000) / 0x40 = r := by omega
  have hoff : a % 0x40 = off := by omega
  have hblock : ¬ a < 0x100 ∧ ¬ a < 0x1020 ∧ 0x2000 ≤ a ∧ a < 0x2280 := by omega
  simp [reg32, hunit, hoff, hblock]

theorem reg64_ringBase (s : State) {a r : Nat} (hr : r < 10) (ha : a = 0x2000 + 0x40 * r) : reg64 s a = some (s.ring r).base.toNat := by
  have hunit : (a - 0x2000) / 0x40 = r := by omega
  have hoff : a % 0x40 = 0 := by omega
  have hblock : a ≠ 0x08 ∧ a ≠ 0x80 ∧ a ≠ 0x1008 ∧ a ≠ 0x1010 ∧ 0x2000 ≤ a ∧ a < 0x2280 := by omega
  simp [reg64, hunit, hoff, hblock]

theorem reg64_ringProgress (s : State) {a r : Nat} (hr : r < 10) (ha : a = 0x2018 + 0x40 * r) :
    reg64 s a = some (fields [((s.ring r).cpi.toNat, 32), ((s.ring r).fetch.toNat, 0)]) := by
  have hunit : (a - 0x2000) / 0x40 = r := by omega
  have hoff : a % 0x40 = 0x18 := by omega
  have hblock : a ≠ 0x08 ∧ a ≠ 0x80 ∧ a ≠ 0x1008 ∧ a ≠ 0x1010 ∧ 0x2000 ≤ a ∧ a < 0x2280 := by omega
  simp [reg64, hunit, hoff, hblock]

theorem reg32_job (s : State) {a j : Nat} (hj : j < 64) (ha : a = 0x4000 + 4 * j) : reg32 s a = some (jobWord s j) := by
  have hunit : (a - 0x4000) / 4 = j := by omega
  have hblock : ¬ a < 0x100 ∧ ¬ a < 0x1020 ∧ ¬ a < 0x2280 ∧ ¬ a < 0x3018 ∧ 0x4000 ≤ a ∧ a < 0x4100 := by omega
  simp [reg32, hunit, hblock]

theorem reg32_port (s : State) {a n off : Nat} (hn : n < 130) (ho : off < 0x200) (ha : a = 0x10000 + 0x200 * n + off) :
    reg32 s a = portReg s n off := by
  have hunit : (a - 0x10000) / 0x200 = n := by omega
  have hoff : a % 0x200 = off := by omega
  have hblock : ¬ a < 0x100 ∧ ¬ a < 0x1020 ∧ ¬ a < 0x2280 ∧ ¬ a < 0x3018 ∧ ¬ a < 0x4100 ∧ 0x10000 ≤ a ∧ a < 0x20400 := by omega
  simp [reg32, hunit, hoff, hblock]

theorem reg32_clk (s : State) {a off : Nat} (ho : off < 0x4000) (ha : a = 0x40000 + off) : reg32 s a = clkReg s off := by
  have hoff : a - 0x40000 = off := by omega
  have hblock : ¬ a < 0x100 ∧ ¬ a < 0x1020 ∧ ¬ a < 0x2280 ∧ ¬ a < 0x3018 ∧ ¬ a < 0x4100 ∧ ¬ a < 0x20400 ∧ 0x40000 ≤ a ∧ a < 0x44000 := by
    omega
  simp [reg32, hoff, hblock]

theorem reg32_pwr (s : State) {a off : Nat} (ho : off < 0x4000) (ha : a = 0x44000 + off) : reg32 s a = pwrReg s off := by
  have hoff : a - 0x44000 = off := by omega
  have hblock : ¬ a < 0x100 ∧ ¬ a < 0x1020 ∧ ¬ a < 0x2280 ∧ ¬ a < 0x3018 ∧ ¬ a < 0x4100 ∧ ¬ a < 0x20400 ∧ ¬ a < 0x44000 ∧ 0x44000 ≤ a ∧
      a < 0x48000 := by omega
  simp [reg32, hoff, hblock]

/-! ### The tables of the reset state -/

@[simp] theorem reset_ring (r : Nat) : State.reset.ring r = Ring.reset := rfl
@[simp] theorem reset_port (n : Nat) : State.reset.port n = PortS.reset := rfl
@[simp] theorem reset_job (j : Nat) : State.reset.job j = Job.reset := rfl
@[simp] theorem reset_tile (n : Nat) : State.reset.tile n = TileS.reset := rfl

/-- What a table reads has every property that its values and its default share. -/
theorem Tbl.get_of_forall {α : Type} {P : α → Prop} {d : α} {t : Tbl α} (hd : P d) (ht : ∀ e ∈ t, P e.2) (k : Nat) : P (Tbl.get d t k) := by
  induction t with
  | nil => exact hd
  | cons e rest ih =>
    obtain ⟨he, hrest⟩ := List.forall_mem_cons.mp ht
    by_cases hk : e.1 = k
    · simpa [Tbl.get, hk] using he
    · simpa [Tbl.get, hk] using ih hrest

/-- A table made key by key reads at a key what was made for it. -/
theorem Tbl.get_filterMap {α : Type} (d : α) {g : Nat → Option (Nat × α)} (hg : ∀ p e, g p = some e → e.1 = p) (l : List Nat) (k : Nat) :
    Tbl.get d (l.filterMap g) k = if k ∈ l then ((g k).map (·.2)).getD d else d := by
  induction l with
  | nil => rfl
  | cons p l ih =>
    cases hp : g p with
    | none =>
      by_cases hk : k = p
      · subst hk
        simp [hp, ih]
      · simp [hp, ih, hk]
    | some e =>
      have he : e.1 = p := hg p e hp
      by_cases hk : k = p
      · simp [Tbl.get, hp, he, hk]
      · simp [Tbl.get, hp, he, hk, Ne.symm hk, ih]

/-! ### Islands -/

/-- An island is without a logical tile exactly where no place names it. -/
theorem ltileOf_isNone {s : State} (hlen : s.dev.place.length = 128) (p : Nat) :
    (ltileOf s p).isNone = !s.dev.place.contains (some p) := by
  have hfind : ltileOf s p = none ↔ ∀ n < 128, s.dev.place[n]? ≠ some (some p) := by simp [ltileOf]
  have hplace : some p ∈ s.dev.place ↔ ∃ n, s.dev.place[n]? = some (some p) := List.mem_iff_getElem?
  have hrange (n : Nat) (hn : s.dev.place[n]? = some (some p)) : n < 128 := hlen ▸ (List.getElem?_eq_some_iff.mp hn).1
  rw [Bool.eq_iff_iff]
  simp only [Option.isNone_iff_eq_none, hfind, Bool.not_eq_true', ← Bool.not_eq_true, List.contains_iff_mem, hplace, not_exists]
  exact ⟨fun h n hn => h n (hrange n hn) hn, fun h n _ => h n⟩

theorem assignTiles_length (fused listed : List Nat) : (assignTiles fused listed).length = 128 := by simp [assignTiles]

/-- An island made for a device without a fused or listed position holds a logical tile, or is a spare. -/
theorem islandsOf_get {p : Nat} (hp : p < 136) :
    Tbl.get Island.reset (islandsOf [] []) p = if (assignTiles [] []).contains (some p) then Island.reset else Island.spare := by
  rw [islandsOf, Tbl.get_filterMap]
  · by_cases hc : (assignTiles [] []).contains (some p) <;> simp only [hc] <;> simp [hp]
  · intro q e he
    simp only [List.contains_nil, Bool.or_self, Bool.false_eq_true, if_false] at he
    split at he
    · cases he
    · cases he
      rfl

/-- After reset an island is a gated spare where no logical tile has it (R424). -/
theorem reset_island {p : Nat} (hp : p < 136) :
    State.reset.island p = if (ltileOf State.reset p).isNone then Island.spare else Island.reset := by
  rw [ltileOf_isNone (assignTiles_length [] [])]
  show Tbl.get Island.reset (islandsOf [] []) p = _
  rw [islandsOf_get hp]
  show _ = if !(assignTiles [] []).contains (some p) then _ else _
  cases (assignTiles [] []).contains (some p) <;> rfl

/-! ### Floors -/

/-- Every entry of the idle tide (R274) is CONTROL or FREE, and sends nothing. -/
theorem idle_ent (n t : Nat) : TideBank.idle.ent n t = 0 ∨ TideBank.idle.ent n t = 0xC0000000 :=
  Tbl.get_of_forall (P := fun e => e = 0 ∨ e = 0xC0000000) (.inl rfl) (by simp [TideBank.idle]) _

theorem idle_bankUses (n : Nat) : bankUses TideBank.idle n = false := by
  have hcell : ∀ e : Word, e = 0 ∨ e = 0xC0000000 → teRx e ≠ rxLocal ∧ teRx e ≠ rxPass ∧ teTx e ≠ 1 := by
    rintro e (rfl | rfl) <;> decide
  have hents : ∀ q ∈ TideBank.idle.ents, teRx q.2 ≠ rxLocal ∧ teRx q.2 ≠ rxPass ∧ teTx q.2 ≠ 1 :=
    fun q hq => hcell q.2 (.inr (by simp [TideBank.idle] at hq; obtain ⟨_, _, rfl⟩ := hq; rfl))
  simp only [bankUses, Bool.or_eq_false_iff, List.any_eq_false]
  refine ⟨fun t _ => ?_, fun q hq => ?_⟩
  · simp [hcell _ (idle_ent n t)]
  · simp [hents q hq]

/-- No island has a floor after reset: the tide idles and no job runs (R420). -/
theorem reset_floor (p : Nat) : floorOf State.reset p = 0 := by
  have htide (n : Nat) : tideUses State.reset n = false := by
    simpa [tideUses, State.bank, State.reset, Tide.reset] using idle_bankUses n
  have hruns (n : Nat) : runs State.reset n = false := by simp [runs, Job.reset]
  simp only [floorOf, htide, hruns]
  split <;> rfl

/-! ### The register blocks after reset -/

/-- DEV_ID shows the fallback ID alone, in its bits 12 to 23 (Table FB-1). -/
theorem reset_devId : reg32 State.reset 0x28 = some ((fallbackOf Dev.reset).toNat * 2 ^ 12) := by
  show some (fields [(0, 31), (0, 29), (0, 28), ((fallbackOf Dev.reset).toNat, 12), (0, 0)]) = _
  simp [fields]

theorem reset_devIdFields : (reg32 State.reset 0x28).map (· % 4096) = some 0 ∧ (reg32 State.reset 0x28).map (· / 2 ^ 28) = some 0 := by
  have hwidth := (fallbackOf Dev.reset).isLt
  rw [reset_devId]
  simp only [Option.map_some, Option.some.injEq]
  omega

/-- TWIN_JSTAT says that TWIN_JOB names no job (Table TW-11). -/
theorem reset_twinJstat : reg32 State.reset 0x3010 = some 0xE0000000 := by
  have hnone : namedJob State.reset = none := by simp [namedJob, slotOf, Job.reset]
  show some (twinJstat State.reset) = _
  rw [twinJstat, hnone]
  rfl

theorem reset_ringRegs {r : Nat} (hr : r < 10) : reg32 State.reset (0x2010 + 0x40 * r) = some 0x06000000 ∧
    reg32 State.reset (0x2014 + 0x40 * r) = some 0 ∧ reg64 State.reset (0x2000 + 0x40 * r) = some 0 ∧
    reg64 State.reset (0x2018 + 0x40 * r) = some 0 := by
  rw [reg32_ring _ (off := 0x10) hr (by omega) (by omega), reg32_ring _ (off := 0x14) hr (by omega) (by omega),
    reg64_ringBase _ hr rfl, reg64_ringProgress _ hr rfl]
  simp only [ringReg, reset_ring]
  decide

theorem reset_jobReg {j : Nat} (hj : j < 64) : reg32 State.reset (0x4000 + 4 * j) = some 0 := by
  rw [reg32_job _ hj rfl]
  rfl

theorem reset_portRegs {n : Nat} (hn : n < 130) : reg32 State.reset (0x10000 + 0x200 * n) = some 0x00040000 ∧
    reg32 State.reset (0x10004 + 0x200 * n) = some 0 ∧ reg32 State.reset (0x10008 + 0x200 * n) = some 0 ∧
    reg32 State.reset (0x1000C + 0x200 * n) = some 0 ∧
    reg32 State.reset (0x10010 + 0x200 * n) = some (if n < 128 then 8 else 0) := by
  rw [reg32_port _ (off := 0) hn (by omega) (by omega), reg32_port _ (off := 4) hn (by omega) (by omega),
    reg32_port _ (off := 8) hn (by omega) (by omega), reg32_port _ (off := 0xC) hn (by omega) (by omega),
    reg32_port _ (off := 0x10) hn (by omega) (by omega)]
  simp only [portReg, reset_port]
  by_cases hfab : n < 128 <;> simp only [hfab] <;> decide

/-- CLK_OPP of an island shows AUTO and REQ 4, and PWR_DOM the gate of a spare (Tables CP-12 and CP-14). -/
theorem reset_islandRegs {p : Nat} (hp : p < 136) : reg32 State.reset (0x40000 + 4 * p) = some 0x2004 ∧
    (reg32 State.reset (0x44000 + 4 * p)).map (· % 2) = some (if (ltileOf State.reset p).isNone then 1 else 0) := by
  have hoff : 4 * p < 0x220 := by omega
  have hunit : 4 * p / 4 = p := by omega
  rw [reg32_clk _ (off := 4 * p) (by omega) rfl, reg32_pwr _ (off := 4 * p) (by omega) rfl]
  simp only [clkReg, pwrReg, hoff, hunit, if_true, reset_floor, reset_island hp]
  cases (ltileOf State.reset p).isNone <;> decide

/-- Every accumulator tile is FREE after reset, with nothing written. -/
theorem reset_acc (n a : Nat) : tagState ((State.reset.tile n).acc a).tag = accFree ∧ ((State.reset.tile n).acc a).written = 0 := by
  have hacc : (State.reset.tile n).acc a = Acc.reset := rfl
  rw [hacc]
  decide

/-- Settles O58: the registers of each unit by the lemmas of their blocks, every other value as the reset state holds it. -/
theorem reset : Obligations.Reset := by
  refine ⟨⟨rfl, rfl, rfl, reset_devIdFields.1, reset_devIdFields.2, rfl, rfl, fun _ hr => reset_ringRegs hr, rfl, rfl, rfl, rfl, reset_twinJstat,
    fun _ hj => reset_jobReg hj, fun _ hn => reset_portRegs hn, fun _ hp => reset_islandRegs hp, rfl, rfl, rfl, rfl⟩, ?_⟩
  exact ⟨rfl, fun _ => rfl, fun _ => rfl, fun _ => rfl, reset_acc, fun _ => ⟨rfl, rfl⟩, rfl, rfl, rfl, rfl, rfl⟩

end Sys2Proof.Machine
end

section
/-! PROOF. Frames of the operations on tiles, queues and counters: what each can change, said once. -/

namespace Sys2Proof.Safety

open Sys2Proof.Machine

/-- Both branches of a test keep a frame. -/
theorem OnlyChanges.ite {l : List Region} {p : Prop} [Decidable p] {s a b : State} (ha : OnlyChanges l s a) (hb : OnlyChanges l s b) :
    OnlyChanges l s (if p then a else b) := by
  split
  · exact ha
  · exact hb

/-! ### Counters, attribution and profiling touch the observability block alone (R457 to R463) -/

theorem profEvent_only (e n : Nat) (slot : Option Nat) (k : Nat) (s : State) : OnlyChanges [.obs] s (profEvent e n slot k s) :=
  OnlyChanges.foldl _ (fun _ _ => .ite (bump_only _ _ _) (.refl _ _)) _ s

theorem charge_only (tag layer oper i a h : Nat) (s : State) : OnlyChanges [.obs] s (charge tag layer oper i a h s) := by
  have hbins (o : Obs) : OnlyChanges [.obs] s { s with obs := o } := updObs_only (fun _ => o) s
  unfold charge
  split
  · exact .refl _ _
  · dsimp only
    split
    · exact ((hbins _).trans (logCode_only _ _ _)).trans (updObs_only _ _)
    · exact hbins _

theorem chargeAcc_only (n j : Nat) (c : CqEnt) (rd wr : Nat) (s : State) : OnlyChanges [.obs] s (chargeAcc n j c rd wr s) := by
  unfold chargeAcc
  exact ((bump_only _ _ _).trans (bump_only _ _ _)).trans (charge_only _ _ _ _ _ _ _)

theorem countEv_only (n j : Nat) (ev : Ev) (s : State) : OnlyChanges [.obs] s (countEv n j ev s) :=
  OnlyChanges.foldl _ (fun _ _ => .ite (.refl _ _) (bump_only _ _ _)) _ s

/-! ### Queues and events of a tile touch the tiles and the counters -/

/-- What the operations of a tile's engines and queues may change. -/
def tileAreas : List Region := [.tiles, .obs]

theorem tileAreas_tile (n : Nat) (f : TileS → TileS) (s : State) : OnlyChanges tileAreas s (s.updTile n f) :=
  (updTile_only n f s).mono (by simp [tileAreas])

theorem tileAreas_obs {s s' : State} (h : OnlyChanges [.obs] s s') : OnlyChanges tileAreas s s' := h.mono (by simp [tileAreas])

theorem pushEvent_only (n j ev bind arg : Nat) (s : State) : OnlyChanges tileAreas s (pushEvent n j ev bind arg s) :=
  (tileAreas_tile _ _ _).trans (tileAreas_obs (bumpMax_only _ _ _))

theorem tileEvent_only (n j coll ev arg : Nat) (s : State) : OnlyChanges tileAreas s (tileEvent n j coll ev arg s) :=
  OnlyChanges.foldl _ (fun _ _ => .ite (pushEvent_only _ _ _ _ _ _) (.refl _ _)) _ s

theorem jobEvent_only (j coll ev arg : Nat) (s : State) : OnlyChanges tileAreas s (jobEvent j coll ev arg s) :=
  OnlyChanges.foldl _ (fun _ _ => tileEvent_only _ _ _ _ _ _) _ s

theorem freeAddr_only (n a : Nat) (s : State) : OnlyChanges tileAreas s (freeAddr n a s) := by
  unfold freeAddr
  exact .ite (tileAreas_obs (logCode_only _ _ _)) (.ite (tileAreas_obs ((logCode_only _ _ _).trans (bump_only _ _ _)))
    (.ite (tileAreas_tile _ _ _) (tileAreas_tile _ _ _)))

theorem freeBuf_only (n : Nat) (b : Option Nat) (s : State) : OnlyChanges tileAreas s (freeBuf n b s) := by
  cases b with
  | none => exact .refl _ _
  | some k => exact freeAddr_only _ _ _

theorem popIq_only (n p k j : Nat) (s : State) : OnlyChanges tileAreas s (popIq n p k j s) :=
  (((tileAreas_tile _ _ _).trans (tileAreas_obs (profEvent_only _ _ _ _ _))).trans
    (OnlyChanges.foldl _ (fun _ _ => freeBuf_only _ _ _) _ _)).trans (tileAreas_obs (bump_only _ _ _))

theorem setEnts_only (n j q : Nat) (l : List Ent) (s : State) : OnlyChanges tileAreas s (setEnts n j q l s) := by
  unfold setEnts
  split
  · exact tileAreas_tile _ _ _
  · split
    · exact (tileAreas_tile _ _ _).trans (tileAreas_obs (bumpMax_only _ _ _))
    · exact .refl _ _

theorem popEnts_only (n j q k : Nat) (s : State) : OnlyChanges tileAreas s (popEnts n j q k s) := setEnts_only _ _ _ _ _

theorem popSrc_only (n j q k : Nat) (s : State) : OnlyChanges tileAreas s (popSrc n j q k s) := by
  unfold popSrc
  split
  · exact popIq_only _ _ _ _ _
  · split
    · exact popEnts_only _ _ _ _ _
    · exact .refl _ _

theorem pumpQueues_only (k n : Nat) (s : State) : OnlyChanges tileAreas s (pumpQueues k n s) := by
  induction k generalizing s with
  | zero => exact .refl _ _
  | succ k ih =>
    unfold pumpQueues
    split
    · exact .refl _ _
    · split
      · exact ((tileAreas_tile _ _ _).trans (tileAreas_tile _ _ _)).trans (ih _)
      · exact .refl _ _

theorem pumpTile_only (n : Nat) (s : State) : OnlyChanges tileAreas s (pumpTile n s) := pumpQueues_only _ _ _

theorem reconPops_only (n j : Nat) (i : DWord) (k : Nat) (s : State) : OnlyChanges tileAreas s (reconPops n j i k s) := by
  induction k generalizing s with
  | zero => exact .refl _ _
  | succ k ih =>
    unfold reconPops
    dsimp only
    split
    · exact .refl _ _
    · exact ((tileAreas_tile _ _ _).trans (popEnts_only _ _ _ _ _)).trans (ih _)

theorem discardSrc_only (n j : Nat) (c : CqEnt) (s : State) : OnlyChanges tileAreas s (discardSrc n j c s) := by
  unfold discardSrc
  dsimp only
  split
  · exact .refl _ _
  · split
    · exact reconPops_only _ _ _ _ _
    · split
      · exact popIq_only _ _ _ _ _
      · split
        · exact popEnts_only _ _ _ _ _
        · exact .refl _ _

theorem discardQueued_only (n j : Nat) (p : CqEnt → Bool) (s : State) : OnlyChanges tileAreas s (discardQueued n j p s) :=
  ((((OnlyChanges.foldl _ (fun _ _ => discardSrc_only _ _ _ _) _ _).trans (tileAreas_obs (bump_only _ _ _))).trans
    (tileAreas_obs (bump_only _ _ _))).trans (tileAreas_tile _ _ _)).trans (pumpTile_only _ _)

theorem setAccN_only (n a off k v : Nat) (s : State) : OnlyChanges tileAreas s (setAccN n a off k v s) := tileAreas_tile _ _ _

theorem abortAcc_only (n a : Nat) (s : State) : OnlyChanges tileAreas s (abortAcc n a s) := by
  unfold abortAcc
  exact .ite (tileAreas_tile _ _ _) (.ite (tileAreas_tile _ _ _) (.ite (tileAreas_tile _ _ _) (.refl _ _)))

/-! ### The twin's queue -/

/-- A cell for the twin joins a queue of a twin-link half, or is dropped and logged (R317, R283). -/
theorem sendTwin_only (c : Cell) (s : State) : OnlyChanges [.ports, .obs] s (sendTwin c s) := by
  unfold sendTwin
  dsimp only
  have hport (n : Nat) (f : PortS → PortS) : OnlyChanges [.ports, .obs] s (s.updPort n f) := (updPort_only n f s).mono (by simp)
  exact .ite (hport _ _) (.ite ((logCode_only _ _ _).mono (by simp)) (hport _ _))

end Sys2Proof.Safety
end

section
/-! PROOF. Verdicts (O52): what the ends of instances leave of a job, and what a verdict's application does. -/

namespace Sys2Proof.Safety

open Sys2Proof.Machine

/-! ### What an applied verdict leaves of the other jobs and of its own -/

/-- What applying a verdict may change. -/
def verdictAreas : List Region := [.jobs, .tiles, .ports, .fabric, .twin, .host, .hostMem, .obs]

/-- Job y is job x but for its entries, its spill records, and what its twin state governs: the commit word, the attempt and the gate stand. -/
def GateKept (x y : Job) : Prop :=
  y = { x with
    entries := y.entries, spill := y.spill, twin := y.twin, ready := y.ready, dirty := y.dirty, copied := y.copied, optWaits := y.optWaits
    announced := y.announced }

theorem GateKept.refl (x : Job) : GateKept x x := rfl

theorem GateKept.trans {x y z : Job} (h : GateKept x y) (h' : GateKept y z) : GateKept x z := by
  unfold GateKept at h h' ⊢
  rw [h] at h'
  exact h'

theorem GateKept.ident {x y : Job} (h : GateKept x y) : y.st = x.st ∧ y.tag = x.tag := by
  rw [h]
  exact ⟨rfl, rfl⟩

theorem GateKept.word {x y : Job} (h : GateKept x y) : y.step = x.step ∧ y.lsexp = x.lsexp ∧ y.clean = x.clean := by
  rw [h]
  exact ⟨rfl, rfl, rfl⟩

theorem GateKept.attempt {x y : Job} (h : GateKept x y) : y.attempt = x.attempt ∧ y.gate = x.gate := by
  rw [h]
  exact ⟨rfl, rfl⟩

theorem GateKept.holds {x y : Job} (h : GateKept x y) : y.gradHold = x.gradHold ∧ y.commitPend = x.commitPend := by
  rw [h]
  exact ⟨rfl, rfl⟩

theorem GateKept.alpha {x y : Job} (h : GateKept x y) : y.alpha = x.alpha := by
  rw [h]

theorem GateKept.mark {x y : Job} (h : GateKept x y) (dec : Nat) : y.mark dec = x.mark dec := by
  rw [h]
  rfl

/-- From s to s' job slot j keeps its commit word, attempt and gate, every other job is as it was, and nothing outside the areas changes. -/
structure JobStands (j : Nat) (s s' : State) : Prop where
  only : OnlyChanges verdictAreas s s'
  other : ∀ q, q ≠ j → s'.job q = s.job q
  kept : GateKept (s.job j) (s'.job j)

theorem JobStands.refl (j : Nat) (s : State) : JobStands j s s := ⟨.refl _ _, fun _ _ => rfl, .refl _⟩

theorem JobStands.trans {j : Nat} {s s' s'' : State} (h : JobStands j s s') (h' : JobStands j s' s'') : JobStands j s s'' :=
  ⟨h.only.trans h'.only, fun q hq => (h'.other q hq).trans (h.other q hq), h.kept.trans h'.kept⟩

theorem JobStands.foldl {α : Type} {j : Nat} (f : State → α → State) (hf : ∀ s a, JobStands j s (f s a)) (l : List α) (s : State) :
    JobStands j s (l.foldl f s) := by
  induction l generalizing s with
  | nil => exact .refl _ _
  | cons a l ih => exact (hf s a).trans (ih _)

theorem JobStands.ite {j : Nat} {p : Prop} [Decidable p] {s a b : State} (ha : JobStands j s a) (hb : JobStands j s b) :
    JobStands j s (if p then a else b) := by
  split
  · exact ha
  · exact hb

/-- A change outside the jobs leaves every job as it was. -/
theorem OnlyChanges.job {l : List Region} {s s' : State} (h : OnlyChanges l s s') (hj : Region.jobs ∉ l) (q : Nat) : s'.job q = s.job q := by
  have hjobs : s'.jobs = s.jobs := h.2.2 .jobs hj
  simp only [State.job, hjobs]

/-- A change outside the tiles leaves every tile as it was. -/
theorem OnlyChanges.tile {l : List Region} {s s' : State} (h : OnlyChanges l s s') (ht : Region.tiles ∉ l) (m : Nat) : s'.tile m = s.tile m := by
  have htiles : s'.tiles = s.tiles := h.2.2 .tiles ht
  simp only [State.tile, htiles]

theorem JobStands.of_only {j : Nat} {l : List Region} {s s' : State} (h : OnlyChanges l s s') (hl : ∀ a ∈ l, a ∈ verdictAreas)
    (hj : Region.jobs ∉ l) : JobStands j s s' :=
  ⟨h.mono hl, fun q _ => h.job hj q, by rw [h.job hj]; exact .refl _⟩

theorem JobStands.of_tileAreas {j : Nat} {s s' : State} (h : OnlyChanges tileAreas s s') : JobStands j s s' :=
  .of_only h (by simp [tileAreas, verdictAreas]) (by simp [tileAreas])

theorem JobStands.of_updJob {j : Nat} {f : Job → Job} {s : State} (hf : GateKept (s.job j) (f (s.job j))) : JobStands j s (s.updJob j f) :=
  ⟨(updJob_only j f s).mono (by simp [verdictAreas]), fun _ hq => updJob_job_other hq f s, by simpa using hf⟩

theorem JobStands.of_updEntry (j coll : Nat) (f : Entry → Entry) (s : State) : JobStands j s (s.updJob j (fun x => x.updEntry coll f)) :=
  .of_updJob rfl

/-- A tag names the same slot as before where one job changed, but not its state and its tag. -/
theorem slotOf_congr {j : Nat} {s s' : State} (hother : ∀ q, q ≠ j → s'.job q = s.job q) (hst : (s'.job j).st = (s.job j).st)
    (htag : (s'.job j).tag = (s.job j).tag) (tag : Nat) : slotOf tag s' = slotOf tag s := by
  have hjob (q : Nat) : (s'.job q).st = (s.job q).st ∧ (s'.job q).tag = (s.job q).tag := by
    by_cases hq : q = j
    · exact hq ▸ ⟨hst, htag⟩
    · rw [hother q hq]
      exact ⟨rfl, rfl⟩
  simp only [slotOf, hjob]

theorem JobStands.slotOf {j : Nat} {s s' : State} (h : JobStands j s s') (tag : Nat) : slotOf tag s' = slotOf tag s :=
  slotOf_congr h.other h.kept.ident.1 h.kept.ident.2 tag

/-! ### Instances end (R120, R123) -/

theorem updInst_stands (j coll : Nat) (f : Inst → Inst) (s : State) : JobStands j s (s.updInst j coll f) := .of_updEntry _ _ _ _

theorem setSat_stands (j coll n : Nat) (on : Bool) (s : State) : JobStands j s (setSat j coll n on s) := .ite (updInst_stands _ _ _ _) (.refl _ _)

theorem jobEvent_stands (k j coll ev arg : Nat) (s : State) : JobStands k s (jobEvent j coll ev arg s) := .of_tileAreas (jobEvent_only _ _ _ _ _)

theorem sendTwin_stands (j : Nat) (c : Cell) (s : State) : JobStands j s (sendTwin c s) :=
  .of_only (sendTwin_only c s) (by simp [verdictAreas]) (by simp)

theorem endDigs_stands (n j coll : Nat) (s : State) : JobStands j s (endDigs n j coll s) := by
  refine (JobStands.foldl _ (fun s d => ?_) _ s).trans (.of_tileAreas (tileAreas_tile _ _ _))
  exact .ite (.ite (sendTwin_stands _ _ _) (.refl _ _)) (.refl _ _)

theorem freeAccs_stands (n j : Nat) (p : Word → Bool) (s : State) : JobStands j s (freeAccs n j p s) :=
  .foldl _ (fun _ _ => (setSat_stands _ _ _ _ _).trans (.of_tileAreas (abortAcc_only _ _ _))) _ s

theorem endOnTile_stands (n j coll : Nat) (keep : Bool) (s : State) : JobStands j s (endOnTile n j coll keep s) := by
  have htile (s : State) (f : TileS → TileS) : JobStands j s (s.updTile n f) := .of_tileAreas (tileAreas_tile n f s)
  have hdiscard (s : State) (p : CqEnt → Bool) : JobStands j s (discardQueued n j p s) := .of_tileAreas (discardQueued_only n j p s)
  have hevent (s : State) : JobStands j s (tileEvent n j coll evEnd 0 s) := .of_tileAreas (tileEvent_only n j coll evEnd 0 s)
  unfold endOnTile
  extract_lets s1 s2 s3 s4 s5
  have h3 : JobStands j s s3 := ((endDigs_stands n j coll s).trans (htile s1 _)).trans (hdiscard s2 _)
  have h4 : JobStands j s s4 := .ite h3 (h3.trans (htile s3 _))
  have h5 : JobStands j s s5 := .ite h4 (h4.trans (freeAccs_stands n j _ s4))
  exact h5.trans (hevent s5)

theorem putOperand_stands (j coll k : Nat) (bs : List Byte) (s : State) : JobStands j s (putOperand j coll k bs s) := by
  unfold putOperand
  dsimp only
  split
  · exact .of_tileAreas (setAccN_only _ _ _ _ _ _)
  · exact .of_updEntry _ _ _ _

theorem takeOperand_stands (j coll : Nat) (s : State) : JobStands j s (takeOperand j coll s) := by
  unfold takeOperand
  split
  · exact .refl _ _
  · exact (JobStands.of_updEntry _ _ _ _).trans (.foldl _ (fun _ _ => putOperand_stands _ _ _ _ _) _ _)

theorem finishHeld_stands (j coll : Nat) (s : State) : JobStands j s (finishHeld j coll s) := by
  unfold finishHeld
  dsimp only
  split
  · exact .refl _ _
  · split
    · exact (takeOperand_stands _ _ _).trans (.of_only (finish_only _ _ _ _ _ _) (by simp [ringAreas, verdictAreas]) (by simp [ringAreas]))
    · exact takeOperand_stands _ _ _

theorem invalidateSpill_stands (j : Nat) (p : Word → Bool) (s : State) : JobStands j s (invalidateSpill j p s) := .of_updJob rfl

theorem endInst_stands (j coll : Nat) (s : State) : JobStands j s (endInst j coll s) := by
  unfold endInst
  split
  · exact .refl _ _
  · have htiles (keep : Bool) (s : State) (l : List Nat) :
        JobStands j s (finishHeld j coll (l.foldl (fun s n => endOnTile n j coll keep s) s)) :=
      (JobStands.foldl _ (fun _ _ => endOnTile_stands _ _ _ _ _) _ _).trans (finishHeld_stands _ _ _)
    dsimp only
    exact .ite ((JobStands.of_updEntry _ _ _ _).trans (htiles _ _ _))
      (((JobStands.of_updEntry _ _ _ _).trans (htiles _ _ _)).trans (invalidateSpill_stands _ _ _))

theorem freeColl_stands (j coll : Nat) (s : State) : JobStands j s (freeColl j coll s) :=
  (JobStands.foldl _ (fun _ _ => freeAccs_stands _ _ _ _) _ _).trans (invalidateSpill_stands _ _ _)

theorem planStep_stands (j : Nat) (cs : List Cell) (s : State) : JobStands j s (planStep j cs s) :=
  .foldl _ (fun _ _ => .of_updEntry _ _ _ _) _ s

/-- A REJECT's clean-up leaves the job with its gradient hold empty (R162). -/
theorem rejectAttempt_stands (j : Nat) (s : State) :
    ∃ s1, JobStands j s s1 ∧ rejectAttempt j s = s1.updJob j (fun x => { x with gradHold := [] }) :=
  ⟨_, ((JobStands.foldl _ (fun _ _ => endInst_stands _ _ _) _ _).trans (.foldl _ (fun _ _ => freeColl_stands _ _ _) _ _)).trans
    (.foldl _ (fun _ _ => jobEvent_stands _ _ _ _ _ _) _ _), rfl⟩

/-! ### The commit word, the gate and the twin state (R161 to R163, R371) -/

/-- A write to an area of the image marks dirty granules and nothing else (R366). -/
theorem touch_eq (a : Area) (off n : Nat) (x : Job) : x.touch a off n = { x with dirty := (x.touch a off n).dirty } := by
  unfold Job.touch
  split
  · rfl
  · dsimp only
    split <;> rfl

theorem GateKept.touch (a : Area) (off n : Nat) (x : Job) : GateKept x (x.touch a off n) := by
  rw [touch_eq]
  rfl

/-- Writing the commit word sets its fields and leaves the rest of the job standing. -/
theorem writeCommit_job (j step ls clean : Nat) (m : Option (Nat × Nat × Nat × Nat)) (s : State) :
    GateKept { s.job j with step := BitVec.ofNat 40 step, lsexp := BitVec.ofNat 8 ls, clean := BitVec.ofNat 16 clean, commitPend := some m }
      ((writeCommit j step ls clean m s).job j) := by
  simpa [writeCommit] using GateKept.touch _ _ _ _

theorem twinReason_stands (j code : Nat) (s : State) : JobStands j s (twinReason code s) :=
  .of_only (updTwin_only _ _) (by simp [verdictAreas]) (by simp)

/-- The transfer of a job's own image, aborted, leaves its commit word, attempt and gate (R367). -/
theorem abortXfer_stands {j : Nat} {s : State} (hx : s.twin.xfer.map (·.job) = some (s.job j).tag)
    (hslot : slotOf (s.job j).tag.toNat s = some j) : JobStands j s (abortXfer s) := by
  unfold abortXfer
  split
  · exact .refl _ _
  · rename_i x hxfer
    have htag : x.job = (s.job j).tag := by simpa [hxfer] using hx
    have hreason : JobStands j s (twinReason 0x090F (logCode 0x090F unitDev (s.updTwin (fun w => { w with xfer := none })))) :=
      ((JobStands.of_only (updTwin_only _ _) (by simp [verdictAreas]) (by simp)).trans
        (.of_only (logCode_only _ _ _) (by simp [verdictAreas]) (by simp))).trans (twinReason_stands _ _ _)
    dsimp only
    rw [hreason.slotOf, htag, hslot]
    exact hreason.trans (.of_updJob rfl)

theorem uncompareJob_stands (k j : Nat) (s : State) : JobStands k s (uncompareJob j s) := by
  unfold uncompareJob uncompare
  refine (JobStands.of_only (updTwin_only _ _) (by simp [verdictAreas]) (by simp)).trans (.foldl _ (fun s d => ?_) _ _)
  split
  · exact .of_only (bump_only _ _ _) (by simp [verdictAreas]) (by simp)
  · exact .refl _ _

theorem setJTwin_stands {j : Nat} {st : JTwin} {s : State} (hslot : slotOf (s.job j).tag.toNat s = some j) : JobStands j s (setJTwin j st s) := by
  have htwin : JobStands j s (s.updJob j (fun x => { x with twin := st })) := .of_updJob rfl
  unfold setJTwin
  extract_lets was s1 s2
  have h2 : JobStands j s s2 := by
    refine htwin.trans ?_
    have hslot1 : slotOf (s1.job j).tag.toNat s1 = some j := by
      rw [htwin.slotOf, show (s1.job j).tag = (s.job j).tag by simp [s1]]
      exact hslot
    show JobStands j s1 (if _ then _ else _)
    split
    · rename_i hx
      simp only [Bool.and_eq_true, decide_eq_true_eq] at hx
      exact abortXfer_stands hx.1 hslot1
    · exact .refl _ _
  exact .ite (.refl _ _) (.ite h2 (h2.trans (uncompareJob_stands _ _ _)))

theorem announce_stands {j : Nat} {s : State} (b : Bool) (hslot : slotOf (s.job j).tag.toNat s = some j) : JobStands j s (announce j b s) := by
  unfold announce
  extract_lets was s1
  have h1 : JobStands j s s1 := .ite (setJTwin_stands hslot) (.refl _ _)
  have hsaid : JobStands j s1 (s1.updJob j (fun x => { x with announced := true })) := .of_updJob rfl
  exact .ite ((h1.trans hsaid).trans (sendTwin_stands _ _ _)) h1

/-! ### A step VERDICT is applied (R161, R162) -/

/-- The slot of a job's own tag, found again after a change of the job that leaves its state and tag. -/
theorem ownSlot_congr {j : Nat} {s s' : State} (hslot : slotOf (s.job j).tag.toNat s = some j) (hother : ∀ q, q ≠ j → s'.job q = s.job q)
    (hst : (s'.job j).st = (s.job j).st) (htag : (s'.job j).tag = (s.job j).tag) : slotOf (s'.job j).tag.toNat s' = some j := by
  rw [htag, slotOf_congr hother hst htag, hslot]

/-- The job after a decision: no attempt is open, and the gate of one that was is IDLE; the rest of its commit word and its identity stand. -/
structure Closed (j : Nat) (s s' : State) : Prop where
  attempt : (s'.job j).attempt = false
  gate : (s.job j).attempt = true → (s'.job j).gate = .idle
  word : (s'.job j).step = (s.job j).step ∧ (s'.job j).lsexp = (s.job j).lsexp ∧ (s'.job j).clean = (s.job j).clean
  gradHold : (s'.job j).gradHold = (s.job j).gradHold
  ident : (s'.job j).st = (s.job j).st ∧ (s'.job j).tag = (s.job j).tag
  other : ∀ q, q ≠ j → s'.job q = s.job q
  only : OnlyChanges verdictAreas s s'

/-- A job on which no attempt is open is closed. -/
theorem Closed.of_shut {j : Nat} {s : State} (h : (s.job j).attempt = false) : Closed j s s :=
  ⟨h, fun h' => absurd (h.symm.trans h') (by decide), ⟨rfl, rfl, rfl⟩, rfl, ⟨rfl, rfl⟩, fun _ _ => rfl, .refl _ _⟩

theorem closeGate_closed (j : Nat) (s : State) : Closed j s (closeGate j s) := by
  have hjob : (closeGate j s).job j = _ := updJob_job_same j _ s
  constructor
  case other => exact fun q hq => updJob_job_other hq _ _
  case only => exact (updJob_only _ _ _).mono (by simp [verdictAreas])
  all_goals simp [hjob]

/-- What a commit leaves: the attempt's step in the commit word with the verdict's loss scale, its acknowledgement awaited, no attempt open. -/
structure Committed (j dec ls clean : Nat) (s s' : State) : Prop where
  step : (s'.job j).step = BitVec.ofNat 40 (s.job j).attemptStep
  lsexp : (s'.job j).lsexp = BitVec.ofNat 8 ls
  clean : (s'.job j).clean = BitVec.ofNat 16 clean
  attempt : (s'.job j).attempt = false
  gate : (s.job j).attempt = true → (s'.job j).gate = .idle
  commitPend : (s'.job j).commitPend = some (if (s.job j).attempt then some ((s.job j).mark dec) else none)
  other : ∀ q, q ≠ j → s'.job q = s.job q
  only : OnlyChanges verdictAreas s s'

/-- What a reject leaves: the step as it was, the verdict's loss scale, an empty gradient hold, no attempt open. -/
structure Rejected (j ls clean : Nat) (s s' : State) : Prop where
  step : (s'.job j).step = (s.job j).step
  lsexp : (s'.job j).lsexp = BitVec.ofNat 8 ls
  clean : (s'.job j).clean = BitVec.ofNat 16 clean
  attempt : (s'.job j).attempt = false
  gate : (s.job j).attempt = true → (s'.job j).gate = .idle
  gradHold : (s'.job j).gradHold = []
  other : ∀ q, q ≠ j → s'.job q = s.job q
  only : OnlyChanges verdictAreas s s'

/-- What a commit does before the commit word is written: the planner runs, the step's instances end, the tiles see COMMIT (R161). -/
def commitStep (j : Nat) (cs : List Cell) (s : State) : State :=
  let colls := (s.job j).steps.map (·.1.toNat)
  colls.foldl (fun s c => jobEvent j c evCommit 0 s) (colls.foldl (fun s c => endInst j c s) (planStep j cs s))

theorem commitStep_stands (j : Nat) (cs : List Cell) (s : State) : JobStands j s (commitStep j cs s) :=
  ((planStep_stands _ _ _).trans (.foldl _ (fun _ _ => endInst_stands _ _ _) _ _)).trans (.foldl _ (fun _ _ => jobEvent_stands _ _ _ _ _ _) _ _)

theorem applyVerdict_eq_commit {j : Nat} {c : Cell} {s : State} (hpart : ksfPart c = 0) (hstep : payN c.pay 0 5 = (s.job j).attemptStep)
    (hdec : payN c.pay 5 1 = 1 ∨ payN c.pay 5 1 = 2) :
    applyVerdict j [c] s = announce j (bitN (payN c.pay 21 1) 3) (writeCommit j (payN c.pay 0 5) (payN c.pay 10 1) (payN c.pay 11 2)
      (if (s.job j).attempt then some (((commitStep j [c] s).job j).mark (payN c.pay 5 1)) else none)
      (if (s.job j).attempt then closeGate j (commitStep j [c] s) else commitStep j [c] s)) := by
  have hgood : ¬(payN c.pay 5 1 = 0 ∨ 3 < payN c.pay 5 1) ∧ payN c.pay 5 1 ≠ 3 := by omega
  obtain ⟨hrange, hthree⟩ := hgood
  have hzero : payN c.pay 5 1 ≠ 0 := by omega
  have hthree' : ¬ 3 < payN c.pay 5 1 := by omega
  simp [applyVerdict, hpart, hstep, hzero, hthree, hthree', commitStep]

theorem applyVerdict_commits {j : Nat} {c : Cell} {s : State} (hpart : ksfPart c = 0) (hstep : payN c.pay 0 5 = (s.job j).attemptStep)
    (hdec : payN c.pay 5 1 = 1 ∨ payN c.pay 5 1 = 2) (hslot : slotOf (s.job j).tag.toNat s = some j) :
    Committed j (payN c.pay 5 1) (payN c.pay 10 1) (payN c.pay 11 2) s (applyVerdict j [c] s) := by
  have hr := commitStep_stands j [c] s
  obtain ⟨hattempt, hgate⟩ := hr.kept.attempt
  obtain ⟨w, hw, hclosed⟩ : ∃ w, (if (s.job j).attempt then closeGate j (commitStep j [c] s) else commitStep j [c] s) = w ∧
      Closed j (commitStep j [c] s) w := by
    refine ⟨_, rfl, ?_⟩
    split
    · exact closeGate_closed _ _
    · rename_i hshut
      exact .of_shut (hattempt.trans (by simpa using hshut))
  rw [applyVerdict_eq_commit hpart hstep hdec, hw, hr.kept.mark]
  generalize hm : (if (s.job j).attempt then some ((s.job j).mark (payN c.pay 5 1)) else none) = m
  have hword := writeCommit_job j (payN c.pay 0 5) (payN c.pay 10 1) (payN c.pay 11 2) m w
  have hrest : ∀ q, q ≠ j → (writeCommit j (payN c.pay 0 5) (payN c.pay 10 1) (payN c.pay 11 2) m w).job q = s.job q :=
    fun q hq => (updJob_job_other hq _ _).trans ((hclosed.other q hq).trans (hr.other q hq))
  have hident := hr.kept.ident
  have hsaid := announce_stands (bitN (payN c.pay 21 1) 3) (ownSlot_congr hslot hrest
    (hword.ident.1.trans (hclosed.ident.1.trans hident.1)) (hword.ident.2.trans (hclosed.ident.2.trans hident.2)))
  have hall := hword.trans hsaid.kept
  exact {
    step := hall.word.1.trans (by rw [hstep])
    lsexp := hall.word.2.1
    clean := hall.word.2.2
    attempt := hall.attempt.1.trans hclosed.attempt
    gate := fun h => hall.attempt.2.trans (hclosed.gate (hattempt.trans h))
    commitPend := hall.holds.2.trans (by rw [← hm])
    other := fun q hq => (hsaid.other q hq).trans (hrest q hq)
    only := ((hr.only.trans hclosed.only).trans ((updJob_only _ _ _).mono (by simp [verdictAreas]))).trans hsaid.only }

theorem closeAttempt_closed (j dec : Nat) (s : State) : Closed j s (closeAttempt j dec s) := by
  have hmark : GateKept { s.job j with manifest := ((markManifest j ((s.job j).mark dec) s).job j).manifest }
      ((markManifest j ((s.job j).mark dec) s).job j) := by
    simp only [markManifest, updJob_job_same]
    rw [touch_eq]
    rfl
  have hclosed := closeGate_closed j (markManifest j ((s.job j).mark dec) s)
  obtain ⟨hstep, hls, hclean⟩ := hclosed.word
  obtain ⟨hstep', hls', hclean'⟩ := hmark.word
  exact {
    attempt := hclosed.attempt
    gate := fun h => hclosed.gate (hmark.attempt.1.trans h)
    word := ⟨hstep.trans hstep', hls.trans hls', hclean.trans hclean'⟩
    gradHold := hclosed.gradHold.trans hmark.holds.1
    ident := ⟨hclosed.ident.1.trans hmark.ident.1, hclosed.ident.2.trans hmark.ident.2⟩
    other := fun q hq => (hclosed.other q hq).trans (updJob_job_other hq _ _)
    only := ((updJob_only _ _ _).mono (by simp [verdictAreas])).trans hclosed.only }

/-- The commit word takes a loss scale, written only where it differs (R162). -/
theorem setLossScale {j ls clean : Nat} {x : Job} {s : State} (hstep : (s.job j).step = x.step) (hls : (s.job j).lsexp = x.lsexp)
    (hclean : (s.job j).clean = x.clean) :
    let w := if ls ≠ x.lsexp.toNat || clean ≠ x.clean.toNat then writeCommit j x.step.toNat ls clean none s else s
    GateKept { s.job j with lsexp := BitVec.ofNat 8 ls, clean := BitVec.ofNat 16 clean, commitPend := (w.job j).commitPend } (w.job j) ∧
      (∀ q, q ≠ j → w.job q = s.job q) ∧ OnlyChanges verdictAreas s w := by
  dsimp only
  split
  · refine ⟨?_, fun q hq => updJob_job_other hq _ _, (updJob_only _ _ _).mono (by simp [verdictAreas])⟩
    have hword := writeCommit_job j x.step.toNat ls clean none s
    rw [hword.holds.2]
    simpa [← hstep] using hword
  · rename_i hsame
    obtain ⟨rfl, rfl⟩ : ls = x.lsexp.toNat ∧ clean = x.clean.toNat := by simpa using hsame
    refine ⟨?_, fun _ _ => rfl, .refl _ _⟩
    simp [← hls, ← hclean, GateKept]

theorem applyVerdict_eq_reject {j : Nat} {c : Cell} {s : State} (hpart : ksfPart c = 0) (hstep : payN c.pay 0 5 = (s.job j).attemptStep)
    (hdec : payN c.pay 5 1 = 3) :
    applyVerdict j [c] s =
      (let w := if (s.job j).attempt then closeAttempt j 3 (rejectAttempt j s) else rejectAttempt j s
       let w := if payN c.pay 10 1 ≠ (s.job j).lsexp.toNat || payN c.pay 11 2 ≠ (s.job j).clean.toNat then
         writeCommit j (s.job j).step.toNat (payN c.pay 10 1) (payN c.pay 11 2) none w else w
       announce j (bitN (payN c.pay 21 1) 3) (if bitN (payN c.pay 21 1) 2 then planStep j [c] w else w)) := by
  simp [applyVerdict, hpart, hstep, hdec]

/-- The clean-up of a REJECT closes the attempt and empties the gradient hold (R162). -/
theorem rejectAttempt_closed (j : Nat) (s : State) :
    let w := if (s.job j).attempt then closeAttempt j 3 (rejectAttempt j s) else rejectAttempt j s
    (w.job j).gradHold = [] ∧ (w.job j).attempt = false ∧ ((s.job j).attempt = true → (w.job j).gate = .idle) ∧
      ((w.job j).step = (s.job j).step ∧ (w.job j).lsexp = (s.job j).lsexp ∧ (w.job j).clean = (s.job j).clean) ∧
      ((w.job j).st = (s.job j).st ∧ (w.job j).tag = (s.job j).tag) ∧ (∀ q, q ≠ j → w.job q = s.job q) ∧ OnlyChanges verdictAreas s w := by
  obtain ⟨s1, hr, hreject⟩ := rejectAttempt_stands j s
  have hjob : (rejectAttempt j s).job j = { s1.job j with gradHold := [] } := by rw [hreject, updJob_job_same]
  obtain ⟨hattempt, -⟩ := hr.kept.attempt
  have hopen : ((rejectAttempt j s).job j).attempt = (s.job j).attempt := by rw [hjob]; exact hattempt
  have hclosed : Closed j (rejectAttempt j s)
      (if (s.job j).attempt then closeAttempt j 3 (rejectAttempt j s) else rejectAttempt j s) := by
    split
    · exact closeAttempt_closed _ _ _
    · rename_i hshut
      exact .of_shut (hopen.trans (by simpa using hshut))
  have hheld : ((rejectAttempt j s).job j).gradHold = [] := by rw [hjob]
  have honly : OnlyChanges verdictAreas s (rejectAttempt j s) := by
    rw [hreject]
    exact hr.only.trans ((updJob_only _ _ _).mono (by simp [verdictAreas]))
  have hword := hclosed.word
  have hident := hclosed.ident
  rw [hjob] at hword hident
  obtain ⟨hstep, hls, hclean⟩ := hr.kept.word
  obtain ⟨hst, htag⟩ := hr.kept.ident
  refine ⟨hclosed.gradHold.trans hheld, hclosed.attempt, fun h => hclosed.gate (hopen.trans h), ?_, ?_, fun q hq => ?_, honly.trans hclosed.only⟩
  · exact ⟨hword.1.trans hstep, hword.2.1.trans hls, hword.2.2.trans hclean⟩
  · exact ⟨hident.1.trans hst, hident.2.trans htag⟩
  · rw [hclosed.other q hq, hreject, updJob_job_other hq, hr.other q hq]

theorem applyVerdict_rejects {j : Nat} {c : Cell} {s : State} (hpart : ksfPart c = 0) (hstep : payN c.pay 0 5 = (s.job j).attemptStep)
    (hdec : payN c.pay 5 1 = 3) (hslot : slotOf (s.job j).tag.toNat s = some j) :
    Rejected j (payN c.pay 10 1) (payN c.pay 11 2) s (applyVerdict j [c] s) := by
  obtain ⟨hheld, hshut, hgate, ⟨hstepW, hlsW, hcleanW⟩, ⟨hstW, htagW⟩, hrest, honly⟩ := rejectAttempt_closed j s
  obtain ⟨hscale, hscaleRest, hscaleOnly⟩ := setLossScale (ls := payN c.pay 10 1) (clean := payN c.pay 11 2) hstepW hlsW hcleanW
  rw [applyVerdict_eq_reject hpart hstep hdec]
  extract_lets w1 w2
  obtain ⟨w3, hw3, hplan⟩ : ∃ w3, (if bitN (payN c.pay 21 1) 2 then planStep j [c] w2 else w2) = w3 ∧ JobStands j w2 w3 :=
    ⟨_, rfl, .ite (planStep_stands _ _ _) (.refl _ _)⟩
  rw [hw3]
  have hkept := hscale.trans hplan.kept
  have hrest3 : ∀ q, q ≠ j → w3.job q = s.job q := fun q hq => (hplan.other q hq).trans ((hscaleRest q hq).trans (hrest q hq))
  have hsaid := announce_stands (bitN (payN c.pay 21 1) 3) (ownSlot_congr hslot hrest3 (hkept.ident.1.trans hstW) (hkept.ident.2.trans htagW))
  have hall := hkept.trans hsaid.kept
  exact {
    step := hall.word.1.trans hstepW
    lsexp := hall.word.2.1
    clean := hall.word.2.2
    attempt := hall.attempt.1.trans hshut
    gate := fun h => hall.attempt.2.trans (hgate h)
    gradHold := hall.holds.1.trans hheld
    other := fun q hq => (hsaid.other q hq).trans (hrest3 q hq)
    only := ((honly.trans hscaleOnly).trans hplan.only).trans hsaid.only }

/-! ### A VERDICT cell arrives at the device -/

theorem takeRx_only {n : Nat} {c : Cell} {s s1 : State} (h : takeRx n c s = some s1) : OnlyChanges [.ports] s s1 := by
  unfold takeRx at h
  split at h
  · cases h
    exact updPort_only _ _ _
  · cases h

theorem takeAny_only {c : Cell} {s s1 : State} (h : takeAny c s = some s1) : OnlyChanges [.ports, .fabric] s s1 := by
  unfold takeAny at h
  split at h
  · cases h
    exact (updFabric_only _ _).mono (by simp)
  · split at h
    · exact (takeRx_only h).mono (by simp)
    · cases h

/-- The slot that a tag names holds that tag. -/
theorem tag_of_slotOf {tag j : Nat} {s : State} (h : slotOf tag s = some j) : (s.job j).tag.toNat = tag := by
  have hfound := List.find?_some h
  simp only [Bool.and_eq_true, decide_eq_true_eq] at hfound
  exact hfound.2

/-- VERDICT cell c, sound in its fields, has come for the job in slot j; s1 is the state with it taken. -/
structure VerdictCell (t : Time) (c : Cell) (j : Nat) (s s1 : State) : Prop where
  kind : c.kind = kVerdict
  take : takeAny c (tick t s) = some s1
  slot : slotOf c.job (tick t s) = some j
  good : ksfBad c = false

namespace VerdictCell

variable {t : Time} {c : Cell} {j : Nat} {s s1 : State}

theorem only (h : VerdictCell t c j s s1) : OnlyChanges [.ports, .fabric] (tick t s) s1 := takeAny_only h.take

theorem job (h : VerdictCell t c j s s1) (q : Nat) : s1.job q = s.job q := h.only.job (by simp) q

theorem time (h : VerdictCell t c j s s1) : s1.time = (tick t s).time := h.only.1

theorem hold (h : VerdictCell t c j s s1) : s1.clk.hold = s.clk.hold := by
  have hclk : s1.clk = (tick t s).clk := h.only.2.2 .clk (by simp)
  rw [hclk, tick_clk]

theorem dev (h : VerdictCell t c j s s1) : s1.dev = s.dev := h.only.2.2 .dev (by simp)

theorem slotOf (h : VerdictCell t c j s s1) : Machine.slotOf c.job s1 = some j := by
  rw [slotOf_congr (j := j) (fun q _ => (h.job q).trans (tick_job t s q).symm) (by rw [h.job, tick_job]) (by rw [h.job, tick_job])]
  exact h.slot

theorem ownSlot (h : VerdictCell t c j s s1) : Machine.slotOf (s1.job j).tag.toNat s1 = some j := by
  rw [tag_of_slotOf h.slotOf]
  exact h.slotOf

/-- A change of s1 as a change of the command's state: the cell's way in adds the ports and the fabric. -/
theorem frame (h : VerdictCell t c j s s1) {l : List Region} (hl : .ports ∈ l ∧ .fabric ∈ l) {s' : State} (h' : OnlyChanges l s1 s') :
    OnlyChanges l (tick t s) s' :=
  (h.only.mono (by simp [hl])).trans h'

/-! ### Step VERDICT (R161, R162, R426) -/

theorem runs_step (h : VerdictCell t c j s s1) (hsub : ksfSub c = 1) {P : State → Prop} (hp : P (takeVerdict c s1)) :
    Runs (.stepVerdict t c) s P :=
  ⟨takeVerdict c s1, by simp [exec, execStepVerdict, h.kind, hsub, h.take], hp⟩

/-- A brown-out holds the VERDICT back (R426). -/
theorem step_held (h : VerdictCell t c j s s1) (htwin : (s.job j).twin = .paired) (hhold : s.clk.hold = true) :
    takeVerdict c s1 = s1.updJob j (fun x => { x with heldVerdicts := x.heldVerdicts ++ [c] }) := by
  simp [takeVerdict, h.slotOf, h.good, h.job, htwin, h.hold, hhold]

theorem step_taken (h : VerdictCell t c j s s1) (htwin : (s.job j).twin = .paired) (hhold : s.clk.hold = false) :
    takeVerdict c s1 = verdictPart j c s1 := by
  simp [takeVerdict, h.slotOf, h.good, h.job, htwin, h.hold, hhold]

theorem step_otherAttempt (h : VerdictCell t c j s s1) (hpart : ksfPart c = 0) (hstep : payN c.pay 0 5 ≠ (s.job j).attemptStep) :
    verdictPart j c s1 = ignoreVerdict j s1 := by
  simp [verdictPart, hpart, h.job, hstep]

/-- The one part of a VERDICT of the open attempt is applied at once. -/
theorem step_whole (h : VerdictCell t c j s s1) (hpart : ksfPart c = 0) (hstep : payN c.pay 0 5 = (s.job j).attemptStep)
    (hone : payN c.pay 27 1 = 0) :
    verdictPart j c s1 = applyVerdict j [c] (s1.updJob j (fun x => { x with vparts := [] })) := by
  simp [verdictPart, hpart, h.job, hstep, hone]

/-- A VERDICT with a decision that does not exist is counted and changes no attempt (R161). -/
theorem step_badDecision (h : VerdictCell t c j s s1) (hpart : ksfPart c = 0) (hstep : payN c.pay 0 5 = (s.job j).attemptStep)
    (hone : payN c.pay 27 1 = 0) (hdec : payN c.pay 5 1 = 0 ∨ 3 < payN c.pay 5 1) :
    verdictPart j c s1 = s1.updJob j (fun x => { x with vparts := [], ignored := x.ignored + 1 }) := by
  rw [h.step_whole hpart hstep hone]
  have hmine : payN c.pay 0 5 = ((s1.updJob j (fun x => { x with vparts := [] })).job j).attemptStep := by simp [h.job, hstep, Job.attemptStep]
  simp [applyVerdict, hpart, hmine, hdec, ignoreVerdict]

theorem step_commits (h : VerdictCell t c j s s1) (hpart : ksfPart c = 0) (hstep : payN c.pay 0 5 = (s.job j).attemptStep)
    (hone : payN c.pay 27 1 = 0) (hdec : payN c.pay 5 1 = 1 ∨ payN c.pay 5 1 = 2) :
    Committed j (payN c.pay 5 1) (payN c.pay 10 1) (payN c.pay 11 2) (s1.updJob j (fun x => { x with vparts := [] })) (verdictPart j c s1) := by
  rw [h.step_whole hpart hstep hone]
  refine applyVerdict_commits hpart ?_ hdec (ownSlot_congr h.ownSlot (fun q hq => updJob_job_other hq _ _) ?_ ?_)
  · simp [h.job, hstep, Job.attemptStep]
  all_goals simp

theorem step_rejects (h : VerdictCell t c j s s1) (hpart : ksfPart c = 0) (hstep : payN c.pay 0 5 = (s.job j).attemptStep)
    (hone : payN c.pay 27 1 = 0) (hdec : payN c.pay 5 1 = 3) :
    Rejected j (payN c.pay 10 1) (payN c.pay 11 2) (s1.updJob j (fun x => { x with vparts := [] })) (verdictPart j c s1) := by
  rw [h.step_whole hpart hstep hone]
  refine applyVerdict_rejects hpart ?_ hdec (ownSlot_congr h.ownSlot (fun q hq => updJob_job_other hq _ _) ?_ ?_)
  · simp [h.job, hstep, Job.attemptStep]
  all_goals simp

/-! ### Instance VERDICT (R67, R117) -/

theorem runs_instance (h : VerdictCell t c j s s1) (hsub : ksfSub c = 0) {P : State → Prop} (hp : P (takeInstVerdict j c s1)) :
    Runs (.instanceVerdict t c) s P :=
  ⟨takeInstVerdict j c s1, by simp [exec, execInstanceVerdict, h.kind, hsub, h.take, h.slotOf], hp⟩

end VerdictCell

/-- A change of one entry of a job: the entry, the frame of the other entries and jobs, and that nothing but the jobs changes. -/
theorem updEntry_frame (j k : Nat) (f : Entry → Entry) (s : State) :
    let s' := s.updJob j (fun x => x.updEntry k f)
    (s'.job j).entry k = f ((s.job j).entry k) ∧ OnlyEntry j k s s' ∧ OnlyChanges [.jobs] s s' := by
  refine ⟨?_, ⟨fun q hq => ?_, fun q hq => updJob_job_other hq _ _⟩, updJob_only _ _ _⟩
  · simp [Job.entry, Job.updEntry]
  · simp [Job.entry, Job.updEntry, Tbl.get_upd_other _ _ _ hq]

namespace VerdictCell

variable {t : Time} {c : Cell} {j : Nat} {s s1 : State}

/-- What a VERDICT of instances leaves where it changes one entry by f. -/
theorem entry_changed (h : VerdictCell t c j s s1) {k : Nat} {f : Entry → Entry} {e' : Entry} (he : f ((s.job j).entry k) = e') :
    let s' := s1.updJob j (fun x => x.updEntry k f)
    (s'.job j).entry k = e' ∧ OnlyEntry j k s s' ∧ OnlyChanges [.ports, .fabric, .jobs] (tick t s) s' := by
  obtain ⟨hentry, ⟨hentries, hjobs⟩, honly⟩ := updEntry_frame j k f s1
  refine ⟨hentry.trans (by rw [h.job, he]), ⟨fun q hq => ?_, fun q hq => ?_⟩, h.frame (by simp) (honly.mono (by simp))⟩
  · rw [hentries q hq, h.job]
  · rw [hjobs q hq, h.job]

/-- The run that it speaks of is over, or has not begun: the VERDICT counts as stale (R117). -/
def staleVerdict (c : Cell) (now : Time) (e : Entry) : Bool :=
  !e.fired || c.epoch ≠ e.epoch.toNat || e.inst.any (fun i => decide (now < i.start))

/-- A VERDICT of instances that the job takes is seen by its entry, then judged (R117). -/
theorem instance_taken (h : VerdictCell t c j s s1) (haway : (s.job j).away = false)
    (hid : (s.job j).ids.contains (BitVec.ofNat 12 c.coll) = true) :
    takeInstVerdict j c s1 =
      (let s2 := s1.updJob j (fun x => x.updEntry c.coll (Entry.seen (tick t s).time c))
       if staleVerdict c (tick t s).time ((s.job j).entry c.coll) then
         s2.updJob j (fun x => x.updEntry c.coll (fun e => { e with stale := satInc e.stale }))
       else if payN c.pay 0 2 % 4096 = c.coll && (payN c.pay 2 1 = stComplete || payN c.pay 2 1 = stSaturated) then
         runPlanner j (payN c.pay 0 2 % 4096) (if payN c.pay 8 1 = 0xFF then none else some (payN c.pay 8 1)) s2
       else s2) := by
  unfold takeInstVerdict staleVerdict
  dsimp only
  rw [if_neg (by simp [h.good]), if_neg (by simp only [h.job, haway, hid]; decide), h.job, h.time]

theorem instance_stale (h : VerdictCell t c j s s1) (haway : (s.job j).away = false)
    (hid : (s.job j).ids.contains (BitVec.ofNat 12 c.coll) = true)
    (hstale : staleVerdict c (tick t s).time ((s.job j).entry c.coll) = true) :
    takeInstVerdict j c s1 = s1.updJob j (fun x => x.updEntry c.coll (fun e =>
      { e.seen (tick t s).time c with stale := satInc (e.seen (tick t s).time c).stale })) := by
  rw [h.instance_taken haway hid]
  simp [-tick_time, hstale, Job.updEntry]

/-- A VERDICT on a complete run starts the planner of its entry (R67). -/
theorem instance_planned (h : VerdictCell t c j s s1) (haway : (s.job j).away = false)
    (hid : (s.job j).ids.contains (BitVec.ofNat 12 c.coll) = true)
    (hlive : staleVerdict c (tick t s).time ((s.job j).entry c.coll) = false) (hcoll : payN c.pay 0 2 % 4096 = c.coll)
    (hst : payN c.pay 2 1 = stComplete ∨ payN c.pay 2 1 = stSaturated) :
    takeInstVerdict j c s1 = runPlanner j c.coll (if payN c.pay 8 1 = 0xFF then none else some (payN c.pay 8 1))
      (s1.updJob j (fun x => x.updEntry c.coll (Entry.seen (tick t s).time c))) := by
  rw [h.instance_taken haway hid]
  simp [-tick_time, hlive, hcoll, hst]

/-- The planner leaves an entry without automatic planning as it is (R67). -/
theorem runPlanner_manual {j k : Nat} {g : Option Nat} {f : Entry → Entry} {s : State} (hplan : planAuto (f ((s.job j).entry k)).plan = false) :
    runPlanner j k g (s.updJob j (fun x => x.updEntry k f)) = s.updJob j (fun x => x.updEntry k f) := by
  unfold runPlanner
  rw [updJob_twice]
  refine updJob_congr ?_
  simp only [Job.updEntry, Tbl.upd_upd]
  congr 1
  refine Tbl.upd_congr _ _ _ ?_
  rw [Job.entry] at hplan
  simp [hplan]

/-- The planner sets the window's top of an entry that it plans while the entry runs (R67). -/
theorem runPlanner_auto {j k : Nat} {g : Option Nat} {f : Entry → Entry} {s : State} {e : Entry} {i : Inst} (he : f ((s.job j).entry k) = e)
    (hplan : planAuto e.plan = true) (hsum : isSumming e.op = true) (hinst : e.inst = some i) (hnext : e.next = none) :
    runPlanner j k g (s.updJob j (fun x => x.updEntry k f)) = s.updJob j (fun x => x.updEntry k (fun _ =>
      { e with cfg := setWtop e.cfg (planNext i.wtop i.w g (e.m * e.k) (planMargin e.plan)) })) := by
  unfold runPlanner
  rw [updJob_twice]
  refine updJob_congr ?_
  simp only [Job.updEntry, Tbl.upd_upd]
  congr 1
  refine Tbl.upd_congr _ _ _ ?_
  rw [Job.entry] at he
  simp [he, hplan, hsum, hinst, hnext]

/-! ### Clip order (R155) -/

theorem runs_clip (h : VerdictCell t c j s s1) (hsub : ksfSub c = 2) {P : State → Prop} (hp : P (clipOrder c s1)) : Runs (.clipOrder t c) s P :=
  ⟨clipOrder c s1, by simp [exec, execClipOrder, h.kind, hsub, h.take], hp⟩

/-- Home chunks depend on the device and the job alone. -/
theorem homeChunks (h : VerdictCell t c j s s1) (x : Job) (e : Entry) : Machine.homeChunks s1 x e = Machine.homeChunks (tick t s) x e := by
  unfold Machine.homeChunks
  rw [h.dev, tick_dev]

/-- The digests and cell counts of a run's parts begin again for the rerun (R155). -/
def freshDigests (i : Inst) : Inst := { i with parts := i.parts.map (fun q => (q.1, { q.2 with digest := 0, pcells := 0 })) }

/-- The clip order at a home device whose STATs of round 0 are out: the rerun begins with its factor, and the tiles see CLIP. -/
def clipRerun (j : Nat) (c : Cell) (s : State) : State :=
  (s.job j).steps.foldl (fun s q => jobEvent j q.1.toNat evClip 0 (s.updInst j q.1.toNat freshDigests))
    (s.updJob j (fun x => { x with gate := .rerun, alpha := BitVec.ofNat 32 (payN c.pay 13 4) }))

/-- A clip order that meets no rerun to begin: another gate state, another attempt, or no home chunk here (R155). -/
def clipMissed (c : Cell) (s : State) (x : Job) : Bool :=
  x.gate ≠ .reported || payN c.pay 0 5 ≠ x.attemptStep || !x.steps.any (fun q => !(Machine.homeChunks s x (x.entry q.1.toNat)).isEmpty)

theorem clipOrder_eq (h : VerdictCell t c j s s1) (haway : (s.job j).away = false) :
    clipOrder c s1 = if clipMissed c (tick t s) (s.job j) then ignoreVerdict j s1 else clipRerun j c s1 := by
  have hany (l : List (BitVec 12 × Nat)) (p : BitVec 12 × Nat → Bool) : l.all p = !l.any (fun q => !p q) := by simp [List.all_eq_not_any_not]
  unfold clipOrder
  rw [h.slotOf]
  dsimp only
  rw [if_neg (by simp [h.good]), if_neg (by simp [h.job, haway])]
  simp only [h.job, h.homeChunks, hany, clipMissed, clipRerun]
  rfl

theorem clipRerun_result (j : Nat) (c : Cell) (s : State) :
    ((clipRerun j c s).job j).gate = .rerun ∧ ((clipRerun j c s).job j).alpha = BitVec.ofNat 32 (payN c.pay 13 4) ∧
      (∀ q, q ≠ j → (clipRerun j c s).job q = s.job q) ∧ OnlyChanges [.ports, .fabric, .jobs, .tiles, .obs] s (clipRerun j c s) := by
  have hbegun := updJob_job_same j (fun x => { x with gate := .rerun, alpha := BitVec.ofNat 32 (payN c.pay 13 4) }) s
  have hstands := JobStands.foldl (j := j) (fun s (q : BitVec 12 × Nat) => jobEvent j q.1.toNat evClip 0 (s.updInst j q.1.toNat freshDigests))
    (fun _ _ => (updInst_stands _ _ _ _).trans (jobEvent_stands _ _ _ _ _ _)) (s.job j).steps
    (s.updJob j (fun x => { x with gate := .rerun, alpha := BitVec.ofNat 32 (payN c.pay 13 4) }))
  refine ⟨hstands.kept.attempt.2.trans (by rw [hbegun]), hstands.kept.alpha.trans (by rw [hbegun]),
    fun q hq => (hstands.other q hq).trans (updJob_job_other hq _ _), ?_⟩
  refine ((updJob_only _ _ _).mono (by simp)).trans (OnlyChanges.foldl _ (fun s q => ?_) _ _)
  exact ((updJob_only _ _ _).mono (by simp)).trans ((jobEvent_only _ _ _ _ _).mono (by simp [tileAreas]))

end VerdictCell

/-! ### The commit word's acknowledgement (R161, R366) -/

theorem commitAck_none {j : Nat} {s : State} (h : (s.job j).commitPend = none) : commitAck j s = s := by simp [commitAck, h]

/-- Without a commit to mark or a rejoin that waits, the acknowledgement alone is noted. -/
theorem commitAck_plain {j : Nat} {s : State} (h : (s.job j).commitPend = some none) (hrejoin : (s.job j).rejoin = none) :
    commitAck j s = s.updJob j (fun x => { x with commitPend := none }) := by
  simp [commitAck, h, hrejoin]

/-- The job after the acknowledgement of commit m: the gradient hold is released and the manifest's record of the attempt is marked (R161, R168). -/
structure AckedCommit (m : Nat × Nat × Nat × Nat) (x y : Job) : Prop where
  commitPend : y.commitPend = none
  gradHold : y.gradHold = []
  manifest : y.manifest = x.manifest.writeN (m.1 * x.manRec) (leBytes 5 m.2.1 ++ leBytes 1 m.2.2.1 ++ leBytes 1 m.2.2.2 ++ leBytes 1 1)
  tag : y.tag = x.tag
  twin : y.twin = x.twin

/-- A commit's acknowledgement before a rejoin: the hold released, the attempt marked. -/
def markCommit (j : Nat) (m : Nat × Nat × Nat × Nat) (s : State) : State :=
  let s := s.updJob j (fun x => { x with commitPend := none })
  markManifest j m (s.updJob j (fun x => { x with gradHold := [] }.touch .hold 0 x.holdLen))

@[simp] theorem touch_commitPend (a : Area) (off n : Nat) (x : Job) : (x.touch a off n).commitPend = x.commitPend := by rw [touch_eq]
@[simp] theorem touch_gradHold (a : Area) (off n : Nat) (x : Job) : (x.touch a off n).gradHold = x.gradHold := by rw [touch_eq]
@[simp] theorem touch_manifest (a : Area) (off n : Nat) (x : Job) : (x.touch a off n).manifest = x.manifest := by rw [touch_eq]
@[simp] theorem touch_tag (a : Area) (off n : Nat) (x : Job) : (x.touch a off n).tag = x.tag := by rw [touch_eq]
@[simp] theorem touch_twin (a : Area) (off n : Nat) (x : Job) : (x.touch a off n).twin = x.twin := by rw [touch_eq]
@[simp] theorem touch_manRec (a : Area) (off n : Nat) (x : Job) : (x.touch a off n).manRec = x.manRec := by
  rw [touch_eq]
  rfl

theorem markCommit_job (j : Nat) (m : Nat × Nat × Nat × Nat) (s : State) : AckedCommit m (s.job j) ((markCommit j m s).job j) := by
  constructor
  case manifest =>
    simp only [markCommit, markManifest, updJob_twice, updJob_job_same, touch_manifest, touch_manRec]
    rfl
  all_goals simp [markCommit, markManifest]

theorem markCommit_frame (j : Nat) (m : Nat × Nat × Nat × Nat) (s : State) :
    (∀ q, q ≠ j → (markCommit j m s).job q = s.job q) ∧ OnlyChanges [.jobs] s (markCommit j m s) := by
  unfold markCommit markManifest
  exact ⟨fun q hq => by simp [updJob_job_other hq], ((updJob_only _ _ _).trans (updJob_only _ _ _)).trans (updJob_only _ _ _)⟩

theorem commitAck_mark {j : Nat} {m : Nat × Nat × Nat × Nat} {s : State} (h : (s.job j).commitPend = some (some m))
    (hrejoin : (s.job j).rejoin = none) : commitAck j s = markCommit j m s := by
  simp [commitAck, h, hrejoin, markCommit]

/-- A rejoin that waits for the next step takes place with the acknowledgement (R366). -/
theorem commitAck_rejoin {j : Nat} {m : Nat × Nat × Nat × Nat} {s : State} (h : (s.job j).commitPend = some (some m))
    (htwin : (s.job j).twin = .serving) (hrejoin : (s.job j).rejoin = some ((s.job j).step + 1)) :
    commitAck j s = sendXfer (s.job j).tag.toNat 3 (setJTwin j .paired ((markCommit j m s).updJob j (fun x => { x with rejoin := none }))) := by
  simp [commitAck, h, htwin, hrejoin, markCommit]

/-- A serving job that is PAIRED again: its transfers and comparisons go on. -/
theorem setJTwin_paired {j : Nat} {s : State} (h : (s.job j).twin = .serving) :
    setJTwin j .paired s = s.updJob j (fun x => { x with twin := .paired }) := by
  simp [setJTwin, h]

namespace VerdictCell

variable {t : Time} {c : Cell} {j : Nat} {s s1 : State}

/-! ### What each VERDICT's command leaves -/

/-- A change of the job alone after the cell is taken. -/
theorem job_changed (h : VerdictCell t c j s s1) (f : Job → Job) :
    (∀ q, q ≠ j → (s1.updJob j f).job q = s.job q) ∧ OnlyChanges [.ports, .fabric, .jobs] (tick t s) (s1.updJob j f) :=
  ⟨fun q hq => (updJob_job_other hq f s1).trans (h.job q), h.frame (by simp) ((updJob_only j f s1).mono (by simp))⟩

/-- What a decision on the taken VERDICT leaves of the other jobs and areas, seen from before the cell was taken. -/
theorem decided_frame (h : VerdictCell t c j s s1) {f : Job → Job} {s' : State} (hother : ∀ q, q ≠ j → s'.job q = (s1.updJob j f).job q)
    (honly : OnlyChanges verdictAreas (s1.updJob j f) s') : (∀ q, q ≠ j → s'.job q = s.job q) ∧ OnlyChanges verdictAreas (tick t s) s' := by
  obtain ⟨hjobs, hareas⟩ := h.job_changed f
  exact ⟨fun q hq => (hother q hq).trans (hjobs q hq), (hareas.mono (by simp [verdictAreas])).trans honly⟩

/-- An entry's clocks do not touch its count of stale cells. -/
theorem seen_stale (now : Time) (c : Cell) (e : Entry) : (e.seen now c).stale = e.stale := by
  unfold Entry.seen
  split <;> rfl

/-- A cell of the entry's own epoch is seen at a fired entry (R117). -/
theorem seen_own {now : Time} {c : Cell} {e : Entry} (hfired : e.fired = true) (hepoch : c.epoch = e.epoch.toNat) :
    e.seen now c = { e with lastSeen := now } := by
  simp [Entry.seen, hfired, hepoch]

theorem staleVerdict_live {c : Cell} {now : Time} {e : Entry} (hfired : e.fired = true) (hepoch : c.epoch = e.epoch.toNat)
    (hearly : e.inst.any (fun i => decide (now < i.start)) = false) : staleVerdict c now e = false := by
  simp [staleVerdict, hfired, hepoch, hearly]

end VerdictCell

/-- A commit's acknowledgement at a job that waits to rejoin: it is PAIRED again, its commit marked (R366). -/
theorem commitAck_rejoins {j : Nat} {m : Nat × Nat × Nat × Nat} {s : State} (hpend : (s.job j).commitPend = some (some m))
    (htwin : (s.job j).twin = .serving) (hrejoin : (s.job j).rejoin = some ((s.job j).step + 1)) :
    let s' := commitAck j s
    (s'.job j).twin = .paired ∧ (s'.job j).rejoin = none ∧ (s'.job j).commitPend = none ∧ (s'.job j).gradHold = [] ∧
      OnlyChanges [.jobs, .ports, .obs] s s' := by
  have hack := markCommit_job j m s
  have hserving : (((markCommit j m s).updJob j (fun x => { x with rejoin := none })).job j).twin = .serving := by
    simp [hack.twin, htwin]
  rw [commitAck_rejoin hpend htwin hrejoin, setJTwin_paired hserving, updJob_twice]
  have honly := (markCommit_frame j m s).2.trans (updJob_only j (fun x => { { x with rejoin := none } with twin := .paired }) (markCommit j m s))
  have hsent (c : Cell) (z : State) := (sendTwin_only c z).job (by simp) j
  simp only [sendXfer, hsent, updJob_job_same]
  exact ⟨trivial, trivial, hack.commitPend, hack.gradHold, (honly.mono (by simp)).trans ((sendTwin_only _ _).mono (by simp))⟩

/-- Settles O52: each command by what its operation leaves (applyVerdict_commits, applyVerdict_rejects, the planner, the rerun, the mark of a
commit), framed by the ends of instances (JobStands). -/
theorem verdictsApplied : Obligations.VerdictsApplied := by
  intro t c slot s s1
  refine ⟨fun hkind htake hslot hgood => ?_, ?_⟩
  · have h : VerdictCell t c slot.val s s1 := ⟨hkind, htake, hslot, hgood⟩
    refine ⟨fun hsub htwin => ⟨fun hhold => ?_, fun hhold hpart hstep => ?_, fun hhold hpart hstep hone => ⟨fun hdec => ?_, fun hdec => ?_, fun hdec => ?_⟩⟩,
      fun hsub haway hid => ⟨fun hstale => ?_, fun hfired hepoch hearly hcoll hst => ⟨fun hplan => ?_, fun i hplan hsum hinst hnext => ?_⟩⟩,
      fun hsub haway => ⟨fun hmiss => ?_, fun hgate hstep hhome => ?_⟩⟩
    · refine h.runs_step hsub ?_
      rw [h.step_held htwin hhold]
      exact ⟨by simp [h.job], (h.job_changed _).1, (h.job_changed _).2⟩
    · refine h.runs_step hsub ?_
      rw [h.step_taken htwin hhold, h.step_otherAttempt hpart hstep]
      rfl
    · refine h.runs_step hsub ?_
      rw [h.step_taken htwin hhold, h.step_badDecision hpart hstep hone hdec]
      exact ⟨by simp [h.job], by simp [h.job], by simp [h.job], (h.job_changed _).1, (h.job_changed _).2⟩
    · refine h.runs_step hsub ?_
      rw [h.step_taken htwin hhold]
      have hdone := h.step_commits hpart hstep hone hdec
      obtain ⟨hjobs, hareas⟩ := h.decided_frame hdone.other hdone.only
      refine ⟨?_, hdone.lsexp, hdone.clean, hdone.attempt, fun hopen => hdone.gate ?_, ?_, hjobs, hareas⟩
      · simpa [h.job, Job.attemptStep] using hdone.step
      · simpa [h.job] using hopen
      · simpa [h.job, Job.mark] using hdone.commitPend
    · refine h.runs_step hsub ?_
      rw [h.step_taken htwin hhold]
      have hdone := h.step_rejects hpart hstep hone hdec
      obtain ⟨hjobs, hareas⟩ := h.decided_frame hdone.other hdone.only
      refine ⟨?_, hdone.lsexp, hdone.clean, hdone.attempt, fun hopen => hdone.gate ?_, hdone.gradHold, hjobs, hareas⟩
      · simpa [h.job] using hdone.step
      · simpa [h.job] using hopen
    · refine h.runs_instance hsub ?_
      rw [h.instance_stale haway hid (by simpa [-tick_time, VerdictCell.staleVerdict, or_assoc] using hstale)]
      exact h.entry_changed (by rw [VerdictCell.seen_stale])
    · refine h.runs_instance hsub ?_
      have hseen := VerdictCell.seen_own (now := (tick t s).time) hfired hepoch
      rw [h.instance_planned haway hid (VerdictCell.staleVerdict_live hfired hepoch hearly) hcoll hst,
        VerdictCell.runPlanner_manual (by rw [h.job, hseen]; exact hplan)]
      exact h.entry_changed hseen
    · refine h.runs_instance hsub ?_
      have hseen := VerdictCell.seen_own (now := (tick t s).time) hfired hepoch
      have he := (congrArg (fun x : Job => Entry.seen (tick t s).time c (x.entry c.coll)) (h.job slot.val)).trans hseen
      rw [h.instance_planned haway hid (VerdictCell.staleVerdict_live hfired hepoch hearly) hcoll hst,
        VerdictCell.runPlanner_auto he hplan hsum hinst hnext]
      exact h.entry_changed rfl
    · refine h.runs_clip hsub ?_
      rw [h.clipOrder_eq haway, if_pos (by simpa [VerdictCell.clipMissed, or_assoc] using hmiss)]
      rfl
    · refine h.runs_clip hsub ?_
      rw [h.clipOrder_eq haway, if_neg (by simpa [VerdictCell.clipMissed, hgate, hstep] using hhome)]
      obtain ⟨hbegun, halpha, hother, honly⟩ := VerdictCell.clipRerun_result slot.val c s1
      exact ⟨hbegun, halpha, fun q hq => (hother q hq).trans (h.job q), h.frame (by simp) honly⟩
  · have hruns {P : State → Prop} (hp : P (commitAck slot.val (tick t s))) : Runs (.commitWordAck t slot) s P := ⟨_, rfl, hp⟩
    refine ⟨fun hpend => hruns ?_, fun hpend hrejoin => hruns ?_, fun m hpend hrejoin => hruns ?_, fun m hpend htwin hrejoin => hruns ?_⟩
    · exact commitAck_none hpend
    · exact commitAck_plain hpend hrejoin
    · rw [commitAck_mark (s := tick t s) hpend hrejoin]
      have hack := markCommit_job slot.val m (tick t s)
      obtain ⟨hother, honly⟩ := markCommit_frame slot.val m (tick t s)
      exact ⟨hack.commitPend, hack.gradHold, hack.manifest, hother, honly⟩
    · exact commitAck_rejoins hpend htwin hrejoin

end Sys2Proof.Safety
end

section
/-! PROOF. Accumulators (O54): an element of a tile, an instruction at the head of its queue, and what each engine instruction leaves. -/

namespace Sys2Proof.Safety

open Sys2Proof.Machine

/-! ### Tables of a tile -/

@[simp] theorem updAcc_acc_same (a : Nat) (f : Acc → Acc) (x : TileS) : (x.updAcc a f).acc a = f (x.acc a) := Tbl.get_upd_same _ _ _ _

theorem updAcc_acc_other {a b : Nat} (h : b ≠ a) (f : Acc → Acc) (x : TileS) : (x.updAcc a f).acc b = x.acc b := Tbl.get_upd_other _ _ _ h

@[simp] theorem tileUpdJob_job_same (j : Nat) (f : TJob → TJob) (x : TileS) : (x.updJob j f).job j = f (x.job j) := Tbl.get_upd_same _ _ _ _

theorem tileUpdJob_job_other {j k : Nat} (h : k ≠ j) (f : TJob → TJob) (x : TileS) : (x.updJob j f).job k = x.job k := Tbl.get_upd_other _ _ _ h

/-! ### W96 addition (R29, R84) -/

theorem toInt_ofInt96 {x : Int} (hlow : -(2 : Int) ^ 95 ≤ x) (hhigh : x < 2 ^ 95) : (BitVec.ofInt 96 x).toInt = x := by
  rw [BitVec.toInt_ofInt]
  exact Int.bmod_eq_of_le (by omega) (by omega)

theorem addW96_exact {a b : Int} (hlow : -(2 : Int) ^ 95 < a + b) (hhigh : a + b < 2 ^ 95) :
    (addW96 a b).1.toInt = a + b ∧ (addW96 a b).2 = false := by
  have hin : ¬ a + b > 2 ^ (96 - 1) - 1 ∧ ¬ a + b < -(2 ^ (96 - 1) - 1) := by omega
  simp only [addW96, satW, hin, if_false, and_true]
  exact toInt_ofInt96 (by omega) hhigh

theorem addW96_saturates {a b : Int} (hbig : 2 ^ 95 ≤ a + b) : (addW96 a b).1.toInt = 2 ^ 95 - 1 ∧ (addW96 a b).2 = true := by
  have hover : a + b > 2 ^ (96 - 1) - 1 := by omega
  simp only [addW96, satW, hover, if_true, and_true]
  exact toInt_ofInt96 (by omega) (by omega)

/-! ### An element of an accumulator tile (R57, R79) -/

section

variable {f : BitVec 96 → BitVec 96 × Bool} {first : BitVec 96} {i k : Nat} {y : Acc}

theorem put_written_same (hk : k < 192) : (y.put f first k).written.getLsbD k = true := by
  unfold Acc.put
  split
  · assumption
  · simp [hk]

theorem put_written_other (hik : i ≠ k) : (y.put f first k).written.getLsbD i = y.written.getLsbD i := by
  unfold Acc.put
  split
  · rfl
  · have hbit : i < k ∨ i - k ≠ 0 := by omega
    rcases hbit with hlt | hne
    · simp [hlt]
    · simp [hne]

theorem put_elem_same : Tbl.get 0 (y.put f first k).elems k = if y.written.getLsbD k then (f (Tbl.get 0 y.elems k)).1 else first := by
  unfold Acc.put
  split <;> simp

theorem put_elem_other (hik : i ≠ k) : Tbl.get 0 (y.put f first k).elems i = Tbl.get 0 y.elems i := by
  unfold Acc.put
  split <;> exact Tbl.get_set_other _ _ _ hik

end

theorem putElem_acc_same (n a k : Nat) (f : BitVec 96 → BitVec 96 × Bool) (first : BitVec 96) (s : State) :
    ((putElem n a k f first s).tile n).acc a = ((s.tile n).acc a).put f first k := by
  simp [putElem]

theorem putElem_acc_other {n a b k : Nat} {f : BitVec 96 → BitVec 96 × Bool} {first : BitVec 96} {s : State} (h : b ≠ a) :
    ((putElem n a k f first s).tile n).acc b = (s.tile n).acc b := by
  simp [putElem, updAcc_acc_other h]

/-- Another element of the same or of another tile stands when an element is put. -/
theorem putElem_elem_other {n a b i k : Nat} {f : BitVec 96 → BitVec 96 × Bool} {first : BitVec 96} {s : State} (h : (b, i) ≠ (a, k)) :
    Tbl.get 0 (((putElem n a k f first s).tile n).acc b).elems i = Tbl.get 0 ((s.tile n).acc b).elems i ∧
      (((putElem n a k f first s).tile n).acc b).written.getLsbD i = ((s.tile n).acc b).written.getLsbD i := by
  by_cases hb : b = a
  · subst hb
    have hik : i ≠ k := fun hik => h (by rw [hik])
    rw [putElem_acc_same]
    exact ⟨put_elem_other hik, put_written_other hik⟩
  · rw [putElem_acc_other hb]
    exact ⟨rfl, rfl⟩

/-- What one put leaves: the element, the other elements and tiles, the other areas. -/
theorem putElem_result {n a k : Nat} {f : BitVec 96 → BitVec 96 × Bool} {first : BitVec 96} {s : State} (hk : k < 192) :
    let y := (s.tile n).acc a
    let s' := putElem n a k f first s
    (((s'.tile n).acc a).written.getLsbD k = true) ∧
    Tbl.get 0 ((s'.tile n).acc a).elems k = (if y.written.getLsbD k then (f (Tbl.get 0 y.elems k)).1 else first) ∧
    (∀ i, i ≠ k → i < 192 → ((s'.tile n).acc a).written.getLsbD i = y.written.getLsbD i ∧
      Tbl.get 0 ((s'.tile n).acc a).elems i = Tbl.get 0 y.elems i) ∧
    (∀ b, b ≠ a → (s'.tile n).acc b = (s.tile n).acc b) ∧ (∀ m, m ≠ n → s'.tile m = s.tile m) ∧ OnlyChanges [.tiles] s s' := by
  refine ⟨?_, ?_, fun i hi _ => ?_, fun b hb => putElem_acc_other hb, fun m hm => updTile_tile_other hm _ _, updTile_only _ _ _⟩
  all_goals rw [putElem_acc_same]
  · exact put_written_same hk
  · exact put_elem_same
  · exact ⟨put_written_other hi, put_elem_other hi⟩

/-- A candidate's element holds the winner of R70. -/
theorem put_cand_elem (most : Bool) (c : Cand) (k : Nat) (y : Acc) :
    Tbl.get 0 (y.put (fun o => (if c.beats most (Cand.of o) then c.bits else o, false)) c.bits k).elems k =
      if y.written.getLsbD k = true ∧ c.beats most (Cand.of (Tbl.get 0 y.elems k)) = false then Tbl.get 0 y.elems k else c.bits := by
  rw [put_elem_same]
  generalize Tbl.get 0 y.elems k = w
  by_cases hwritten : y.written.getLsbD k = true
  · by_cases hbeats : c.beats most (Cand.of w) = true <;> simp [hwritten, hbeats]
  · simp [hwritten]

theorem putCand_elem (most : Bool) (n a k : Nat) (c : Cand) (s : State) :
    let y := (s.tile n).acc a
    Tbl.get 0 (((putCand most n a k c s).tile n).acc a).elems k =
      (if y.written.getLsbD k = true ∧ c.beats most (Cand.of (Tbl.get 0 y.elems k)) = false then Tbl.get 0 y.elems k else c.bits) := by
  unfold putCand
  rw [putElem_acc_same]
  exact put_cand_elem _ _ _ _

theorem openAcc_acc (n j coll a seg : Nat) (hat : Bool) (s : State) :
    let y := (s.tile n).acc a
    let s' := openAcc n j coll a seg hat s
    (tagState y.tag = accFree → (s'.tile n).acc a =
      { Acc.reset with tag := mkTag accActive false ((s.job j).entry coll).epoch.toNat coll j, seg := seg, hat := hat }) ∧
    (tagState y.tag ≠ accFree → (s'.tile n).acc a = y) ∧ (∀ b, b ≠ a → (s'.tile n).acc b = (s.tile n).acc b) := by
  refine ⟨fun hfree => ?_, fun hheld => ?_, fun b hb => ?_⟩
  · simp [openAcc, hfree]
  · simp [openAcc, hheld]
  · simp [openAcc, updAcc_acc_other hb]

/-! ### The integers of a cell (R57, R84) -/

/-- The tile and element of an index. -/
def spot (at_ : Nat → Nat) (q : Nat × Int) : Nat × Nat := (at_ (q.1 / 192), q.1 % 192)

theorem addElems_cons (n : Nat) (at_ : Nat → Nat) (q : Nat × Int) (vals : List (Nat × Int)) (s : State) :
    addElems n at_ (q :: vals) s =
      addElems n at_ vals (putElem n (at_ (q.1 / 192)) (q.1 % 192) (fun o => addW96 o.toInt q.2) (BitVec.ofInt 96 q.2) s) := rfl

/-- An element that no integer goes to stands. -/
theorem addElems_elem_other {n a k : Nat} {at_ : Nat → Nat} {vals : List (Nat × Int)} {s : State} (h : (a, k) ∉ vals.map (spot at_)) :
    Tbl.get 0 (((addElems n at_ vals s).tile n).acc a).elems k = Tbl.get 0 ((s.tile n).acc a).elems k ∧
      (((addElems n at_ vals s).tile n).acc a).written.getLsbD k = ((s.tile n).acc a).written.getLsbD k := by
  induction vals generalizing s with
  | nil => exact ⟨rfl, rfl⟩
  | cons q vals ih =>
    rw [List.map_cons, List.mem_cons, not_or] at h
    obtain ⟨helem, hwritten⟩ := ih (s := putElem n (at_ (q.1 / 192)) (q.1 % 192) (fun o => addW96 o.toInt q.2) (BitVec.ofInt 96 q.2) s) h.2
    obtain ⟨helem', hwritten'⟩ := putElem_elem_other (n := n) (f := fun o => addW96 o.toInt q.2) (first := BitVec.ofInt 96 q.2) (s := s) h.1
    exact ⟨helem.trans helem', hwritten.trans hwritten'⟩

/-- Of a cell whose integers go to different elements, each is added to its own. -/
theorem addElems_elem {n : Nat} {at_ : Nat → Nat} {vals : List (Nat × Int)} {s : State} (hnodup : (vals.map (spot at_)).Nodup)
    {q : Nat × Int} (hq : q ∈ vals) :
    let y := (s.tile n).acc (at_ (q.1 / 192))
    let y' := ((addElems n at_ vals s).tile n).acc (at_ (q.1 / 192))
    Tbl.get 0 y'.elems (q.1 % 192) = (if y.written.getLsbD (q.1 % 192) then (addW96 (Tbl.get 0 y.elems (q.1 % 192)).toInt q.2).1
      else BitVec.ofInt 96 q.2) ∧ y'.written.getLsbD (q.1 % 192) = true := by
  induction vals generalizing s with
  | nil => simp at hq
  | cons p vals ih =>
    obtain ⟨hnew, hrest⟩ := List.nodup_cons.mp hnodup
    rcases List.mem_cons.mp hq with rfl | hmem
    · obtain ⟨helem, hwritten⟩ := addElems_elem_other (n := n) (s := putElem n (at_ (q.1 / 192)) (q.1 % 192)
        (fun o => addW96 o.toInt q.2) (BitVec.ofInt 96 q.2) s) hnew
      have hput := putElem_result (n := n) (a := at_ (q.1 / 192)) (f := fun o => addW96 o.toInt q.2) (first := BitVec.ofInt 96 q.2) (s := s)
        (Nat.mod_lt q.1 (by decide : 0 < 192))
      exact ⟨helem.trans hput.2.1, hwritten.trans hput.1⟩
    · have hne : spot at_ q ≠ spot at_ p := fun h => hnew (h ▸ List.mem_map_of_mem hmem)
      obtain ⟨helem, hwritten⟩ := putElem_elem_other (n := n) (f := fun o => addW96 o.toInt p.2) (first := BitVec.ofInt 96 p.2) (s := s) hne
      intro y y'
      rw [show y.written.getLsbD (q.1 % 192) = _ from hwritten.symm, show Tbl.get 0 y.elems (q.1 % 192) = _ from helem.symm]
      exact ih hrest hmem

/-! ### What an engine's work touches: its accumulators, its job's instances, the counters -/

/-- Every summation that instances have used stays noted (R74). -/
structure InstGrows (x x' : Inst) : Prop where
  exact : x.exact = true → x'.exact = true
  fast : x.fast = true → x'.fast = true

theorem InstGrows.trans {x y z : Inst} (h : InstGrows x y) (h' : InstGrows y z) : InstGrows x z :=
  ⟨fun hx => h'.exact (h.exact hx), fun hx => h'.fast (h.fast hx)⟩

/-- The instances of job j run on. -/
def InstsRun (j : Nat) (s s' : State) : Prop := ∀ coll x, s.inst? j coll = some x → ∃ x', s'.inst? j coll = some x' ∧ InstGrows x x'

theorem InstsRun.of_job {j : Nat} {s s' : State} (h : s'.job j = s.job j) : InstsRun j s s' :=
  fun coll x hx => ⟨x, by simpa [State.inst?, h] using hx, ⟨id, id⟩⟩

theorem InstsRun.trans {j : Nat} {s s' s'' : State} (h : InstsRun j s s') (h' : InstsRun j s' s'') : InstsRun j s s'' := fun coll x hx => by
  obtain ⟨y, hy, hxy⟩ := h coll x hx
  obtain ⟨z, hz, hyz⟩ := h' coll y hy
  exact ⟨z, hz, hxy.trans hyz⟩

theorem updInst_inst_same (j coll : Nat) (f : Inst → Inst) (s : State) : (s.updInst j coll f).inst? j coll = (s.inst? j coll).map f := by
  simp only [State.inst?, State.updInst, updJob_job_same, Job.entry, Job.updEntry, Tbl.get_upd_same]
  by_cases hrun : (Tbl.get Entry.reset (s.job j).entries coll).status.toNat = stRunning <;> simp [hrun]

theorem updInst_inst_other {j coll k : Nat} (h : k ≠ coll) (f : Inst → Inst) (s : State) : (s.updInst j coll f).inst? j k = s.inst? j k := by
  by_cases hrun : (Tbl.get Entry.reset (s.job j).entries k).status.toNat = stRunning <;>
    simp [State.inst?, State.updInst, Job.entry, Job.updEntry, Tbl.get_upd_other _ _ _ h, hrun]

theorem InstsRun.of_updInst {j coll : Nat} {f : Inst → Inst} (hf : ∀ i, InstGrows i (f i)) (s : State) : InstsRun j s (s.updInst j coll f) := by
  intro k x hx
  by_cases hk : k = coll
  · subst hk
    exact ⟨f x, by rw [updInst_inst_same, hx, Option.map_some], hf x⟩
  · exact ⟨x, by rw [updInst_inst_other hk, hx], ⟨id, id⟩⟩

/-- What the engines may change. -/
def engineAreas : List Region := [.tiles, .jobs, .obs]

/-- Arithmetic of job j on tile n: accumulators and events of the tile, the job's instances, the counters. -/
structure Quiet (n j : Nat) (s s' : State) : Prop where
  only : OnlyChanges engineAreas s s'
  jobs : ∀ k, k ≠ j → s'.job k = s.job k
  tiles : ∀ m, m ≠ n → s'.tile m = s.tile m
  tile : s'.tile n = { s.tile n with accs := (s'.tile n).accs, evq := (s'.tile n).evq }
  insts : InstsRun j s s'

namespace Quiet

variable {n j : Nat} {s s' s'' : State}

theorem refl (n j : Nat) (s : State) : Quiet n j s s := ⟨.refl _ _, fun _ _ => rfl, fun _ _ => rfl, rfl, .of_job rfl⟩

theorem trans (h : Quiet n j s s') (h' : Quiet n j s' s'') : Quiet n j s s'' where
  only := h.only.trans h'.only
  jobs k hk := (h'.jobs k hk).trans (h.jobs k hk)
  tiles m hm := (h'.tiles m hm).trans (h.tiles m hm)
  tile := h'.tile.trans (by rw [h.tile])
  insts := h.insts.trans h'.insts

theorem foldl {α : Type} (f : State → α → State) (hf : ∀ s a, Quiet n j s (f s a)) (l : List α) (s : State) : Quiet n j s (l.foldl f s) := by
  induction l generalizing s with
  | nil => exact .refl _ _ _
  | cons a l ih => exact (hf s a).trans (ih _)

theorem of_updAcc (n j a : Nat) (f : Acc → Acc) (s : State) : Quiet n j s (s.updTile n (fun x => x.updAcc a f)) where
  only := (updTile_only _ _ _).mono (by simp [engineAreas])
  jobs _ _ := rfl
  tiles _ hm := updTile_tile_other hm _ _
  tile := by simp [TileS.updAcc]
  insts := .of_job rfl

end Quiet

/-! ### Notes: the accumulators' contents stand -/

theorem AccsAs.refl (n : Nat) (s : State) : AccsAs n s s := fun _ => ⟨rfl, rfl, rfl⟩

theorem AccsAs.trans {n : Nat} {s s' s'' : State} (h : AccsAs n s s') (h' : AccsAs n s' s'') : AccsAs n s s'' := fun a => by
  obtain ⟨helems, hwritten, hseg⟩ := h a
  obtain ⟨helems', hwritten', hseg'⟩ := h' a
  exact ⟨helems'.trans helems, hwritten'.trans hwritten, hseg'.trans hseg⟩

theorem AccsAs.of_accs {n : Nat} {s s' : State} (h : (s'.tile n).accs = (s.tile n).accs) : AccsAs n s s' := fun a => by
  simp only [TileS.acc, h, and_self]

/-- A change of a tile's accumulators that leaves elements, marks and segment. -/
def KeepsContents (f : Acc → Acc) : Prop := ∀ y, (f y).elems = y.elems ∧ (f y).written = y.written ∧ (f y).seg = y.seg

theorem AccsAs.of_updAcc {n a : Nat} {f : Acc → Acc} (hf : KeepsContents f) (s : State) : AccsAs n s (s.updTile n (fun x => x.updAcc a f)) := by
  intro b
  rw [updTile_tile_same]
  by_cases hb : b = a
  · subst hb
    rw [updAcc_acc_same]
    exact hf _
  · rw [updAcc_acc_other hb]
    exact ⟨rfl, rfl, rfl⟩

/-- What an engine notes of its work: counts, passes, flags and events; its accumulators' contents stand. -/
structure Noted (n j : Nat) (s s' : State) : Prop extends Quiet n j s s' where
  accs : AccsAs n s s'

namespace Noted

variable {n j : Nat} {s s' s'' : State}

theorem refl (n j : Nat) (s : State) : Noted n j s s := ⟨.refl _ _ _, .refl _ _⟩

theorem trans (h : Noted n j s s') (h' : Noted n j s' s'') : Noted n j s s'' := ⟨h.toQuiet.trans h'.toQuiet, h.accs.trans h'.accs⟩

theorem foldl {α : Type} (f : State → α → State) (hf : ∀ s a, Noted n j s (f s a)) (l : List α) (s : State) : Noted n j s (l.foldl f s) := by
  induction l generalizing s with
  | nil => exact .refl _ _ _
  | cons a l ih => exact (hf s a).trans (ih _)

theorem ite {p : Prop} [Decidable p] {a b : State} (ha : Noted n j s a) (hb : Noted n j s b) : Noted n j s (if p then a else b) := by
  split
  · exact ha
  · exact hb

theorem of_obs (n j : Nat) (h : OnlyChanges [.obs] s s') : Noted n j s s' := by
  have htile (m : Nat) : s'.tile m = s.tile m := h.tile (by simp) m
  exact ⟨⟨h.mono (by simp [engineAreas]), fun k _ => h.job (by simp) k, fun m _ => htile m, by rw [htile], .of_job (h.job (by simp) j)⟩,
    .of_accs (by rw [htile])⟩

theorem of_updInst {coll : Nat} {f : Inst → Inst} (hf : ∀ i, InstGrows i (f i)) (s : State) : Noted n j s (s.updInst j coll f) :=
  ⟨⟨(updJob_only _ _ _).mono (by simp [engineAreas]), fun _ hk => updJob_job_other hk _ _, fun _ _ => rfl, rfl, .of_updInst hf s⟩, .of_accs rfl⟩

theorem of_updAcc {a : Nat} {f : Acc → Acc} (hf : KeepsContents f) (s : State) : Noted n j s (s.updTile n (fun x => x.updAcc a f)) :=
  ⟨.of_updAcc _ _ _ _ _, .of_updAcc hf _⟩

end Noted

section

variable (n j : Nat) (s : State)

theorem addPart_noted (coll : Nat) (f : Part → Part) : Noted n j s (addPart j coll n f s) := .of_updInst (by exact fun _ => ⟨id, id⟩) s

theorem setSat_noted (coll : Nat) (on : Bool) : Noted n j s (setSat j coll n on s) := .ite (addPart_noted _ _ _ _ _) (.refl _ _ _)

theorem statEv_noted (coll : Nat) (ev : Ev) : Noted n j s (statEv j coll n ev s) := .ite (.refl _ _ _) (addPart_noted _ _ _ _ _)

theorem countEv_noted (ev : Ev) : Noted n j s (countEv n j ev s) := .of_obs _ _ (countEv_only _ _ _ _)

theorem profEvent_noted (e k : Nat) (slot : Option Nat) : Noted n j s (profEvent e n slot k s) := .of_obs _ _ (profEvent_only _ _ _ _ _)

theorem chargeAcc_noted (c : CqEnt) (rd wr : Nat) : Noted n j s (chargeAcc n j c rd wr s) := .of_obs _ _ (chargeAcc_only _ _ _ _ _ _)

theorem useSum_noted (coll : Nat) (fast : Bool) : Noted n j s (useSum j coll fast s) := by
  refine .of_updInst (fun i => ?_) s
  cases fast
  · exact ⟨fun _ => rfl, id⟩
  · exact ⟨id, fun _ => rfl⟩

theorem noteQuant_noted (coll : Nat) (l : List Quant) (ev : Ev) : Noted n j s (noteQuant n j coll l ev s) :=
  (((countEv_noted _ _ _ _).trans (statEv_noted _ _ _ _ _)).trans (setSat_noted _ _ _ _ _)).trans (addPart_noted _ _ _ _ _)

theorem notePass_noted (coll a chunk : Nat) (par : Bool) : Noted n j s (notePass n j coll a chunk par s) := .of_updAcc (by exact fun _ => ⟨rfl, rfl, rfl⟩) s

theorem noteAdd_noted (i : DWord) (b : BitVec 256) (e : Entry) (segs : List Nat) (fold : Nat) (par : Bool) :
    Noted n j s (noteAdd n j i b e segs fold par s) := by
  have hpasses := Noted.foldl (n := n) (j := j) (fun s g => notePass n j (bColl b) (accAt s n j i b e g) (g / 2 ^ e.cshift) par s)
    (fun _ _ => notePass_noted _ _ _ _ _ _ _) segs s
  unfold noteAdd
  dsimp only
  split
  · exact hpasses.trans (.of_updAcc (by exact fun _ => ⟨rfl, rfl, rfl⟩) _)
  · exact hpasses

theorem noteWmin_noted (at_ : Nat → Nat) (l : List (Nat × Int × Bool)) : Noted n j s (noteWmin n j at_ l s) :=
  .foldl _ (fun _ _ => (Noted.of_updAcc (by exact fun _ => ⟨rfl, rfl, rfl⟩) _).trans (.of_obs _ _ (bump_only _ _ _))) _ s

theorem pushEvent_noted (ev bind arg : Nat) : Noted n j s (pushEvent n j ev bind arg s) := by
  have hevent (g : TileS → List Word) : Noted n j s (s.updTile n (fun x => { x with evq := g x })) :=
    ⟨⟨(updTile_only _ _ _).mono (by simp [engineAreas]), fun _ _ => rfl, fun _ hm => updTile_tile_other hm _ _, by simp, .of_job rfl⟩,
      .of_accs (by simp)⟩
  exact (hevent _).trans (.of_obs _ _ (bumpMax_only _ _ _))

theorem tileEvent_noted (coll ev arg : Nat) : Noted n j s (tileEvent n j coll ev arg s) :=
  .foldl _ (fun _ _ => .ite (pushEvent_noted _ _ _ _ _ _) (.refl _ _ _)) _ s

theorem settle_noted (coll : Nat) : Noted n j s (settle n j coll s) := by
  have hchunks (f : Inst → List Chunk) (s : State) : Noted n j s (s.updInst j coll (fun i => { i with chunks := f i })) :=
    .of_updInst (by exact fun _ => ⟨id, id⟩) s
  unfold settle
  extract_lets e tag before f s1 s2
  exact ((hchunks _ _).trans (.ite (hchunks _ _) (.refl _ _ _))).trans (.foldl _ (fun _ _ => tileEvent_noted _ _ _ _ _ _) _ _)

theorem boundaries_noted (i : DWord) : Noted n j s (boundaries n j i s) := by
  unfold boundaries
  split
  · exact settle_noted _ _ _ _
  · exact .refl _ _ _

end

/-! ### The head of a queue completes (R199, R217) -/

/-- The head of a command queue has left it. -/
def pulled (n j q : Nat) (s : State) : State :=
  s.updTile n (fun x => x.updJob j (fun t => { t with cqs := Tbl.upd [] t.cqs q List.tail, lastDone := Tbl.set 0 t.lastDone q s.time }))

theorem pumpTile_idle {n : Nat} {s : State} (h : (s.tile n).dispatchQ = []) : pumpTile n s = s := by
  simp [pumpTile, h, pumpQueues]

/-- A head that has run its units leaves its queue; nothing waits for the room, and the rest is notes. -/
theorem completeHead_noted {n j q : Nat} {c : CqEnt} {f : CqEnt → CqEnt} {s : State} (hidle : (s.tile n).dispatchQ = []) :
    Noted n j (pulled n j q s) (completeHead n j q c (updHead n j q f s)) := by
  have hpulled : (updHead n j q f s).updTile n (fun x => x.updJob j (fun t =>
      { t with cqs := Tbl.upd [] t.cqs q List.tail, lastDone := Tbl.set 0 t.lastDone q (updHead n j q f s).time })) = pulled n j q s := by
    unfold updHead pulled
    rw [updTile_twice]
    refine updTile_congr ?_
    simp only [TileS.updJob, Tbl.upd_upd, updTile_time]
    congr 3
    funext t
    congr 2
    funext l
    cases l <;> rfl
  have hwaits : ((pulled n j q s).tile n).dispatchQ = [] := by simpa [pulled, TileS.updJob] using hidle
  unfold completeHead
  rw [hpulled, pumpTile_idle hwaits]
  exact .of_obs _ _ ((bump_only _ _ _).trans (charge_only _ _ _ _ _ _ _))

/-! ### An instruction at the head runs unit by unit (R199, R200) -/

/-- Units that run one after another, then the end of the instruction. -/
theorem runUnits_units {n j q k fuel : Nat} {p : Plan} {unit : Unit'} {first : Option State} {c : CqEnt} {s s2 : State}
    (hunits : UnitsRun n j q p unit k s s2) (hhead : cqHead s2 n j q = some c) (hend : p.units ≤ c.done) (hfuel : k < fuel) :
    runUnits fuel n j q p unit false first s = completeHead n j q c s2 := by
  induction k generalizing s fuel with
  | zero =>
    obtain ⟨fuel, rfl⟩ := Nat.exists_eq_add_of_lt hfuel
    cases hunits
    simp [runUnits, hhead, hend]
  | succ k ih =>
    obtain ⟨d, s1, hd, hrun, hmore, hunit, hrest⟩ := hunits
    obtain ⟨fuel, rfl⟩ := Nat.exists_eq_add_of_lt hfuel
    rw [← ih hrest (fuel := k + 1 + fuel) (by omega)]
    rw [runUnits]
    simp [hd, hrun, hunit, Nat.not_le.mpr hmore]

/-- A command whose instruction stands at the head and whose units all run. -/
theorem runs_units {cmd : Instr} {n j q opc : Nat} {plan : State → CqEnt → Plan} {unit : Unit'} {c c2 : CqEnt} {s s0 s2 : State}
    (hexec : exec cmd s = .next (runHead n j q (· = opc) plan (fun _ => false) unit s0)) (hat : AtHead n j q c s0) (hopc : iOpc c.insn = opc)
    (hunits : UnitsRun n j q (plan s0 c) unit (plan s0 c).units s0 s2) (hhead : cqHead s2 n j q = some c2) (hend : (plan s0 c).units ≤ c2.done)
    {P : State → Prop} (hP : P (boundaries n j c.insn (completeHead n j q c2 s2))) : Runs cmd s P := by
  obtain ⟨hcq, hdone, hskip, hheld, hdown, hlegal, hkeep⟩ := hat
  have hrun (first : Option State) := runUnits_units (first := first) hunits hhead hend (fuel := 2 * (plan s0 c).units + 3) (by omega)
  have hhead : runHead n j q (· = opc) plan (fun _ => false) unit s0 = boundaries n j c.insn (completeHead n j q c2 s2) := by
    simp only [runHead, hcq, hopc, hdone, hskip, hheld, hdown, hlegal, hkeep, decide_true, Bool.not_true, Bool.not_false, Bool.or_false,
      Bool.and_true, Bool.and_false, Bool.false_and, Bool.false_eq_true, if_false, if_true, hrun]
    rfl
  exact ⟨_, hexec, by rwa [hhead]⟩

/-- Work of job j on tile n leaves the command queues, the other jobs and the other tiles. -/
structure Framed (n j : Nat) (s s' : State) : Prop where
  only : OnlyChanges engineAreas s s'
  jobs : ∀ k, k ≠ j → s'.job k = s.job k
  tiles : ∀ m, m ≠ n → s'.tile m = s.tile m
  others : ∀ k, k ≠ j → (s'.tile n).job k = (s.tile n).job k
  cqs : ((s'.tile n).job j).cqs = ((s.tile n).job j).cqs
  waits : (s'.tile n).dispatchQ = (s.tile n).dispatchQ
  insts : InstsRun j s s'

namespace Framed

variable {n j q : Nat} {s s' s'' : State}

theorem trans (h : Framed n j s s') (h' : Framed n j s' s'') : Framed n j s s'' where
  only := h.only.trans h'.only
  jobs k hk := (h'.jobs k hk).trans (h.jobs k hk)
  tiles m hm := (h'.tiles m hm).trans (h.tiles m hm)
  others k hk := (h'.others k hk).trans (h.others k hk)
  cqs := h'.cqs.trans h.cqs
  waits := h'.waits.trans h.waits
  insts := h.insts.trans h'.insts

theorem of_quiet (h : Quiet n j s s') : Framed n j s s' :=
  ⟨h.only, h.jobs, h.tiles, fun k _ => by rw [h.tile]; rfl, by rw [h.tile]; rfl, by rw [h.tile], h.insts⟩

theorem cqHead (h : Framed n j s s') : Machine.cqHead s' n j q = Machine.cqHead s n j q := by
  simp only [Machine.cqHead, h.cqs]

/-- A head that leaves its queue after its work, and the notes that follow. -/
theorem left (h : Framed n j s s') (h' : Quiet n j (pulled n j q s') s'') : Left n j q s s'' := by
  have hothers : ∀ m, m ≠ n → (pulled n j q s').tile m = s'.tile m := fun m hm => updTile_tile_other hm _ _
  have hself : ((pulled n j q s').tile n).job j = { (s'.tile n).job j with
      cqs := Tbl.upd [] ((s'.tile n).job j).cqs q List.tail, lastDone := Tbl.set 0 ((s'.tile n).job j).lastDone q s'.time } := by
    simp [pulled]
  have hjob (k : Nat) : (s''.tile n).job k = ((pulled n j q s').tile n).job k := by
    rw [h'.tile]
    rfl
  refine ⟨?_, fun p hp => ?_, fun k hk => ⟨?_, (h'.jobs k hk).trans (h.jobs k hk)⟩,
    fun m hm => (h'.tiles m hm).trans ((hothers m hm).trans (h.tiles m hm))⟩
  · rw [hjob, hself, Tbl.get_upd_same, h.cqs]
  · rw [hjob, hself, Tbl.get_upd_other _ _ _ hp, h.cqs]
  · rw [hjob, ← h.others k hk]
    simp [pulled, tileUpdJob_job_other hk]

theorem onlyRetired (h : Framed n j s s') (h' : Quiet n j (pulled n j q s') s'') : OnlyChanges engineAreas s s'' :=
  (h.only.trans ((updTile_only _ _ _).mono (by simp [engineAreas]))).trans h'.only

theorem instsRetired (h' : Quiet n j (pulled n j q s') s'') : InstsRun j s' s'' := (InstsRun.of_job (by simp [pulled])).trans h'.insts

end Framed

theorem cqHead_updHead (n j q : Nat) (f : CqEnt → CqEnt) (s : State) : cqHead (updHead n j q f s) n j q = (cqHead s n j q).map f := by
  simp only [cqHead, updHead, updTile_tile_same, tileUpdJob_job_same, Tbl.get_upd_same]
  cases Tbl.get [] ((s.tile n).job j).cqs q <;> rfl

/-- One more unit of an instruction has run. -/
def countUnit (c : CqEnt) : CqEnt := { c with done := c.done + 1 }

/-- An instruction of one unit at the head of its queue: its work, then it leaves the queue. -/
theorem runs_one {cmd : Instr} {n j q opc : Nat} {plan : State → CqEnt → Plan} {unit : Unit'} {c : CqEnt} {s s0 s1 : State}
    (hexec : exec cmd s = .next (runHead n j q (· = opc) plan (fun _ => false) unit s0)) (hat : AtHead n j q c s0) (hopc : iOpc c.insn = opc)
    (hidle : (s0.tile n).dispatchQ = []) (hplan : (plan s0 c).units = 1) (hunit : unit c 0 0 s0 = .done s1) (hwork : Framed n j s0 s1)
    {P : State → Prop} (hP : ∀ s', Noted n j (pulled n j q s1) s' → P s') : Runs cmd s P := by
  have ⟨hcq, hdone, hskip, _⟩ := hat
  have hhead : cqHead (updHead n j q countUnit s1) n j q = some (countUnit c) := by rw [cqHead_updHead, hwork.cqHead, hcq, Option.map_some]
  have hunits : UnitsRun n j q (plan s0 c) unit (plan s0 c).units s0 (updHead n j q countUnit s1) := by
    rw [hplan]
    exact ⟨c, s1, hcq, hskip, by omega, by simpa [hdone] using hunit, rfl⟩
  refine runs_units hexec hat hopc hunits hhead (by simp [hplan, countUnit]) (hP _ ?_)
  exact (completeHead_noted (by rw [hwork.waits, hidle])).trans (boundaries_noted _ _ _ _)

/-- An instruction of two units, which push nothing. -/
theorem runs_two {cmd : Instr} {n j q opc : Nat} {plan : State → CqEnt → Plan} {unit : Unit'} {c : CqEnt} {s s0 s1 s2 : State}
    (hexec : exec cmd s = .next (runHead n j q (· = opc) plan (fun _ => false) unit s0)) (hat : AtHead n j q c s0) (hopc : iOpc c.insn = opc)
    (hidle : (s0.tile n).dispatchQ = []) (hplan : (plan s0 c).units = 2) (hpush : (plan s0 c).pushN = 0)
    (hunit : unit c 0 0 s0 = .done s1) (hwork : Framed n j s0 s1)
    (hunit' : unit (countUnit c) 1 0 (updHead n j q countUnit s1) = .done s2) (hwork' : Framed n j (updHead n j q countUnit s1) s2)
    {P : State → Prop} (hP : ∀ s', Noted n j (pulled n j q s2) s' → P s') : Runs cmd s P := by
  have ⟨hcq, hdone, hskip, _⟩ := hat
  have hmid : cqHead (updHead n j q countUnit s1) n j q = some (countUnit c) := by rw [cqHead_updHead, hwork.cqHead, hcq, Option.map_some]
  have hhead : cqHead (updHead n j q countUnit s2) n j q = some (countUnit (countUnit c)) := by
    rw [cqHead_updHead, hwork'.cqHead, hmid, Option.map_some]
  have hone : (countUnit c).done = 1 := by simp [countUnit, hdone]
  have hunits : UnitsRun n j q (plan s0 c) unit (plan s0 c).units s0 (updHead n j q countUnit s2) := by
    rw [hplan]
    exact ⟨c, s1, hcq, hskip, by omega, by simpa [hdone] using hunit,
      countUnit c, s2, hmid, hskip, by omega, by rw [hone, hpush]; exact hunit', rfl⟩
  refine runs_units hexec hat hopc hunits hhead (by simp [hplan, countUnit]) (hP _ ?_)
  refine (completeHead_noted ?_).trans (boundaries_noted _ _ _ _)
  rw [hwork'.waits, ← hidle, ← hwork.waits]
  simp [updHead, TileS.updJob]

/-- A head that has counted a unit and then leaves its queue has left it from before. -/
theorem left_of_updHead {n j q : Nat} {f : CqEnt → CqEnt} {s s' : State} (h : Left n j q (updHead n j q f s) s') : Left n j q s s' := by
  obtain ⟨hqueue, hqueues, hothers, htiles⟩ := h
  refine ⟨?_, fun p hp => ?_, fun k hk => ?_, fun m hm => ?_⟩
  · rw [hqueue]
    simp only [updHead, updTile_tile_same, tileUpdJob_job_same, Tbl.get_upd_same]
    cases Tbl.get [] ((s.tile n).job j).cqs q <;> rfl
  · rw [hqueues p hp]
    simp [updHead, Tbl.get_upd_other _ _ _ hp]
  · rw [(hothers k hk).1, (hothers k hk).2]
    simp [updHead, tileUpdJob_job_other hk]
  · rw [htiles m hm]
    exact updTile_tile_other hm _ _

/-- Work before a head leaves its queue. -/
theorem Framed.left_trans {n j q : Nat} {s s' s'' : State} (h : Framed n j s s') (h' : Left n j q s' s'') : Left n j q s s'' := by
  obtain ⟨hqueue, hqueues, hothers, htiles⟩ := h'
  exact ⟨by rw [hqueue, h.cqs], fun p hp => by rw [hqueues p hp, h.cqs],
    fun k hk => ⟨by rw [(hothers k hk).1, h.others k hk], by rw [(hothers k hk).2, h.jobs k hk]⟩, fun m hm => by rw [htiles m hm, h.tiles m hm]⟩

/-! ### What a unit pops (R200, R209) -/

/-- Buffers of tile n are freed: nothing else of a tile changes. -/
structure Freed (n : Nat) (s s' : State) : Prop where
  only : OnlyChanges tileAreas s s'
  tiles : ∀ m, m ≠ n → s'.tile m = s.tile m
  tile : s'.tile n = { s.tile n with bufs := (s'.tile n).bufs, freeList := (s'.tile n).freeList }

namespace Freed

variable {n : Nat} {s s' s'' : State}

theorem refl (n : Nat) (s : State) : Freed n s s := ⟨.refl _ _, fun _ _ => rfl, rfl⟩

theorem trans (h : Freed n s s') (h' : Freed n s' s'') : Freed n s s'' :=
  ⟨h.only.trans h'.only, fun m hm => (h'.tiles m hm).trans (h.tiles m hm), h'.tile.trans (by rw [h.tile])⟩

theorem foldl {α : Type} (f : State → α → State) (hf : ∀ s a, Freed n s (f s a)) (l : List α) (s : State) : Freed n s (l.foldl f s) := by
  induction l generalizing s with
  | nil => exact .refl _ _
  | cons a l ih => exact (hf s a).trans (ih _)

theorem ite {p : Prop} [Decidable p] {a b : State} (ha : Freed n s a) (hb : Freed n s b) : Freed n s (if p then a else b) := by
  split
  · exact ha
  · exact hb

theorem of_obs (n : Nat) (h : OnlyChanges [.obs] s s') : Freed n s s' := by
  have htile (m : Nat) : s'.tile m = s.tile m := h.tile (by simp) m
  exact ⟨tileAreas_obs h, fun m _ => htile m, by rw [htile]⟩

end Freed

theorem freeAddr_freed (n a : Nat) (s : State) : Freed n s (freeAddr n a s) := by
  have hbufs (g : TileS → Tbl Buf) (fl : TileS → Option (List Nat)) :
      Freed n s (s.updTile n (fun x => { x with bufs := g x, freeList := fl x })) :=
    ⟨tileAreas_tile _ _ _, fun _ hm => updTile_tile_other hm _ _, by simp⟩
  unfold freeAddr
  exact .ite (.of_obs _ (logCode_only _ _ _)) (.ite (.of_obs _ ((logCode_only _ _ _).trans (bump_only _ _ _)))
    (.ite (hbufs (fun x => (x.updBuf (a / 112) (fun z => { z with count := z.count - 1 })).bufs) (fun x => x.freeList)) (hbufs _ _)))

theorem freeBuf_freed (n : Nat) (b : Option Nat) (s : State) : Freed n s (freeBuf n b s) := by
  cases b with
  | none => exact .refl _ _
  | some k => exact freeAddr_freed _ _ _

/-- Pops leave accumulators, jobs and dispatch queue of the tile. -/
structure Popping (n j : Nat) (s s' : State) : Prop extends Framed n j s s' where
  accs : (s'.tile n).accs = (s.tile n).accs
  tjobs : (s'.tile n).jobs = (s.tile n).jobs

theorem Popping.refl (n j : Nat) (s : State) : Popping n j s s := ⟨.of_quiet (.refl _ _ _), rfl, rfl⟩

/-- A change of the queues of a tile, and buffers freed after it. -/
theorem Popping.of_freed {n j : Nat} {g : TileS → TileS} {s s' : State} (h : Freed n (s.updTile n g) s') (haccs : (g (s.tile n)).accs = (s.tile n).accs)
    (hjobs : (g (s.tile n)).jobs = (s.tile n).jobs) (hwaits : (g (s.tile n)).dispatchQ = (s.tile n).dispatchQ) : Popping n j s s' := by
  have htile := h.tile
  rw [updTile_tile_same] at htile
  have htjobs : (s'.tile n).jobs = (s.tile n).jobs := by rw [htile, hjobs]
  have hjob (k : Nat) : s'.job k = s.job k := h.only.job (by simp [tileAreas]) k
  have htjob (k : Nat) : (s'.tile n).job k = (s.tile n).job k := by simp only [TileS.job, htjobs]
  exact ⟨⟨((updTile_only n g s).mono (by simp [engineAreas])).trans (h.only.mono (by simp [tileAreas, engineAreas])), fun k _ => hjob k,
    fun m hm => (h.tiles m hm).trans (updTile_tile_other hm _ _), fun k _ => htjob k, by rw [htjob], by rw [htile, hwaits], .of_job (hjob j)⟩,
    by rw [htile, haccs], htjobs⟩

theorem popIq_freed (n p k j : Nat) (s : State) :
    Freed n (s.updTile n (fun x => { x with iqs := Tbl.set [] x.iqs p ((iqCells s n p).drop k) })) (popIq n p k j s) :=
  ((Freed.of_obs _ (profEvent_only _ _ _ _ _)).trans (.foldl _ (fun _ _ => freeBuf_freed _ _ _) _ _)).trans (.of_obs _ (bump_only _ _ _))

theorem setEnts_popping (n j q : Nat) (l : List Ent) (s : State) : Popping n j s (setEnts n j q l s) := by
  unfold setEnts
  split
  · exact .of_freed (.refl _ _) rfl rfl rfl
  · split
    · exact .of_freed (.of_obs _ (bumpMax_only _ _ _)) rfl rfl rfl
    · exact .refl _ _ _

theorem popSrc_popping (n j q k : Nat) (s : State) : Popping n j s (popSrc n j q k s) := by
  unfold popSrc
  split
  · exact .of_freed (popIq_freed _ _ _ _ _) rfl rfl rfl
  · split
    · exact setEnts_popping _ _ _ _ _
    · exact .refl _ _ _

theorem Popping.tjob {n j : Nat} {s s' : State} (h : Popping n j s s') (k : Nat) : (s'.tile n).job k = (s.tile n).job k := by
  simp only [TileS.job, h.tjobs]

theorem iqCells_popIq (n p k j : Nat) (s : State) : iqCells (popIq n p k j s) n p = (iqCells s n p).drop k := by
  have htile := (popIq_freed n p k j s).tile
  rw [updTile_tile_same] at htile
  rw [iqCells, htile]
  exact Tbl.get_set_same _ _ _ _

theorem entsOf_setEnts {n j q : Nat} {l : List Ent} {s : State} (h : (entsOf s n j q).length ≥ l.length) : entsOf (setEnts n j q l s) n j q = l := by
  have htjob := (setEnts_popping n j q l s).tjob j
  by_cases hmq : isMq q = true
  · simp [entsOf, setEnts, hmq]
  · rw [entsOf, if_neg hmq, htjob]
    rw [entsOf, if_neg hmq] at h
    cases hvq : ((s.tile n).job j).vqOf q with
    | none =>
      rw [hvq] at h
      simpa using h
    | some p => simp [setEnts, hmq, hvq]

/-- An input queue is neither a vector queue nor a matrix feed. -/
theorem iqOf_eq_none {q : Nat} (h : isVq q = true ∨ isMq q = true) (t : TJob) : t.iqOf q = none := by
  have hiq : isIq q = false := by
    simp only [isVq, isMq, isIq, Bool.and_eq_true, decide_eq_true_eq, decide_eq_false_iff_not] at h ⊢
    omega
  simp [TJob.iqOf, hiq]

theorem entsOf_popSrc {n j q k : Nat} {s : State} (h : isVq q = true ∨ isMq q = true) :
    entsOf (popSrc n j q k s) n j q = (entsOf s n j q).drop k := by
  have hpop : popSrc n j q k s = popEnts n j q k s := by simp [popSrc, iqOf_eq_none h, h]
  rw [hpop]
  exact entsOf_setEnts (by simp)

theorem srcLen_popSrc (n j q k : Nat) (s : State) : srcLen (popSrc n j q k s) n j q = srcLen s n j q - k := by
  have htjob := (popSrc_popping n j q k s).tjob j
  unfold srcLen
  rw [htjob]
  cases hiq : ((s.tile n).job j).iqOf q with
  | some p => simp [popSrc, hiq, iqCells_popIq]
  | none =>
    by_cases hq : (isVq q || isMq q) = true
    · simp [hq, entsOf_popSrc (by simpa using hq)]
    · simp [hq]

/-- The source ends of job j on tile n hold what they held. -/
def SrcKept (n j : Nat) (s s' : State) : Prop := ∀ q, srcLen s' n j q = srcLen s n j q ∧ entsOf s' n j q = entsOf s n j q

theorem SrcKept.trans {n j : Nat} {s s' s'' : State} (h : SrcKept n j s s') (h' : SrcKept n j s' s'') : SrcKept n j s s'' :=
  fun q => ⟨(h' q).1.trans (h q).1, (h' q).2.trans (h q).2⟩

/-- Ends of queues depend on the queues and on the job's names for them. -/
theorem SrcKept.of_fields {n j : Nat} {s s' : State} (hiqs : (s'.tile n).iqs = (s.tile n).iqs) (hvqs : (s'.tile n).vqs = (s.tile n).vqs)
    (hmqs : (s'.tile n).mqs = (s.tile n).mqs) (hiq : ((s'.tile n).job j).iq = ((s.tile n).job j).iq)
    (hvq : ((s'.tile n).job j).vq = ((s.tile n).job j).vq) : SrcKept n j s s' := by
  intro q
  have hents : entsOf s' n j q = entsOf s n j q := by simp only [entsOf, TJob.vqOf, hvqs, hmqs, hvq]
  refine ⟨?_, hents⟩
  simp only [srcLen, TJob.iqOf, iqCells, hents, hiqs, hiq]

theorem Quiet.src {n j : Nat} {s s' : State} (h : Quiet n j s s') : SrcKept n j s s' := by
  refine .of_fields ?_ ?_ ?_ ?_ ?_ <;> rw [h.tile] <;> rfl

theorem Quiet.tjob {n j : Nat} {s s' : State} (h : Quiet n j s s') (k : Nat) : (s'.tile n).job k = (s.tile n).job k := by
  rw [h.tile]
  rfl

theorem pulled_src (n j q : Nat) (s : State) : SrcKept n j s (pulled n j q s) := by
  refine .of_fields ?_ ?_ ?_ ?_ ?_ <;> simp [pulled] <;> rfl

/-- A source that gives an entry holds a cell or entry. -/
theorem srcLen_pos {n j k : Nat} {i : DWord} {e : Entry} {v : Ent} {l : List Ent} {s : State} (h : srcEnts s n j i e k = v :: l) :
    ¬ srcLen s n j (iSrc i) < 1 := by
  intro hshort
  have hnil : srcEnts s n j i e k = [] := by
    unfold srcEnts srcCells
    unfold srcLen at hshort
    split
    · cases hiq : ((s.tile n).job j).iqOf (iSrc i) with
      | none => rfl
      | some p =>
        rw [hiq] at hshort
        simp [List.length_eq_zero_iff.mp (Nat.lt_one_iff.mp hshort)]
    · next hq =>
      have hiq : ((s.tile n).job j).iqOf (iSrc i) = none := by simp [TJob.iqOf, hq]
      rw [hiq] at hshort
      by_cases hvm : (isVq (iSrc i) || isMq (iSrc i)) = true
      · simp only [hvm, if_true] at hshort
        simp [List.length_eq_zero_iff.mp (Nat.lt_one_iff.mp hshort)]
      · simp only [Bool.or_eq_true, not_or] at hvm
        simp [entsOf, hvm, TJob.vqOf]
  rw [hnil] at h
  cases h

/-! ### What a unit leaves that feeds the accumulators -/

/-- From s, a unit popped k of source q, and the accumulators hold what they hold in z. -/
structure Fed (n j q k : Nat) (z s s' : State) : Prop extends Framed n j s s' where
  accs : AccsAs n z s'
  popped : srcLen s' n j q = srcLen s n j q - k

/-- Work that feeds the accumulators as in z, the pop of its operand, and notes. -/
theorem Fed.of_pop {n j q k : Nat} {z y s s' : State} (hwork : Framed n j s y) (haccs : AccsAs n z y) (hsrc : SrcKept n j s y)
    (hnotes : Noted n j (popSrc n j q k y) s') : Fed n j q k z s s' where
  toFramed := (hwork.trans (popSrc_popping n j q k y).toFramed).trans (.of_quiet hnotes.toQuiet)
  accs := (haccs.trans (.of_accs (popSrc_popping n j q k y).accs)).trans hnotes.accs
  popped := by rw [(hnotes.src q).1, srcLen_popSrc, (hsrc q).1]

/-- The instruction of such a unit has left its queue. -/
theorem Fed.retired {n j q k : Nat} {i : DWord} {z s s1 s' : State} (h : Fed n j (iSrc i) k z s s1) (h' : Noted n j (pulled n j q s1) s') :
    Popped n j q i k s s' ∧ AccsAs n z s' := by
  have hlen : srcLen s' n j (iSrc i) = srcLen s n j (iSrc i) - k := by
    rw [(h'.src _).1, (pulled_src n j q s1 _).1, h.popped]
  exact ⟨⟨h.left h'.toQuiet, hlen, h.onlyRetired h'.toQuiet⟩, (h.accs.trans (.of_accs (by simp [pulled, TileS.updJob]))).trans h'.accs⟩

/-! ### The accumulator window (R77, R81, R206) -/

theorem accAt_quiet {n j : Nat} {s s' : State} (h : Quiet n j s s') (i : DWord) (b : BitVec 256) (e : Entry) :
    accAt s' n j i b e = accAt s n j i b e := by
  funext g
  unfold accAt
  rw [h.tile]
  rfl

theorem openAcc_quiet (n j coll a seg : Nat) (hat : Bool) (s : State) : Quiet n j s (openAcc n j coll a seg hat s) := .of_updAcc _ _ _ _ _

theorem opened_quiet (n j : Nat) (i : DWord) (b : BitVec 256) (e : Entry) (segs : List Nat) (s : State) : Quiet n j s (opened n j i b e segs s) :=
  .foldl _ (fun _ _ => openAcc_quiet _ _ _ _ _ _ _) _ s

theorem putElem_quiet (n j a k : Nat) (f : BitVec 96 → BitVec 96 × Bool) (first : BitVec 96) (s : State) : Quiet n j s (putElem n a k f first s) :=
  .of_updAcc _ _ _ _ _

theorem addElems_quiet (n j : Nat) (at_ : Nat → Nat) (vals : List (Nat × Int)) (s : State) : Quiet n j s (addElems n at_ vals s) :=
  .foldl _ (fun _ _ => putElem_quiet _ _ _ _ _ _ _) _ s

/-- Segments that may be entered are opened. -/
theorem enterWindow_done {n j : Nat} {i : DWord} {b : BitVec 256} {e : Entry} {segs : List Nat} {s : State} (h : Enters n j i b e segs s) :
    enterWindow n j i b e segs s = .done (opened n j i b e segs s) := by
  obtain ⟨hbad, htiles, hfull⟩ := h
  have hin : (segs.map (fun g => (g, windowTile (s.tile n) j b e (iAcc i) g))).any (fun q => q.2.isNone) = false := by
    simp only [List.any_map, List.any_eq_false, Function.comp]
    intro g hg
    obtain ⟨a, ha, -⟩ := htiles g hg
    simp [ha]
  have hready : (segs.map (fun g => (g, windowTile (s.tile n) j b e (iAcc i) g))).map (fun q => meetAcc s n j (bColl b) (q.2.getD 0) q.1) =
      segs.map (fun _ => Meet.ready) := by
    rw [List.map_map]
    refine List.map_congr_left (fun g hg => ?_)
    obtain ⟨a, ha, hmeet⟩ := htiles g hg
    simp [ha, hmeet]
  have hplaces : (segs.map (fun g => (g, windowTile (s.tile n) j b e (iAcc i) g))).map (fun q => q.2.getD 0) = segs.map (accAt s n j i b e) := by
    rw [List.map_map]
    rfl
  unfold enterWindow
  extract_lets x tiles ms
  rw [show ms = segs.map (fun _ => Meet.ready) from hready]
  simp only [x, hbad, tiles, hin, hplaces, hfull, Bool.false_eq_true, if_false]
  simp [List.foldl_map, opened, accAt]

/-! ### ADDW and QNT (R55, R57, R84) -/

/-- Integers reach the opened window, and the rest is notes. -/
theorem addToWindow_done {n j : Nat} {i : DWord} {b : BitVec 256} {e : Entry} {v : Ent} {vals : List (Nat × Int)} {s : State}
    (h : Enters n j i b e (segsOf (vals.map (·.1))) s) :
    ∃ s1, addToWindow n j i b e v vals s = .done s1 ∧
      Noted n j (addElems n (accAt s n j i b e) vals (opened n j i b e (segsOf (vals.map (·.1))) s)) s1 := by
  simp only [addToWindow, enterWindow_done h]
  refine ⟨_, rfl, ?_⟩
  rw [accAt_quiet (opened_quiet n j i b e _ s)]
  exact (noteAdd_noted _ _ _ _ _ _ _ _ _).trans (profEvent_noted _ _ _ _ _ _)

theorem summed_quiet (n j : Nat) (i : DWord) (b : BitVec 256) (e : Entry) (vals : List (Nat × Int)) (s : State) :
    Quiet n j s (addElems n (accAt s n j i b e) vals (opened n j i b e (segsOf (vals.map (·.1))) s)) :=
  (opened_quiet _ _ _ _ _ _ _).trans (addElems_quiet _ _ _ _ _)

/-- The kind of sum is noted with the entry that runs (R74). -/
theorem useSum_inst {j coll : Nat} {fast : Bool} {x : Inst} {s : State} (h : s.inst? j coll = some x) :
    ∃ x', (useSum j coll fast s).inst? j coll = some x' ∧ (if fast then x'.fast else x'.exact) = true := by
  refine ⟨_, by rw [useSum, updInst_inst_same, h, Option.map_some], ?_⟩
  cases fast <;> rfl

/-- Work that notes an exact sum, then runs on. -/
theorem exact_of_useSum {j coll : Nat} {x : Inst} {s s1 s' : State} (hx : s.inst? j coll = some x) (hrun : InstsRun j s s1)
    (hrest : InstsRun j (useSum j coll false s1) s') : ∃ x', s'.inst? j coll = some x' ∧ x'.exact = true := by
  obtain ⟨y, hy, -⟩ := hrun coll x hx
  obtain ⟨z, hz, hexact⟩ := useSum_inst (fast := false) hy
  obtain ⟨x', hx', hgrows⟩ := hrest coll z hz
  exact ⟨x', hx', hgrows.exact hexact⟩

theorem fast_of_useSum {j coll : Nat} {x : Inst} {s s1 s' : State} (hx : s.inst? j coll = some x) (hrun : InstsRun j s s1)
    (hrest : InstsRun j (useSum j coll true s1) s') : ∃ x', s'.inst? j coll = some x' ∧ x'.fast = true := by
  obtain ⟨y, hy, -⟩ := hrun coll x hx
  obtain ⟨z, hz, hfast⟩ := useSum_inst (fast := true) hy
  obtain ⟨x', hx', hgrows⟩ := hrest coll z hz
  exact ⟨x', hx', hgrows.fast hfast⟩

/-- W-form codes are no floats. -/
theorem fmtIsFloat_wFmt (w : Nat) : fmtIsFloat (wFmt w) = false := by
  unfold wFmt
  split
  · rfl
  · split <;> rfl

/-- The source of instruction i gives operand v, one that it may pop, while its binding's entry runs as x. -/
structure Operand (n j : Nat) (i : DWord) (b : BitVec 256) (e : Entry) (x : Inst) (v : Ent) (s : State) : Prop where
  binding : bindingOf s n j i = b
  entry : (s.job j).entry (bColl b) = e
  inst : s.inst? j (bColl b) = some x
  fault : srcFault s n j i (bColl b) 1 = none
  ents : srcEnts s n j i e 1 = [v]

section

variable {n j : Nat} {c : CqEnt} {b : BitVec 256} {e : Entry} {x : Inst} {v : Ent} {s : State}

/-- An ADDW of a W-form cell or entry: one unit. -/
theorem addwUnit_done (hv : Operand n j c.insn b e x v s) (hop : e.op ≠ 0xB) (hfmt : v.fmt.toNat = wFmt x.w) (hfast : x.fast = false)
    (hwin : Enters n j c.insn b e (segsOf ((v.wvalues.map (fun q => (q.1, q.2.1))).map (·.1))) s) :
    let vals := v.wvalues.map (fun q => (q.1, q.2.1))
    ∃ s1, addwUnit n j c s = .done s1 ∧
      Fed n j (iSrc c.insn) 1 (addElems n (accAt s n j c.insn b e) vals (opened n j c.insn b e (segsOf (vals.map (·.1))) s)) s s1 ∧
      ∃ x', s1.inst? j (bColl b) = some x' ∧ x'.exact = true := by
  obtain ⟨s1, hadd, hnoted⟩ := addToWindow_done (v := v) hwin
  have hquiet := (summed_quiet n j c.insn b e _ s).trans hnoted.toQuiet
  have hwmin := noteWmin_noted n j s1 (accAt s1 n j c.insn b e) v.wvalues
  have hsum := useSum_noted n j (noteWmin n j (accAt s1 n j c.insn b e) v.wvalues s1) (bColl b) false
  have hall := hquiet.trans (hwmin.trans hsum).toQuiet
  have hcharge := fun (s : State) => chargeAcc_noted n j s c (12 * v.valid) (12 * v.valid)
  refine ⟨_, ?_, .of_pop (.of_quiet hall) (hnoted.trans (hwmin.trans hsum)).accs hall.src (hcharge _), ?_⟩
  · simp only [addwUnit, instOf, hv.binding, hv.entry, srcLen_pos hv.ents, hv.fault, hv.inst, hv.ents, List.head?_cons, hop, hfmt, fmtIsFloat_wFmt,
      mixes, hfast, hadd, if_false, Bool.false_eq_true, ne_eq, not_true_eq_false]
  · exact exact_of_useSum hv.inst (hquiet.trans hwmin.toQuiet).insts ((popSrc_popping _ _ _ _ _).insts.trans (hcharge _).insts)

/-- A QNT into the accumulators of a contribution in the entry's format: one unit. -/
theorem qntUnit_done {p : Plan} {k : Nat} (hv : Operand n j c.insn b e x v s) (hpop : p.popN = 1) (hpush : p.pushN = 0)
    (hfmt : v.fmt.toNat = e.cfmt) (hfast : x.fast = false)
    (hwin : Enters n j c.insn b e (segsOf (((quantise x v.values).1.map (fun q => (q.idx, q.x))).map (·.1))) s) :
    let vals := (quantise x v.values).1.map (fun q => (q.idx, q.x))
    ∃ s1, qntUnit n j p c k s = .done s1 ∧
      Fed n j (iSrc c.insn) 1 (addElems n (accAt s n j c.insn b e) vals (opened n j c.insn b e (segsOf (vals.map (·.1))) s)) s s1 ∧
      ∃ x', s1.inst? j (bColl b) = some x' ∧ x'.exact = true := by
  obtain ⟨s1, hadd, hnoted⟩ := addToWindow_done (v := v) hwin
  have hquiet := (summed_quiet n j c.insn b e _ s).trans hnoted.toQuiet
  have hsum := useSum_noted n j s1 (bColl b) false
  have hquant := noteQuant_noted n j (useSum j (bColl b) false s1) (bColl b) (quantise x v.values).1 (quantise x v.values).2
  have hall := hquiet.trans (hsum.trans hquant).toQuiet
  refine ⟨_, ?_, .of_pop (.of_quiet hall) (hnoted.trans (hsum.trans hquant)).accs hall.src (.refl _ _ _), ?_⟩
  · simp only [qntUnit, quantInto, instOf, hv.binding, hv.entry, hpop, hpush, srcLen_pos hv.ents, hv.fault, hv.inst, hv.ents, List.any_cons,
      List.any_nil, List.headD_cons, hfmt, mixes, hfast, hadd, if_false, if_true, Bool.false_eq_true, ne_eq, not_true_eq_false, decide_false,
      Bool.or_self]
  · exact exact_of_useSum hv.inst hquiet.insts (hquant.insts.trans (popSrc_popping _ _ _ _ _).insts)

/-! ### MAXL, MINL and FASTSUM (R70, R73, R79) -/

/-- A window's tiles do not move while its elements are put. -/
theorem foldl_accAt {α : Type} {i : DWord} (f : (Nat → Nat) → State → α → State) (hf : ∀ at_ s a, Quiet n j s (f at_ s a)) (l : List α) (s : State) :
    l.foldl (fun s a => f (accAt s n j i b e) s a) s = l.foldl (f (accAt s n j i b e)) s := by
  induction l generalizing s with
  | nil => rfl
  | cons a l ih => rw [List.foldl_cons, List.foldl_cons, ih, accAt_quiet (hf _ _ _)]

/-- The state of a fold that collects something beside. -/
theorem foldl_snd {α β : Type} {f : β × State → α → β × State} {g : State → α → State} (h : ∀ q a, (f q a).2 = g q.2 a) (l : List α) (q : β × State) :
    (l.foldl f q).2 = l.foldl g q.2 := by
  induction l generalizing q with
  | nil => rfl
  | cons a l ih => rw [List.foldl_cons, List.foldl_cons, ih, h]

/-- The rank of an operand's candidates: its cell's, or that of the member on the tile's port (R70). -/
def operandRank (n j : Nat) (i : DWord) (e : Entry) (s : State) : Nat :=
  if isIq (iSrc i) then (((srcCells s n j (iSrc i) 1).head?).map (·.rank)).getD 0 else portRank s j n e

/-- A MAXL or MINL: one unit. -/
theorem locUnit_done {most : Bool} (hv : Operand n j c.insn b e x v s)
    (hfmt : v.trip = true ∨ isIq (iSrc c.insn) = false ∨ v.fmt.toNat = e.cfmt) (hfloat : fmtIsW v.fmt.toNat = false)
    (hwin : Enters n j c.insn b e (dedupNat ((candidates e (operandRank n j c.insn e s) v).1.map (·.1))) s) :
    let l := (candidates e (operandRank n j c.insn e s) v).1
    ∃ s1, locUnit most n j c s = .done s1 ∧
      Fed n j (iSrc c.insn) 1 (l.foldl (fun z q => putCand most n (accAt s n j c.insn b e q.1) q.2.1 q.2.2 z)
        (opened n j c.insn b e (dedupNat (l.map (·.1))) s)) s s1 := by
  intro l
  have hopen := opened_quiet n j c.insn b e (dedupNat (l.map (·.1))) s
  have hput (at_ : Nat → Nat) (z : State) (q : Nat × Nat × Cand) : Quiet n j z (putCand most n (at_ q.1) q.2.1 q.2.2 z) := putElem_quiet _ _ _ _ _ _ _
  have hfold := foldl_accAt (b := b) (e := e) (i := c.insn) (fun at_ z (q : Nat × Nat × Cand) => putCand most n (at_ q.1) q.2.1 q.2.2 z) hput l
    (opened n j c.insn b e (dedupNat (l.map (·.1))) s)
  rw [accAt_quiet hopen] at hfold
  have hquiet := hopen.trans (.foldl _ (hput (accAt s n j c.insn b e)) l _)
  have hnotes := fun (z : State) (ev : Ev) => ((noteAdd_noted n j z c.insn b e (dedupNat (l.map (·.1))) v.fold v.par).trans
    (countEv_noted n j _ ev)).trans (statEv_noted n j _ (bColl b) ev)
  have hgood : (!v.trip && isIq (iSrc c.insn) && decide (v.fmt.toNat ≠ e.cfmt)) = false := by
    rcases hfmt with htrip | hqueue | hformat
    · simp [htrip]
    · simp [hqueue]
    · simp [hformat]
  refine ⟨_, ?_, .of_pop (.of_quiet (hquiet.trans (hnotes _ (candidates e (operandRank n j c.insn e s) v).2).toQuiet)) (hnotes _ _).accs
    (hquiet.trans (hnotes _ _).toQuiet).src (chargeAcc_noted n j _ c (12 * l.length) (12 * l.length))⟩
  simp only [locUnit, hv.binding, hv.entry, srcLen_pos hv.ents, hv.fault, hv.ents, List.head?_cons, hgood, hfloat, if_false, Bool.false_eq_true]
  rw [← hfold]
  simp only [l, operandRank] at hwin ⊢
  rw [enterWindow_done hwin]

/-- The FP32 values of an operand by index, with the events of their decoding. -/
def fastOperands (v : Ent) : List (Nat × Nat × Ev) :=
  (List.range v.valid).map (fun k => (v.idx.toNat + k, decFp32 v.fmt.toNat (payElem v.fmt.toNat v.pay k) (v.scaleOf k)))

/-- One FP32 value enters its element. -/
def fastStep (n : Nat) (at_ : Nat → Nat) (z : State) (q : Nat × Nat × Ev) : State := (fastPut n (at_ (q.1 / 192)) (q.1 % 192) q.2.1 z).2

theorem fastStep_quiet (n j : Nat) (at_ : Nat → Nat) (z : State) (q : Nat × Nat × Ev) : Quiet n j z (fastStep n at_ z q) := putElem_quiet _ _ _ _ _ _ _

/-- The sums of an operand in its window, with the events of its decoding and of the additions (R34, R73). -/
def fastFold (n j : Nat) (i : DWord) (b : BitVec 256) (e : Entry) (l : List (Nat × Nat × Ev)) (z : State) : Ev × State :=
  l.foldl (fun q x => ((q.1.add x.2.2).add (fastPut n (accAt q.2 n j i b e (x.1 / 192)) (x.1 % 192) x.2.1 q.2).1,
    fastStep n (accAt q.2 n j i b e) q.2 x)) (Ev.zero, z)

/-- The opened window with every FP32 value of an operand put. -/
def fastSummed (n j : Nat) (i : DWord) (b : BitVec 256) (e : Entry) (v : Ent) (s : State) : State :=
  (fastOperands v).foldl (fastStep n (accAt s n j i b e)) (opened n j i b e (segsOf ((fastOperands v).map (·.1))) s)

theorem fastSummed_quiet (n j : Nat) (i : DWord) (b : BitVec 256) (e : Entry) (v : Ent) (s : State) : Quiet n j s (fastSummed n j i b e v s) :=
  (opened_quiet _ _ _ _ _ _ _).trans (.foldl _ (fastStep_quiet n j _) _ _)

/-- The kind of sum is noted before the values are put or after them: the state is the same. -/
theorem fastFold_state (i : DWord) :
    (fastFold n j i b e (fastOperands v) (useSum j (bColl b) true (opened n j i b e (segsOf ((fastOperands v).map (·.1))) s))).2 =
      useSum j (bColl b) true (fastSummed n j i b e v s) := by
  refine Eq.trans (foldl_snd (g := fun z x => fastStep n (accAt z n j i b e) z x) (by exact fun _ _ => rfl) (fastOperands v) _) ?_
  rw [foldl_accAt _ (fastStep_quiet n j), accAt_quiet (useSum_noted _ _ _ _ _).toQuiet, accAt_quiet (opened_quiet _ _ _ _ _ _ _)]
  exact List.foldl_hom (useSum j (bColl b) true) (fun _ _ => rfl)

/-- A FASTSUM: one unit. -/
theorem fastUnit_done (hv : Operand n j c.insn b e x v s) (hfmt : v.fmt = 0 ∨ v.fmt.toNat = e.cfmt) (hexact : x.exact = false)
    (hwin : Enters n j c.insn b e (segsOf ((fastOperands v).map (·.1))) s) :
    ∃ s1, fastUnit n j c s = .done s1 ∧ Fed n j (iSrc c.insn) 1 (fastSummed n j c.insn b e v s) s s1 ∧
      ∃ x', s1.inst? j (bColl b) = some x' ∧ x'.fast = true := by
  have hquiet := fastSummed_quiet n j c.insn b e v s
  have hstate := fastFold_state (n := n) (j := j) (b := b) (e := e) (v := v) (s := s) c.insn
  generalize hfold : fastFold n j c.insn b e (fastOperands v) (useSum j (bColl b) true
    (opened n j c.insn b e (segsOf ((fastOperands v).map (·.1))) s)) = r at hstate
  have hsum := useSum_noted n j (fastSummed n j c.insn b e v s) (bColl b) true
  have hnotes := ((noteAdd_noted n j (useSum j (bColl b) true (fastSummed n j c.insn b e v s)) c.insn b e
    (segsOf ((fastOperands v).map (·.1))) v.fold v.par).trans (countEv_noted n j _ r.1)).trans (statEv_noted n j _ (bColl b) r.1)
  have hall := hquiet.trans (hsum.trans hnotes).toQuiet
  have hcharge := fun (s : State) => chargeAcc_noted n j s c (12 * v.valid) (12 * v.valid)
  have hgood : (decide (v.fmt.toNat ≠ 0) && decide (v.fmt.toNat ≠ e.cfmt)) = false := by
    rcases hfmt with hzero | hformat
    · simp [hzero]
    · simp [hformat]
  refine ⟨_, ?_, .of_pop (.of_quiet hall) (hsum.trans hnotes).accs hall.src (hcharge _),
    fast_of_useSum hv.inst hquiet.insts (hnotes.insts.trans ((popSrc_popping _ _ _ _ _).insts.trans (hcharge _).insts))⟩
  simp only [fastUnit, instOf, hv.binding, hv.entry, srcLen_pos hv.ents, hv.fault, hv.inst, hv.ents, List.head?_cons, hgood, mixes, hexact, if_false,
    if_true, Bool.false_eq_true]
  rw [← fastOperands, enterWindow_done hwin, ← hstate, ← hfold]
  rfl

end

/-! ### PROJ (R186 to R188) -/

section

variable {n j : Nat} {c : CqEnt} {b : BitVec 256} {e : Entry} {x : Inst} {v : Ent} {s : State}

/-- Work that collects something beside is quiet where each step is. -/
theorem Quiet.foldlPair {α β : Type} {f : β × State → α → β × State} (hf : ∀ q a, Quiet n j q.2 (f q a).2) (l : List α) (q : β × State) :
    Quiet n j q.2 (l.foldl f q).2 := by
  induction l generalizing q with
  | nil => exact .refl _ _ _
  | cons a l ih => exact (hf q a).trans (ih _)

theorem promote_quiet (n j a k : Nat) (r : Val) (wlsb : Int) (s : State) : Quiet n j s (promote n a k r wlsb s).2 := by
  have hput := putElem_quiet n j a k (fun o => addW96 o.toInt (promoted r wlsb).1) (BitVec.ofInt 96 (promoted r wlsb).1) s
  unfold promote
  dsimp only
  split
  · exact hput.trans (.of_updAcc _ _ _ _ _)
  · exact hput

theorem projPromote_quiet (n j : Nat) (i : DWord) (b : BitVec 256) (e : Entry) (wlsb : Int) (ended : List (Nat × List Val)) (s : State) :
    Quiet n j s (projPromote n j i b e wlsb ended s).2 :=
  .foldlPair (by exact fun _ _ => .foldlPair (by exact fun _ _ => promote_quiet _ _ _ _ _ _ _) _ _) ended (Ev.zero, s)

/-- A change of the job's own fields on tile n, its queues apart. -/
theorem updTJob_framed {f : TJob → TJob} (hcqs : ∀ t, (f t).cqs = t.cqs) (s : State) : Framed n j s (s.updTile n (fun y => y.updJob j f)) where
  only := (updTile_only _ _ _).mono (by simp [engineAreas])
  jobs _ _ := rfl
  tiles _ hm := updTile_tile_other hm _ _
  others k hk := by simp [tileUpdJob_job_other hk]
  cqs := by simp [hcqs]
  waits := by simp [TileS.updJob]
  insts := .of_job rfl

theorem updTJob_src {f : TJob → TJob} (hf : ∀ t, (f t).iq = t.iq ∧ (f t).vq = t.vq) (s : State) :
    SrcKept n j s (s.updTile n (fun y => y.updJob j f)) := by
  refine .of_fields ?_ ?_ ?_ ?_ ?_ <;> simp [hf] <;> rfl

theorem updTJob_accs (f : TJob → TJob) (s : State) : AccsAs n s (s.updTile n (fun y => y.updJob j f)) := .of_accs (by simp [TileS.updJob])

/-- The runs that a cell leaves open are kept with the job (R180). -/
def keepRuns (n j bind : Nat) (rs : List Val) (s : State) : State :=
  s.updTile n (fun y => y.updJob j (fun t => { t with runs := Tbl.set [] t.runs bind (rs.map runPack) }))

/-- The pass of the segments that a projected cell ended runs of (R188). -/
def markFolds (n j : Nat) (i : DWord) (b : BitVec 256) (e : Entry) (par : Bool) (segs : List Nat) (s : State) : State :=
  segs.foldl (fun s g => s.updTile n (fun y => y.updAcc (accAt s n j i b e g) (fun z => { z with folds := 1, par := par }))) s

theorem markFolds_noted (n j : Nat) (i : DWord) (b : BitVec 256) (e : Entry) (par : Bool) (segs : List Nat) (s : State) :
    Noted n j s (markFolds n j i b e par segs s) :=
  .foldl _ (fun _ _ => .of_updAcc (by exact fun _ => ⟨rfl, rfl, rfl⟩) _) segs s

/-- The segments that ended runs of rank r reach. -/
def projSegs (r : Nat) (ended : List (Nat × List Val)) : List Nat := segsOf (ended.flatMap (fun p => [p.1, p.1 + r - 1]))

/-- A PROJ of a cell in the entry's format: one unit. -/
theorem projUnit_done (hv : Operand n j c.insn b e x v s) (hfmt : v.fmt.toNat = e.cfmt) (hrow : e.rowlen % 32 = 0) (hfast : x.fast = false)
    {r : List (Nat × List Val) × List Val} (hr : projRuns (qEntry (s.job j) e x (qshift c.insn)) e.rowlen (v.values.map (fun q => (q.1, q.2.1)))
      (openRuns ((s.tile n).job j) (iBind c.insn) (projRank c.insn)) = r)
    (hwin : Enters n j c.insn b e (projSegs (projRank c.insn) r.1) s) :
    ∃ s1, projUnit n j c s = .done s1 ∧
      Fed n j (iSrc c.insn) 1 (projPromote n j c.insn b e (x.wlsb + x.s) r.1 (opened n j c.insn b e (projSegs (projRank c.insn) r.1) s)).2 s s1 ∧
      Tbl.get [] ((s1.tile n).job j).runs (iBind c.insn) = r.2.map runPack ∧ ∃ x', s1.inst? j (bColl b) = some x' ∧ x'.exact = true := by
  generalize hopen : opened n j c.insn b e (projSegs (projRank c.insn) r.1) s = o
  generalize hprom : projPromote n j c.insn b e (x.wlsb + x.s) r.1 o = p
  have hquiet : Quiet n j s p.2 := by
    rw [← hprom, ← hopen]
    exact (opened_quiet _ _ _ _ _ _ _).trans (projPromote_quiet _ _ _ _ _ _ _ _)
  have hmarks := markFolds_noted n j c.insn b e v.par (projSegs (projRank c.insn) r.1) p.2
  have hsum := useSum_noted n j (markFolds n j c.insn b e v.par (projSegs (projRank c.insn) r.1) p.2) (bColl b) false
  have hnoted := hmarks.trans hsum
  have hruns (y : State) : Framed n j y (keepRuns n j (iBind c.insn) r.2 y) := updTJob_framed (by exact fun _ => rfl) y
  have hsrc (y : State) : SrcKept n j y (keepRuns n j (iBind c.insn) r.2 y) := updTJob_src (by exact fun _ => ⟨rfl, rfl⟩) y
  have hev (y : State) (ev : Ev) := ((profEvent_noted n j y 0x07 (r.1.length * projRank c.insn) (some j)).trans (countEv_noted n j _ ev)).trans
    (statEv_noted n j _ (bColl b) ev)
  have hcharge := fun (y : State) => chargeAcc_noted n j y c 0 (12 * r.1.length * projRank c.insn)
  have hquietSum := hquiet.trans hnoted.toQuiet
  refine ⟨_, ?_, .of_pop (((Framed.of_quiet hquietSum).trans (hruns _)).trans (.of_quiet (hev _ ((Ev.sum (v.values.map (·.2.2))).add p.1)).toQuiet))
    ((hnoted.accs.trans (updTJob_accs _ _)).trans (hev _ _).accs) ((hquietSum.src.trans (hsrc _)).trans (hev _ _).src) (hcharge _), ?_, ?_⟩
  · simp only [projUnit, instOf, hv.binding, hv.entry, srcLen_pos hv.ents, hv.fault, hv.inst, hv.ents, List.head?_cons, hfmt, hrow, mixes, hfast, hr,
      if_false, Bool.false_eq_true, ne_eq, not_true_eq_false]
    rw [← projSegs, enterWindow_done hwin, hopen]
    simp only [hprom]
    rfl
  · rw [(hcharge _).tjob, (popSrc_popping _ _ _ _ _).tjob, (hev _ _).tjob]
    simp [keepRuns]
  · exact exact_of_useSum hv.inst (hquiet.trans hmarks.toQuiet).insts
      ((((hruns _).insts.trans (hev _ _).insts).trans (popSrc_popping _ _ _ _ _).insts).trans (hcharge _).insts)

end

/-! ### RECON (R190) -/

section

variable {n j : Nat} {c : CqEnt} {b : BitVec 256} {e : Entry} {x : Inst} {s : State}

/-- A queue end that holds an entry is a vector queue or a matrix feed. -/
theorem isVq_or_isMq_of_entsOf {q : Nat} {h : Ent} {rest : List Ent} (hents : entsOf s n j q = h :: rest) : isVq q = true ∨ isMq q = true := by
  by_cases hmq : isMq q = true
  · exact .inr hmq
  · by_cases hvq : isVq q = true
    · exact .inl hvq
    · simp [entsOf, hmq, TJob.vqOf, hvq] at hents

/-- The entries at a RECON's source that are P of its binding, or VOID. -/
def reconEnts (i : DWord) (l : List Ent) : List Ent := l.takeWhile (fun v => v.void || (v.bind.toNat = iBind i && v.fmt = 1))

/-- One element of the next tile of the reconstruction. -/
def reconStep (n : Nat) (i : DWord) (e : Entry) (x : Inst) (y : Job) (vs : List Ent) (g : GTile) (z : State) (k : Nat) : Ev × State :=
  promote n (iAcc i) k (gHat (qEntry y e x (qshift i)) vs (projRank i) e.rowlen (g.first + k)) x.wlsb z

/-- The elements of the next tile, with the events of their promotion. -/
def reconFold (n : Nat) (i : DWord) (e : Entry) (x : Inst) (y : Job) (vs : List Ent) (g : GTile) (z : State) : Ev × State :=
  (List.range g.count).foldl (fun q k => (q.1.add (reconStep n i e x y vs g q.2 k).1, (reconStep n i e x y vs g q.2 k).2)) (Ev.zero, z)

theorem reconFold_quiet (n j : Nat) (i : DWord) (e : Entry) (x : Inst) (y : Job) (vs : List Ent) (g : GTile) (z : State) :
    Quiet n j z (reconFold n i e x y vs g z).2 :=
  .foldlPair (by exact fun _ _ => promote_quiet _ _ _ _ _ _ _) _ (Ev.zero, z)

/-- The next element of Ĝ that RECON forms is kept with the job. -/
def keepGhat (n j bind k : Nat) (s : State) : State := s.updTile n (fun y => y.updJob j (fun t => { t with ghat := Tbl.set 0 t.ghat bind k }))

/-- What a RECON needs at its source and its tile: the next tile of the reconstruction is g, of the entries vs. -/
structure NextTile (n j : Nat) (i : DWord) (b : BitVec 256) (e : Entry) (x : Inst) (h : Ent) (rest : List Ent) (g : GTile) (s : State) : Prop where
  binding : bindingOf s n j i = b
  entry : (s.job j).entry (bColl b) = e
  inst : s.inst? j (bColl b) = some x
  ents : entsOf s n j (iSrc i) = h :: rest
  full : h.void = false
  bind : h.bind.toNat = iBind i
  fmt : h.fmt = 1
  count : iCnt i = 1
  grant : inGrant ((s.tile n).job j) (iAcc i) 1 = true
  next : nextTile s n j i e (reconEnts i (h :: rest)) = some g
  reads : ((reconEnts i (h :: rest)).take g.reads).any (·.void) = false
  meet : meetAcc s n j (bColl b) (iAcc i) (g.first / 192) = .ready
  quota : accFull s n j [iAcc i] = false

/-- A RECON whose next tile can be formed: one unit. -/
theorem reconUnit_done {h : Ent} {rest : List Ent} {g : GTile} (hg : NextTile n j c.insn b e x h rest g s) :
    ∃ s1, reconUnit n j c 0 s = .done s1 ∧
      Fed n j (iSrc c.insn) g.used (reconFold n c.insn e x (s.job j) (reconEnts c.insn (h :: rest)) g
        (openAcc n j (bColl b) (iAcc c.insn) (g.first / 192) true s)).2 s s1 ∧
      entsOf s1 n j (iSrc c.insn) = (h :: rest).drop g.used ∧ Tbl.get 0 ((s1.tile n).job j).ghat (iBind c.insn) = g.first + g.count := by
  generalize hp : reconFold n c.insn e x (s.job j) (reconEnts c.insn (h :: rest)) g
    (openAcc n j (bColl b) (iAcc c.insn) (g.first / 192) true s) = p
  have hquiet : Quiet n j s p.2 := by
    rw [← hp]
    exact (openAcc_quiet _ _ _ _ _ _ _).trans (reconFold_quiet _ _ _ _ _ _ _ _ _)
  have hghat (y : State) : Framed n j y (keepGhat n j (iBind c.insn) (g.first + g.count) y) := updTJob_framed (by exact fun _ => rfl) y
  have hsrc (y : State) : SrcKept n j y (keepGhat n j (iBind c.insn) (g.first + g.count) y) := updTJob_src (by exact fun _ => ⟨rfl, rfl⟩) y
  have hev (y : State) (ev : Ev) := ((profEvent_noted n j y 0x07 g.count (some j)).trans (countEv_noted n j _ ev)).trans
    (statEv_noted n j _ (bColl b) ev)
  have hcharge := fun (y : State) => chargeAcc_noted n j y c 0 (12 * g.count)
  have hkept := (hquiet.src.trans (hsrc _)).trans (hev _ (p.1.add (Ev.sum (((reconEnts c.insn (h :: rest)).take g.used).flatMap
    (fun v => v.values.map (·.2.2)))))).src
  refine ⟨_, ?_, .of_pop (((Framed.of_quiet hquiet).trans (hghat _)).trans (.of_quiet (hev _ _).toQuiet))
    ((updTJob_accs _ _).trans (hev _ _).accs) hkept (hcharge _), ?_, ?_⟩
  · simp only [reconUnit, instOf, hg.binding, hg.entry, hg.inst, hg.ents, List.head?_cons, hg.full, hg.bind, hg.fmt, hg.count, hg.grant, Nat.add_zero,
      Bool.not_false, Bool.not_true, Bool.true_and, ne_eq, not_true_eq_false, decide_false, if_false, Bool.false_eq_true]
    rw [← reconEnts, hg.next]
    simp only [hg.reads, hg.meet, hg.quota, if_false, Bool.false_eq_true]
    rw [← hp]
    rfl
  · rw [((hcharge _).src _).2, entsOf_popSrc (isVq_or_isMq_of_entsOf hg.ents), (hkept _).2, hg.ents]
  · rw [(hcharge _).tjob, (popSrc_popping _ _ _ _ _).tjob, (hev _ _).tjob]
    simp [keepGhat]

end

/-! ### ORTHO (R191 to R193) -/

section

variable {n j : Nat} {c : CqEnt} {b : BitVec 256} {s : State}

theorem setAccN_quiet (n j a off k v : Nat) (s : State) : Quiet n j s (setAccN n a off k v s) := .of_updAcc _ _ _ _ _

theorem putMat_quiet (n j a : Nat) (k : Block) (m : Mat) (r q w : Nat) (s : State) : Quiet n j s (putMat n j a k m r q w s) :=
  ((setAccN_quiet _ _ _ _ _ _ _).trans (setAccN_quiet _ _ _ _ _ _ _)).trans (countEv_noted _ _ _ _).toQuiet

/-- The elements of a row reach accumulators that depend on the accumulators alone. -/
theorem putMat_accs {a : Nat} {k : Block} {m : Mat} {r q w : Nat} {s z : State} (h : (s.tile n).accs = (z.tile n).accs) :
    ((putMat n j a k m r q w s).tile n).accs = ((putMat n j a k m r q w z).tile n).accs := by
  unfold putMat
  rw [(countEv_only _ _ _ _).tile (by simp), (countEv_only _ _ _ _).tile (by simp)]
  simp [setAccN, TileS.updAcc, h]

/-- A row's elements reach their places in the band's working set. -/
def putRow (n j a : Nat) (k : Block) (ws : List Nat) (z : State) : State := ws.zipIdx.foldl (fun z w => putMat n j a k .a 0 w.2 w.1 z) z

theorem putRow_accs {a : Nat} {k : Block} {ws : List Nat} {s z : State} (h : (s.tile n).accs = (z.tile n).accs) :
    ((putRow n j a k ws s).tile n).accs = ((putRow n j a k ws z).tile n).accs := by
  unfold putRow
  generalize ws.zipIdx = l
  induction l generalizing s z with
  | nil => exact h
  | cons w l ih => exact ih (putMat_accs h)

/-- A row of products is kept for its vector step (log entry 32). -/
def keepProds (n j bind : Nat) (ws : List Nat) (s : State) : State :=
  ws.zipIdx.foldl (fun s w => s.updTile n (fun x => { x with prods := Tbl.set 0 x.prods (prodKey j bind 0 w.2) (BitVec.ofNat 32 w.1) })) s

end

section

variable {n j : Nat} {c : CqEnt} {b : BitVec 256} {s : State}

/-- Two keys of a binding's first row are the same for the same column alone. -/
theorem prodKey_ne {j bind p q : Nat} (h : p ≠ q) : prodKey j bind 0 p ≠ prodKey j bind 0 q := by
  unfold prodKey
  omega

/-- Products of a row from column k on. -/
def keepProdsFrom (n j bind k : Nat) (ws : List Nat) (s : State) : State :=
  (ws.zipIdx k).foldl (fun s w => s.updTile n (fun x => { x with prods := Tbl.set 0 x.prods (prodKey j bind 0 w.2) (BitVec.ofNat 32 w.1) })) s

theorem keepProdsFrom_before {bind k p : Nat} {ws : List Nat} (h : p < k) (s : State) :
    Tbl.get 0 ((keepProdsFrom n j bind k ws s).tile n).prods (prodKey j bind 0 p) = Tbl.get 0 (s.tile n).prods (prodKey j bind 0 p) := by
  induction ws generalizing k s with
  | nil => rfl
  | cons w ws ih =>
    refine (ih (by omega) _).trans ?_
    simp [Tbl.get_set_other _ _ _ (prodKey_ne (j := j) (bind := bind) (show p ≠ k by omega))]

/-- Each product of a row stands at its column. -/
theorem keepProdsFrom_get {bind k p : Nat} {ws : List Nat} (h : p < ws.length) (s : State) :
    Tbl.get 0 ((keepProdsFrom n j bind k ws s).tile n).prods (prodKey j bind 0 (k + p)) = BitVec.ofNat 32 (ws.getD p 0) := by
  induction ws generalizing k p s with
  | nil => simp at h
  | cons w ws ih =>
    cases p with
    | zero =>
      refine (keepProdsFrom_before (Nat.lt_succ_self k) _).trans ?_
      simp
    | succ p =>
      have hrest := ih (k := k + 1) (p := p) (by simpa using h)
        (s.updTile n (fun x => { x with prods := Tbl.set 0 x.prods (prodKey j bind 0 k) (BitVec.ofNat 32 w) }))
      rw [show k + 1 + p = k + (p + 1) by omega] at hrest
      exact hrest

/-- Products kept leave the rest of the tile. -/
structure ProdsKept (n j : Nat) (s s' : State) : Prop extends Framed n j s s' where
  accs : (s'.tile n).accs = (s.tile n).accs
  bands : (s'.tile n).bands = (s.tile n).bands

theorem keepProdsFrom_kept (n j bind k : Nat) (ws : List Nat) (s : State) : ProdsKept n j s (keepProdsFrom n j bind k ws s) := by
  induction ws generalizing k s with
  | nil => exact ⟨.of_quiet (.refl _ _ _), rfl, rfl⟩
  | cons w ws ih =>
    have hfirst (g : TileS → Tbl Word) : ProdsKept n j s (s.updTile n (fun x => { x with prods := g x })) :=
      ⟨⟨(updTile_only _ _ _).mono (by simp [engineAreas]), fun _ _ => rfl, fun _ hm => updTile_tile_other hm _ _, fun _ _ => by simp [TileS.job],
        by simp [TileS.job], by simp, .of_job rfl⟩, by simp, by simp⟩
    have hput := hfirst (fun x => Tbl.set 0 x.prods (prodKey j bind 0 k) (BitVec.ofNat 32 w))
    have hrest := ih (k + 1) (s.updTile n (fun x => { x with prods := Tbl.set 0 x.prods (prodKey j bind 0 k) (BitVec.ofNat 32 w) }))
    exact ⟨hput.toFramed.trans hrest.toFramed, hrest.accs.trans hput.accs, hrest.bands.trans hput.bands⟩

/-- A row of the product depends on the accumulators and on the band cells popped. -/
theorem orthoRow_congr {x x' : TileS} (haccs : x'.accs = x.accs) (hstreams : (x'.job j).streams = (x.job j).streams) (bind acc phase : Nat) (k : Block)
    (i : Nat) : orthoRow x' j bind acc phase k i = orthoRow x j bind acc phase k i := by
  simp only [orthoRow, matCode, accN, TileS.acc, haccs, hstreams]

theorem freeTiles_congr {x x' : TileS} (haccs : x'.accs = x.accs) (a k : Nat) : freeTiles x' a k = freeTiles x a k := by
  unfold freeTiles TileS.acc
  rw [haccs]

/-- What an ORTHO needs: no band of another tile awaited, a row to form, and its working set within the grant, free (R191, R192). -/
structure OrthoReady (n j : Nat) (i : DWord) (b : BitVec 256) (s : State) : Prop where
  binding : bindingOf s n j i = b
  alone : (blockOf b).foreign (iMod i 15 2) = 0
  rows : 0 < (blockOf b).rows
  grant : inGrant ((s.tile n).job j) (iAcc i) (blockOf b).tiles = true
  free : freeTiles (s.tile n) (iAcc i) (blockOf b).tiles = true

theorem orthoStart_framed (n j : Nat) (i : DWord) (b : BitVec 256) (s : State) : Framed n j s (orthoStart n j i b s) where
  only := (updTile_only _ _ _).mono (by simp [engineAreas])
  jobs _ _ := rfl
  tiles _ hm := updTile_tile_other hm _ _
  others k hk := by
    simp only [orthoStart, updTile_tile_same, tileUpdJob_job_other hk]
    rfl
  cqs := by
    simp only [orthoStart, updTile_tile_same, tileUpdJob_job_same]
    rfl
  waits := by
    simp only [orthoStart, updTile_tile_same]
    rfl
  insts := .of_job rfl

theorem orthoStart_accs (n j : Nat) (i : DWord) (b : BitVec 256) (s : State) : ((orthoStart n j i b s).tile n).accs = (s.tile n).accs := by
  simp only [orthoStart, updTile_tile_same]
  rfl

/-- The first unit sends the band; the next finds everything as it needs it. -/
theorem OrthoReady.started {i : DWord} (h : OrthoReady n j i b s) (q : Nat) (f : CqEnt → CqEnt) :
    OrthoReady n j i b (updHead n j q f (orthoStart n j i b s)) := by
  refine ⟨?_, h.alone, h.rows, ?_, ?_⟩
  · rw [← h.binding]
    simp only [bindingOf, TileS.binding, updHead, orthoStart, updTile_tile_same, tileUpdJob_job_same]
    rfl
  · rw [← h.grant]
    simp only [updHead, orthoStart, updTile_tile_same, tileUpdJob_job_same]
    rfl
  · rw [← h.free]
    exact freeTiles_congr (by simp [updHead, orthoStart, TileS.updJob]) _ _

theorem orthoUnit_start (h : OrthoReady n j c.insn b s) : orthoUnit n j c 0 s = .done (orthoStart n j c.insn b s) := by
  simp [orthoUnit, h.binding, h.grant, h.free]

theorem putRow_quiet (n j a : Nat) (k : Block) (ws : List Nat) (s : State) : Quiet n j s (putRow n j a k ws s) :=
  .foldl _ (fun _ _ => putMat_quiet _ _ _ _ _ _ _ _ _) _ s

/-- What a row of the product leaves: of x xᵀ its place in the working set, of the others its products (R191). -/
def keepRow (n j : Nat) (i : DWord) (b : BitVec 256) (ws : List Nat) (s : State) : State :=
  if iMod i 15 2 = 0 then putRow n j (iAcc i) (blockOf b) ws s else keepProdsFrom n j (iBind i) 0 ws s

theorem keepRow_framed (n j : Nat) (i : DWord) (b : BitVec 256) (ws : List Nat) (s : State) : Framed n j s (keepRow n j i b ws s) := by
  unfold keepRow
  split
  · exact .of_quiet (putRow_quiet _ _ _ _ _ _)
  · exact (keepProdsFrom_kept _ _ _ _ _ _).toFramed

theorem keepRow_bands (n j : Nat) (i : DWord) (b : BitVec 256) (ws : List Nat) (s : State) :
    ((keepRow n j i b ws s).tile n).bands = (s.tile n).bands := by
  unfold keepRow
  split
  · rw [(putRow_quiet n j _ _ _ _).tile]
  · exact (keepProdsFrom_kept n j _ _ _ _).bands

/-- The first row of a band's product. -/
def firstRow (n j : Nat) (i : DWord) (b : BitVec 256) (s : State) : List Nat × Ev :=
  orthoRow (s.tile n) j (iBind i) (iAcc i) (iMod i 15 2) (blockOf b) 0

/-- The unit after the first forms the first row where no band of another tile is awaited. -/
theorem orthoUnit_row (h : OrthoReady n j c.insn b s) :
    ∃ s1, orthoUnit n j c 1 s = .done s1 ∧ Noted n j (keepRow n j c.insn b (firstRow n j c.insn b s).1 s) s1 := by
  have hunit : ∃ k rd wr, orthoUnit n j c 1 s = .done (chargeAcc n j c rd wr (profEvent 0x07 n (some j) k
      (countEv n j (firstRow n j c.insn b s).2 (keepRow n j c.insn b (firstRow n j c.insn b s).1 s)))) := by
    simp only [orthoUnit, h.binding, h.grant, h.free, h.alone, Bool.not_true, Bool.false_eq_true, if_false, Nat.one_ne_zero,
      Nat.sub_self, ge_iff_le, Nat.not_le.mpr h.rows]
    by_cases hphase : iMod c.insn 15 2 = 0
    · simp only [keepRow, hphase, if_true]
      exact ⟨_, _, _, by rw [firstRow, hphase]; rfl⟩
    · simp only [keepRow, hphase, if_false]
      exact ⟨_, _, _, rfl⟩
  obtain ⟨k, rd, wr, hunit⟩ := hunit
  exact ⟨_, hunit, ((countEv_noted n j _ _).trans (profEvent_noted n j _ _ _ _)).trans (chargeAcc_noted n j _ c rd wr)⟩

end

/-! ### The commands (O54) -/

section

variable {n j q k : Nat} {i : DWord} {c : CqEnt} {b : BitVec 256} {z s s1 s' : State}

/-- A unit that noted an exact sum, once its instruction has left. -/
theorem Fed.retiredExact {coll : Nat} (h : Fed n j (iSrc i) k z s s1) (hsum : ∃ x', s1.inst? j coll = some x' ∧ x'.exact = true)
    (h' : Noted n j (pulled n j q s1) s') : Popped n j q i k s s' ∧ AccsAs n z s' ∧ ∃ x', s'.inst? j coll = some x' ∧ x'.exact = true := by
  obtain ⟨y, hy, hexact⟩ := hsum
  obtain ⟨x', hx', hgrows⟩ := Framed.instsRetired h'.toQuiet coll y hy
  exact ⟨(h.retired h').1, (h.retired h').2, x', hx', hgrows.exact hexact⟩

theorem Fed.retiredFast {coll : Nat} (h : Fed n j (iSrc i) k z s s1) (hsum : ∃ x', s1.inst? j coll = some x' ∧ x'.fast = true)
    (h' : Noted n j (pulled n j q s1) s') : Popped n j q i k s s' ∧ AccsAs n z s' ∧ ∃ x', s'.inst? j coll = some x' ∧ x'.fast = true := by
  obtain ⟨y, hy, hfast⟩ := hsum
  obtain ⟨x', hx', hgrows⟩ := Framed.instsRetired h'.toQuiet coll y hy
  exact ⟨(h.retired h').1, (h.retired h').2, x', hx', hgrows.fast hfast⟩

theorem onePlan_units (h : iCnt c.insn = 1) : (onePlan c).units = 1 := by simp [onePlan, Plan.units, h]

theorem wholePlan_units (h : iCnt c.insn = 1) : (⟨iCnt c.insn, 0, 0⟩ : Plan).units = 1 := by simp [Plan.units, h]

theorem qntPlan_one (h : iCnt c.insn = 1) (hdst : isVq (iDst c.insn) = false) (s : State) : qntPlan s n j c = ⟨1, 1, 0⟩ := by
  simp [qntPlan, hdst, h]

/-- A set-up in force lets a matrix command run (R172). -/
theorem matrixRun_inForce {t : Time} {f : State → State} (h : (s.tile n).mset = ((s.tile n).job j).mset) :
    matrixRun t n j f s = .next (f (tick t s)) := by
  simp [matrixRun, setUp, h]

section

variable {t : Time} {tile : LTile} {slot : Slot} (arr : Fin 4) (h : (s.tile tile.val).mset = ((s.tile tile.val).job slot.val).mset)

include h

theorem proj_exec : exec (.proj t tile slot arr) s = .next (runHead tile.val slot.val (2 + arr.val) (· = 0x09) (fun _ c => onePlan c)
    (fun _ => false) (fun c _ _ s => projUnit tile.val slot.val c s) (tick t s)) := matrixRun_inForce h

theorem recon_exec : exec (.recon t tile slot arr) s = .next (runHead tile.val slot.val (2 + arr.val) (· = 0x0A)
    (fun _ c => ⟨iCnt c.insn, 0, 0⟩) (fun _ => false) (fun c g _ s => reconUnit tile.val slot.val c g s) (tick t s)) := matrixRun_inForce h

theorem ortho_exec : exec (.ortho t tile slot arr) s = .next (runHead tile.val slot.val (2 + arr.val) (· = 0x0E)
    (fun s c => orthoPlan s tile.val slot.val c) (fun _ => false) (fun c g _ s => orthoUnit tile.val slot.val c g s) (tick t s)) :=
  matrixRun_inForce h

end

theorem pulled_accs (n j q : Nat) (s : State) : AccsAs n s (pulled n j q s) := .of_accs (by simp [pulled, TileS.updJob])

/-- The job's own fields outlive the head's leaving. -/
theorem retired_tjob (h' : Noted n j (pulled n j q s1) s') :
    ((s'.tile n).job j).runs = ((s1.tile n).job j).runs ∧ ((s'.tile n).job j).ghat = ((s1.tile n).job j).ghat := by
  rw [h'.tjob]
  simp [pulled]

theorem retired_ents {p : Nat} (h' : Noted n j (pulled n j q s1) s') : entsOf s' n j p = entsOf s1 n j p :=
  (h'.src p).2.trans (pulled_src n j q s1 p).2

theorem fastOperands_words (v : Ent) : (fastOperands v).map (fun q => (q.1, q.2.1)) =
    (List.range v.valid).map (fun k => (v.idx.toNat + k, (decFp32 v.fmt.toNat (payElem v.fmt.toNat v.pay k) (v.scaleOf k)).1)) := by
  rw [fastOperands, List.map_map]
  rfl

theorem reconFold_state (n : Nat) (i : DWord) (e : Entry) (x : Inst) (y : Job) (vs : List Ent) (g : GTile) (z : State) :
    (reconFold n i e x y vs g z).2 = (List.range g.count).foldl (fun z k => (reconStep n i e x y vs g z k).2) z :=
  foldl_snd (by exact fun _ _ => rfl) _ _

/-- What an ORTHO whose set-up is in force leaves. -/
theorem ortho_retired {f : CqEnt → CqEnt}
    (hrow : Noted n j (keepRow n j c.insn b (firstRow n j c.insn b (updHead n j q f (orthoStart n j c.insn b s))).1
      (updHead n j q f (orthoStart n j c.insn b s))) s1) (h' : Noted n j (pulled n j q s1) s') :
    let z := orthoStart n j c.insn b s
    let ws := (firstRow n j c.insn b z).1
    Left n j q s s' ∧ (s'.tile n).bands = (z.tile n).bands ∧ OnlyChanges engineAreas s s' ∧
      (iMod c.insn 15 2 = 0 → AccsAs n (putRow n j (iAcc c.insn) (blockOf b) ws z) s') ∧
      (iMod c.insn 15 2 ≠ 0 → AccsAs n s s' ∧ ∀ p, p < ws.length →
        Tbl.get 0 (s'.tile n).prods (prodKey j (iBind c.insn) 0 p) = BitVec.ofNat 32 (ws.getD p 0)) := by
  intro z ws
  have hsame : firstRow n j c.insn b (updHead n j q f z) = firstRow n j c.insn b z :=
    orthoRow_congr (by simp [updHead, TileS.updJob]) (by simp [updHead]) _ _ _ _ _
  rw [hsame] at hrow
  have hwork : Framed n j (updHead n j q f z) s1 := (keepRow_framed n j c.insn b ws _).trans (.of_quiet hrow.toQuiet)
  have hfirst := orthoStart_framed n j c.insn b s
  refine ⟨hfirst.left_trans (left_of_updHead (hwork.left h'.toQuiet)), ?_,
    (hfirst.only.trans ((updTile_only _ _ _).mono (by simp [engineAreas]))).trans (hwork.onlyRetired h'.toQuiet), fun hphase => ?_,
    fun hphase => ⟨?_, fun p hp => ?_⟩⟩
  · rw [h'.tile]
    have hrowBands : (s1.tile n).bands = ((updHead n j q f z).tile n).bands := by
      rw [hrow.tile]
      exact keepRow_bands n j c.insn b ws _
    simp [pulled, TileS.updJob, hrowBands, updHead]
  · have hput : AccsAs n (putRow n j (iAcc c.insn) (blockOf b) ws z) (keepRow n j c.insn b ws (updHead n j q f z)) := by
      rw [keepRow, if_pos hphase]
      exact .of_accs (putRow_accs (by simp [updHead, TileS.updJob]))
    exact ((hput.trans hrow.accs).trans (pulled_accs n j q s1)).trans h'.accs
  · have hkept : AccsAs n s (keepRow n j c.insn b ws (updHead n j q f z)) := by
      rw [keepRow, if_neg hphase]
      refine .of_accs ((keepProdsFrom_kept n j _ _ _ _).accs.trans ?_)
      rw [← orthoStart_accs n j c.insn b s]
      simp [updHead, TileS.updJob, z]
    exact ((hkept.trans hrow.accs).trans (pulled_accs n j q s1)).trans h'.accs
  · have hprods := keepProdsFrom_get (n := n) (j := j) (bind := iBind c.insn) (k := 0) hp (updHead n j q f z)
    rw [Nat.zero_add] at hprods
    rw [← hprods, h'.tile]
    have hrowProds : (s1.tile n).prods = ((keepProdsFrom n j (iBind c.insn) 0 ws (updHead n j q f z)).tile n).prods := by
      rw [hrow.tile, keepRow, if_neg hphase]
    simp [pulled, TileS.updJob, hrowProds]

end

/-- Settles O54: the elements by what a put leaves, each instruction by its one unit (two of an ORTHO) at the head of its queue. -/
theorem accumulatorsTakeOperands : Obligations.AccumulatorsTakeOperands := by
  refine ⟨⟨fun _ _ => addW96_exact, fun _ _ => addW96_saturates, fun _ _ _ _ _ _ => putElem_result, fun _ _ _ _ _ _ _ => putCand_elem _ _ _ _ _ _,
    openAcc_acc, fun _ _ _ _ hnodup _ hq => addElems_elem hnodup hq⟩, ?_, ?_⟩
  · intro t tile slot c x v s s0 n j i b coll e at_ hidle hat hcnt hx hfault hents
    have hv : Operand n j i b e x v s0 := ⟨rfl, rfl, hx, hfault, hents⟩
    refine ⟨fun hopc hop hfmt hfast hwin => ?_, fun hopc hdst hfmt hfast hwin => ?_,
      fun hfmt hfloat hwin => ⟨fun hopc => ?_, fun hopc => ?_⟩, fun hopc hfmt hexact hwin => ?_⟩
    · obtain ⟨s1, hunit, hfed, hsum⟩ := addwUnit_done hv hop hfmt hfast hwin
      exact runs_one rfl hat hopc hidle (onePlan_units hcnt) hunit hfed.toFramed (fun _ => hfed.retiredExact hsum)
    · have hplan := qntPlan_one (n := n) (j := j) hcnt hdst s0
      obtain ⟨s1, hunit, hfed, hsum⟩ := qntUnit_done (p := qntPlan s0 n j c) (k := 0) hv (by rw [hplan]) (by rw [hplan]) hfmt hfast hwin
      exact runs_one (unit := fun c _ k s => qntUnit n j (qntPlan s n j c) c k s) rfl hat hopc hidle (by rw [hplan]; rfl) hunit hfed.toFramed
        (fun _ => hfed.retiredExact hsum)
    · obtain ⟨s1, hunit, hfed⟩ := locUnit_done (most := true) hv hfmt hfloat hwin
      exact runs_one rfl hat hopc hidle (onePlan_units hcnt) hunit hfed.toFramed (fun _ => hfed.retired)
    · obtain ⟨s1, hunit, hfed⟩ := locUnit_done (most := false) hv hfmt hfloat hwin
      exact runs_one rfl hat hopc hidle (onePlan_units hcnt) hunit hfed.toFramed (fun _ => hfed.retired)
    · rw [← fastOperands_words, List.map_map] at hwin
      obtain ⟨s1, hunit, hfed, hsum⟩ := fastUnit_done hv hfmt hexact hwin
      rw [← fastOperands_words, List.foldl_map, List.map_map]
      exact runs_one rfl hat hopc hidle (onePlan_units hcnt) hunit hfed.toFramed (fun _ => hfed.retiredFast hsum)
  · intro t tile slot arr c x s s0 n j m i b coll e hidle hat hcnt hx hmset q
    refine ⟨fun v hopc hfault hents hfmt hrow hfast hwin => ?_, fun h rest g hopc hents hvoid hbind hfmt hgrant hnext hreads hmeet hfull => ?_,
      fun hopc halone hrows hgrant hfree => ?_⟩
    · have hv : Operand n j i b e x v s0 := ⟨rfl, rfl, hx, hfault, hents⟩
      obtain ⟨s1, hunit, hfed, hruns, hsum⟩ := projUnit_done hv hfmt hrow hfast rfl hwin
      refine runs_one (proj_exec arr hmset) hat hopc hidle (onePlan_units hcnt) hunit hfed.toFramed (fun s' h' => ?_)
      obtain ⟨hpopped, haccs, hexact⟩ := hfed.retiredExact hsum h'
      exact ⟨hpopped, haccs, (congrArg (fun l => Tbl.get [] l (iBind i)) (retired_tjob h').1).trans hruns, hexact⟩
    · have hg : NextTile n j i b e x h rest g s0 := ⟨rfl, rfl, hx, hents, hvoid, hbind, hfmt, hcnt, hgrant, hnext, hreads, hmeet, hfull⟩
      obtain ⟨s1, hunit, hfed, hleft, hghat⟩ := reconUnit_done hg
      refine runs_one (unit := fun c g _ s => reconUnit n j c g s) (recon_exec arr hmset) hat hopc hidle (wholePlan_units hcnt) hunit
        hfed.toFramed (fun s' h' => ?_)
      obtain ⟨⟨hhead, -, honly⟩, haccs⟩ := hfed.retired h'
      refine ⟨hhead, (retired_ents h').trans hleft, ?_, (congrArg (fun l => Tbl.get 0 l (iBind i)) (retired_tjob h').2).trans hghat, honly⟩
      rwa [reconFold_state] at haccs
    · have hready : OrthoReady n j i b s0 := ⟨rfl, halone, hrows, hgrant, hfree⟩
      obtain ⟨s2, hunit, hrow⟩ := orthoUnit_row (c := countUnit c) (hready.started m countUnit)
      have hplan : orthoPlan s0 n j c = ⟨2, 1, 0⟩ := by
        rw [orthoPlan, show (blockOf (bindingOf s0 n j c.insn)).foreign (iMod c.insn 15 2) = 0 from halone, show iCnt c.insn = 1 from hcnt]
      refine runs_two (unit := fun c g _ s => orthoUnit n j c g s) (ortho_exec arr hmset) hat hopc hidle (by rw [hplan]; rfl) (by rw [hplan])
        (orthoUnit_start hready) (orthoStart_framed n j i b s0) hunit ((keepRow_framed _ _ _ _ _ _).trans (.of_quiet hrow.toQuiet)) (fun s' h' => ?_)
      obtain ⟨hleft, hbands, honly, hsquare, hproducts⟩ := ortho_retired hrow h'
      exact ⟨hleft, hbands, hsquare, hproducts, honly⟩

end Sys2Proof.Safety
end

section
/-! PROOF. COLL_DEFINE (O18): an entry's definition, written once its checks pass. -/

namespace Sys2Proof.Safety

open Sys2Proof.Machine

/-! ### The entries of a job -/

@[simp] theorem updEntry_entry_same (k : Nat) (f : Entry → Entry) (x : Job) : (x.updEntry k f).entry k = f (x.entry k) := Tbl.get_upd_same _ _ _ _

theorem updEntry_entry_other {k q : Nat} (h : q ≠ k) (f : Entry → Entry) (x : Job) : (x.updEntry k f).entry q = x.entry q :=
  Tbl.get_upd_other _ _ _ h

@[simp] theorem touch_entry (a : Area) (off n k : Nat) (x : Job) : (x.touch a off n).entry k = x.entry k := by
  rw [touch_eq]
  rfl

/-! ### COLL_DEFINE (R103, R105) -/

/-- A definition always clears the counters of its entry (R103). -/
theorem define_counters (new : BitVec 1024) (e : Entry) : (e.define new).stale = 0 ∧ (e.define new).latec = 0 ∧ (e.define new).order = 0 := by
  unfold Entry.define
  extract_lets e
  split <;> exact ⟨rfl, rfl, rfl⟩

/-- Without a running instance a definition is in force at once (R105). -/
theorem define_idle {new : BitVec 1024} {e : Entry} (h : e.status.toNat ≠ stRunning) : (e.define new).cfg = new ∧ (e.define new).status = 0 := by
  simp [Entry.define, h]

/-- Under a running instance a definition waits for the next one (R105). -/
theorem define_running {new : BitVec 1024} {e : Entry} (h : e.status.toNat = stRunning) :
    (e.define new).cfg = e.cfg ∧ (e.define new).next = some new := by
  simp [Entry.define, h]

theorem runs_collDefine {t : Time} {h : HostCmd} {x : Exec} {s : State} (hg : Given 0x05 h x s) {P : State → Prop}
    (hp : P (collDefine x h.data (at_ t h s))) : Runs (.collDefine t h) s P :=
  ⟨_, congrArg Host.Outcome.next (hostCmd_given hg), hp⟩

/-- A definition with a code is refused with it. -/
theorem collDefine_refused {x : Exec} {data : List Byte} {slot code : Nat} {s : State} (hslot : slotOf (descJob x.desc) s = some slot)
    (hst : (s.job slot).st ≠ .stopping) (hcode : defineCode s slot (BitVec.ofNat 1024 (leNat (data.take 128))) = some code) :
    collDefine x data s = refuse x code s := by
  simp [collDefine, hslot, hst, hcode]

/-- The entry's definition in a job's slot, with the dirty bits of its image. -/
def defineIn (slot : Nat) (raw : BitVec 1024) (s : State) : State :=
  let id := (Entry.ofCfg raw).id
  s.updJob slot (fun y => (y.updEntry id (Entry.define (entryCfg raw))).touch .entries
    (128 * ((s.job slot).ids.findIdx? (fun c => c.toNat = id)).getD 0) 128)

theorem collDefine_defined {x : Exec} {data : List Byte} {slot : Nat} {raw : BitVec 1024} {s : State}
    (hraw : raw = BitVec.ofNat 1024 (leNat (data.take 128))) (hslot : slotOf (descJob x.desc) s = some slot)
    (hst : (s.job slot).st ≠ .stopping) (hcode : defineCode s slot raw = none) :
    let m := defineIn slot raw s
    let e := (m.job slot).entry (Entry.ofCfg raw).id
    collDefine x data s = finish x stDone 0 (leBytes 2 (Entry.ofCfg raw).id ++ leBytes 1 (e.epoch.toNat * 16 + e.status.toNat)) true m := by
  subst hraw
  simp only [collDefine, hslot, hst, hcode, if_false]
  rfl

theorem defineIn_entry_same (slot : Nat) (raw : BitVec 1024) (s : State) :
    ((defineIn slot raw s).job slot).entry (Entry.ofCfg raw).id = ((s.job slot).entry (Entry.ofCfg raw).id).define (entryCfg raw) := by
  simp [defineIn]

theorem defineIn_entry_other {slot c : Nat} {raw : BitVec 1024} (hc : c ≠ (Entry.ofCfg raw).id) (s : State) :
    ((defineIn slot raw s).job slot).entry c = (s.job slot).entry c := by
  simp [defineIn, updEntry_entry_other hc]

/-- A finished command leaves every job as it was. -/
theorem finish_job (x : Exec) (st code : Nat) (res : List Byte) (ok : Bool) (s : State) (j : Nat) : (finish x st code res ok s).job j = s.job j :=
  (finish_only x st code res ok s).job (by simp [ringAreas]) j

/-- Settles O18: the checks refuse (collDefine_refused), or the entry takes its definition (defineIn) and the command completes. -/
theorem collDefineWrites : Obligations.CollDefineWrites := by
  intro t h x slot s hg hslot hst s0 raw id
  have hslot0 : slotOf (descJob x.desc) s0 = some slot := hslot
  refine ⟨fun code hcode => runs_collDefine hg (collDefine_refused hslot0 hst hcode), fun hcode => runs_collDefine hg ?_⟩
  have hs' := collDefine_defined (raw := raw) rfl hslot0 hst hcode
  have hentry : ((defineIn slot raw s0).job slot).entry id = ((s.job slot).entry id).define (entryCfg raw) := defineIn_entry_same slot raw s0
  obtain ⟨hstale, hlate, horder⟩ := define_counters (entryCfg raw) ((s.job slot).entry id)
  refine ⟨hs', ?_⟩
  rw [hs']
  simp only [finish_job, hentry]
  exact ⟨define_idle, define_running, hstale, hlate, horder, fun c hc => defineIn_entry_other hc s0, fun i hi => updJob_job_other hi _ s0,
    ((updJob_only _ _ _).mono (by simp)).trans ((finish_only _ _ _ _ _ _).mono (by simp [ringAreas]))⟩

end Sys2Proof.Safety
end

section
/-! PROOF. Cells at a tile (05; 08 R205): what taking a cell, judging it, faulting it and queueing it change, each said once. -/

namespace Sys2Proof.Safety

open Sys2Proof.Machine

/-! ### One entry changes -/

/-- Entry k of job slot j changed by f. -/
def onEntry (j k : Nat) (f : Entry → Entry) (s : State) : State := s.updJob j (fun x => x.updEntry k f)

@[simp] theorem onEntry_entry (j k : Nat) (f : Entry → Entry) (s : State) : ((onEntry j k f s).job j).entry k = f ((s.job j).entry k) := by
  simp [onEntry]

@[simp] theorem onEntry_onEntry (j k : Nat) (f g : Entry → Entry) (s : State) :
    onEntry j k g (onEntry j k f s) = onEntry j k (fun e => g (f e)) s := by
  simp [onEntry, Job.updEntry]

theorem onEntry_congr {j k : Nat} {f g : Entry → Entry} {s : State} (h : f ((s.job j).entry k) = g ((s.job j).entry k)) :
    onEntry j k f s = onEntry j k g s := by
  refine updJob_congr ?_
  simp only [Job.updEntry, Tbl.upd_congr _ _ _ h]

theorem onEntry_only (j k : Nat) (f : Entry → Entry) (s : State) : OnlyChanges [.jobs] s (onEntry j k f s) := updJob_only _ _ _

theorem onEntry_onlyEntry (j k : Nat) (f : Entry → Entry) (s : State) : OnlyEntry j k s (onEntry j k f s) := (updEntry_frame j k f s).2.1

theorem OnlyEntry.trans {j k : Nat} {s s' s'' : State} (h : OnlyEntry j k s s') (h' : OnlyEntry j k s' s'') : OnlyEntry j k s s'' :=
  ⟨fun q hq => (h'.1 q hq).trans (h.1 q hq), fun q hq => (h'.2 q hq).trans (h.2 q hq)⟩

theorem OnlyEntry.of_job {j k : Nat} {s s' : State} (h : ∀ q, s'.job q = s.job q) : OnlyEntry j k s s' :=
  ⟨fun _ _ => by rw [h], fun q _ => h q⟩

/-- The running instance of an entry (Table CO-5). -/
def runningInst (e : Entry) : Option Inst := if e.status.toNat = stRunning then e.inst else none

theorem inst?_eq (s : State) (j k : Nat) : s.inst? j k = runningInst ((s.job j).entry k) := rfl

/-- An entry with its instance changed by f. -/
def onInst (f : Inst → Inst) (e : Entry) : Entry := { e with inst := e.inst.map f }

theorem updInst_eq (j k : Nat) (f : Inst → Inst) (s : State) : s.updInst j k f = onEntry j k (onInst f) s := rfl

theorem runningInst_onInst (f : Inst → Inst) (e : Entry) : runningInst (onInst f e) = (runningInst e).map f := by
  by_cases hrun : e.status.toNat = stRunning <;> simp [runningInst, onInst, hrun]

/-! ### A cause of a status (R120, R214) -/

/-- A cause of status st with a code, found on a tile, at an instance. -/
def causeOn (tile st code : Nat) (i : Inst) : Inst :=
  (i.raise st code).updPart tile
    (fun p => if p.status.toNat < st then { p with status := BitVec.ofNat 4 st, reason := BitVec.ofNat 16 code } else p)

theorem tileCause_eq (j k tile st code : Nat) (s : State) : tileCause j k tile st code s = onEntry j k (onInst (causeOn tile st code)) s := by
  show onEntry j k _ (onEntry j k _ s) = _
  rw [onEntry_onEntry]
  simp only [Option.map_map]
  rfl

theorem raise_worst {st : Nat} (hst : st < 16) (code : Nat) (i : Inst) : st ≤ (i.raise st code).worst.toNat := by
  unfold Inst.raise
  split
  · simp [Nat.mod_eq_of_lt hst]
  · omega

/-- A cause raises the instance's status and its tile's, and leaves its members. -/
theorem causeOn_result {st : Nat} (hst : st < 16) (tile code : Nat) (i : Inst) :
    (causeOn tile st code i).members = i.members ∧ st ≤ ((causeOn tile st code i).part tile).status.toNat ∧
      st ≤ (causeOn tile st code i).worst.toNat := by
  have hraise : (i.raise st code).members = i.members := by
    unfold Inst.raise
    split <;> rfl
  refine ⟨hraise, ?_, raise_worst hst code i⟩
  simp only [causeOn, Inst.updPart, Inst.part, Tbl.get_upd_same]
  split
  · simp [Nat.mod_eq_of_lt hst]
  · omega

/-- What an order fault does to the entry (R110). -/
def orderFaulted (port : Nat) (e : Entry) : Entry := onInst (causeOn port stIncomplete 0x060F) { e with order := satInc e.order }

theorem orderFault_eq (port slot : Nat) (c : Cell) (s : State) : orderFault port slot c s = onEntry slot c.coll (orderFaulted port) s := by
  rw [orderFault, tileCause_eq]
  exact onEntry_onEntry _ _ _ _ _

/-- The progress of the member of one port, at its instance. -/
def advance (port : Nat) (f : Member → Member) (i : Inst) : Inst := { i with members := i.members.map (fun m => if m.port = port then f m else m) }

theorem updMember_eq (slot coll port : Nat) (f : Member → Member) (s : State) :
    updMember slot coll port f s = onEntry slot coll (onInst (advance port f)) s := rfl

/-! ### A cell is judged (R117, R122) -/

theorem fateOf_congr {s s' : State} (h : s'.time = s.time) (e : Entry) (c : Cell) : fateOf s' e c = fateOf s e c := by
  unfold fateOf
  rw [h]

/-- A live cell is one of the fired epoch of an entry that runs. -/
theorem live_running {s : State} {e : Entry} {c : Cell} (h : fateOf s e c = .live) :
    e.fired = true ∧ c.epoch = e.epoch.toNat ∧ e.status.toNat = stRunning := by
  unfold fateOf at h
  split at h
  · cases h
  · next hstale =>
    split at h
    · cases h
    · next hrun => simp_all

theorem judge_stale {slot : Nat} {c : Cell} {s : State} (h : fateOf s ((s.job slot).entry c.coll) c = .stale) :
    judge slot c s = (false, onEntry slot c.coll (fun e => { e.seen s.time c with stale := satInc e.stale }) s) := by
  simp [judge, h, onEntry, VerdictCell.seen_stale]

theorem seen_latec (now : Time) (c : Cell) (e : Entry) : (e.seen now c).latec = e.latec := by
  unfold Entry.seen
  split <;> rfl

theorem judge_late {slot : Nat} {c : Cell} {s : State} (h : fateOf s ((s.job slot).entry c.coll) c = .late) :
    judge slot c s = (false, onEntry slot c.coll (fun e => { e.seen s.time c with latec := satInc e.latec }) s) := by
  simp [judge, h, onEntry, seen_latec]

/-- A live cell has been seen by its entry (R117). -/
def seenAt (now : Time) (e : Entry) : Entry := { e with lastSeen := now }

theorem judge_live {slot : Nat} {c : Cell} {s : State} (h : fateOf s ((s.job slot).entry c.coll) c = .live) :
    judge slot c s = (true, onEntry slot c.coll (seenAt s.time) s) := by
  obtain ⟨hfired, hepoch, -⟩ := live_running h
  have hseen : onEntry slot c.coll (Entry.seen s.time c) s = onEntry slot c.coll (seenAt s.time) s :=
    onEntry_congr (VerdictCell.seen_own hfired hepoch)
  rw [← hseen]
  simp [judge, h, onEntry]

/-! ### What a cell on its way leaves of a tile's queues -/

/-- From s to s' tile n keeps the queues, buffers and bindings of a job slot, with the job's grants, and no other tile changes. -/
structure Steady (n slot : Nat) (s s' : State) : Prop where
  grants : (s'.job slot).grants = (s.job slot).grants
  iq : ((s'.tile n).job slot).iq = ((s.tile n).job slot).iq
  nbind : ((s'.tile n).job slot).nbind = ((s.tile n).job slot).nbind
  bslots : ((s'.tile n).job slot).bslots = ((s.tile n).job slot).bslots
  bind : (s'.tile n).bind = (s.tile n).bind
  iqs : (s'.tile n).iqs = (s.tile n).iqs
  bufs : (s'.tile n).bufs = (s.tile n).bufs
  freeList : (s'.tile n).freeList = (s.tile n).freeList
  others : ∀ m, m ≠ n → s'.tile m = s.tile m

namespace Steady

variable {n slot : Nat} {s s' s'' : State}

theorem trans (h : Steady n slot s s') (h' : Steady n slot s' s'') : Steady n slot s s'' where
  grants := h'.grants.trans h.grants
  iq := h'.iq.trans h.iq
  nbind := h'.nbind.trans h.nbind
  bslots := h'.bslots.trans h.bslots
  bind := h'.bind.trans h.bind
  iqs := h'.iqs.trans h.iqs
  bufs := h'.bufs.trans h.bufs
  freeList := h'.freeList.trans h.freeList
  others m hm := (h'.others m hm).trans (h.others m hm)

/-- Where the tiles stand, the job's grants are all that can differ. -/
theorem of_tiles (htile : ∀ m, s'.tile m = s.tile m) (hgrants : (s'.job slot).grants = (s.job slot).grants) : Steady n slot s s' := by
  constructor <;> simp only [htile, hgrants, implies_true]

theorem iqCells (h : Steady n slot s s') (q : Nat) : Machine.iqCells s' n q = Machine.iqCells s n q := by
  simp only [Machine.iqCells, h.iqs]

theorem bindingFor (h : Steady n slot s s') (coll role : Nat) : Machine.bindingFor s' n slot coll role = Machine.bindingFor s n slot coll role := by
  simp only [Machine.bindingFor, TileS.bindings, TileS.binding, h.nbind, h.bslots, h.bind]

theorem free (h : Steady n slot s s') : (s'.tile n).free = (s.tile n).free := by simp only [TileS.free, h.freeList]

theorem room {b : BitVec 256} {p k : Nat} {rest : List Nat} (h : Steady n slot s s') (hroom : Room n slot b p k rest s) :
    Room n slot b p k rest s' := by
  obtain ⟨hiq, hlen, hcells, hfree⟩ := hroom
  refine ⟨by rw [h.iq, hiq], by rwa [h.iqCells], ?_, by rw [h.free, hfree]⟩
  simpa only [cellsHeld, Job.grant, h.bufs, h.grants] using hcells

theorem queued {p k : Nat} {rest : List Nat} {c : Cell} (h : Steady n slot s s') (hq : Queued n p k rest c s' s'') : Queued n p k rest c s s'' := by
  obtain ⟨hin, hother, hfree, htiles⟩ := hq
  exact ⟨by rw [hin, h.iqCells], fun q hq => by rw [hother q hq, h.iqCells], hfree, fun m hm => (htiles m hm).trans (h.others m hm)⟩

end Steady

/-- A cell on its way: the tile is steady, and of the jobs only the entry of its collective changes. -/
structure CellStep (n slot coll : Nat) (s s' : State) : Prop where
  steady : Steady n slot s s'
  entries : OnlyEntry slot coll s s'
  only : OnlyChanges [.ports, .jobs, .tiles] s s'

theorem CellStep.trans {n slot coll : Nat} {s s' s'' : State} (h : CellStep n slot coll s s') (h' : CellStep n slot coll s' s'') :
    CellStep n slot coll s s'' :=
  ⟨h.steady.trans h'.steady, h.entries.trans h'.entries, h.only.trans h'.only⟩

theorem onEntry_step (n slot coll : Nat) (f : Entry → Entry) (s : State) : CellStep n slot coll s (onEntry slot coll f s) :=
  ⟨.of_tiles (fun _ => rfl) (by simp [onEntry, Job.updEntry]), onEntry_onlyEntry _ _ _ _, (onEntry_only _ _ _ _).mono (by simp)⟩

/-! ### A cell is taken from a port -/

/-- A cell has been taken from a port: the ports alone change, and not their kinds. -/
structure CellTaken (s s1 : State) : Prop where
  only : OnlyChanges [.ports] s s1
  kinds : ∀ m, (s1.port m).kind = (s.port m).kind

theorem takeRx_taken {n : Nat} {c : Cell} {s s1 : State} (h : takeRx n c s = some s1) : CellTaken s s1 := by
  refine ⟨takeRx_only h, fun m => ?_⟩
  unfold takeRx at h
  split at h
  · cases h
    by_cases hm : m = n
    · subst hm
      simp
    · rw [updPort_port_other hm]
  · cases h

namespace CellTaken

variable {slot : Nat} {s s1 : State}

theorem job (h : CellTaken s s1) (q : Nat) : s1.job q = s.job q := h.only.job (by simp) q

theorem tile (h : CellTaken s s1) (m : Nat) : s1.tile m = s.tile m := h.only.tile (by simp) m

theorem time (h : CellTaken s s1) : s1.time = s.time := h.only.1

theorem dev (h : CellTaken s s1) : s1.dev = s.dev := h.only.2.2 .dev (by simp)

theorem slotOf (h : CellTaken s s1) (tag : Nat) : Machine.slotOf tag s1 = Machine.slotOf tag s := by
  simp only [Machine.slotOf, h.job]

theorem tileDown (h : CellTaken s s1) (m : Nat) : Machine.tileDown s1 m = Machine.tileDown s m := by
  simp only [Machine.tileDown, h.dev]

theorem memberAt (h : CellTaken s s1) : Machine.memberAt s1 = Machine.memberAt s := by
  funext x e p
  simp only [Machine.memberAt, localMembers, h.dev]

theorem foreignPort (h : CellTaken s s1) (j m : Nat) : Machine.foreignPort s1 j m = Machine.foreignPort s j m := by
  simp only [Machine.foreignPort, inLists, h.memberAt, h.job, h.kinds]

theorem sourceOf (h : CellTaken s s1) (j m : Nat) (c : Cell) : Machine.sourceOf s1 j m c = Machine.sourceOf s j m c := by
  simp only [Machine.sourceOf, h.memberAt, h.job, h.kinds]

/-- A live cell goes on, seen by its entry. -/
theorem judged (h : CellTaken s s1) {c : Cell} (hlive : fateOf s ((s.job slot).entry c.coll) c = .live) :
    judge slot c s1 = (true, onEntry slot c.coll (seenAt s.time) s1) := by
  rw [judge_live (by rwa [fateOf_congr h.time, h.job]), h.time]

theorem entry (h : CellTaken s s1) (coll : Nat) (f : Entry → Entry) :
    ((onEntry slot coll f s1).job slot).entry coll = f ((s.job slot).entry coll) := by rw [onEntry_entry, h.job]

theorem inst (h : CellTaken s s1) (coll : Nat) (f : Entry → Entry) :
    (onEntry slot coll f s1).inst? slot coll = runningInst (f ((s.job slot).entry coll)) := by rw [inst?_eq, h.entry]

/-- The way of a cell that is taken, then changes its entry. -/
theorem changed (h : CellTaken s s1) (n slot coll : Nat) (f : Entry → Entry) : CellStep n slot coll s (onEntry slot coll f s1) :=
  .trans ⟨.of_tiles h.tile (by rw [h.job]), .of_job h.job, h.only.mono (by simp)⟩ (onEntry_step _ _ _ _ _)

/-- A cell that is taken and only changes its entry. -/
theorem entryOnly (h : CellTaken s s1) (coll : Nat) (f : Entry → Entry) :
    let s' := onEntry slot coll f s1
    (s'.job slot).entry coll = f ((s.job slot).entry coll) ∧ s'.inst? slot coll = runningInst (f ((s.job slot).entry coll)) ∧
      OnlyEntry slot coll s s' ∧ OnlyChanges [.ports, .jobs] s s' :=
  ⟨h.entry coll f, h.inst coll f, (h.changed 0 slot coll f).entries, (h.only.mono (by simp)).trans ((onEntry_only _ _ _ _).mono (by simp))⟩

end CellTaken

/-! ### A cell enters its queue (R205, R243, R281) -/

/-- With room, a cell enters the queue of its binding. -/
theorem toIq_queued {n slot p k : Nat} {b : BitVec 256} {rest : List Nat} {s : State} (c : Cell) (h : Room n slot b p k rest s) :
    Queued n p k rest c s (toIq n slot b c s) ∧ OnlyChanges [.tiles, .obs] s (toIq n slot b c s) := by
  obtain ⟨hiq, hlen, hcells, hfree⟩ := h
  have hroom : ¬ cellsHeld s slot n ≥ (((s.job slot).grant n).map (·.cells)).getD 0 := by omega
  have hshort : ¬ (iqCells s n p).length ≥ 1024 := by omega
  simp only [toIq, hiq, hshort, allocSched, hroom, allocBuf, hfree, if_false]
  refine ⟨⟨?_, fun q hq => ?_, ?_, fun m hm => ?_⟩, ?_⟩
  · simp [iqCells]
  · simp [iqCells, Tbl.get_upd_other _ _ _ hq]
  · simp [TileS.free]
  · simp [updTile_tile_other hm]
  · exact ((((updTile_only _ _ _).mono (by simp)).trans ((bumpMax_only _ _ _).mono (by simp))).trans ((updTile_only _ _ _).mono (by simp))).trans
      (((bump_only _ _ _).mono (by simp)).trans ((bumpMax_only _ _ _).mono (by simp)))

/-- After its way a cell enters the queue that had room for it before. -/
theorem CellStep.queued {n slot coll p k : Nat} {b : BitVec 256} {rest : List Nat} {s z : State} (h : CellStep n slot coll s z) (c : Cell)
    (hroom : Room n slot b p k rest s) :
    let s' := toIq n slot b c z
    Queued n p k rest c s s' ∧ (∀ q, s'.job q = z.job q) ∧ OnlyEntry slot coll s s' ∧ OnlyChanges [.ports, .jobs, .tiles, .obs] s s' := by
  obtain ⟨hqueued, honly⟩ := toIq_queued c (h.steady.room hroom)
  have hjob := honly.job (by simp)
  exact ⟨h.steady.queued hqueued, hjob, h.entries.trans (.of_job hjob), (h.only.mono (by simp)).trans (honly.mono (by simp))⟩

end Sys2Proof.Safety
end

section
/-! PROOF. Contribution cells (O48): unbound, foreign, stale, late, out of order, queued. -/

namespace Sys2Proof.Safety

open Sys2Proof.Machine

/-! ### A member's cell (R110) -/

theorem digestMore_eq (contrib : Bool) (k : Nat) (bs : List Byte) (x : Job) :
    x.digestMore contrib k bs = { x with
      replay := (x.digestMore contrib k bs).replay, manifest := (x.digestMore contrib k bs).manifest, dirty := (x.digestMore contrib k bs).dirty } := by
  unfold Job.digestMore
  split
  · rfl
  · dsimp only
    rw [touch_eq]

/-- A contribution's digest goes to the manifest, or waits at the tile: queues and entries stand (R168). -/
theorem digestContribution_step (slot n coll : Nat) (m : Member) (c : Cell) (s : State) :
    CellStep n slot coll s (digestContribution slot n m c s) ∧ ((digestContribution slot n m c s).job slot).entry coll = (s.job slot).entry coll := by
  have hrefl : CellStep n slot coll s s := ⟨.of_tiles (fun _ => rfl) rfl, .of_job (fun _ => rfl), .refl _ _⟩
  unfold digestContribution
  dsimp only
  split
  · split
    · refine ⟨⟨⟨rfl, ?_, ?_, ?_, ?_, ?_, ?_, ?_, fun q hq => updTile_tile_other hq _ _⟩, .of_job (fun _ => rfl), (updTile_only _ _ _).mono (by simp)⟩, rfl⟩ <;>
        simp [TileS.updJob, TileS.job]
    · rename_i pos k _ _ _
      refine ⟨⟨.of_tiles (fun _ => rfl) ?_, ⟨fun q _ => ?_, fun q hq => updJob_job_other hq _ _⟩, (updJob_only _ _ _).mono (by simp)⟩, ?_⟩ <;>
        rw [updJob_job_same, digestMore_eq] <;> rfl
  · exact ⟨hrefl, rfl⟩

/-- A member cell out of order is a fault (R110). -/
theorem ingressCell_fault {n slot pos : Nat} {c : Cell} {i : Inst} {m : Member} {s : State} (hinst : s.inst? slot c.coll = some i)
    (hm : i.members.find? (fun m => m.port = n) = some m) (hok : memberOk ((s.job slot).entry c.coll) pos m c = false) :
    ingressCell n slot pos c s = orderFault n slot c s := by
  simp [ingressCell, hinst, hm, hok]

/-- A member cell in order advances its member and goes to the INGRESS binding (R110). -/
theorem ingressCell_ok {n slot pos : Nat} {c : Cell} {i : Inst} {m : Member} {b : BitVec 256} {s : State} (hinst : s.inst? slot c.coll = some i)
    (hm : i.members.find? (fun m => m.port = n) = some m) (hok : memberOk ((s.job slot).entry c.coll) pos m c = true)
    (hbind : bindingFor s n slot c.coll roleIngress = some b) :
    ingressCell n slot pos c s =
      toIq n slot b c (updMember slot c.coll n (Member.next ((s.job slot).entry c.coll) pos) (digestContribution slot n m c s)) := by
  have hsteady := ((digestContribution_step slot n c.coll m c s).1.trans
    (onEntry_step n slot c.coll (onInst (advance n (Member.next ((s.job slot).entry c.coll) pos))) _)).steady
  have hbind' := (hsteady.bindingFor c.coll roleIngress).trans hbind
  rw [← updMember_eq] at hbind'
  simp [ingressCell, hinst, hm, hok, hbind']

/-- An order fault of a live cell at its entry (R110, R120). -/
theorem orderFault_live {n slot : Nat} {c : Cell} {s s1 : State} (h : CellTaken s s1) {i : Inst} (hinst : s.inst? slot c.coll = some i) :
    let s' := orderFault n slot c (onEntry slot c.coll (seenAt s.time) s1)
    ((s'.job slot).entry c.coll).order = satInc ((s.job slot).entry c.coll).order ∧
      (∃ i', s'.inst? slot c.coll = some i' ∧ i'.members = i.members ∧ stIncomplete ≤ (i'.part n).status.toNat ∧ stIncomplete ≤ i'.worst.toNat) ∧
      OnlyEntry slot c.coll s s' ∧ OnlyChanges [.ports, .jobs] s s' := by
  obtain ⟨hmembers, hpart, hworst⟩ := causeOn_result (st := stIncomplete) (by decide) n 0x060F i
  simp only [orderFault_eq, onEntry_onEntry]
  obtain ⟨hentry, hrun, hframe⟩ := h.entryOnly c.coll (fun e => orderFaulted n (seenAt s.time e))
  refine ⟨by rw [hentry]; rfl, ⟨_, ?_, hmembers, hpart, hworst⟩, hframe⟩
  rw [hrun, orderFaulted, runningInst_onInst]
  exact congrArg (Option.map _) hinst

/-- A live member cell in order enters the queue that has room for it (R110, R205). -/
theorem ingressCell_queued {n slot pos p k : Nat} {c : Cell} {i : Inst} {m : Member} {b : BitVec 256} {rest : List Nat} {s s1 : State}
    (h : CellTaken s s1) (hinst : s.inst? slot c.coll = some i) (hm : i.members.find? (fun m => m.port = n) = some m)
    (hok : memberOk ((s.job slot).entry c.coll) pos m c = true) (hbind : bindingFor s n slot c.coll roleIngress = some b)
    (hroom : Room n slot b p k rest s) :
    let s' := ingressCell n slot pos c (onEntry slot c.coll (seenAt s.time) s1)
    Queued n p k rest c s s' ∧
      (∃ i', s'.inst? slot c.coll = some i' ∧
        i'.members = i.members.map (fun q => if q.port = n then Member.next ((s.job slot).entry c.coll) pos q else q)) ∧
      OnlyEntry slot c.coll s s' ∧ OnlyChanges [.ports, .jobs, .tiles, .obs] s s' := by
  have hseen := h.changed n slot c.coll (seenAt s.time)
  have hinst' : (onEntry slot c.coll (seenAt s.time) s1).inst? slot c.coll = some i := (h.inst _ _).trans hinst
  have hentry := h.entry (slot := slot) c.coll (seenAt s.time)
  have hnext : Member.next (seenAt s.time ((s.job slot).entry c.coll)) pos = Member.next ((s.job slot).entry c.coll) pos := rfl
  rw [ingressCell_ok hinst' hm (by rw [hentry]; exact hok) ((hseen.steady.bindingFor _ _).trans hbind), hentry, hnext, updMember_eq]
  obtain ⟨hdigest, hkept⟩ := digestContribution_step slot n c.coll m c (onEntry slot c.coll (seenAt s.time) s1)
  obtain ⟨hqueued, hjob, hframe⟩ := ((hseen.trans hdigest).trans
    (onEntry_step n slot c.coll (onInst (advance n (Member.next ((s.job slot).entry c.coll) pos))) _)).queued c hroom
  refine ⟨hqueued, ⟨advance n (Member.next ((s.job slot).entry c.coll) pos) i, ?_, rfl⟩, hframe⟩
  rw [inst?_eq, hjob, onEntry_entry, runningInst_onInst, hkept]
  exact congrArg (Option.map _) hinst'

/-- Contribution cell c, taken at the tile of its port for the job in a slot; s1 is the state with it taken. -/
structure Contribution (t : Time) (port : Port) (c : Cell) (slot : Nat) (s s1 : State) : Prop where
  member : isMemberCell (tick t s) port.val c = true
  take : takeRx port.val c (tick t s) = some s1
  slot : slotOf c.job (tick t s) = some slot

namespace Contribution

variable {t : Time} {port : Port} {c : Cell} {slot : Nat} {s s1 : State}

theorem taken (h : Contribution t port c slot s s1) : CellTaken (tick t s) s1 := takeRx_taken h.take

theorem runs (h : Contribution t port c slot s s1) {P : State → Prop} (hp : P (contribution port.val c s1)) :
    Runs (.contributionCell t port c) s P :=
  ⟨contribution port.val c s1, by simp [exec, execContributionCell, h.member, h.take], hp⟩

theorem foreign (h : Contribution t port c slot s s1) (hforeign : foreignPort (tick t s) slot port.val = true) :
    contribution port.val c s1 = bump (jobCtr port.val slot 0x60) 1 s1 := by
  simp [contribution, h.taken.slotOf, h.slot, h.taken.foreignPort, hforeign]

theorem unbound (h : Contribution t port c slot s s1) (hown : foreignPort (tick t s) slot port.val = false)
    (hid : (s.job slot).ids.contains (BitVec.ofNat 12 c.coll) = false) : contribution port.val c s1 = bump (tileCtr port.val 0x080) 1 s1 := by
  have hid' : (s1.job slot).ids.contains (BitVec.ofNat 12 c.coll) = false := (h.taken.job slot).symm ▸ hid
  simp only [contribution, h.taken.slotOf, h.slot, h.taken.foreignPort, hown, hid']
  rfl

theorem down (h : Contribution t port c slot s s1) (hown : foreignPort (tick t s) slot port.val = false)
    (hid : (s.job slot).ids.contains (BitVec.ofNat 12 c.coll) = true) (hdown : tileDown (tick t s) port.val = true) :
    contribution port.val c s1 = markCellInc c.job c.coll c.epoch 0x020F s1 := by
  have hid' : (s1.job slot).ids.contains (BitVec.ofNat 12 c.coll) = true := (h.taken.job slot).symm ▸ hid
  simp only [contribution, h.taken.slotOf, h.slot, h.taken.foreignPort, hown, hid', h.taken.tileDown, hdown]
  rfl

/-- What a tile at work does with a cell of a known collective: it judges it, then looks at its source (R117, R251). -/
theorem judges (h : Contribution t port c slot s s1) (hown : foreignPort (tick t s) slot port.val = false)
    (hid : (s.job slot).ids.contains (BitVec.ofNat 12 c.coll) = true) (hup : tileDown (tick t s) port.val = false) {ok : Bool} {z : State}
    (hjudge : judge slot c s1 = (ok, z)) :
    contribution port.val c s1 = if ok then (match sourceOf (tick t s) slot port.val c with
      | .member pos => ingressCell port.val slot pos c z
      | .wrong => orderFault port.val slot c z
      | .link => sumCell port.val slot c z) else z := by
  have hid' : (s1.job slot).ids.contains (BitVec.ofNat 12 c.coll) = true := (h.taken.job slot).symm ▸ hid
  simp only [contribution, h.taken.slotOf, h.slot, h.taken.foreignPort, hown, hid', h.taken.tileDown, hup, hjudge, h.taken.sourceOf]
  cases ok <;> rfl

end Contribution

/-- Settles O48: the drops count and change nothing else, an order fault marks the entry and its instance (orderFault_live), and a cell in order
advances its member and enters the queue that has room for it (ingressCell_queued). -/
theorem contributionCells : Obligations.ContributionCells := by
  intro t port c slot s s1 s0 n x e hmember htake hslot
  have h : Contribution t port c slot s s1 := ⟨hmember, htake, hslot⟩
  refine ⟨fun hforeign => h.runs (h.foreign hforeign), fun hown hid => h.runs (h.unbound hown hid),
    fun hown hid hdown => h.runs (h.down hown hid hdown), fun hown hid hup => ⟨fun hfate => h.runs ?_, fun hfate => h.runs ?_, ?_, ?_⟩⟩
  · rw [h.judges hown hid hup (judge_stale (by rwa [fateOf_congr h.taken.time, h.taken.job])), h.taken.time]
    obtain ⟨hentry, -, hframe⟩ := h.taken.entryOnly c.coll _
    exact ⟨hentry, hframe⟩
  · rw [h.judges hown hid hup (judge_late (by rwa [fateOf_congr h.taken.time, h.taken.job])), h.taken.time]
    obtain ⟨hentry, -, hframe⟩ := h.taken.entryOnly c.coll _
    exact ⟨hentry, hframe⟩
  · intro i hsource hfate hinst
    refine h.runs ?_
    rw [h.judges hown hid hup (h.taken.judged hfate), hsource]
    obtain ⟨horder, ⟨i', hi', hmembers, -, hworst⟩, hframe⟩ := orderFault_live h.taken hinst
    exact ⟨horder, ⟨i', hi', hmembers, hworst⟩, hframe⟩
  · intro pos i m hsource hfate hinst hm
    have hinst' : (onEntry slot c.coll (seenAt s0.time) s1).inst? slot c.coll = some i := (h.taken.inst _ _).trans hinst
    refine ⟨fun hok => h.runs ?_, fun b p k rest hok hbind hroom => h.runs ?_⟩
    · rw [h.judges hown hid hup (h.taken.judged hfate), hsource]
      simp only [if_true]
      rw [ingressCell_fault hinst' hm (by rw [h.taken.entry]; exact hok)]
      exact orderFault_live h.taken hinst
    · rw [h.judges hown hid hup (h.taken.judged hfate), hsource]
      simp only [if_true]
      obtain ⟨hqueued, hprogress, hentries, honly⟩ := ingressCell_queued h.taken hinst hm hok hbind hroom
      exact ⟨hqueued, hprogress, hentries, honly⟩

end Sys2Proof.Safety
end

section
/-! PROOF. SHUFFLE fragments (O49): a fragment that goes on with a record goes to every member of its port, each with a record of its own. -/

namespace Sys2Proof.Safety

open Sys2Proof.Machine

/-- Nothing of c fails R110 for member m, and the member's end record is not in (R124). -/
def FragmentOf (m : Member) (c : Cell) : Prop :=
  (c.rank = m.rank ∧ c.fmt = 0 ∧ c.parity = false ∧ c.esc = false ∧ c.prov = false) ∧ m.done = false

/-- A fragment that goes on with a record which another one ends is kept by the members of its port (R125). -/
theorem fragment_continues {n slot : Nat} {c : Cell} {m : Member} {s : State} (hgood : FragmentOf m c) (hnonzero : c.chunk ≠ 0)
    (hkeep : m.dropping = false) (hnext : c.chunk = m.record.length) (hlast : c.last = false)
    (hfrags : c.chunk + 1 ≠ ((m.record.head?).map recFrags).getD 0) :
    fragment n slot m c s = updMember slot c.coll n (fun q => { q with record := q.record ++ [c] }) s := by
  obtain ⟨⟨hrank, hfmt, hpar, hesc, hprov⟩, hmore⟩ := hgood
  simp [fragment, hrank, hfmt, hpar, hesc, hprov, hmore, hnonzero, hkeep, ← hnext, hlast, hfrags]

/-- SHUFFLE cell c of a running instance has been taken from a member's port, whose tile is at work; s1 is the state with it taken. -/
structure ShuffleCell (n : Nat) (c : Cell) (slot : Nat) (s s1 : State) : Prop where
  cls : c.cls = clsSched
  kind : c.kind = kShuffle
  take : takeRx n c s = some s1
  found : slotOf c.job s = some slot
  op : ((s.job slot).entry c.coll).op = 9
  own : foreignPort s slot n = false
  up : tileDown s n = false
  live : fateOf s ((s.job slot).entry c.coll) c = .live

namespace ShuffleCell

variable {n slot pos : Nat} {c : Cell} {i : Inst} {m : Member} {s s1 : State}

theorem taken (h : ShuffleCell n c slot s s1) : CellTaken s s1 := takeRx_taken h.take

/-- A SHUFFLE cell of a member is a fragment for its member (R124). -/
theorem shuffleIn (h : ShuffleCell n c slot s s1) (hsource : sourceOf s slot n c = .member pos) (hinst : s.inst? slot c.coll = some i)
    (hm : i.members.find? (fun m => m.port = n) = some m) :
    Machine.shuffleIn n c s1 = fragment n slot m c (onEntry slot c.coll (seenAt s.time) s1) := by
  have hop : ((s1.job slot).entry c.coll).op = 9 := by rw [h.taken.job, h.op]
  have hinst' : (onEntry slot c.coll (seenAt s.time) s1).inst? slot c.coll = some i := (h.taken.inst _ _).trans hinst
  simp only [Machine.shuffleIn, h.taken.slotOf, h.found, h.taken.foreignPort, h.own, hop, h.taken.tileDown, h.up, h.taken.sourceOf, hsource,
    h.taken.judged h.live, hinst', Option.bind_some, hm]
  rfl

/-- After a fragment that goes on with a record, each member of the port holds its own record with the fragment. -/
theorem continued (h : ShuffleCell n c slot s s1) (hsource : sourceOf s slot n c = .member pos) (hinst : s.inst? slot c.coll = some i)
    (hm : i.members.find? (fun m => m.port = n) = some m) (hgood : FragmentOf m c) (hnonzero : c.chunk ≠ 0)
    (hkeep : m.dropping = false) (hnext : c.chunk = m.record.length) (hlast : c.last = false)
    (hfrags : c.chunk + 1 ≠ ((m.record.head?).map recFrags).getD 0) :
    (Machine.shuffleIn n c s1).inst? slot c.coll = some (advance n (fun q => { q with record := q.record ++ [c] }) i) := by
  rw [h.shuffleIn hsource hinst hm, fragment_continues hgood hnonzero hkeep hnext hlast hfrags, updMember_eq, onEntry_onEntry, h.taken.inst,
    runningInst_onInst]
  exact congrArg (Option.map _) hinst

theorem exec {t : Time} {port : Port} (h : ShuffleCell port.val c slot (tick t s) s1) (hsource : sourceOf (tick t s) slot port.val c = .member pos) :
    Machine.exec (.shuffleFragment t port c) s = .next (Machine.shuffleIn port.val c s1) := by
  simp [Machine.exec, execShuffleFragment, h.cls, h.kind, h.found, hsource, h.take]

end ShuffleCell

/-! ### Two members on one port, with different records -/

/-- Fragment 1 of a record, for member rank 0 of collective 0. -/
def secondFragment : Cell := mkColl kShuffle 0 false false false false 0 0 0 1 0 0 0

/-- A member of port 0 that holds a record. -/
def memberWith (record : List Cell) : Member := ⟨0, 0, 0, 0, 0, false, record, false⟩

/-- A running SHUFFLE instance with two members of port 0: one holds a fragment, one holds none. -/
def twoMembers : Inst := { newInst State.reset 0 0 0 1 0 with members := [memberWith [idleCell], memberWith []] }

/-- Job slot 0 runs that instance as collective 0, and fragment 1 has come on port 0. -/
def sharedPort : State :=
  ((State.reset.updDev (fun d => { d with place := [some 0] })).updJob 0 (fun x => { x with
    st := .running, ids := [0]
    entries := [(0, { Entry.reset with cfg := BitVec.ofNat 1024 (9 * 2 ^ 16), status := 1, fired := true, inst := some twoMembers })] })).updPort 0
    (fun p => { p with rxCells := [(0, secondFragment)] })

/-- The same with the fragment taken. -/
def sharedPortTaken : State := tick 0 (sharedPort.updPort 0 (fun p => { p with rxCells := [] }))

theorem sharedPort_shuffleCell : ShuffleCell 0 secondFragment 0 (tick 0 sharedPort) sharedPortTaken where
  cls := by decide
  kind := by decide
  take := by decide +kernel
  found := by decide +kernel
  op := by decide +kernel
  own := by decide +kernel
  up := by decide +kernel
  live := by decide +kernel

theorem sharedPort_source : sourceOf (tick 0 sharedPort) 0 0 secondFragment = .member 0 := by decide +kernel

theorem sharedPort_fragment : FragmentOf (memberWith [idleCell]) secondFragment := by
  unfold FragmentOf
  decide

/-- It is fragment 1, not the last, of a record whose fragment 0 does not make it the last. -/
theorem sharedPort_continues : secondFragment.chunk ≠ 0 ∧ secondFragment.chunk = (memberWith [idleCell]).record.length ∧
    secondFragment.last = false ∧ secondFragment.chunk + 1 ≠ (((memberWith [idleCell]).record.head?).map recFrags).getD 0 := by decide +kernel

/-- The member that held no record then holds the fragment alone. -/
theorem sharedPort_records : ((shuffleIn 0 secondFragment sharedPortTaken).inst? 0 secondFragment.coll).map (fun i => i.members.map (·.record)) =
    some [[idleCell, secondFragment], [secondFragment]] := by
  obtain ⟨hnonzero, hnext, hlast, hfrags⟩ := sharedPort_continues
  rw [sharedPort_shuffleCell.continued (i := twoMembers) (m := memberWith [idleCell]) sharedPort_source (by decide +kernel) rfl
    sharedPort_fragment hnonzero rfl hnext hlast hfrags]
  rfl

/-- Refutes O49: where two members stand on one port with different records, a fragment that goes on with the first one's record is added to each
member's own record, and not to the first one's in both (R125). -/
theorem not_cellsAtTheirTiles : ¬ Obligations.CellsAtTheirTiles := by
  unfold Obligations.CellsAtTheirTiles
  intro h
  have hcell := sharedPort_shuffleCell
  obtain ⟨⟨hrank, hfmt, hpar, hesc, hprov⟩, hmore⟩ := sharedPort_fragment
  obtain ⟨hnonzero, hnext, hlast, hfrags⟩ := sharedPort_continues
  obtain ⟨-, -, hshuffle⟩ := h 0 0 secondFragment 0 sharedPort sharedPortTaken hcell.cls hcell.found (by decide +kernel) hcell.up hcell.live
  obtain ⟨-, -, -, hcontinues⟩ := hshuffle 0 0 twoMembers (memberWith [idleCell]) rfl hcell.kind hcell.op hcell.take hcell.own sharedPort_source
    (by decide +kernel) rfl hrank hfmt hpar hesc hprov hmore
  obtain ⟨s', hexec, ⟨i', hinst, hmembers⟩, -⟩ := hcontinues hnonzero rfl hnext hlast hfrags
  have hs' : shuffleIn 0 secondFragment sharedPortTaken = s' :=
    Host.Outcome.next.inj ((hcell.exec (port := 0) sharedPort_source).symm.trans hexec)
  have hrecords := sharedPort_records
  rw [hs', hinst, Option.map_some, hmembers] at hrecords
  simp [twoMembers, memberWith] at hrecords

end Sys2Proof.Safety
end

section
/-! PROOF. Instances start (05 R114, R118): control cells and STATs that leave, and what the start of an instance changes. -/

namespace Sys2Proof.Safety

open Sys2Proof.Machine

/-! ### Control cells leave (R268, R280, R312) -/

theorem queueMgmt_only (n : Nat) (c : Cell) (s : State) : OnlyChanges [.ports, .obs] s (queueMgmt n c s) :=
  .ite ((logCode_only _ _ _).mono (by simp)) ((updPort_only _ _ _).mono (by simp))

theorem wakePort_only (n : Nat) (s : State) : OnlyChanges [.ports, .obs] s (wakePort n s) := by
  have hport (f : PortS → PortS) : OnlyChanges [.ports, .obs] s (s.updPort n f) := (updPort_only n f s).mono (by simp)
  unfold wakePort
  dsimp only
  split
  · exact hport _
  · exact .refl _ _
  · exact (hport _).trans (queueMgmt_only _ _ _)
  · exact hport _
  · exact hport _
  · exact .refl _ _

theorem autoWake_only (n : Nat) (s : State) : OnlyChanges [.ports, .obs] s (autoWake n s) := .ite (wakePort_only n s) (.refl _ _)

/-- What a control cell that starts on the device may change. -/
def ctlAreas : List Region := [.ports, .fabric, .obs]

theorem pushCtl_only (n : Nat) (ports : List Nat) (c : Cell) (s : State) : OnlyChanges ctlAreas s (pushCtl n ports c s) := by
  have hobs {a b : State} (h : OnlyChanges [.obs] a b) : OnlyChanges ctlAreas a b := h.mono (by simp [ctlAreas])
  have hqueue (s : State) (p : Nat) (f : PortS → PortS) : OnlyChanges ctlAreas s (autoWake p (s.updPort p f)) :=
    ((updPort_only p f s).mono (by simp [ctlAreas])).trans ((autoWake_only p _).mono (by simp [ctlAreas]))
  have hlost (l : List Nat) := OnlyChanges.foldl (l := ctlAreas) (fun s p => bump (portCtr p 0x088) 1 s) (fun _ _ => hobs (bump_only _ _ _)) l s
  refine (hlost _).trans (.ite (.refl _ _) (.ite (hobs (logCode_only _ _ _)) ?_))
  exact ((updFabric_only _ _).mono (by simp [ctlAreas])).trans (.foldl _ (fun s p => hqueue s p _) _ _)

theorem countForeign_only (port : Nat) (c : Cell) (s : State) : OnlyChanges [.obs] s (countForeign port c s) := by
  unfold countForeign
  split
  · exact bump_only _ _ _
  · exact .refl _ _

theorem sendCtlCell_only (tile : Nat) (c : Cell) (s : State) : OnlyChanges ctlAreas s (sendCtlCell tile c s) := by
  unfold sendCtlCell
  split
  · exact (pushCtl_only _ _ _ _).trans (.ite ((updFabric_only _ _).mono (by simp [ctlAreas])) (.refl _ _))
  · exact (bump_only _ _ _).mono (by simp [ctlAreas])
  · exact (countForeign_only _ _ _).mono (by simp [ctlAreas])

theorem sendStat_only (slot coll epoch : Nat) (round : Bool) (p : Part) (missing : Nat) (wlsb : Int) (s : State) :
    OnlyChanges ctlAreas s (sendStat slot coll epoch round p missing wlsb s) := .ite (.refl _ _) (sendCtlCell_only _ _ _)

theorem instStat_only (slot coll : Nat) (round : Bool) (s : State) : OnlyChanges ctlAreas s (instStat slot coll round s) := by
  unfold instStat
  split
  · exact .refl _ _
  · exact sendStat_only _ _ _ _ _ _ _ _

/-! ### One entry changes, and what a start may touch -/

/-- What the start of an instance may change. -/
def startAreas : List Region := [.jobs, .tiles, .twin, .ports, .fabric, .obs]

/-- From s to s' an instance of entry k of job j starts, or comes nearer to it. -/
structure StartStep (j k : Nat) (s s' : State) : Prop where
  only : OnlyChanges startAreas s s'
  entries : OnlyEntry j k s s'
  kept : GateKept (s.job j) (s'.job j)

namespace StartStep

variable {j k : Nat} {s s' s'' : State}

theorem trans (h : StartStep j k s s') (h' : StartStep j k s' s'') : StartStep j k s s'' :=
  ⟨h.only.trans h'.only, h.entries.trans h'.entries, h.kept.trans h'.kept⟩

/-- A change outside the jobs. -/
theorem of_only {l : List Region} (h : OnlyChanges l s s') (hl : ∀ a ∈ l, a ∈ startAreas) (hj : Region.jobs ∉ l) : StartStep j k s s' :=
  ⟨h.mono hl, .of_job (h.job hj), by rw [h.job hj]; exact .refl _⟩

theorem onEntry (j k : Nat) (f : Entry → Entry) (s : State) : StartStep j k s (onEntry j k f s) :=
  ⟨(onEntry_only _ _ _ _).mono (by simp [startAreas]), onEntry_onlyEntry _ _ _ _, (JobStands.of_updEntry j k f s).kept⟩

end StartStep

theorem instStat_step (j k : Nat) (round : Bool) (s : State) : StartStep j k s (instStat j k round s) :=
  .of_only (instStat_only j k round s) (by simp [ctlAreas, startAreas]) (by simp [ctlAreas])

/-- A STAT that was owed is paid: of the jobs, the mark at the instance changes (R18). -/
theorem payStat_step (j k : Nat) (s : State) : StartStep j k s (payStat j k s) ∧ (∀ m, (payStat j k s).tile m = s.tile m) ∧
    ∃ i, ((payStat j k s).job j).entry k = { (s.job j).entry k with inst := i } := by
  have hstill : StartStep j k s s := .of_only (.refl [] s) (by simp) (by simp)
  unfold payStat
  split
  · exact ⟨hstill, fun _ => rfl, _, rfl⟩
  · split
    · have hstat := instStat_only j k false (s.updInst j k (fun i => { i with owesStat := false }))
      refine ⟨(StartStep.onEntry j k _ s).trans (instStat_step _ _ _ _), fun m => hstat.tile (by simp [ctlAreas]) m, ?_⟩
      rw [hstat.job (by simp [ctlAreas]), updInst_eq, onEntry_entry]
      exact ⟨_, rfl⟩
    · exact ⟨hstill, fun _ => rfl, _, rfl⟩

/-! ### Tile programs hear of it (R222, R223) -/

/-- A tile's event queue, its bindings of a job and whether it is loaded stand. -/
structure EvKept (j m : Nat) (s s' : State) : Prop where
  evq : (s'.tile m).evq = (s.tile m).evq
  bindings : (s'.tile m).bindings j = (s.tile m).bindings j
  loaded : ((s'.tile m).job j).loaded = ((s.tile m).job j).loaded

theorem EvKept.of_tile {j m : Nat} {s s' : State} (h : s'.tile m = s.tile m) : EvKept j m s s' := by
  constructor <;> rw [h]

theorem EvKept.trans {j m : Nat} {s s' s'' : State} (h : EvKept j m s s') (h' : EvKept j m s' s'') : EvKept j m s s'' :=
  ⟨h'.evq.trans h.evq, h'.bindings.trans h.bindings, h'.loaded.trans h.loaded⟩

/-- A change of the job's own part of a tile that leaves its bindings and whether it is loaded. -/
theorem EvKept.of_updTJob {j m : Nat} {f : TileS → TJob → TJob} {s : State} (h : ∀ x t, (f x t).nbind = t.nbind ∧ (f x t).bslots = t.bslots ∧
    (f x t).loaded = t.loaded) : EvKept j m s (s.updTile m (fun x => x.updJob j (f x))) := by
  obtain ⟨hnbind, hbslots, hloaded⟩ := h (s.tile m) ((s.tile m).job j)
  have hjob : ((s.tile m).updJob j (f (s.tile m))).job j = f (s.tile m) ((s.tile m).job j) := Tbl.get_upd_same _ _ _ _
  have hbind : ((s.tile m).updJob j (f (s.tile m))).bind = (s.tile m).bind := rfl
  constructor
  case evq => rw [updTile_tile_same]; rfl
  all_goals simp only [updTile_tile_same, TileS.bindings, TileS.binding, hjob, hbind, hnbind, hbslots, hloaded]

theorem freshOnTile_kept (j k n m : Nat) (s : State) : EvKept j m s (freshOnTile j k n s) := by
  by_cases hm : m = n
  · subst hm
    unfold freshOnTile
    exact .of_updTJob (fun _ _ => ⟨rfl, rfl, rfl⟩)
  · exact .of_tile (updTile_tile_other hm _ _)

theorem freshTiles_kept (j k m : Nat) (l : List Nat) (s : State) : EvKept j m s (l.foldl (fun s n => freshOnTile j k n s) s) := by
  induction l generalizing s with
  | nil => exact .of_tile rfl
  | cons n l ih => exact (freshOnTile_kept j k n m s).trans (ih _)

theorem freshTiles_only (j k : Nat) (l : List Nat) (s : State) : OnlyChanges [.tiles] s (l.foldl (fun s n => freshOnTile j k n s) s) :=
  .foldl _ (fun _ _ => updTile_only _ _ _) _ s

theorem mem_jobTiles {j n : Nat} {s : State} (hn : n < 128) (hloaded : ((s.tile n).job j).loaded = true) : n ∈ jobTiles s j := by
  simp [jobTiles, hn, hloaded]

theorem jobTiles_nodup (j : Nat) (s : State) : (jobTiles s j).Nodup := List.nodup_range.filter _

/-- An event of an entry at a tile that binds it once. -/
theorem tileEvent_evq {n j coll ev arg k : Nat} {b : BitVec 256} {s : State} (hbind : (s.tile n).bindings j = [(k, b)]) (hcoll : bColl b = coll) :
    ((tileEvent n j coll ev arg s).tile n).evq =
      (s.tile n).evq ++ [BitVec.ofNat 32 (ev * 2 ^ 28 + j * 2 ^ 22 + k * 2 ^ 16 + arg % 65536)] := by
  simp only [tileEvent, hbind, List.foldl_cons, List.foldl_nil, hcoll, if_true, pushEvent]
  rw [(bumpMax_only _ _ _).tile (by simp), updTile_tile_same]

/-- Events at a list of tiles reach each tile of the list once. -/
theorem tileEvents_evq {n j coll ev arg k : Nat} {b : BitVec 256} {l : List Nat} {s : State} (hl : l.Nodup) (hn : n ∈ l)
    (hbind : (s.tile n).bindings j = [(k, b)]) (hcoll : bColl b = coll) :
    ((l.foldl (fun s n => tileEvent n j coll ev arg s) s).tile n).evq =
      (s.tile n).evq ++ [BitVec.ofNat 32 (ev * 2 ^ 28 + j * 2 ^ 22 + k * 2 ^ 16 + arg % 65536)] := by
  have hother (a m : Nat) (s : State) (h : m ≠ a) : (tileEvent a j coll ev arg s).tile m = s.tile m := (tileEvent_noted a j s coll ev arg).tiles m h
  induction l generalizing s with
  | nil => cases hn
  | cons a l ih =>
    obtain ⟨ha, hl'⟩ := List.nodup_cons.mp hl
    by_cases hna : n = a
    · subst hna
      have hrest (l : List Nat) (s : State) (hnot : n ∉ l) : (l.foldl (fun s a => tileEvent a j coll ev arg s) s).tile n = s.tile n := by
        induction l generalizing s with
        | nil => rfl
        | cons a l ih =>
          exact (ih _ (List.not_mem_of_not_mem_cons hnot)).trans (hother a n s (List.ne_of_not_mem_cons hnot))
      rw [List.foldl_cons, hrest l _ ha, tileEvent_evq hbind hcoll]
    · have htile := hother a n s hna
      rw [List.foldl_cons, ih hl' (List.mem_of_ne_of_mem hna hn) (by rwa [htile]), htile]

/-! ### An instance starts (R114, R118) -/

/-- An entry takes the configuration that waited (R105). -/
def takesNext (e : Entry) : Entry := { e with cfg := e.next.getD e.cfg, next := none }

/-- An entry whose instance i starts in an epoch. -/
def running (epoch : Nat) (i : Inst) (e : Entry) : Entry :=
  { e with epoch := BitVec.ofNat 4 epoch, status := BitVec.ofNat 4 stRunning, fired := true, inst := some i }

/-- The entry when its instance has been made: the STAT owed is paid, the next configuration is in force, and it runs. -/
def begun (j k epoch : Nat) (start deadline : Time) (depoch : Word) (s : State) : State :=
  let s := onEntry j k takesNext (payStat j k s)
  onEntry j k (running epoch (newInst s j k start deadline depoch)) s

theorem startInst_eq (j k epoch : Nat) (start deadline : Time) (depoch : Word) (s : State) :
    startInst j k epoch start deadline depoch s =
      let s := begun j k epoch start deadline depoch s
      let s := s.updTwin (fun w => { w with theirs := w.theirs.filter (fun d => d.job ≠ (s.job j).tag || d.coll.toNat ≠ k || d.epoch.toNat = epoch) })
      jobEvent j k evFire 0 ((jobTiles s j).foldl (fun s n => freshOnTile j k n s) s) := rfl

/-- The home chunks follow the device's ID, the job's control area and the entry's configuration. -/
theorem homeChunks_congr {s s' : State} {x x' : Job} {e e' : Entry} (hdev : s'.dev = s.dev) (hctl : x'.control = x.control) (hcfg : e'.cfg = e.cfg)
    (hrank : e'.rank = e.rank) :
    homeChunks s' x' e' = homeChunks s x e := by
  cases e
  cases e'
  cases hcfg
  cases hrank
  simp only [homeChunks, hmapDev, hdev, hctl]
  rfl

theorem begun_step (j k epoch : Nat) (start deadline : Time) (depoch : Word) (s : State) : StartStep j k s (begun j k epoch start deadline depoch s) :=
  ((payStat_step j k s).1.trans (.onEntry _ _ _ _)).trans (.onEntry _ _ _ _)

/-- What startInst does after the instance is made leaves the jobs. -/
theorem startInst_begun (j k epoch : Nat) (start deadline : Time) (depoch : Word) (s : State) :
    OnlyChanges [.twin, .tiles, .obs] (begun j k epoch start deadline depoch s) (startInst j k epoch start deadline depoch s) := by
  rw [startInst_eq]
  exact (((updTwin_only _ _).mono (by simp)).trans ((freshTiles_only _ _ _ _).mono (by simp))).trans
    ((jobEvent_only _ _ _ _ _).mono (by simp [tileAreas]))

/-- The start of an instance changes its entry alone among the jobs' entries, and of its job nothing that the gate reads. -/
theorem startInst_step (j k epoch : Nat) (start deadline : Time) (depoch : Word) (s : State) :
    StartStep j k s (startInst j k epoch start deadline depoch s) :=
  (begun_step j k epoch start deadline depoch s).trans
    (.of_only (startInst_begun j k epoch start deadline depoch s) (by simp [startAreas]) (by simp))

/-- A tile that binds the entry once hears FIRE (R222). -/
theorem startInst_evq {j k epoch n b' : Nat} {start deadline : Time} {depoch : Word} {b : BitVec 256} {s : State} (hn : n < 128)
    (hloaded : ((s.tile n).job j).loaded = true) (hbind : (s.tile n).bindings j = [(b', b)]) (hcoll : bColl b = k) :
    ((startInst j k epoch start deadline depoch s).tile n).evq =
      (s.tile n).evq ++ [BitVec.ofNat 32 (evFire * 2 ^ 28 + j * 2 ^ 22 + b' * 2 ^ 16)] := by
  rw [startInst_eq]
  extract_lets z z'
  have htile (m : Nat) : z'.tile m = s.tile m := (payStat_step j k s).2.1 m
  have hfresh (m : Nat) : EvKept j m s ((jobTiles z' j).foldl (fun s n => freshOnTile j k n s) z') :=
    (EvKept.of_tile (htile m)).trans (freshTiles_kept j k m (jobTiles z' j) z')
  have hmem := mem_jobTiles hn (s := (jobTiles z' j).foldl (fun s n => freshOnTile j k n s) z') (by rw [(hfresh n).loaded, hloaded])
  rw [jobEvent, tileEvents_evq (jobTiles_nodup _ _) hmem (by rw [(hfresh n).bindings, hbind]) hcoll, (hfresh n).evq]
  simp

/-- An instance of the entry starts, in the configuration that waited for it. -/
theorem startInst_started (j k epoch : Nat) (start deadline : Time) (depoch : Word) (s : State) :
    Started j k epoch start deadline depoch s (startInst j k epoch start deadline depoch s) := by
  obtain ⟨hpaid, -, i, hentry⟩ := payStat_step j k s
  have hafter := (startInst_begun j k epoch start deadline depoch s).job (by simp) j
  have htaken := onEntry_entry j k takesNext (payStat j k s)
  have he' : ((startInst j k epoch start deadline depoch s).job j).entry k = running epoch
      (newInst (onEntry j k takesNext (payStat j k s)) j k start deadline depoch) (takesNext ((payStat j k s).job j |>.entry k)) := by
    rw [hafter, begun, onEntry_entry, onEntry_entry]
  rw [hentry] at he' htaken
  unfold Started
  rw [he']
  refine ⟨rfl, rfl, rfl, rfl, rfl, ⟨_, rfl, rfl, rfl, rfl, rfl, rfl, rfl, ?_⟩, fun n b' b hn hloaded hbind hcoll =>
    startInst_evq hn hloaded hbind hcoll⟩
  have hstep := hpaid.trans (.onEntry j k takesNext _)
  have hctl : ((onEntry j k takesNext (payStat j k s)).job j).control = (s.job j).control := by
    rw [hstep.kept]
  rw [newInst]
  refine congrArg (List.map _) (homeChunks_congr (hstep.only.2.2 .dev (by simp [startAreas])) hctl ?_ ?_) <;> rw [htaken] <;> rfl

/-- A start counts from an earlier state that agrees on the entry, the job's control area, the device and the tiles. -/
theorem Started.of_same {j k epoch : Nat} {start deadline : Time} {depoch : Word} {s0 s s' : State}
    (h : Started j k epoch start deadline depoch s s') (hentry : (s.job j).entry k = (s0.job j).entry k)
    (hctl : (s.job j).control = (s0.job j).control) (hdev : s.dev = s0.dev) (htile : ∀ n, s.tile n = s0.tile n) :
    Started j k epoch start deadline depoch s0 s' := by
  unfold Started at h ⊢
  simp only [hentry, htile] at h
  obtain ⟨hcfg, hnext, hepoch, hstatus, hfired, ⟨i, hi, hstart, hdeadline, hdepoch, hworst, hparts, hsent, hchunks⟩, hev⟩ := h
  refine ⟨hcfg, hnext, hepoch, hstatus, hfired, ⟨i, hi, hstart, hdeadline, hdepoch, hworst, hparts, hsent, ?_⟩, hev⟩
  rw [hchunks, homeChunks_congr hdev hctl rfl rfl]

end Sys2Proof.Safety
end

section
/-! PROOF. Firing (05 R114 to R118; 06 R135, R136): an attempt opens and counts its firing, and a firing starts an instance or is refused. -/

namespace Sys2Proof.Safety

open Sys2Proof.Machine

/-! ### An attempt opens and counts a firing (R135, R136, R145, R152) -/

/-- Job y is job x but for its banks, its manifest, the dirty bits and what its verdict tile holds. -/
def Banked (x y : Job) : Prop :=
  y = { x with bank0 := y.bank0, bank1 := y.bank1, manifest := y.manifest, dirty := y.dirty, biasDone := y.biasDone, verd := y.verd }

theorem Banked.refl (x : Job) : Banked x x := rfl

theorem Banked.trans {x y z : Job} (h : Banked x y) (h' : Banked y z) : Banked x z := by
  unfold Banked at h h' ⊢
  rw [h] at h'
  exact h'

/-- Only job slot j changes. -/
structure OnlyJob (j : Nat) (s s' : State) : Prop where
  only : OnlyChanges [.jobs] s s'
  others : ∀ q, q ≠ j → s'.job q = s.job q

namespace OnlyJob

variable {j : Nat} {s s' s'' : State}

theorem trans (h : OnlyJob j s s') (h' : OnlyJob j s' s'') : OnlyJob j s s'' :=
  ⟨h.only.trans h'.only, fun q hq => (h'.others q hq).trans (h.others q hq)⟩

theorem updJob (j : Nat) (f : Job → Job) (s : State) : OnlyJob j s (s.updJob j f) :=
  ⟨updJob_only _ _ _, fun _ hq => updJob_job_other hq _ _⟩

theorem ite {p : Prop} [Decidable p] {a b : State} (ha : OnlyJob j s a) (hb : OnlyJob j s b) : OnlyJob j s (if p then a else b) := by
  split
  · exact ha
  · exact hb

end OnlyJob

theorem OnlyJob.refl (j : Nat) (s : State) : OnlyJob j s s := ⟨.refl _ _, fun _ _ => rfl⟩

theorem Banked.touch (a : Area) (off n : Nat) (x : Job) : Banked x (x.touch a off n) := by
  rw [touch_eq]
  rfl

theorem Banked.writeAlt (off : Nat) (bs : List Byte) (x : Job) : Banked x (x.writeAlt off bs) := by
  unfold Job.writeAlt
  split
  all_goals
    refine Banked.trans ?_ (.touch _ _ _ _)
    rfl

theorem biasRecord_banked (j : Nat) (s : State) : Banked (s.job j) ((biasRecord j s).job j) := by
  unfold biasRecord
  extract_lets x
  split
  · exact .refl _
  · rw [updJob_job_same]
    exact ((Banked.writeAlt _ _ _).trans (.writeAlt _ _ _)).trans rfl

theorem setVerdictDeadline_banked (j : Nat) (s : State) : Banked (s.job j) ((setVerdictDeadline j s).job j) := by
  unfold setVerdictDeadline
  split
  · exact .refl _
  · simp only [updVerd, openVerd, updJob_job_same]
    rfl

theorem biasRecord_onlyJob (j : Nat) (s : State) : OnlyJob j s (biasRecord j s) := .ite (.refl _ _) (.updJob _ _ _)

theorem setVerdictDeadline_onlyJob (j : Nat) (s : State) : OnlyJob j s (setVerdictDeadline j s) :=
  .ite (.refl _ _) ((OnlyJob.updJob _ _ _).trans (.updJob _ _ _))

theorem openAttempt_onlyJob (j : Nat) (s : State) : OnlyJob j s (openAttempt j s) :=
  .ite (.refl _ _) ((OnlyJob.updJob _ _ _).trans (biasRecord_onlyJob _ _))

theorem countFiring_onlyJob (j pos : Nat) (deadline : Time) (s : State) : OnlyJob j s (countFiring j pos deadline s) :=
  (OnlyJob.updJob _ _ _).trans (setVerdictDeadline_onlyJob _ _)

/-- An attempt opens with no firing counted (R135). -/
theorem openAttempt_opens {j : Nat} {s : State} (h : (s.job j).attempt = false) :
    Banked { s.job j with attempt := true, fired := [], gate := .opened } ((openAttempt j s).job j) := by
  simp only [openAttempt, h, Bool.false_eq_true, if_false]
  refine Banked.trans ?_ (biasRecord_banked _ _)
  rw [updJob_job_same]
  refine Banked.trans ?_ (.touch _ _ _ _)
  rfl

theorem openAttempt_open {j : Nat} {s : State} (h : (s.job j).attempt = true) : openAttempt j s = s := by simp [openAttempt, h]

/-- A firing counts toward the attempt's deadline (R136). -/
theorem countFiring_counts (j pos : Nat) (deadline : Time) (s : State) :
    Banked { s.job j with
      fired := if (s.job j).fired.contains pos then (s.job j).fired else (s.job j).fired ++ [pos], deadline := max (s.job j).deadline deadline }
      ((countFiring j pos deadline s).job j) := by
  refine Banked.trans ?_ (setVerdictDeadline_banked _ _)
  rw [updJob_job_same]
  exact .refl _

/-- The state in which a step position's firing is decided: its attempt is open, and the firing has been counted. -/
def counted (j pos : Nat) (deadline : Time) (s : State) : State := countFiring j pos deadline (openAttempt j s)

theorem counted_onlyJob (j pos : Nat) (deadline : Time) (s : State) : OnlyJob j s (counted j pos deadline s) :=
  (openAttempt_onlyJob _ _).trans (countFiring_onlyJob _ _ _ _)

/-- The first firing of an attempt opens it. -/
theorem counted_first {j pos : Nat} {deadline : Time} {s : State} (h : (s.job j).attempt = false) :
    Banked { s.job j with attempt := true, fired := [pos], gate := .opened, deadline := max (s.job j).deadline deadline }
      ((counted j pos deadline s).job j) := by
  refine Banked.trans ?_ (countFiring_counts j pos deadline (openAttempt j s))
  have hopen := openAttempt_opens h
  unfold Banked at hopen ⊢
  rw [hopen]
  rfl

/-- A firing in an open attempt leaves the job's entries. -/
theorem counted_entry_open {j pos : Nat} {deadline : Time} {s : State} (h : (s.job j).attempt = true) (q : Nat) :
    ((counted j pos deadline s).job j).entry q = (s.job j).entry q := by
  rw [counted, openAttempt_open h, countFiring_counts j pos deadline s]
  rfl

/-! ### A firing is refused, or starts an instance (R118) -/

theorem refuseFiring_eq (j k epoch code : Nat) (s : State) :
    OnlyChanges ctlAreas (onEntry j k (fun e => { e with reason := BitVec.ofNat 16 code }) s) (refuseFiring j k epoch code s) :=
  .ite (.refl _ _) (sendStat_only _ _ _ _ _ _ _ _)

/-- What may change where a firing is refused. -/
def refusedAreas : List Region := [.jobs, .ports, .fabric, .obs]

/-- A firing of entry k is refused with a code, from s to s'. -/
structure Refused (j k code : Nat) (s s' : State) : Prop where
  entry : (s'.job j).entry k = { (s.job j).entry k with reason := BitVec.ofNat 16 code }
  others : OnlyEntry j k s s'
  only : OnlyChanges refusedAreas s s'

theorem refuseFiring_refused (j k epoch code : Nat) (s : State) : Refused j k code s (refuseFiring j k epoch code s) := by
  have hstat := refuseFiring_eq j k epoch code s
  have hjob := hstat.job (by simp [ctlAreas])
  exact ⟨by rw [hjob, onEntry_entry], (onEntry_onlyEntry _ _ _ _).trans (.of_job hjob),
    ((onEntry_only _ _ _ _).mono (by simp [refusedAreas])).trans (hstat.mono (by simp [ctlAreas, refusedAreas]))⟩

/-- An entry as its next instance will read it (R105). -/
def upcoming (e : Entry) : Entry := { e with cfg := e.next.getD e.cfg }

/-- The deadline of an instance that starts at a time (R122). -/
def deadlineOf (start : Time) (e : Entry) : Time := start + us (upcoming e).late

/-- A firing in state s of entry k, whose job runs and is paired, toward an epoch that is not its present one. -/
structure Fires (j k epoch : Nat) (s : State) : Prop where
  runs : (s.job j).st = .running
  paired : (s.job j).twin = .paired
  fresh : ((s.job j).entry k).fired = true → ((s.job j).entry k).epoch.toNat ≠ epoch

namespace Fires

variable {j k epoch : Nat} {start : Time} {depoch : Word} {late : Bool} {s : State}

theorem notAgain (h : Fires j k epoch s) : (((s.job j).entry k).fired && decide (((s.job j).entry k).epoch.toNat = epoch)) = false := by
  cases hfired : ((s.job j).entry k).fired
  · rfl
  · simpa using h.fresh hfired

theorem fire_free (h : Fires j k epoch s) (hpos : (s.job j).stepPos k = none) :
    fire j k epoch start depoch late s = match firingCode s ((s.job j).entry k) late with
      | some c => refuseFiring j k epoch c s
      | none => startInst j k epoch start (deadlineOf start ((s.job j).entry k)) depoch s := by
  simp only [fire, h.runs, h.paired, h.notAgain, hpos]
  rfl

theorem fire_step (h : Fires j k epoch s) {pos : Nat} (hpos : (s.job j).stepPos k = some pos) :
    let deadline := deadlineOf start ((s.job j).entry k)
    fire j k epoch start depoch late s =
      if (s.job j).attempt && (s.job j).fired.contains pos then refuseFiring j k epoch 0x070A (counted j pos deadline s)
      else match firingCode (counted j pos deadline s) ((s.job j).entry k) late with
        | some c => gateMove j (refuseFiring j k epoch c (counted j pos deadline s))
        | none => startInst j k epoch start deadline depoch (counted j pos deadline s) := by
  simp only [fire, h.runs, h.paired, h.notAgain, hpos]
  rfl

/-- An entry of no step position is refused with the code of R118. -/
theorem refused (h : Fires j k epoch s) (hpos : (s.job j).stepPos k = none) {code : Nat} (hcode : firingCode s ((s.job j).entry k) late = some code) :
    Refused j k code s (fire j k epoch start depoch late s) := by
  rw [h.fire_free hpos, hcode]
  exact refuseFiring_refused _ _ _ _ _

/-- Without a code, an entry of no step position starts its instance. -/
theorem starts (h : Fires j k epoch s) (hpos : (s.job j).stepPos k = none) (hcode : firingCode s ((s.job j).entry k) late = none) :
    let s' := fire j k epoch start depoch late s
    Started j k epoch start (deadlineOf start ((s.job j).entry k)) depoch s s' ∧ OnlyEntry j k s s' ∧ OnlyChanges startAreas s s' := by
  rw [h.fire_free hpos, hcode]
  have hstep := startInst_step j k epoch start (deadlineOf start ((s.job j).entry k)) depoch s
  exact ⟨startInst_started _ _ _ _ _ _ _, hstep.entries, hstep.only⟩

/-- A step position that has fired in its attempt is refused (R136). -/
theorem again (h : Fires j k epoch s) {pos : Nat} (hpos : (s.job j).stepPos k = some pos) (hopen : (s.job j).attempt = true)
    (hfired : (s.job j).fired.contains pos = true) : Refused j k 0x070A s (fire j k epoch start depoch late s) := by
  rw [h.fire_step hpos, hopen, hfired]
  have hentry := counted_entry_open (pos := pos) (deadline := deadlineOf start ((s.job j).entry k)) hopen
  have hcount := counted_onlyJob j pos (deadlineOf start ((s.job j).entry k)) s
  obtain ⟨hreason, hothers, honly⟩ := refuseFiring_refused j k epoch 0x070A (counted j pos (deadlineOf start ((s.job j).entry k)) s)
  exact ⟨hreason.trans (by rw [hentry]), OnlyEntry.trans ⟨fun q _ => hentry q, hcount.others⟩ hothers,
    (hcount.only.mono (by simp [refusedAreas])).trans honly⟩

/-- The first firing of a step list opens its attempt, and its instance starts (R135). -/
theorem opens (h : Fires j k epoch s) {pos : Nat} (hpos : (s.job j).stepPos k = some pos) (hclosed : (s.job j).attempt = false)
    (hcode : firingCode s ((s.job j).entry k) late = none) :
    let deadline := deadlineOf start ((s.job j).entry k)
    let s' := fire j k epoch start depoch late s
    ((s'.job j).attempt = true ∧ (s'.job j).gate = .opened ∧ (s'.job j).fired = [pos] ∧ (s'.job j).deadline = max (s.job j).deadline deadline) ∧
      Started j k epoch start deadline depoch s s' ∧ OnlyEntry j k s s' ∧ OnlyChanges startAreas s s' := by
  intro deadline s'
  have hcount := counted_onlyJob j pos deadline s
  have hfirst := counted_first (pos := pos) (deadline := deadline) hclosed
  have hcode' : firingCode (counted j pos deadline s) ((s.job j).entry k) late = none := by
    simpa only [firingCode, hcount.only.1] using hcode
  have hs' : s' = startInst j k epoch start deadline depoch (counted j pos deadline s) := by
    show fire j k epoch start depoch late s = _
    rw [h.fire_step hpos, hclosed, hcode']
    rfl
  have hstep := startInst_step j k epoch start deadline depoch (counted j pos deadline s)
  have hstart := startInst_started j k epoch start deadline depoch (counted j pos deadline s)
  rw [← hs'] at hstep hstart
  have hentry (q : Nat) : ((counted j pos deadline s).job j).entry q = (s.job j).entry q := by
    rw [hfirst]
    rfl
  refine ⟨?_, hstart.of_same (hentry k) ?_ (hcount.only.2.2 .dev (by simp)) (hcount.only.tile (by simp)),
    OnlyEntry.trans ⟨fun q _ => hentry q, hcount.others⟩ hstep.entries, (hcount.only.mono (by simp [startAreas])).trans hstep.only⟩
  · rw [hstep.kept, hfirst]
    exact ⟨rfl, rfl, rfl, rfl⟩
  · rw [hfirst]

end Fires

end Sys2Proof.Safety
end

section
/-! PROOF. Firing by the tide and by a LAUNCH (O50): the commands run fire, with the epoch, the start and the data epoch that they name. -/

namespace Sys2Proof.Safety

open Sys2Proof.Machine

/-! ### By the tide (R114) -/

/-- Entry coll of a job slot is armed for the present tide (R114), at time t. -/
structure Armed (t : Time) (slot : Slot) (coll : BitVec 12) (s : State) : Prop where
  id : (s.job slot.val).ids.contains coll = true
  own : ((s.job slot.val).entry coll.toNat).launched = false
  period : ((s.job slot.val).entry coll.toNat).period ≠ 0
  begun : (s.job slot.val).startTide.toNat ≤ (tick t s).tide.now
  phase : (tick t s).tide.now % ((s.job slot.val).entry coll.toNat).period = ((s.job slot.val).entry coll.toNat).phase

theorem Armed.runs {t : Time} {slot : Slot} {coll : BitVec 12} {s : State} {P : State → Prop} (h : Armed t slot coll s)
    (hp : let e := (s.job slot.val).entry coll.toNat
      P (fire slot.val coll.toNat ((tick t s).tide.now / e.period % 16) (tideStartTime (tick t s)) (BitVec.ofNat 32 (upcoming e).depoch) false
        (tick t s))) :
    Runs (.prearmedFiring t slot coll) s P := by
  refine ⟨_, congrArg Host.Outcome.next (if_neg ?_), hp⟩
  have hbegun := Nat.not_lt.mpr h.begun
  simp only [Bool.or_eq_true, decide_eq_true_eq, Bool.not_eq_true', not_or]
  exact ⟨⟨⟨⟨by simpa using h.id, by simp [h.own]⟩, h.period⟩, hbegun⟩, fun hne => hne h.phase⟩

/-! ### By a LAUNCH (R115, R116) -/

/-- LAUNCH c has been taken from a port, for entry k of the job in a slot, which runs and is paired; s1 is the state with it taken. -/
structure LaunchCell (port : Nat) (c : Cell) (j k : Nat) (s s1 : State) : Prop where
  kind : c.kind = kLaunch
  take : takeRx port c s = some s1
  slot : slotOf c.job s = some j
  paired : (s.job j).twin = .paired
  id : (s.job j).ids.contains (BitVec.ofNat 12 k) = true
  target : c.pn 0 2 % 4096 = k

namespace LaunchCell

variable {port j k : Nat} {c : Cell} {s s1 : State}

theorem taken (h : LaunchCell port c j k s s1) : CellTaken s s1 := takeRx_taken h.take

theorem runs {t : Time} {port : Port} {s : State} {P : State → Prop} (h : LaunchCell port.val c j k (tick t s) s1) (hp : P (launch port.val c s1)) :
    Runs (.launch t port c) s P :=
  ⟨launch port.val c s1, by simp [exec, execLaunch, h.kind, h.take], hp⟩

theorem launchIgnored (h : LaunchCell port c j k s s1) (x : Job) (e : Entry) : launchIgnored s1 x e port c = launchIgnored s x e port c := by
  simp only [Machine.launchIgnored, h.taken.kinds, h.taken.dev]

/-- What a LAUNCH of a known entry does: it is ignored, or fires. -/
theorem launch_eq (h : LaunchCell port c j k s s1) :
    launch port c s1 = if Machine.launchIgnored s (s.job j) ((s.job j).entry k) port c then
        logCode 0x060C (unitJob j) (onEntry j k (fun e => { e with reason := 0x060C }) s1)
      else fire j k (c.pn 0 2 / 4096) (launchStart c) (BitVec.ofNat 32 (c.pn 10 4)) (decide (launchStart c < s.time)) s1 := by
  have hhere : (s.job j).away = false := by simp [Job.away, h.paired]
  simp only [launch, h.taken.slotOf, h.slot, h.target, h.taken.job, hhere, h.id, h.launchIgnored, h.taken.time]
  rfl

/-- A LAUNCH that R116 ignores leaves its code at the entry. -/
theorem ignored (h : LaunchCell port c j k s s1) (hignored : Machine.launchIgnored s (s.job j) ((s.job j).entry k) port c = true) :
    let s' := launch port c s1
    (s'.job j).entry k = { (s.job j).entry k with reason := 0x060C } ∧ OnlyEntry j k s s' ∧ OnlyChanges [.ports, .jobs, .obs] s s' := by
  rw [h.launch_eq, if_pos hignored]
  obtain ⟨hentry, -, hothers, honly⟩ := h.taken.entryOnly (slot := j) k (fun e => { e with reason := 0x060C })
  have hlog := logCode_only 0x060C (unitJob j) (onEntry j k (fun e => { e with reason := 0x060C }) s1)
  have hjob := hlog.job (by simp)
  exact ⟨by rw [hjob, hentry], hothers.trans (.of_job hjob), (honly.mono (by simp)).trans (hlog.mono (by simp))⟩

theorem fires (h : LaunchCell port c j k s s1) {epoch : Nat} (hf : Fires j k epoch s) : Fires j k epoch s1 :=
  ⟨by rw [h.taken.job, hf.runs], by rw [h.taken.job, hf.paired], by rw [h.taken.job]; exact hf.fresh⟩

/-- A LAUNCH that comes after its START is refused (R118). -/
theorem late (h : LaunchCell port c j k s s1) (hf : Fires j k (c.pn 0 2 / 4096) s) (hpos : (s.job j).stepPos k = none)
    (hignored : Machine.launchIgnored s (s.job j) ((s.job j).entry k) port c = false) (hlate : launchStart c < s.time) :
    Refused j k 0x060D s (launch port c s1) := by
  rw [h.launch_eq, hignored, if_neg Bool.false_ne_true, decide_eq_true hlate]
  obtain ⟨hentry, hothers, honly⟩ := (h.fires hf).refused (start := launchStart c) (depoch := BitVec.ofNat 32 (c.pn 10 4)) (late := true)
    (code := 0x060D) (by rwa [h.taken.job]) rfl
  exact ⟨by rw [hentry, h.taken.job], OnlyEntry.trans (.of_job h.taken.job) hothers, (h.taken.only.mono (by simp [refusedAreas])).trans honly⟩

/-- A LAUNCH in time starts the instance (R115). -/
theorem starts (h : LaunchCell port c j k s s1) (hf : Fires j k (c.pn 0 2 / 4096) s) (hpos : (s.job j).stepPos k = none)
    (hignored : Machine.launchIgnored s (s.job j) ((s.job j).entry k) port c = false) (htime : s.time ≤ launchStart c)
    (hcode : firingCode s ((s.job j).entry k) false = none) :
    let s' := launch port c s1
    Started j k (c.pn 0 2 / 4096) (launchStart c) (deadlineOf (launchStart c) ((s.job j).entry k)) (BitVec.ofNat 32 (c.pn 10 4)) s s' ∧
      OnlyEntry j k s s' ∧ OnlyChanges startAreas s s' := by
  have hcode' : firingCode s1 ((s1.job j).entry k) false = none := by
    simpa only [firingCode, h.taken.job, h.taken.time] using hcode
  rw [h.launch_eq, hignored, if_neg Bool.false_ne_true, decide_eq_false (Nat.not_lt.mpr htime)]
  obtain ⟨hstarted, hothers, honly⟩ := (h.fires hf).starts (start := launchStart c) (depoch := BitVec.ofNat 32 (c.pn 10 4)) (by rwa [h.taken.job]) hcode'
  rw [h.taken.job] at hstarted
  exact ⟨hstarted.of_same (by rw [h.taken.job]) (by rw [h.taken.job]) h.taken.dev h.taken.tile,
    OnlyEntry.trans (.of_job h.taken.job) hothers, (h.taken.only.mono (by simp [startAreas])).trans honly⟩

end LaunchCell

end Sys2Proof.Safety
end

section
/-! PROOF. Instances end (05 R120 to R122): what of an ended instance stands after its tiles, queues and held operand are done, and the late limit. -/

namespace Sys2Proof.Safety

open Sys2Proof.Machine

/-! ### What is read of an ended instance -/

/-- An entry's status and reason, and of its instance whether it has ended, whether its STAT is sent, and its missing rank. -/
def outcome (e : Entry) : BitVec 4 × BitVec 16 × Option (Bool × Bool × BitVec 18) :=
  (e.status, e.reason, e.inst.map (fun i => (i.ended, i.sent0, i.missing)))

/-- From s to s' the outcome of every entry of a job stands. -/
structure OutcomesStand (j : Nat) (s s' : State) : Prop where
  entry : ∀ k, outcome ((s'.job j).entry k) = outcome ((s.job j).entry k)

namespace OutcomesStand

variable {j : Nat} {s s' s'' : State}

theorem refl (j : Nat) (s : State) : OutcomesStand j s s := ⟨fun _ => rfl⟩

theorem trans (h : OutcomesStand j s s') (h' : OutcomesStand j s' s'') : OutcomesStand j s s'' := ⟨fun k => (h'.entry k).trans (h.entry k)⟩

theorem foldl {α : Type} (f : State → α → State) (hf : ∀ s a, OutcomesStand j s (f s a)) (l : List α) (s : State) : OutcomesStand j s (l.foldl f s) := by
  induction l generalizing s with
  | nil => exact .refl _ _
  | cons a l ih => exact (hf s a).trans (ih _)

theorem ite {p : Prop} [Decidable p] {a b : State} (ha : OutcomesStand j s a) (hb : OutcomesStand j s b) : OutcomesStand j s (if p then a else b) := by
  split
  · exact ha
  · exact hb

theorem of_only {l : List Region} (h : OnlyChanges l s s') (hj : Region.jobs ∉ l) : OutcomesStand j s s' := ⟨fun k => by rw [h.job hj]⟩

theorem of_tileAreas (h : OnlyChanges tileAreas s s') : OutcomesStand j s s' := .of_only h (by simp [tileAreas])

theorem of_updJob {f : Job → Job} (hf : ∀ x, (f x).entries = x.entries) (s : State) : OutcomesStand j s (s.updJob j f) :=
  ⟨fun k => by simp only [updJob_job_same, Job.entry, hf]⟩

theorem of_updEntry {q : Nat} {f : Entry → Entry} (hf : ∀ e, outcome (f e) = outcome e) (s : State) :
    OutcomesStand j s (s.updJob j (fun x => x.updEntry q f)) := by
  refine ⟨fun k => ?_⟩
  show outcome (((onEntry j q f s).job j).entry k) = _
  by_cases hk : k = q
  · subst hk
    rw [onEntry_entry, hf]
  · rw [(onEntry_onlyEntry j q f s).1 k hk]

theorem addPart (q tile : Nat) (f : Part → Part) (s : State) : OutcomesStand j s (addPart j q tile f s) := by
  refine .of_updEntry (fun e => ?_) s
  simp only [outcome, Option.map_map]
  rfl

end OutcomesStand

theorem setSat_outcomes (j coll n : Nat) (on : Bool) (s : State) : OutcomesStand j s (setSat j coll n on s) := .ite (.addPart _ _ _ _) (.refl _ _)

theorem freeAccs_outcomes (n j : Nat) (p : Word → Bool) (s : State) : OutcomesStand j s (freeAccs n j p s) :=
  .foldl _ (fun _ _ => (setSat_outcomes _ _ _ _ _).trans (.of_tileAreas (abortAcc_only _ _ _))) _ s

theorem endDigs_outcomes (n j coll : Nat) (s : State) : OutcomesStand j s (endDigs n j coll s) :=
  (OutcomesStand.foldl _ (fun _ _ => .ite (.ite (.of_only (sendTwin_only _ _) (by simp)) (.refl _ _)) (.refl _ _)) _ s).trans
    (.of_tileAreas (tileAreas_tile _ _ _))

theorem endOnTile_outcomes (n j coll : Nat) (keep : Bool) (s : State) : OutcomesStand j s (endOnTile n j coll keep s) := by
  have htile (s : State) (f : TileS → TileS) : OutcomesStand j s (s.updTile n f) := .of_tileAreas (tileAreas_tile n f s)
  unfold endOnTile
  extract_lets s1 s2 s3 s4 s5
  have h3 : OutcomesStand j s s3 :=
    ((endDigs_outcomes n j coll s).trans (htile s1 _)).trans (.of_tileAreas (discardQueued_only n j _ s2))
  have h4 : OutcomesStand j s s4 := .ite h3 (h3.trans (htile s3 _))
  have h5 : OutcomesStand j s s5 := .ite h4 (h4.trans (freeAccs_outcomes n j _ s4))
  exact h5.trans (.of_tileAreas (tileEvent_only n j coll evEnd 0 s5))

theorem putOperand_outcomes (j coll k : Nat) (bs : List Byte) (s : State) : OutcomesStand j s (putOperand j coll k bs s) := by
  unfold putOperand
  dsimp only
  split
  · exact .of_tileAreas (setAccN_only _ _ _ _ _ _)
  · exact .of_updEntry (by exact fun _ => rfl) s

theorem takeOperand_outcomes (j coll : Nat) (s : State) : OutcomesStand j s (takeOperand j coll s) := by
  unfold takeOperand
  split
  · exact .refl _ _
  · exact (OutcomesStand.of_updEntry (by exact fun _ => rfl) s).trans (.foldl _ (fun _ _ => putOperand_outcomes _ _ _ _ _) _ _)

theorem finishHeld_outcomes (j coll : Nat) (s : State) : OutcomesStand j s (finishHeld j coll s) := by
  unfold finishHeld
  dsimp only
  split
  · exact .refl _ _
  · split
    · exact (takeOperand_outcomes _ _ _).trans (.of_only (finish_only _ _ _ _ _ _) (by simp [ringAreas]))
    · exact takeOperand_outcomes _ _ _

/-- The final status of an instance (R120). -/
def endStatus (i : Inst) : Nat :=
  if i.worst.toNat < stComplete then (if (joinParts i.parts).sat then stSaturated else stComplete) else i.worst.toNat

/-- A running instance ends in its status, with its reason (R120). -/
theorem endInst_outcome {j k : Nat} {i : Inst} {s : State} (hinst : s.inst? j k = some i) :
    outcome (((endInst j k s).job j).entry k) =
      (BitVec.ofNat 4 (endStatus i), if i.why = 0 then ((s.job j).entry k).reason else i.why, some (true, i.sent0, i.missing)) := by
  have htiles (keep : Bool) (s : State) (l : List Nat) :
      OutcomesStand j s (finishHeld j k (l.foldl (fun s n => endOnTile n j k keep s) s)) :=
    (OutcomesStand.foldl _ (fun _ _ => endOnTile_outcomes _ _ _ _ _) _ _).trans (finishHeld_outcomes _ _ _)
  have hspill (s : State) : OutcomesStand j s (invalidateSpill j (fun w => tagColl w = k) s) := .of_updJob (by exact fun _ => rfl) s
  simp only [endInst, hinst]
  rw [(OutcomesStand.ite (htiles _ _ _) ((htiles _ _ _).trans (hspill _))).entry k, updJob_job_same, updEntry_entry_same]
  rfl

/-! ### An abort, and the late limit (R121, R122) -/

/-- The STAT of an aborted instance goes, or is owed until its comparisons are made (R18, R121). -/
def reported (j k : Nat) (s : State) : State :=
  if comparing s j k then s.updInst j k (fun i => { i with owesStat := true }) else instStat j k false s

theorem abortInst_eq {j k : Nat} {i : Inst} (code : Nat) {s : State} (hinst : s.inst? j k = some i) :
    abortInst j k code true s = endInst j k (reported j k (s.updInst j k (Inst.raise stAborted code))) := by
  rw [abortInst, hinst]
  rfl

theorem instStat_stands (j k : Nat) (round : Bool) (s : State) : JobStands j s (instStat j k round s) :=
  .of_only (instStat_only j k round s) (by simp [ctlAreas, verdictAreas]) (by simp [ctlAreas])

theorem instStat_inst (j k : Nat) (round : Bool) (s : State) : (instStat j k round s).inst? j k = s.inst? j k := by
  rw [inst?_eq, inst?_eq, (instStat_only j k round s).job (by simp [ctlAreas])]

theorem abortInst_stands {j k : Nat} {i : Inst} (code : Nat) {s : State} (hinst : s.inst? j k = some i) :
    JobStands j s (abortInst j k code true s) := by
  rw [abortInst_eq code hinst]
  exact ((updInst_stands _ _ _ _).trans (.ite (updInst_stands _ _ _ _) (instStat_stands _ _ _ _))).trans (endInst_stands _ _ _)

/-- Below ABORTED an instance takes the abort's status and code (R120). -/
theorem raise_below {i : Inst} (h : i.worst.toNat < stAborted) (code : Nat) :
    i.raise stAborted code = { i with worst := BitVec.ofNat 4 stAborted, why := BitVec.ofNat 16 code } := if_pos h

/-- Reporting leaves an instance but for the mark that its STAT is owed. -/
theorem reported_inst {j k : Nat} {i : Inst} {s : State} (hinst : s.inst? j k = some i) :
    ∃ owes, (reported j k s).inst? j k = some { i with owesStat := owes } := by
  unfold reported
  split
  · exact ⟨true, by rw [updInst_inst_same, hinst]; rfl⟩
  · exact ⟨i.owesStat, (instStat_inst j k false s).trans hinst⟩

/-- An aborted instance ends ABORTED with the code (R120). -/
theorem abortInst_outcome {j k code : Nat} {i : Inst} {s : State} (hinst : s.inst? j k = some i) (hworst : i.worst.toNat < stAborted)
    (hcode : BitVec.ofNat 16 code ≠ 0) :
    outcome (((abortInst j k code true s).job j).entry k) =
      (BitVec.ofNat 4 stAborted, BitVec.ofNat 16 code, some (true, i.sent0, i.missing)) := by
  have hraised : (s.updInst j k (Inst.raise stAborted code)).inst? j k =
      some { i with worst := BitVec.ofNat 4 stAborted, why := BitVec.ofNat 16 code } := by
    rw [updInst_inst_same, hinst, Option.map_some, raise_below hworst]
  obtain ⟨owes, hreported⟩ := reported_inst hraised
  rw [abortInst_eq code hinst, endInst_outcome hreported, if_neg hcode]
  rfl

/-- The gate moves or stays; nothing else changes (Table UP-12). -/
theorem gateMove_cases (j : Nat) (s : State) : gateMove j s = s ∨ ∃ g, gateMove j s = s.updJob j (fun x => { x with gate := g }) := by
  unfold gateMove
  extract_lets x sent
  split
  · split
    · exact .inr ⟨_, rfl⟩
    · exact .inl rfl
  · split
    · exact .inr ⟨_, rfl⟩
    · exact .inl rfl
  · exact .inl rfl

theorem gateMove_onlyJob (j : Nat) (s : State) : OnlyJob j s (gateMove j s) := by
  obtain h | ⟨g, h⟩ := gateMove_cases j s
  · rw [h]
    exact .refl _ _
  · rw [h]
    exact .updJob _ _ _

theorem gateMove_entry (j k : Nat) (s : State) : ((gateMove j s).job j).entry k = (s.job j).entry k := by
  obtain h | ⟨g, h⟩ := gateMove_cases j s
  · rw [h]
  · rw [h, updJob_job_same]
    rfl

/-- The lowest rank of a member of an instance that has not finished (R122). -/
def lowestMissing (i : Inst) : BitVec 18 :=
  BitVec.ofNat 18 ((i.members.filter (fun m => !m.done)).foldl (fun a m => Nat.min a m.rank.toNat) missNone)

/-- An instance that the late limit may reach: it runs, is no RELAY, its STAT has not gone, and it is unfinished (R122). -/
structure Unfinished (j k : Nat) (i : Inst) (s : State) : Prop where
  inst : s.inst? j k = some i
  op : ((s.job j).entry k).op ≠ 0xA
  unsent : i.sent0 = false
  rest : unfinished s j k ((s.job j).entry k) i = true

namespace Unfinished

variable {j k : Nat} {i : Inst} {s : State}

theorem waits (h : Unfinished j k i s) (htime : s.time < i.deadline) : lateLimit j k s = s := by
  simp [lateLimit, h.inst, htime]

/-- At its deadline an unfinished instance notes its missing rank and is aborted. -/
theorem expires (h : Unfinished j k i s) (htime : i.deadline ≤ s.time) :
    lateLimit j k s =
      let z := abortInst j k 0x060E true (s.updInst j k (fun i' => { i' with missing := lowestMissing i }))
      if ((s.job j).entry k).op = opRum then gateMove j z else z := by
  have htime' : ¬ s.time < i.deadline := Nat.not_lt.mpr htime
  simp only [lateLimit, h.inst, h.op, htime', h.unsent, h.rest]
  rfl

/-- The late limit ends an unfinished instance ABORTED with 0x060E (R122). -/
theorem aborts (h : Unfinished j k i s) (htime : i.deadline ≤ s.time) (hworst : i.worst.toNat < stAborted) :
    let s' := lateLimit j k s
    outcome ((s'.job j).entry k) = (BitVec.ofNat 4 stAborted, 0x060E, some (true, false, lowestMissing i)) ∧
      (∀ q, q ≠ j → s'.job q = s.job q) ∧ OnlyChanges verdictAreas s s' := by
  intro s'
  have hinst : (s.updInst j k (fun i' => { i' with missing := lowestMissing i })).inst? j k = some { i with missing := lowestMissing i } := by
    rw [updInst_inst_same, h.inst]
    rfl
  have houtcome := abortInst_outcome (code := 0x060E) hinst hworst (by decide)
  have hstands := (updInst_stands j k (fun i' => { i' with missing := lowestMissing i }) s).trans (abortInst_stands 0x060E hinst)
  have hs' : s' = _ := h.expires htime
  rw [hs']
  dsimp only
  split
  · have hgate := gateMove_onlyJob j (abortInst j k 0x060E true (s.updInst j k (fun i' => { i' with missing := lowestMissing i })))
    rw [gateMove_entry, houtcome, h.unsent]
    exact ⟨rfl, fun q hq => (hgate.others q hq).trans (hstands.other q hq), hstands.only.trans (hgate.only.mono (by simp [verdictAreas]))⟩
  · rw [houtcome, h.unsent]
    exact ⟨rfl, hstands.other, hstands.only⟩

end Unfinished

/-- What an outcome says of an entry with an ended instance. -/
theorem outcome_ended {e : Entry} {status : BitVec 4} {reason : BitVec 16} {sent : Bool} {missing : BitVec 18}
    (h : outcome e = (status, reason, some (true, sent, missing))) :
    e.status = status ∧ e.reason = reason ∧ ∃ i, e.inst = some i ∧ i.ended = true ∧ i.sent0 = sent ∧ i.missing = missing := by
  simp only [outcome, Prod.mk.injEq, Option.map_eq_some_iff] at h
  obtain ⟨hstatus, hreason, i, hi, hended, hsent, hmissing⟩ := h
  exact ⟨hstatus, hreason, i, hi, hended, hsent, hmissing⟩

/-- Settles O50: the tide and a LAUNCH run fire, which starts an instance (startInst_started) or is refused with its code (Refused), and the late
limit ends an unfinished instance at its deadline (Unfinished.aborts). -/
theorem firing : Obligations.Firing := by
  intro t slot coll s s0 j x k e late n depoch
  refine ⟨fun hruns hpaired hid => ⟨fun hown hperiod hstart hphase hfresh => ?_, fun port c s1 hkind htake hslot htarget => ?_⟩,
    fun i hinst hop hunsent hrest => ?_⟩
  · have hfires : Fires j k (n / e.period % 16) s0 := ⟨hruns, hpaired, hfresh⟩
    have harmed : Armed t slot coll s := ⟨hid, hown, hperiod, hstart, hphase⟩
    refine ⟨fun hpos hcode => harmed.runs ?_, fun pos hpos hopen hfired => harmed.runs ?_, fun pos hpos hclosed hcode => harmed.runs ?_,
      fun code hpos hcode => harmed.runs ?_⟩
    · obtain ⟨hstarted, hothers, honly⟩ := hfires.starts hpos hcode
      exact ⟨hstarted, hothers, honly⟩
    · obtain ⟨hentry, hothers, honly⟩ := hfires.again hpos hopen hfired
      exact ⟨hentry, hothers, honly⟩
    · obtain ⟨⟨hopen, hgate, hfired, hdeadline⟩, hstarted, hothers, honly⟩ := hfires.opens hpos hclosed hcode
      exact ⟨hopen, hgate, hfired, hdeadline, hstarted, hothers, honly⟩
    · obtain ⟨hentry, hothers, honly⟩ := hfires.refused hpos hcode
      exact ⟨hentry, hothers, honly⟩
  · have hid' : (s0.job j).ids.contains (BitVec.ofNat 12 k) = true := by rwa [BitVec.ofNat_toNat, BitVec.setWidth_eq]
    have hcell : LaunchCell port.val c j k s0 s1 := ⟨hkind, htake, hslot, hpaired, hid', htarget⟩
    refine ⟨fun hignored => hcell.runs (hcell.ignored hignored), fun hheard hfresh hpos => ?_⟩
    have hfires : Fires j k (c.pn 0 2 / 4096) s0 := ⟨hruns, hpaired, hfresh⟩
    refine ⟨fun hlate => hcell.runs ?_, fun htime hcode => hcell.runs ?_⟩
    · obtain ⟨hentry, hothers, honly⟩ := hcell.late hfires hpos hheard hlate
      exact ⟨hentry, hothers, honly.mono (by simp [refusedAreas])⟩
    · obtain ⟨hstarted, hothers, honly⟩ := hcell.starts hfires hpos hheard htime hcode
      exact ⟨hstarted, hothers, honly.mono (by simp [startAreas])⟩
  · have h : Unfinished j k i s0 := ⟨hinst, hop, hunsent, hrest⟩
    refine ⟨fun htime => ⟨_, rfl, h.waits htime⟩, fun htime hworst => ⟨_, rfl, ?_⟩⟩
    obtain ⟨houtcome, hothers, honly⟩ := h.aborts htime hworst
    obtain ⟨hstatus, hreason, i', hi, hended, -, hmissing⟩ := outcome_ended houtcome
    exact ⟨hstatus, hreason, ⟨i', hi, hended, hmissing⟩, hothers, honly⟩

end Sys2Proof.Safety
end

section
/-! PROOF. STATs and decisions (06 R149 to R156): a device's STAT goes, the verdict tile keeps STATs, and its decisions settle. -/

namespace Sys2Proof.Safety

open Sys2Proof.Machine

/-! ### Bytes of a payload (R3) -/

/-- Byte k of the number of a byte list. -/
theorem leNat_byte (l : List Byte) (k : Nat) : leNat l / 256 ^ k % 256 = (l.getD k 0).toNat := by
  induction l generalizing k with
  | nil => simp [leNat]
  | cons b l ih =>
    have hb : b.toNat < 256 := b.isLt
    cases k with
    | zero =>
      simp only [leNat, pow_zero, Nat.div_one, List.getD_cons_zero]
      omega
    | succ k =>
      have hdiv : (b.toNat + 256 * leNat l) / 256 = leNat l := by omega
      rw [leNat, pow_succ', ← Nat.div_div_eq_div_mul, hdiv, ih, List.getD_cons_succ]

theorem testBit_bitsN (x lo n i : Nat) : (bitsN x lo n).testBit i = (decide (i < n) && x.testBit (lo + i)) := by
  rw [bitsN, Nat.testBit_mod_two_pow, Nat.testBit_div_two_pow, Nat.add_comm]

/-- Byte 5 of a payload of bytes. -/
theorem payOf_byte5 (l : List Byte) : payN (payOf l) 5 1 = ((l.take 96).getD 5 0).toNat := by
  rw [← leNat_byte]
  refine Nat.eq_of_testBit_eq fun i => ?_
  have hpow : 256 ^ 5 = 2 ^ 40 := by norm_num
  have hbyte : (256 : Nat) = 2 ^ 8 := by norm_num
  rw [payN, testBit_bitsN, payOf, BitVec.testBit_toNat, BitVec.getLsbD_ofNat, hpow, hbyte, Nat.testBit_mod_two_pow, Nat.testBit_div_two_pow,
    Nat.add_comm i]
  by_cases hi : i < 8
  · have hin : 8 * 5 + i < 768 := by omega
    simp [hi, hin]
  · simp [hi]

/-- The SIMPLEX flag stands outside byte 5 (Table UP-10). -/
theorem withSimplex_byte5 (p : Payload) : payN (withSimplex p) 5 1 = payN p 5 1 := by
  refine Nat.eq_of_testBit_eq fun i => ?_
  by_cases hi : i < 8
  · have hflag : ((1 : Payload) <<< (8 * 21 + 3)).getLsbD (8 * 5 + i) = false := by
      rw [BitVec.getLsbD_shiftLeft, decide_eq_true (show 8 * 5 + i < 8 * 21 + 3 by omega)]
      simp
    rw [payN, payN, testBit_bitsN, testBit_bitsN, BitVec.testBit_toNat, BitVec.testBit_toNat, withSimplex, BitVec.getLsbD_or, hflag, Bool.or_false]
  · simp [payN, testBit_bitsN, hi]

/-- Byte 5 of a VERDICT is its decision (Table UP-10). -/
theorem verdictPay_decision {r : Ruling} (h : r.dec < 256) (x : Job) (alpha norm missing : Nat) (simplex clipOrder : Bool) :
    payN (verdictPay x r alpha norm missing simplex clipOrder) 5 1 = r.dec := by
  unfold verdictPay
  split
  rw [payOf_byte5]
  show (BitVec.ofNat 8 (r.dec % 256)).toNat = r.dec
  rw [BitVec.toNat_ofNat, Nat.mod_mod, Nat.mod_eq_of_lt h]

end Sys2Proof.Safety
end

section
/-! PROOF. STATs sent, kept and decided on (06 R149 to R156), O51. -/

namespace Sys2Proof.Safety

open Sys2Proof.Machine

/-! ### A device's STAT goes (R121, R150) -/

/-- The running instance of entry k, whose part of this device has ended with every post in, and whose STAT has not gone (R121, R211). -/
structure PartDone (j k : Nat) (i : Inst) (s : State) : Prop where
  inst : s.inst? j k = some i
  ended : partEnded s j k i = true
  op : ((s.job j).entry k).op ≠ 0xA
  compared : comparing s j k = false
  drained : queuesHold s j k = false
  takesPart : hasPart s j k = true
  unsent : i.sent0 = false
  posted : postsIn s j k false = true

theorem statSend_waits {j k : Nat} {i : Inst} {s : State} (hinst : s.inst? j k = some i) (hended : partEnded s j k i = false) : statSend j k s = s := by
  simp [statSend, hinst, hended]

namespace PartDone

variable {j k : Nat} {i : Inst} {s : State}

/-- The state in which the STAT has gone. -/
def sent (j k : Nat) (s : State) : State := instStat j k false (s.updInst j k (fun i => { i with sent0 := true }))

theorem sends (h : PartDone j k i s) :
    statSend j k s = if ((s.job j).entry k).op = opRum then gateMove j (sent j k s) else endInst j k (sent j k s) := by
  simp only [statSend, h.inst, h.op, h.compared, h.ended, h.drained, h.takesPart, h.unsent, h.posted, Bool.and_false]
  rfl

theorem sent_inst (h : PartDone j k i s) : (sent j k s).inst? j k = some { i with sent0 := true } := by
  rw [sent, instStat_inst, updInst_inst_same, h.inst]
  rfl

theorem sent_stands (j k : Nat) (s : State) : JobStands j s (sent j k s) := (updInst_stands _ _ _ _).trans (instStat_stands _ _ _ _)

/-- An instance of no step list ends with its STAT: COMPLETE where nothing befell it (R121). -/
theorem completes (h : PartDone j k i s) (hop : ((s.job j).entry k).op ≠ opRum) (hworst : i.worst.toNat < stComplete)
    (hsat : (joinParts i.parts).sat = false) :
    let s' := statSend j k s
    ((s'.job j).entry k).status = BitVec.ofNat 4 stComplete ∧
      (∃ i', ((s'.job j).entry k).inst = some i' ∧ i'.ended = true ∧ i'.sent0 = true) ∧ JobStands j s s' := by
  rw [h.sends, if_neg hop]
  obtain ⟨hstatus, -, i', hi, hended, hsent, -⟩ := outcome_ended (endInst_outcome h.sent_inst)
  have hcomplete : endStatus { i with sent0 := true } = stComplete := by simp [endStatus, hworst, hsat]
  exact ⟨hcomplete ▸ hstatus, ⟨i', hi, hended, hsent⟩, (sent_stands j k s).trans (endInst_stands j k _)⟩

/-- A step position's instance runs on after its STAT (R121). -/
theorem runsOn (h : PartDone j k i s) (hop : ((s.job j).entry k).op = opRum) :
    let s' := statSend j k s
    s'.inst? j k = some { i with sent0 := true } ∧ (∀ q, q ≠ j → s'.job q = s.job q) ∧ OnlyChanges refusedAreas s s' := by
  rw [h.sends, if_pos hop]
  have hgate := gateMove_onlyJob j (sent j k s)
  refine ⟨?_, fun q hq => (hgate.others q hq).trans ((sent_stands j k s).other q hq), ?_⟩
  · rw [inst?_eq, gateMove_entry, ← inst?_eq, h.sent_inst]
  · exact ((onEntry_only j k _ s).mono (by simp [refusedAreas])).trans
      (((instStat_only j k false _).mono (by simp [ctlAreas, refusedAreas])).trans (hgate.only.mono (by simp [refusedAreas])))

end PartDone

/-! ### What a job's verdict tile holds -/

/-- The verdict tile of a job holds v. -/
def verdSet (j : Nat) (v : Verd) (s : State) : State := s.updJob j (fun x => { x with verd := some v })

@[simp] theorem verdSet_verd (j : Nat) (v : Verd) (s : State) : ((verdSet j v s).job j).verd = some v := by simp [verdSet]

@[simp] theorem verdSet_verdSet (j : Nat) (v w : Verd) (s : State) : verdSet j w (verdSet j v s) = verdSet j w s := updJob_twice _ _ _ _

theorem verdSet_onlyJob (j : Nat) (v : Verd) (s : State) : OnlyJob j s (verdSet j v s) := .updJob _ _ _

theorem updVerd_eq {j : Nat} {v : Verd} {s : State} (h : (s.job j).verd = some v) (f : Verd → Verd) : updVerd j f s = verdSet j (f v) s :=
  updJob_congr (by simp only [h, Option.map_some])

theorem updVerd_verdSet (j : Nat) (v : Verd) (f : Verd → Verd) (s : State) : updVerd j f (verdSet j v s) = verdSet j (f v) s := by
  rw [updVerd_eq (verdSet_verd j v s), verdSet_verdSet]

theorem openVerd_eq {j : Nat} {v : Verd} {s : State} (h : (s.job j).verd = some v) : openVerd j s = verdSet j v s :=
  updJob_congr (by simp only [h, Option.getD_some])

/-! ### A decision goes out (R156, R157) -/

/-- From s to s' the verdict tile of job j comes to hold v; of the jobs only job j changes. -/
structure Comes (j : Nat) (v : Verd) (s s' : State) : Prop where
  verd : (s'.job j).verd = some v
  others : ∀ q, q ≠ j → s'.job q = s.job q
  only : OnlyChanges refusedAreas s s'

theorem Comes.after {j : Nat} {v : Verd} {s s1 s' : State} (h : Comes j v s1 s') (hothers : ∀ q, q ≠ j → s1.job q = s.job q)
    (honly : OnlyChanges refusedAreas s s1) : Comes j v s s' :=
  ⟨h.verd, fun q hq => (h.others q hq).trans (hothers q hq), honly.trans h.only⟩

/-- The cells of a VERDICT go, and the verdict tile has decided (R157). -/
theorem sendVerdict_eq {j : Nat} {v : Verd} {s : State} (h : (s.job j).verd = some v) (p : Payload) :
    ∃ s1, OnlyChanges ctlAreas s s1 ∧ sendVerdict j p s = updVerd j (fun v => { v with phase := .decided }) s1 := by
  unfold sendVerdict
  dsimp only
  rw [h]
  refine ⟨_, OnlyChanges.foldl _ (fun s q => ?_) _ s, rfl⟩
  exact (OnlyChanges.ite (.refl _ _) (sendCtlCell_only _ _ _)).trans (.foldl _ (fun _ _ => sendCtlCell_only _ _ _) _ _)

theorem sendVerdict_decides {j : Nat} {v : Verd} {s : State} (h : (s.job j).verd = some v) (p : Payload) :
    Comes j { v with phase := .decided } s (sendVerdict j p s) := by
  obtain ⟨s1, hsent, heq⟩ := sendVerdict_eq h p
  have hjob := hsent.job (by simp [ctlAreas])
  have hset := verdSet_onlyJob j { v with phase := .decided } s1
  rw [heq, updVerd_eq (by rw [hjob, h])]
  exact ⟨verdSet_verd _ _ _, fun q hq => (hset.others q hq).trans (hjob q),
    (hsent.mono (by simp [ctlAreas, refusedAreas])).trans (hset.only.mono (by simp [refusedAreas]))⟩

/-- A decision that is no clip order of round 0 goes out as a VERDICT (R155, R157). -/
theorem actOn_decides {j : Nat} {v : Verd} {s : State} {round : Bool} {p : Payload} (h : (s.job j).verd = some v)
    (hclip : (!round && decide (payN p 5 1 = 2)) = false) : Comes j { v with phase := .decided } s (actOn j round p s) := by
  have hlog : OnlyChanges [.obs] s (if bitN (payN p 21 1) 4 then logCode 0x0704 (unitJob j) s else s) := .ite (logCode_only _ _ _) (.refl _ _)
  have hjob := hlog.job (by simp)
  unfold actOn
  rw [hclip, if_neg Bool.false_ne_true]
  exact (sendVerdict_decides (by rw [hjob, h]) p).after (fun q _ => hjob q) (hlog.mono (by simp [refusedAreas]))

/-- The twins' decisions of round 1 end in a VERDICT, equal or not (R156). -/
theorem agreeOn_decides {j : Nat} {v : Verd} {s : State} (h : (s.job j).verd = some v) (mine theirs : Payload) :
    Comes j { v with phase := .decided, theirs := none } s (agreeOn j true mine theirs s) := by
  have hset := verdSet_onlyJob j { v with theirs := none } s
  have hverd := verdSet_verd j { v with theirs := none } s
  unfold agreeOn
  rw [updVerd_eq h]
  dsimp only
  split
  · exact (actOn_decides hverd rfl).after hset.others (hset.only.mono (by simp [refusedAreas]))
  · exact (sendVerdict_decides hverd _).after hset.others (hset.only.mono (by simp [refusedAreas]))

/-! ### The verdict tile goes on (R152, R156, R426) -/

theorem verdictTry_hold {j : Nat} {s : State} (h : s.clk.hold = true) : verdictTry j s = s := by
  unfold verdictTry
  dsimp only
  split
  · rfl
  · simp [h]

theorem verdictRun_hold {j : Nat} {s : State} (h : s.clk.hold = true) : verdictRun j s = s := by
  simp only [verdictRun, verdictTry_hold h]

theorem verdictTry_decided {j : Nat} {v : Verd} {s : State} (h : (s.job j).verd = some v) (hphase : v.phase = .decided) : verdictTry j s = s := by
  simp [verdictTry, h, hphase]

/-- Once it has decided, the verdict tile waits for the next attempt. -/
theorem Comes.run {j : Nat} {v : Verd} {s : State} (h : Comes j v s (verdictTry j s)) (hphase : v.phase = .decided) : Comes j v s (verdictRun j s) := by
  have hstill := verdictTry_decided h.verd hphase
  simpa only [verdictRun, hstill] using h

/-- A verdict tile that collects with its deadline past and STATs missing, alone, rejects the attempt (R152, R154, R363). -/
theorem verdictTry_expires {j : Nat} {v : Verd} {s : State} (h : (s.job j).verd = some v) (hhold : s.clk.hold = false)
    (htwin : (s.job j).twin = .serving) (hphase : v.phase = .collecting) (hset : v.deadline ≠ 0) (htime : v.deadline ≤ s.time)
    (hmissing : full0 (s.job j) v = false) : Comes j { v with phase := .decided } s (verdictTry j s) := by
  have htime' : ¬ s.time < v.deadline := Nat.not_lt.mpr htime
  have halone : alone s j v = true := by simp [alone, htwin]
  simp only [verdictTry, h, hhold, htwin, hphase, hset, htime', hmissing]
  simp only [propose, h, halone]
  refine actOn_decides h ?_
  rw [withSimplex_byte5, verdictPay_decision] <;> simp [ruling0, rejectRow]

/-- A verdict tile of round 1 that has its twin's decision settles it (R156). -/
theorem verdictTry_settles {j : Nat} {v : Verd} {s : State} {mine theirs : Payload} (h : (s.job j).verd = some v) (hhold : s.clk.hold = false)
    (htwin : (s.job j).twin = .paired) (hphase : v.phase = .twin1 mine) (htheirs : v.theirs = some theirs) (halone : alone s j v = false) :
    Comes j { v with phase := .decided, theirs := none } s (verdictTry j s) := by
  have hgoes : verdictTry j s = agreeOn j true mine theirs s := by simp [verdictTry, h, hhold, htwin, hphase, halone, htheirs]
  rw [hgoes]
  exact agreeOn_decides h mine theirs

end Sys2Proof.Safety
end

section
/-! PROOF. STATs at the verdict tile (O51): which are kept, and the decision of the twin. -/

namespace Sys2Proof.Safety

open Sys2Proof.Machine

theorem seen_vstats (now : Time) (c : Cell) (e : Entry) : (e.seen now c).vstats = e.vstats := by
  unfold Entry.seen
  split <;> rfl

theorem seen_cfg (now : Time) (c : Cell) (e : Entry) : (e.seen now c).cfg = e.cfg ∧ (e.seen now c).rank = e.rank := by
  unfold Entry.seen
  split <;> exact ⟨rfl, rfl⟩

/-- The devices of an instance follow the job's control area and the entry's configuration. -/
theorem statDevs_congr {x x' : Job} {e e' : Entry} (hctl : x'.control = x.control) (hcfg : e'.cfg = e.cfg) (hrank : e'.rank = e.rank) :
    statDevs x' e' = statDevs x e := by
  cases e
  cases e'
  cases hcfg
  cases hrank
  have hhmap : hmapDev x' = hmapDev x := by
    funext e n
    simp only [hmapDev, hctl]
  simp only [statDevs, memberRec, hhmap, hctl]
  rfl

/-- While a device's STAT is missing no instance VERDICT goes (R158). -/
theorem instVerdict_waits {j k epoch : Nat} {s : State}
    (h : (statDevs (s.job j) ((s.job j).entry k)).any (fun d => !(vstatsOf ((s.job j).entry k) epoch).any (fun q => q.1.toNat = d)) = true) :
    instVerdict j k epoch s = s := by
  rw [← List.not_all_eq_any_not] at h
  exact if_pos h

/-! ### STATs that the verdict tile keeps (R136, R152) -/

/-- A STAT of no step list is kept at its entry, in the place of an earlier one of its device and epoch (R152). -/
def keepStat (dev : BitVec 12) (p : Payload) (e : Entry) : Entry :=
  { e with vstats := e.vstats.filter (fun q => !(q.1 = dev && statTarget q.2 / 4096 = statTarget p / 4096)) ++ [(dev, p)] }

theorem keepStat_seen (dev : BitVec 12) (p : Payload) (now : Time) (c : Cell) (e : Entry) :
    keepStat dev p (e.seen now c) = { e.seen now c with vstats := (keepStat dev p e).vstats } := by
  simp only [keepStat, seen_vstats]

/-- A STAT of the same device, position and round is kept already. -/
def repeats (r : StatRec) (v : Verd) : Bool := v.stats.any (fun q => q.dev = r.dev && q.pos = r.pos && q.round = r.round)

theorem addStat_new {r : StatRec} {v : Verd} (h : repeats r v = false) : addStat r v.stats = v.stats ++ [r] := by
  rw [repeats, List.any_eq_false] at h
  rw [addStat, List.filter_eq_self.mpr (fun q hq => congrArg not (Bool.eq_false_iff.mpr (h q hq)))]

/-- A verdict tile that keeps a STAT: one that repeats counts as dropped, and takes the earlier one's place (R136, R152). -/
def withStat (r : StatRec) (v : Verd) : Verd := { v with dropped := if repeats r v then v.dropped + 1 else v.dropped, stats := addStat r v.stats }

/-- The STAT of a step position, as the verdict tile notes it. -/
def statRec (dev : BitVec 12) (pos : Nat) (c : Cell) : StatRec := ⟨dev, pos, ksfSub c = 1, c.pay⟩

/-- An instance of a step position reports to a verdict tile that collects before any firing has set its deadline (R152). -/
structure Collecting (j k pos : Nat) (v : Verd) (s : State) : Prop where
  op : ((s.job j).entry k).op = opRum
  pos : (s.job j).steps.findIdx? (fun q => q.1.toNat = k) = some pos
  verd : (s.job j).verd = some v
  phase : v.phase = .collecting
  deadline : v.deadline = 0

/-! ### A STAT comes (R152, R205) -/

/-- STAT c of entry k has come to the verdict tile of the job in slot j, sound in its fields; the tile is at work, and s1 is the state with it taken. -/
structure StatCell (c : Cell) (j k : Nat) (s s1 : State) : Prop where
  kind : c.kind = kStat
  take : takeAny c s = some s1
  slot : slotOf c.job s = some j
  coll : c.coll = k
  good : ksfBad c = false
  verdict : isVerdict s j = true
  paired : (s.job j).twin = .paired
  up : tileDown s (verdictTile (s.job j)) = false

namespace StatCell

variable {c : Cell} {j k : Nat} {dev : BitVec 12} {s s1 : State}

theorem only (h : StatCell c j k s s1) : OnlyChanges [.ports, .fabric] s s1 := takeAny_only h.take

theorem job (h : StatCell c j k s s1) (q : Nat) : s1.job q = s.job q := h.only.job (by simp) q

theorem tile (h : StatCell c j k s s1) (m : Nat) : s1.tile m = s.tile m := h.only.tile (by simp) m

theorem dev_eq (h : StatCell c j k s s1) : s1.dev = s.dev := h.only.2.2 .dev (by simp)

theorem runs {t : Time} {s : State} (h : StatCell c j k (tick t s) s1) {P : State → Prop} (hp : P (takeStat dev c s1)) : Runs (.statCell t dev c) s P :=
  ⟨takeStat dev c s1, by simp [exec, execStatCell, h.kind, h.take], hp⟩

/-- What the tile looks at before it admits a STAT is as it was before the STAT was taken. -/
theorem ready (h : StatCell c j k s s1) : slotOf c.job s1 = some j ∧ isVerdict s1 j = true ∧ (s1.job j).twin = .paired ∧
    tileDown s1 (verdictTile (s1.job j)) = false := by
  refine ⟨?_, ?_, ?_, ?_⟩
  · simp only [slotOf, h.job]
    exact h.slot
  · simp only [isVerdict, h.job, h.dev_eq]
    exact h.verdict
  · rw [h.job, h.paired]
  · simp only [tileDown, h.job, h.dev_eq]
    exact h.up

/-- A STAT that finds no VERDICT binding is UNBOUND (R205). -/
theorem unbound (h : StatCell c j k s s1) (hbind : bindingFor s (verdictTile (s.job j)) j k roleVerdict = none) :
    takeStat dev c s1 = bump (tileCtr (verdictTile (s.job j)) 0x080) 1 s1 := by
  obtain ⟨hslot, hverdict, htwin, hup⟩ := h.ready
  have hbind' : bindingFor s1 (verdictTile (s1.job j)) j c.coll roleVerdict = none := by
    simp only [bindingFor, h.job, h.tile, h.coll]
    exact hbind
  have hz : admitStat j c s1 = (none, bump (tileCtr (verdictTile (s1.job j)) 0x080) 1 s1) := by simp [admitStat, hup, hbind']
  rw [← h.job]
  simp [takeStat, hslot, h.good, hverdict, htwin, hz]

end StatCell

/-- The STAT's queue at the verdict tile has room: p is the queue of its VERDICT binding (R205). -/
structure StatRoom (j k : Nat) (p : Nat) (s : State) : Prop where
  queue : ∃ b, bindingFor s (verdictTile (s.job j)) j k roleVerdict = some b ∧ ((s.tile (verdictTile (s.job j))).job j).iq[bIq b]? = some p
  room : (iqCells s (verdictTile (s.job j)) p).length < 1024

namespace StatCell

variable {c : Cell} {j k p pos : Nat} {dev : BitVec 12} {v : Verd} {s s1 : State}

/-- A STAT with room is admitted: its entry has seen it, and the queue's high-water mark follows (R103, R205). -/
theorem admitted (h : StatCell c j k s s1) (hroom : StatRoom j k p s) :
    ∃ z, admitStat j c s1 = (some z, z) ∧ OnlyChanges [.obs] (onEntry j k (Entry.seen s.time c) s1) z := by
  obtain ⟨⟨b, hbind, hqueue⟩, hlen⟩ := hroom
  obtain ⟨-, -, -, hup⟩ := h.ready
  have hk := h.coll
  subst hk
  have hbind' : bindingFor s1 (verdictTile (s1.job j)) j c.coll roleVerdict = some b := by
    simp only [bindingFor, h.job, h.tile]
    exact hbind
  have hqueue' : ((s1.tile (verdictTile (s1.job j))).job j).iq[bIq b]? = some p := by rw [h.tile, h.job, hqueue]
  have hlen' : ¬ (iqCells s1 (verdictTile (s1.job j)) p).length ≥ 1024 := by
    simp only [iqCells, h.job, h.tile]
    exact Nat.not_le.mpr hlen
  have htime : s1.time = s.time := h.only.1
  simp only [admitStat, hup, hbind', Option.bind_some, hqueue', hlen', if_false, htime]
  exact ⟨_, rfl, bumpMax_only _ _ _⟩

theorem takeStat_inst (h : StatCell c j k s s1) (hop : ((s.job j).entry k).op ≠ opRum) {z : State} (hz : admitStat j c s1 = (some z, z)) :
    takeStat dev c s1 = instVerdict j k (statTarget c.pay / 4096) (onEntry j k (keepStat dev c.pay) z) := by
  obtain ⟨hslot, hverdict, htwin, -⟩ := h.ready
  have hk := h.coll
  subst hk
  have hop' : ((s1.job j).entry c.coll).op ≠ opRum := by rwa [h.job]
  simp only [takeStat, hslot, h.good, hverdict, htwin, hz, hop', decide_true, Bool.true_or, Bool.not_true, Bool.or_self, Bool.false_eq_true, if_false]
  rfl

/-- A STAT of no step list is kept, while others are to come (R152, R158). -/
theorem kept (h : StatCell c j k s s1) (hroom : StatRoom j k p s) (hop : ((s.job j).entry k).op ≠ opRum)
    (hwaits : (statDevs (s.job j) ((s.job j).entry k)).any (fun d =>
      !(vstatsOf (keepStat dev c.pay ((s.job j).entry k)) (statTarget c.pay / 4096)).any (fun q => q.1.toNat = d)) = true) :
    let s' := takeStat dev c s1
    (s'.job j).entry k = keepStat dev c.pay (((s.job j).entry k).seen s.time c) ∧ OnlyEntry j k s s' ∧ OnlyChanges refusedAreas s s' := by
  obtain ⟨z, hz, hmark⟩ := h.admitted hroom
  have hjob := hmark.job (by simp)
  have hentry : ((onEntry j k (keepStat dev c.pay) z).job j).entry k = keepStat dev c.pay (((s.job j).entry k).seen s.time c) := by
    rw [onEntry_entry, hjob, onEntry_entry, h.job]
  have hctl : ((onEntry j k (keepStat dev c.pay) z).job j).control = (s.job j).control := by
    rw [onEntry, updJob_job_same, hjob, onEntry, updJob_job_same, h.job]
    rfl
  have hstill : takeStat dev c s1 = onEntry j k (keepStat dev c.pay) z := by
    obtain ⟨hcfg, hrank⟩ := seen_cfg s.time c ((s.job j).entry k)
    rw [h.takeStat_inst hop hz]
    refine instVerdict_waits ?_
    rw [hentry, statDevs_congr (e' := keepStat dev c.pay (((s.job j).entry k).seen s.time c)) hctl hcfg hrank, keepStat_seen]
    exact hwaits
  rw [hstill]
  refine ⟨hentry, ?_, ?_⟩
  · exact ((OnlyEntry.of_job h.job).trans (onEntry_onlyEntry j k _ s1)).trans ((OnlyEntry.of_job hjob).trans (onEntry_onlyEntry j k _ z))
  · exact ((h.only.mono (by simp [refusedAreas])).trans ((onEntry_only j k _ s1).mono (by simp [refusedAreas]))).trans
      ((hmark.mono (by simp [refusedAreas])).trans ((onEntry_only j k _ z).mono (by simp [refusedAreas])))

/-- What a STAT of a step position does once it is admitted: it is dropped, or kept, and the verdict tile goes on. -/
theorem takeStat_step (h : StatCell c j k s s1) (hc : Collecting j k pos v s) {z : State} (hz : admitStat j c s1 = (some z, z))
    (hverd : (z.job j).verd = some v) :
    let again := repeats (statRec dev pos c) v
    takeStat dev c s1 =
      if statStep c.pay ≠ (s.job j).attemptStep || (again && !supersedes (statRec dev pos c)) then verdSet j { v with dropped := v.dropped + 1 } z
      else verdictRun j (verdSet j (withStat (statRec dev pos c) v) z) := by
  obtain ⟨hslot, hverdict, htwin, -⟩ := h.ready
  have hop : ((s1.job j).entry c.coll).op = opRum := by rw [h.job, h.coll, hc.op]
  have hpos : (s1.job j).steps.findIdx? (fun q => decide (q.1.toNat = c.coll)) = some pos := by rw [h.job, h.coll, hc.pos]
  have hagain : v.stats.any (fun q => decide (q.dev = dev) && decide (q.pos = pos) && decide (q.round = decide (ksfSub c = 1))) =
      repeats (statRec dev pos c) v := rfl
  simp only [takeStat, hslot, h.good, hverdict, htwin, hz, hop, hpos, openVerd_eq hverd, verdSet_verd, Option.getD_some, hc.phase, hc.deadline, hagain]
  rw [h.job, withStat]
  cases repeats (statRec dev pos c) v <;> simp [statRec, updVerd_verdSet, hc.phase, hc.deadline]

/-- The admission of a STAT leaves what the verdict tile holds, and the other jobs. -/
theorem admitted_verd (h : StatCell c j k s s1) (hc : Collecting j k pos v s) (hroom : StatRoom j k p s) :
    ∃ z, admitStat j c s1 = (some z, z) ∧ (z.job j).verd = some v ∧ (∀ q, q ≠ j → z.job q = s.job q) ∧ OnlyChanges refusedAreas s z := by
  obtain ⟨z, hz, hmark⟩ := h.admitted hroom
  have hjob := hmark.job (by simp)
  refine ⟨z, hz, ?_, fun q hq => ?_, ?_⟩
  · rw [hjob, onEntry, updJob_job_same, h.job]
    exact hc.verd
  · rw [hjob, onEntry, updJob_job_other hq, h.job]
  · exact ((h.only.mono (by simp [refusedAreas])).trans ((onEntry_only j k _ s1).mono (by simp [refusedAreas]))).trans
      (hmark.mono (by simp [refusedAreas]))

/-- A STAT of another attempt, or one that repeats, is dropped and counted (R152). -/
theorem drops (h : StatCell c j k s s1) (hc : Collecting j k pos v s) (hroom : StatRoom j k p s)
    (hdrop : statStep c.pay ≠ (s.job j).attemptStep ∨ (repeats (statRec dev pos c) v = true ∧ supersedes (statRec dev pos c) = false)) :
    Comes j { v with dropped := v.dropped + 1 } s (takeStat dev c s1) := by
  obtain ⟨z, hz, hverd, hothers, honly⟩ := h.admitted_verd hc hroom
  have hset := verdSet_onlyJob j { v with dropped := v.dropped + 1 } z
  rw [h.takeStat_step hc hz hverd, if_pos (by simpa using hdrop)]
  exact (Comes.mk (verdSet_verd _ _ _) hset.others (hset.only.mono (by simp [refusedAreas]))).after hothers honly

/-- A STAT of the open attempt is kept; in a brown-out hold the verdict tile goes no further (R152, R426). -/
theorem collects (h : StatCell c j k s s1) (hc : Collecting j k pos v s) (hroom : StatRoom j k p s)
    (hstep : statStep c.pay = (s.job j).attemptStep) (hkeep : (repeats (statRec dev pos c) v && !supersedes (statRec dev pos c)) = false)
    (hhold : s.clk.hold = true) :
    Comes j (withStat (statRec dev pos c) v) s (takeStat dev c s1) := by
  obtain ⟨z, hz, hverd, hothers, honly⟩ := h.admitted_verd hc hroom
  have hset := verdSet_onlyJob j (withStat (statRec dev pos c) v) z
  have hclk : (verdSet j (withStat (statRec dev pos c) v) z).clk = s.clk :=
    (hset.only.2.2 .clk (by simp)).trans (honly.2.2 .clk (by simp [refusedAreas]))
  have hstays : takeStat dev c s1 = verdSet j (withStat (statRec dev pos c) v) z := by
    rw [h.takeStat_step hc hz hverd, hkeep, Bool.or_false, decide_eq_false (not_not_intro hstep), if_neg Bool.false_ne_true,
      verdictRun_hold (by rw [hclk, hhold])]
  rw [hstays]
  exact (Comes.mk (verdSet_verd _ _ _) hset.others (hset.only.mono (by simp [refusedAreas]))).after hothers honly

end StatCell

/-! ### The twin's decision (R156) -/

/-- The twin's decision of the open attempt has come for the job in slot j, whose verdict tile holds v; s1 is the state with it taken. -/
structure Decision (c : Cell) (j : Nat) (v : Verd) (s s1 : State) : Prop where
  kind : c.kind = kVerdict
  sub : ksfSub c = 3
  good : ksfBad c = false
  take : takeTwin c s = some s1
  slot : slotOf c.job s = some j
  verdict : isVerdict s j = true
  step : payN c.pay 0 5 = (s.job j).attemptStep
  verd : (s.job j).verd = some v

theorem takeTwin_taken {c : Cell} {s s1 : State} (h : takeTwin c s = some s1) : CellTaken s s1 := by
  unfold takeTwin at h
  split at h
  · next htake =>
    cases h
    exact takeRx_taken htake
  · exact takeRx_taken h

namespace Decision

variable {c : Cell} {j : Nat} {v : Verd} {s s1 : State}

theorem taken (h : Decision c j v s s1) : CellTaken s s1 := takeTwin_taken h.take

/-- The verdict tile goes on with its twin's decision in hand. -/
theorem exec_eq {t : Time} {s : State} (h : Decision c j v (tick t s) s1) :
    exec (.twinDecision t c) s = .next (verdictRun j (verdSet j { v with theirs := some c.pay } s1)) := by
  have hslot : slotOf c.job s1 = some j := h.taken.slotOf c.job ▸ h.slot
  have hverdict : isVerdict s1 j = true := by
    simp only [isVerdict, h.taken.job, h.taken.dev]
    exact h.verdict
  have hstep : payN c.pay 0 5 = (s1.job j).attemptStep := by rw [h.taken.job, h.step]
  have hverd : (s1.job j).verd = some v := by rw [h.taken.job, h.verd]
  have hopen : updVerd j (fun v => { v with theirs := some c.pay }) (openVerd j s1) = verdSet j { v with theirs := some c.pay } s1 := by
    rw [openVerd_eq hverd, updVerd_verdSet]
  simp [exec, execTwinDecision, h.kind, h.sub, h.take, hslot, h.good, hverdict, hstep, hopen]

/-- The state with the twin's decision in hand. -/
def noted (c : Cell) (j : Nat) (v : Verd) (s1 : State) : State := verdSet j { v with theirs := some c.pay } s1

/-- Noting the decision changes the job's verdict tile alone. -/
theorem noted_onlyJob (h : Decision c j v s s1) : (∀ q, q ≠ j → (noted c j v s1).job q = s.job q) ∧ OnlyChanges [.ports, .jobs] s (noted c j v s1) := by
  have hset := verdSet_onlyJob j { v with theirs := some c.pay } s1
  exact ⟨fun q hq => (hset.others q hq).trans (h.taken.job q), (h.taken.only.mono (by simp)).trans (hset.only.mono (by simp))⟩

theorem noted_hold (h : Decision c j v s s1) : (noted c j v s1).clk.hold = s.clk.hold := by
  rw [h.noted_onlyJob.2.2.2 .clk (by simp)]

/-- In a brown-out hold the decision waits (R426). -/
theorem held (h : Decision c j v s s1) (hhold : s.clk.hold = true) : verdictRun j (noted c j v s1) = noted c j v s1 :=
  verdictRun_hold (by rw [h.noted_hold, hhold])

/-- In round 1 the twins' decisions settle the attempt (R156). -/
theorem settles (h : Decision c j v s s1) {mine : Payload} (hhold : s.clk.hold = false) (htwin : (s.job j).twin = .paired)
    (halone : alone s j v = false) (hphase : v.phase = .twin1 mine) :
    Comes j { v with phase := .decided, theirs := none } s (verdictRun j (noted c j v s1)) := by
  obtain ⟨hothers, honly⟩ := h.noted_onlyJob
  have htwin' : ((noted c j v s1).job j).twin = .paired := by
    rw [noted, verdSet, updJob_job_same, h.taken.job, htwin]
  have hboth : (noted c j v s1).twin = s.twin := honly.2.2 .twin (by simp)
  have halone' : alone (noted c j v s1) j { v with theirs := some c.pay } = false := by
    simpa only [alone, htwin', hboth, htwin] using halone
  exact ((verdictTry_settles (verdSet_verd j { v with theirs := some c.pay } s1) (h.noted_hold.trans hhold) htwin' hphase rfl halone').run rfl).after
    hothers (honly.mono (by simp [refusedAreas]))

theorem runs {t : Time} {s : State} (h : Decision c j v (tick t s) s1) {P : State → Prop} (hp : P (verdictRun j (noted c j v s1))) :
    Runs (.twinDecision t c) s P := ⟨_, h.exec_eq, hp⟩

end Decision

/-! ### The verdict tile's deadline (R152) -/

theorem runs_verdictDeadline {t : Time} {slot : Slot} {v : Verd} {s : State} {P : State → Prop} (hverd : (s.job slot.val).verd = some v)
    (hp : P (if v.deadline = 0 then tick t s else verdictRun slot.val (tick t s))) : Runs (.verdictDeadline t slot) s P :=
  ⟨_, by simp only [exec, execVerdictDeadline, tick_job, hverd], hp⟩

/-- Settles O51: a STAT goes with its instance's part (PartDone), the verdict tile keeps it (StatCell), and a deadline that has passed or the twin's
decision settles the attempt (verdictTry_expires, verdictTry_settles). -/
theorem statsAndDecisions : Obligations.StatsAndDecisions := by
  intro t slot coll c s s0 j x k e
  refine ⟨fun i hinst => ⟨fun hended => ⟨_, rfl, statSend_waits hinst hended⟩, fun hended hop hcompared hdrained hpart hunsent hposted => ?_⟩,
    fun dev s1 hkind htake hslot hcoll hgood hverdict hpaired hup => ?_, fun v hverd => ?_⟩
  · have h : PartDone j k i s0 := ⟨hinst, hended, hop, hcompared, hdrained, hpart, hunsent, hposted⟩
    refine ⟨fun hother hworst hsat => ⟨_, rfl, ?_⟩, fun hrum => ⟨_, rfl, h.runsOn hrum⟩⟩
    obtain ⟨hstatus, hfinal, hstands⟩ := h.completes hother hworst hsat
    exact ⟨hstatus, hfinal, hstands.other, hstands.only⟩
  · have h : StatCell c j k s0 s1 := ⟨hkind, htake, hslot, hcoll, hgood, hverdict, hpaired, hup⟩
    refine ⟨fun hbind => h.runs (h.unbound hbind), fun b p hbind hqueue hlen => ?_⟩
    have hroom : StatRoom j k p s0 := ⟨⟨b, hbind, hqueue⟩, hlen⟩
    refine ⟨fun hop hwaits => h.runs ?_, fun pos v hop hpos hverd hphase hdeadline => ?_⟩
    · obtain ⟨hentry, hothers, honly⟩ := h.kept hroom hop hwaits
      exact ⟨hentry.trans (keepStat_seen _ _ _ _ _), hothers, honly.mono (by simp [refusedAreas])⟩
    · have hc : Collecting j k pos v s0 := ⟨hop, hpos, hverd, hphase, hdeadline⟩
      refine ⟨fun hstep hnew hhold => h.runs ?_, fun hstep hagain hsupersedes hhold => h.runs ?_, fun hdrop => h.runs ?_⟩
      · have hnew' : repeats (statRec dev pos c) v = false := hnew
        obtain ⟨hkept, hothers, honly⟩ := h.collects hc hroom hstep (by rw [hnew']; rfl) hhold
        rw [withStat, hnew', addStat_new hnew'] at hkept
        exact ⟨hkept, hothers, honly.mono (by simp [refusedAreas])⟩
      · have hagain' : repeats (statRec dev pos c) v = true := hagain
        have hsupersedes' : supersedes (statRec dev pos c) = true := hsupersedes
        obtain ⟨hkept, hothers, honly⟩ := h.collects hc hroom hstep (by rw [hsupersedes', Bool.not_true, Bool.and_false]) hhold
        rw [withStat, hagain'] at hkept
        exact ⟨hkept, hothers, honly.mono (by simp [refusedAreas])⟩
      · obtain ⟨hdropped, -, honly⟩ := h.drops hc hroom hdrop
        exact ⟨hdropped, honly.mono (by simp [refusedAreas])⟩
  · have hverd0 : (s0.job j).verd = some v := hverd
    refine ⟨fun hset => runs_verdictDeadline hverd (if_pos hset), fun hhold => runs_verdictDeadline hverd ?_,
      fun hset htime hphase hmissing hhold hserving => runs_verdictDeadline hverd ?_,
      fun s1 hkind hsub hgood htake hslot hverdict hstep => ?_⟩
    · rw [verdictRun_hold (show (tick t s).clk.hold = true from hhold), ite_self]
    · obtain ⟨hdecided, hothers, honly⟩ := (verdictTry_expires hverd0 hhold hserving hphase hset htime hmissing).run rfl
      rw [if_neg hset]
      exact ⟨hdecided, hothers, honly⟩
    · have h : Decision c j v s0 s1 := ⟨hkind, hsub, hgood, htake, hslot, hverdict, hstep, hverd⟩
      refine ⟨fun hhold => h.runs ?_, fun mine hhold htwin halone hphase => h.runs ?_⟩
      · obtain ⟨hothers, honly⟩ := h.noted_onlyJob
        rw [h.held hhold]
        exact ⟨verdSet_verd _ _ _, hothers, honly⟩
      · obtain ⟨hsettled, hothers, honly⟩ := h.settles hhold htwin halone hphase
        exact ⟨hsettled, hothers, honly⟩

end Sys2Proof.Safety
end

section
/-! PROOF. State access (O20): STATE_WRITE refuses, waits or writes its target (R94, R96, R142), and STATE_READ hands over a target's bytes (R386). -/

namespace Sys2Proof.Safety

open Sys2Proof.Machine

/-- A host command that may run answers its body on the command in execution. -/
theorem runs_given {op : Nat} {t : Time} {h : HostCmd} {x : Exec} {body : Exec → State → State} {c : Instr} {s : State} {P : State → Prop}
    (hexec : exec c s = .next (hostCmd op t h body s)) (hg : Given op h x s) (hp : P (body x (at_ t h s))) : Runs c s P :=
  ⟨_, hexec.trans (congrArg Host.Outcome.next (hostCmd_given hg)), hp⟩

/-! ### What a write leaves of its job (Table HI-10) -/

@[simp] theorem touch_bank0 (a : Area) (off n : Nat) (x : Job) : (x.touch a off n).bank0 = x.bank0 := by rw [touch_eq]
@[simp] theorem touch_bank1 (a : Area) (off n : Nat) (x : Job) : (x.touch a off n).bank1 = x.bank1 := by rw [touch_eq]
@[simp] theorem touch_step (a : Area) (off n : Nat) (x : Job) : (x.touch a off n).step = x.step := by rw [touch_eq]

section

variable {d : BitVec 512} (bs : List Byte) (x : Job)

theorem applyWrite_bank0 (h : stTarget d = 3) :
    applyWrite d bs x = { x with bank0 := x.bank0.writeN (stOff d) (bankWrite x.u (stOff d) bs) }.touch .bank0 (stOff d) bs.length := by
  simp only [applyWrite, h]

theorem applyWrite_bank1 (h : stTarget d = 4) :
    applyWrite d bs x = { x with bank1 := x.bank1.writeN (stOff d) (bankWrite x.u (stOff d) bs) }.touch .bank1 (stOff d) bs.length := by
  simp only [applyWrite, h]

theorem applyWrite_hold (h : stTarget d = 5) :
    applyWrite d bs x = { x with gradHold := x.gradHold.writeN (stOff d) bs }.touch .hold (stOff d) bs.length := by
  simp only [applyWrite, h]

theorem applyWrite_shards (h : stTarget d = 0xB) : applyWrite d bs x = { x with shards := x.shards.writeN (stOff d) bs } := by
  simp only [applyWrite, h]

end

/-- A write of the fused operand leaves the rest of its job standing (R94). -/
theorem writeOperand_stands (j coll off : Nat) (bs : List Byte) (s : State) : JobStands j s (writeOperand j coll off bs s) :=
  .foldl _ (fun _ _ => putOperand_stands _ _ _ _ _) _ s

section

variable {j : Nat} {d : BitVec 512} (bs : List Byte) (s : State)

/-- A write of any other target changes its job alone. -/
theorem writeTarget_job (h : stTarget d ≠ 9) : writeTarget j d bs s = s.updJob j (applyWrite d bs) := if_neg h

theorem writeTarget_other {i : Nat} (hi : i ≠ j) : (writeTarget j d bs s).job i = s.job i := by
  by_cases h : stTarget d = 9
  · rw [writeTarget, if_pos h]
    exact (writeOperand_stands _ _ _ _ _).other i hi
  · rw [writeTarget_job bs s h, updJob_job_other hi]

theorem writeTarget_only (h : stTarget d ≠ 9) : OnlyChanges [.jobs] s (writeTarget j d bs s) := by
  rw [writeTarget_job bs s h]
  exact updJob_only _ _ _

/-- The job that a write of another target than the operand leaves. -/
theorem writeTarget_same (h : stTarget d ≠ 9) : (writeTarget j d bs s).job j = applyWrite d bs (s.job j) := by
  rw [writeTarget_job bs s h, updJob_job_same]

end

/-! ### STATE_WRITE (R142, R386) -/

/-- The targets that only STATE_READ takes. -/
theorem writeCode_readOnly {d : BitVec 512} (x : Job) (bs : List Byte) (h : stTarget d = 7 ∨ stTarget d = 8 ∨ stTarget d = 0xA) :
    writeCode x d bs = some 0x040C := by
  have hbad : (decide (stTarget d = 7) || decide (stTarget d = 8) || decide (stTarget d = 0xA)) = true := by simpa [or_assoc] using h
  simp only [writeCode, firstCode, hbad, codeIf, if_true, List.findSome?_cons, id]

section

variable {x : Exec} {data : List Byte} {slot : Nat} {s : State}
variable (hslot : slotOf (descJob x.desc) s = some slot) (hst : (s.job slot).st ≠ .stopping)
include hslot hst

theorem stateWrite_refused {code : Nat} (hcode : writeCode (s.job slot) x.desc (data.take (descLen x.desc)) = some code) :
    stateWrite x data s = refuse x code s := by
  simp [stateWrite, hslot, hst, hcode]

/-- A write of the commit word waits for the end of a brown-out hold (R426). -/
theorem stateWrite_waits (hcode : writeCode (s.job slot) x.desc (data.take (descLen x.desc)) = none) (htarget : stTarget x.desc = 1)
    (hhold : s.clk.hold = true) : stateWrite x data s = s := by
  simp [stateWrite, hslot, hst, hcode, htarget, hhold]

/-- A write of the fused operand under an instance is kept for its end (R96). -/
theorem stateWrite_kept (hcode : writeCode (s.job slot) x.desc (data.take (descLen x.desc)) = none) (htarget : stTarget x.desc = 9)
    (hinst : holdsWrite x slot s = true) :
    stateWrite x data s = beginExec x (s.updJob slot (fun y => y.updEntry (stColl x.desc) (fun e =>
      { e with opNew := some (stOff x.desc, data.take (descLen x.desc)) }))) := by
  simp [stateWrite, hslot, hst, hcode, htarget, hinst]

theorem stateWrite_done (hcode : writeCode (s.job slot) x.desc (data.take (descLen x.desc)) = none)
    (hhold : ¬ (stTarget x.desc = 1 ∧ s.clk.hold = true)) (hinst : ¬ (stTarget x.desc = 9 ∧ holdsWrite x slot s = true)) :
    stateWrite x data s = finish x stDone 0 (leBytes 8 (data.take (descLen x.desc)).length) true
      (writeTarget slot x.desc (data.take (descLen x.desc)) s) := by
  simp [stateWrite, hslot, hst, hcode, hhold, hinst]

/-! ### STATE_READ (R386) -/

theorem stateRead_refused {ok : Bool} {code : Nat} (hcode : accessCode (s.job slot) x.desc = some code) : stateRead x ok s = refuse x code s := by
  simp [stateRead, hslot, hst, hcode]

theorem stateRead_done {ok : Bool} (hcode : accessCode (s.job slot) x.desc = none) :
    stateRead x ok s = finish x stDone 0 (leBytes 8 (targetBytes s slot x.desc).length ++ leBytes 4 (jobWord s slot)) ok
      (writeBuffer x.ents (targetBytes s slot x.desc) s) := by
  simp [stateRead, hslot, hst, hcode]

end

theorem targetBytes_shards {d : BitVec 512} (h : stTarget d = 0xB) (s : State) (slot : Nat) :
    targetBytes s slot d = (s.job slot).shards.readN (stOff d) (descLen d) := by
  simp only [targetBytes, h]

/-- Settles O20: the checks refuse or pass both commands alike; a write that passes is its target's (writeTarget), unless a hold or a running
instance keeps it (stateWrite_waits, stateWrite_kept); a read leaves the jobs (writeBuffer_only). -/
theorem stateAccess : Obligations.StateAccess := by
  intro t h x slot s hslot hst s0 bs off target
  have hslot0 : slotOf (descJob x.desc) s0 = some slot := hslot
  have hwrite {P : State → Prop} (hg : Given 0x07 h x s) (hp : P (stateWrite x h.data s0)) : Runs (.stateWrite t h) s P := runs_given rfl hg hp
  have hread {P : State → Prop} (hg : Given 0x08 h x s) (hp : P (stateRead x h.writeOk s0)) : Runs (.stateRead t h) s P := runs_given rfl hg hp
  refine ⟨fun hg hcode hhold hinst => hwrite hg ?_, fun hg hcode htarget hinst => hwrite hg ?_, fun hg hcode htarget hhold => hwrite hg ?_,
    fun hg code hcode => hwrite hg (stateWrite_refused hslot0 hst hcode), writeCode_readOnly _ _, fun hg hcode => ⟨?_, hread hg ?_⟩,
    fun hg code hcode => hread hg (stateRead_refused hslot0 hst hcode)⟩
  · rw [stateWrite_done hslot0 hst hcode hhold hinst]
    have hjob (h9 : target ≠ 9) : (writeTarget slot x.desc bs s0).job slot = applyWrite x.desc bs (s.job slot) := writeTarget_same bs s0 h9
    simp only [finish_job]
    refine ⟨rfl, fun h3 => ?_, fun h4 => ?_, fun h5 => ?_, fun hB => ?_, fun h9 => ?_, fun i hi => writeTarget_other bs s0 hi⟩
    · rw [hjob (by omega), applyWrite_bank0 _ _ h3]
      simp [off]
    · rw [hjob (by omega), applyWrite_bank1 _ _ h4]
      simp [off]
    · rw [hjob (by omega), applyWrite_hold _ _ h5]
      simp [off]
    · rw [hjob (by omega), applyWrite_shards _ _ hB]
      exact ⟨rfl, rfl⟩
    · exact ((writeTarget_only bs s0 h9).mono (by simp)).trans ((finish_only _ _ _ _ _ _).mono (by simp [ringAreas]))
  · exact stateWrite_kept hslot0 hst hcode htarget hinst
  · exact stateWrite_waits hslot0 hst hcode htarget hhold
  · exact fun hB => targetBytes_shards hB s0 slot
  · rw [stateRead_done hslot0 hst hcode]
    have honly (res : List Byte) : OnlyChanges ringAreas s0 (finish x stDone 0 res h.writeOk (writeBuffer x.ents (targetBytes s0 slot x.desc) s0)) :=
      (writeBuffer_only _ _ _).trans (finish_only _ _ _ _ _ _)
    exact ⟨rfl, (honly _).2.2 .jobs (by simp [ringAreas]), honly _⟩

end Sys2Proof.Safety
end

section
/-! PROOF. STEP_REPLAY (O22): a replay begins with its instances armed (R169), and its outcome or its late limit ends it (R387). -/

namespace Sys2Proof.Safety

open Sys2Proof.Machine

/-! ### A replay begins (R168, R169) -/

theorem StartStep.stands {j k : Nat} {s s' : State} (h : StartStep j k s s') : JobStands j s s' :=
  ⟨h.only.mono (by simp [startAreas, verdictAreas]), h.entries.2, h.kept⟩

theorem hostWrite_stands (j a : Nat) (bs : List Byte) (s : State) : JobStands j s (hostWrite a bs s) :=
  .of_only (hostWrite_only a bs s) (by simp [verdictAreas]) (by simp)

/-- Arming the instances of a replay starts each of them. -/
theorem armReplay_stands (j coll k : Nat) (s : State) : JobStands j s (armReplay j coll k s) := (startInst_step _ _ _ _ _ _ _).stands

/-- The start of a replay leaves every other job, and its own but for the replay itself. -/
theorem beginReplay_jobs (j : Nat) (x : Exec) (data : List Byte) (s : State) :
    (∀ i, i ≠ j → (beginReplay j x data s).job i = s.job i) ∧
    GateKept { s.job j with replay := some (newReplay (s.job j) x data s.time) } ((beginReplay j x data s).job j) := by
  unfold beginReplay
  extract_lets y colls s1 s2 s3
  have harmed : JobStands j s1 s2 := .foldl _ (fun _ _ => armReplay_stands _ _ _ _) _ _
  have hwritten : JobStands j s3 (colls.zipIdx.foldl (fun s c =>
      hostWrite (descN x.desc 40 8 + 16 * c.2) (replayRecord c.1 ((s.job j).entry c.1).epoch.toNat) s) s3) :=
    .foldl _ (fun _ _ => hostWrite_stands _ _ _ _) _ _
  refine ⟨fun i hi => (hwritten.other i hi).trans ((harmed.other i hi).trans (updJob_job_other hi _ _)), ?_⟩
  have hkept : GateKept (s1.job j) _ := harmed.kept.trans hwritten.kept
  rwa [updJob_job_same] at hkept

theorem GateKept.replay {x y : Job} (h : GateKept x y) : y.replay = x.replay := by
  rw [h]

theorem codeIf_eq_none {b : Bool} {c : Nat} : codeIf b c = none ↔ b = false := by cases b <;> simp [codeIf]

/-- A replay that no check refuses reads the record of the manifest that has its attempt (R168). -/
theorem newReplay_rec {x : Exec} {data : List Byte} {s : State} {j : Nat} (h : replayCode s j x.desc data = none) (now : Time) :
    recordOf (s.job j) (descN x.desc 24 5) (descN x.desc 29 1) = some (newReplay (s.job j) x data now).rec_ := by
  simp only [replayCode, firstCode, List.findSome?_eq_none_iff, List.forall_mem_cons, id, codeIf_eq_none] at h
  obtain ⟨-, -, hrecord, -⟩ := h
  obtain ⟨k, hk⟩ := Option.isSome_iff_exists.mp (Option.isNone_eq_false_iff.mp hrecord)
  simp only [newReplay, hk, Option.getD_some]

section

variable {x : Exec} {data : List Byte} {slot : Nat} {s : State} (hslot : slotOf (descJob x.desc) s = some slot)
include hslot

theorem stepReplay_refused {code : Nat} (hcode : replayCode s slot x.desc data = some code) : stepReplay x data s = refuse x code s := by
  simp only [stepReplay, hslot, hcode]

theorem stepReplay_begun (hcode : replayCode s slot x.desc data = none) :
    stepReplay x data s = postCompletion x stStarted 0 (leBytes 2 (replayPositions (s.job slot) x.desc data).length) true
      (beginExec x (beginReplay slot x data s)) := by
  simp only [stepReplay, hslot, hcode]

end

/-- STARTED leaves the jobs as the replay's start left them. -/
theorem started_job (x : Exec) (res : List Byte) (s : State) (i : Nat) :
    (postCompletion x stStarted 0 res true (beginExec x s)).job i = s.job i :=
  (postCompletion_only _ _ _ _ _ _).job (by simp [ringAreas]) i

/-! ### A replay ends (R387, Table UP-16) -/

section

variable {slot p : Nat} {r : Replay} {c : BitVec 12 × Nat} {s : State} (hr : (s.job slot).replay = some r)
include hr

/-- A replay of no position ends at once. -/
theorem replayDone_nil (hnone : r.positions = []) :
    replayDone slot s = finish r.x stDone 0 (leBytes 2 0 ++ leBytes 1 0) true (endReplay slot { s with free := s.free + (s.job slot).dc }) := by
  simp [replayDone, hr, hnone]

section

variable (hone : r.positions = [p]) (hstep : (s.job slot).steps[p]? = some c)
include hone hstep

/-- A replay of one position ends with its findings once the instance has replayed. -/
theorem replayDone_found (hdone : replayed s slot c.1.toNat = true) :
    let f := findings s (s.job slot) r p c.1.toNat
    replayDone slot s = finish r.x stDone 0 (leBytes 2 1 ++ leBytes 1 (firstFinding f).outcome) true
      (endReplay slot (hostWrite (r.resaddr + 2) (findingBytes f) { s with free := s.free + (s.job slot).dc })) := by
  simp [replayDone, hr, hone, hstep, hdone]

/-- A replay whose instance has not replayed by its late limit fails. -/
theorem replayDone_late (hdone : replayed s slot c.1.toNat = false) (hlate : r.deadline ≤ s.time) :
    replayDone slot s = finish r.x stFailed 0x070F (leBytes 2 1) true (endReplay slot s) := by
  simp [replayDone, hr, hone, hstep, hdone, hlate]

end
end

/-- Settles O22: the checks refuse, or the replay begins (beginReplay_jobs) and the command is STARTED; the three ends are those of a replay of no
position (replayDone_nil), with an outcome (replayDone_found) and past its limit (replayDone_late). -/
theorem stepReplayArms : Obligations.StepReplayArms := by
  intro t h x slot s s0 ps
  have hruns {P : State → Prop} (hg : Given 0x0B h x s) (hp : P (stepReplay x h.data s0)) : Runs (.stepReplay t h) s P := runs_given rfl hg hp
  have hnamed (hslot : slotOf (descJob x.desc) s = some slot.val) : slotOf (descJob x.desc) s0 = some slot.val := hslot
  refine ⟨fun hg hslot hcode => hruns hg ?_, fun hg hslot code hcode => hruns hg (stepReplay_refused (hnamed hslot) hcode),
    fun r hr hnone => ⟨_, rfl, replayDone_nil hr hnone⟩, fun r p c hr hone hstep hdone => ⟨_, rfl, replayDone_found hr hone hstep hdone⟩,
    fun r p c hr hone hstep hdone hlate => ⟨_, rfl, replayDone_late hr hone hstep hdone hlate⟩⟩
  obtain ⟨hothers, hkept⟩ := beginReplay_jobs slot.val x h.data s0
  rw [stepReplay_begun (hnamed hslot) hcode]
  simp only [started_job]
  exact ⟨rfl, hkept.replay, newReplay_rec hcode s0.time, hkept.ident.1, hothers⟩

end Sys2Proof.Safety
end

section
/-! PROOF. Queue control (O56): NOP, WAIT and BARRIER, which name no binding and have one unit (08 R209, R218, Table TP-8). -/

namespace Sys2Proof.Safety

open Sys2Proof.Machine

/-! ### The head of a queue leaves it, and nothing else changes but counters -/

theorem completeHead_counts {n j q : Nat} {c : CqEnt} {s : State} (hidle : (s.tile n).dispatchQ = []) :
    OnlyChanges [.obs] (pulled n j q s) (completeHead n j q c s) := by
  have hwaits : ((pulled n j q s).tile n).dispatchQ = [] := by simpa [pulled, TileS.updJob] using hidle
  have hpump : pumpTile n (pulled n j q s) = pulled n j q s := pumpTile_idle hwaits
  unfold pulled at hpump ⊢
  unfold completeHead
  rw [hpump]
  exact (bump_only _ _ _).trans (charge_only _ _ _ _ _ _ _)

theorem completeHead_left {n j q : Nat} {c : CqEnt} {s : State} (hidle : (s.tile n).dispatchQ = []) :
    Left n j q s (completeHead n j q c s) ∧ OnlyChanges tileAreas s (completeHead n j q c s) := by
  have hcounts := completeHead_counts (j := j) (q := q) (c := c) hidle
  exact ⟨(Framed.of_quiet (.refl n j s)).left (Noted.of_obs n j hcounts).toQuiet, (tileAreas_tile _ _ _).trans (tileAreas_obs hcounts)⟩

theorem completeHead_flags {n j q : Nat} {c : CqEnt} {s : State} (hidle : (s.tile n).dispatchQ = []) :
    (((completeHead n j q c s).tile n).job j).flags = ((s.tile n).job j).flags := by
  rw [(completeHead_counts hidle).tile (by simp)]
  simp [pulled]

theorem updHead_only (n j q : Nat) (f : CqEnt → CqEnt) (s : State) : OnlyChanges [.tiles] s (updHead n j q f s) := updTile_only _ _ _

theorem updHead_tile_other {n m : Nat} (h : m ≠ n) (j q : Nat) (f : CqEnt → CqEnt) (s : State) : (updHead n j q f s).tile m = s.tile m :=
  updTile_tile_other h _ _

theorem updHead_waits (n j q : Nat) (f : CqEnt → CqEnt) (s : State) : ((updHead n j q f s).tile n).dispatchQ = (s.tile n).dispatchQ := by
  simp [updHead, TileS.updJob]

theorem updHead_flags (n j q : Nat) (f : CqEnt → CqEnt) (s : State) : (((updHead n j q f s).tile n).job j).flags = ((s.tile n).job j).flags := by
  simp [updHead]

/-- The queue whose head is changed. -/
theorem updHead_queue {n j q : Nat} {f : CqEnt → CqEnt} {c : CqEnt} {s : State} (h : cqHead s n j q = some c) :
    Tbl.get [] (((updHead n j q f s).tile n).job j).cqs q = f c :: (Tbl.get [] ((s.tile n).job j).cqs q).tail := by
  obtain ⟨rest, hrest⟩ := List.head?_eq_some_iff.mp h
  simp [updHead, hrest]

theorem cqHead_updHead_other {n j p q : Nat} (h : p ≠ q) (f : CqEnt → CqEnt) (s : State) : cqHead (updHead n j q f s) n j p = cqHead s n j p := by
  simp [cqHead, updHead, Tbl.get_upd_other _ _ _ h]

/-! ### An instruction of one unit that names no binding (R199, R209) -/

section

variable {n j q : Nat} {opc : Nat → Bool} {unit : Unit'} {hold : Bool} {c : CqEnt} {s s1 : State} (hat : AtHead n j q c s)
  (hopc : opc (iOpc c.insn) = true) (hbind : bindName c.insn = none)
include hat hopc hbind

theorem runHead_unbound : runHead n j q opc (fun _ _ => ⟨1, 0, 0⟩) (fun _ => hold) unit s = runUnits 5 n j q ⟨1, 0, 0⟩ unit hold (some s) s := by
  obtain ⟨hcq, hdone, hskip, hheld, hdown, hlegal, hkeep⟩ := hat
  simp [runHead, hcq, hopc, hbind, hdone, hskip, hheld, hdown, hlegal, hkeep, Plan.units]

theorem runHead_waits (hunit : unit c 0 0 s = .wait) : runHead n j q opc (fun _ _ => ⟨1, 0, 0⟩) (fun _ => hold) unit s = s := by
  rw [runHead_unbound hat hopc hbind]
  obtain ⟨hcq, hdone, hskip, -⟩ := hat
  simp [runUnits, hcq, hdone, hskip, hunit, Plan.units]

/-- Its unit runs: it is held where its completion waits for an event, and completes otherwise. -/
theorem runHead_unit (hunit : unit c 0 0 s = .done s1) (hhead : cqHead s1 n j q = some c) :
    runHead n j q opc (fun _ _ => ⟨1, 0, 0⟩) (fun _ => hold) unit s =
      if hold then updHead n j q (fun e => { e with held := true }) (updHead n j q countUnit s1)
      else completeHead n j q (countUnit c) (updHead n j q countUnit s1) := by
  have hcounted : cqHead (updHead n j q countUnit s1) n j q = some (countUnit c) := by rw [cqHead_updHead, hhead, Option.map_some]
  rw [runHead_unbound hat hopc hbind]
  obtain ⟨hcq, hdone, hskip, -⟩ := hat
  have hfirst : runUnits 5 n j q ⟨1, 0, 0⟩ unit hold (some s) s =
      runUnits 4 n j q ⟨1, 0, 0⟩ unit hold (some s) (updHead n j q countUnit s1) := by
    rw [runUnits]
    simp [hcq, hdone, hskip, hunit, Plan.units]
    rfl
  rw [hfirst, runUnits]
  simp [hcounted, countUnit, hdone, hskip, Plan.units]

/-- One that completes leaves its queue after its work. -/
theorem runHead_left (hidle : (s.tile n).dispatchQ = []) (hunit : unit c 0 0 s = .done s1) (hwork : Framed n j s s1)
    (honly : OnlyChanges tileAreas s s1) :
    let s' := runHead n j q opc (fun _ _ => ⟨1, 0, 0⟩) (fun _ => false) unit s
    Left n j q s s' ∧ OnlyChanges tileAreas s s' ∧ ((s'.tile n).job j).flags = ((s1.tile n).job j).flags := by
  have hwaits : ((updHead n j q countUnit s1).tile n).dispatchQ = [] := by rw [updHead_waits, hwork.waits, hidle]
  obtain ⟨hleft, hcounts⟩ := completeHead_left (j := j) (q := q) (c := countUnit c) hwaits
  intro s'
  rw [show s' = _ from runHead_unit hat hopc hbind hunit (hwork.cqHead.trans hat.1), if_neg Bool.false_ne_true]
  refine ⟨hwork.left_trans (left_of_updHead hleft), (honly.trans (tileAreas_tile _ _ _)).trans hcounts, ?_⟩
  rw [completeHead_flags hwaits, updHead_flags]

end

/-! ### WAIT for a flag (Table TP-8) -/

section

variable {n j q : Nat} {c : CqEnt} {s : State} (hflag : iMod c.insn 11 3 = 3)
include hflag

theorem occurred_flag : occurred s n j c.insn = ((s.tile n).job j).flags.getLsbD (iMod c.insn 0 11 % 32) := by simp [occurred, hflag]

theorem takeEvent_flags : (((takeEvent n j c.insn s).tile n).job j).flags =
    ((s.tile n).job j).flags &&& ~~~((1 : BitVec 32) <<< iMod c.insn 0 5) := by
  simp [takeEvent, hflag]

theorem takeEvent_framed : Framed n j s (takeEvent n j c.insn s) ∧ OnlyChanges tileAreas s (takeEvent n j c.insn s) := by
  rw [takeEvent, if_pos hflag]
  exact ⟨updTJob_framed (by exact fun _ => rfl) s, tileAreas_tile _ _ _⟩

variable (hopc : iOpc c.insn = 0x02)
include hopc

theorem bindName_waitFlag : bindName c.insn = none := by simp [bindName, hopc, hflag]

variable (hat : AtHead n j q c s)
include hat

/-- A WAIT whose flag is set takes the flag and leaves its queue. -/
theorem waitRun_takes (hidle : (s.tile n).dispatchQ = []) (hset : occurred s n j c.insn = true) :
    Left n j q s (waitRun n j q s) ∧ OnlyChanges tileAreas s (waitRun n j q s) ∧
      (((waitRun n j q s).tile n).job j).flags = ((s.tile n).job j).flags &&& ~~~((1 : BitVec 32) <<< iMod c.insn 0 5) := by
  obtain ⟨hframed, honly⟩ := takeEvent_framed (n := n) (j := j) (s := s) hflag
  rw [← takeEvent_flags hflag]
  exact runHead_left hat (by simp [hopc]) (bindName_waitFlag hflag hopc) hidle (by simp [waitUnit, hset]) hframed honly

theorem waitRun_stays (hclear : occurred s n j c.insn = false) : waitRun n j q s = s :=
  runHead_waits hat (by simp [hopc]) (bindName_waitFlag hflag hopc) (by simp [waitUnit, hclear])

end

theorem waitRelease_exec {t : Time} {tile : LTile} {slot : Slot} {cq : Fin 8} {c : CqEnt} {s : State}
    (hat : AtHead tile.val slot.val cq.val c (tick t s)) (hopc : iOpc c.insn = 0x02) :
    exec (.waitRelease t tile slot cq) s =
      .next (if occurred (tick t s) tile.val slot.val c.insn then waitRun tile.val slot.val cq.val (tick t s) else tick t s) := by
  show execWaitRelease t tile slot cq s = _
  simp [execWaitRelease, hat.1, hopc]

/-! ### BARRIER of one queue (R218) -/

theorem foldl_fixed_of_mem {α β : Type} {f : β → α → β} {b : β} {l : List α} (h : ∀ a ∈ l, f b a = b) : l.foldl f b = b := by
  induction l with
  | nil => rfl
  | cons a l ih =>
    obtain ⟨ha, hl⟩ := List.forall_mem_cons.mp h
    rw [List.foldl_cons, ha, ih hl]

/-- A fold in which one element alone changes what it meets. -/
theorem foldl_eq_of_one {α β : Type} {f : β → α → β} {b : β} {l : List α} {a : α} (hnodup : l.Nodup) (ha : a ∈ l)
    (hbefore : ∀ x ∈ l, x ≠ a → f b x = b) (hafter : ∀ x ∈ l, x ≠ a → f (f b a) x = f b a) : l.foldl f b = f b a := by
  induction l with
  | nil => cases ha
  | cons x l ih =>
    obtain ⟨hx, hl⟩ := List.nodup_cons.mp hnodup
    obtain ⟨hx', hbefore'⟩ := List.forall_mem_cons.mp hbefore
    obtain ⟨-, hafter'⟩ := List.forall_mem_cons.mp hafter
    rw [List.foldl_cons]
    by_cases hxa : x = a
    · subst hxa
      exact foldl_fixed_of_mem fun y hy => hafter' y hy (ne_of_mem_of_not_mem hy hx)
    · rw [hx' hxa]
      exact ih hl (List.mem_of_ne_of_mem (Ne.symm hxa) ha) hbefore' hafter'

/-- No command queue of job j on tile n but q holds an instruction. -/
def Alone (n j q : Nat) (s : State) : Prop := ∀ p, p < 8 → p ≠ q → cqHead s n j p = none

theorem Alone.updHead {n j q : Nat} {s : State} (h : Alone n j q s) (f : CqEnt → CqEnt) : Alone n j q (updHead n j q f s) :=
  fun p hp hpq => (cqHead_updHead_other hpq f s).trans (h p hp hpq)

theorem Alone.left {n j q : Nat} {s s' : State} (h : Alone n j q s) (hleft : Left n j q s s') : Alone n j q s' := by
  obtain ⟨-, hqueues, -⟩ := hleft
  intro p hp hpq
  rw [cqHead, hqueues p hpq]
  exact h p hp hpq

/-- No copy of a BARRIER stands outside its first queue: nothing is swept. -/
theorem Alone.sweep {n j q : Nat} {s : State} (h : Alone n j q s) (hlead : ∀ e, cqHead s n j q = some e → leadQueue e.insn = q) :
    sweep n j s = s := by
  refine foldl_fixed_of_mem fun p hp => ?_
  by_cases hpq : p = q
  · subst hpq
    split
    · next e he => simp [hlead e he]
    · rfl
  · simp [h p (List.mem_range.mp hp) hpq]

/-- A fresh head that has run its unit and is held. -/
theorem held_queue {n j q : Nat} {c : CqEnt} {s : State} (hcq : cqHead s n j q = some c) (hdone : c.done = 0) :
    Tbl.get [] (((updHead n j q (fun e => { e with held := true }) (updHead n j q countUnit s)).tile n).job j).cqs q =
      { c with done := 1, held := true } :: (Tbl.get [] ((s.tile n).job j).cqs q).tail := by
  have hcounted : cqHead (updHead n j q countUnit s) n j q = some (countUnit c) := by rw [cqHead_updHead, hcq, Option.map_some]
  rw [updHead_queue hcounted, updHead_queue hcq, List.tail_cons, countUnit, hdone]

theorem leadQueue_of_one {i : DWord} {q : Nat} (h : cqsOf i = [q]) : leadQueue i = q := by simp [leadQueue, h]

section

variable {n j q : Nat} {c : CqEnt} {s : State} (halone : Alone n j q s) (hopc : iOpc c.insn = 0x01)
include halone hopc

/-- A held BARRIER that stands alone completes: it leaves its queue, and no other instruction is left. -/
theorem freeBarrier_alone (hidle : (s.tile n).dispatchQ = []) (hcq : Tbl.get [] ((s.tile n).job j).cqs q = [c]) (hheld : c.held = true) :
    freeBarrier n j q s = completeHead n j q c s ∧ ∀ p, p < 8 → cqHead (completeHead n j q c s) n j p = none := by
  obtain ⟨hleft, -⟩ := completeHead_left (j := j) (q := q) (c := c) hidle
  have hothers := halone.left hleft
  have hown : cqHead (completeHead n j q c s) n j q = none := by
    obtain ⟨hqueue, -⟩ := hleft
    simp [cqHead, hqueue, hcq]
  have hhead : cqHead s n j q = some c := by simp [cqHead, hcq]
  refine ⟨?_, fun p hp => ?_⟩
  · have hsweep : sweep n j (completeHead n j q c s) = completeHead n j q c s := hothers.sweep (by simp [hown])
    simp [freeBarrier, hhead, hopc, hheld, hsweep]
  · by_cases hpq : p = q
    · rw [hpq, hown]
    · exact hothers p hp hpq

variable (hgrp : iMod c.insn 8 1 = 0) (hqs : cqsOf c.insn = [q])
include hgrp hqs

theorem barrierRelease_one (hq : q < 8) (hidle : (s.tile n).dispatchQ = []) (hcq : Tbl.get [] ((s.tile n).job j).cqs q = [c])
    (hheld : c.held = true) (hdown : tileDown s n = false) : barrierRelease n j s = completeHead n j q c s := by
  obtain ⟨hfree, hnone⟩ := freeBarrier_alone halone hopc hidle hcq hheld
  have hhead : cqHead s n j q = some c := by simp [cqHead, hcq]
  have hat : atHeads s n j c = true := by simp [atHeads, hqs, hhead]
  have hlead := leadQueue_of_one hqs
  rw [barrierRelease, hdown, if_neg Bool.false_ne_true, foldl_eq_of_one (a := q) List.nodup_range (List.mem_range.mpr hq)]
  · simp [hhead, hopc, hheld, hlead, hat, hgrp, hfree]
  · intro p hp hpq
    simp [halone p (List.mem_range.mp hp) hpq]
  · intro p hp _
    simp [hhead, hopc, hheld, hlead, hat, hgrp, hfree, hnone p (List.mem_range.mp hp)]

/-- A BARRIER of one queue at its head is held there. -/
theorem barrier_held (hat : AtHead n j q c s) :
    sweep n j (runHead n j q (· = 0x01) (fun _ _ => ⟨1, 0, 0⟩) (fun _ => true) (fun _ _ _ s => .done s) s) =
      updHead n j q (fun e => { e with held := true }) (updHead n j q countUnit s) := by
  have ⟨hcq, _⟩ := hat
  have hbind : bindName c.insn = none := by simp [bindName, hopc, hgrp]
  rw [runHead_unit hat (by simp [hopc]) hbind rfl hcq, if_pos rfl]
  refine ((halone.updHead _).updHead _).sweep fun e he => ?_
  rw [cqHead_updHead, cqHead_updHead, hcq] at he
  cases he
  exact leadQueue_of_one hqs

end

theorem barrier_exec {t : Time} {tile : LTile} {slot : Slot} {cq : Fin 8} {c : CqEnt} {s : State}
    (hat : AtHead tile.val slot.val cq.val c (tick t s)) (hopc : iOpc c.insn = 0x01) (hqs : cqsOf c.insn = [cq.val]) :
    exec (.barrier t tile slot cq) s = .next (sweep tile.val slot.val (runHead tile.val slot.val cq.val (· = 0x01) (fun _ _ => ⟨1, 0, 0⟩)
      (fun _ => true) (fun _ _ _ s => .done s) (tick t s))) := by
  show execBarrier t tile slot cq s = _
  simp [execBarrier, hat.1, hopc, leadQueue_of_one hqs]

/-- Settles O56: NOP and a WAIT whose flag is set leave their queue (runHead_left, waitRun_takes), a WAIT for a clear flag stays, and a BARRIER of one
queue is held at its head (barrier_held) until it completes there (barrierRelease_one). -/
theorem queueControl : Obligations.QueueControl := by
  intro t tile slot cq c s s0 n j q x leaves hidle
  have hleaves {s' : State} (h : Left n j q s0 s') (honly : OnlyChanges tileAreas s0 s') : leaves s' := by
    obtain ⟨hhead, hqueues, hjobs, htiles⟩ := h
    exact ⟨hhead, hqueues, fun k hk => (hjobs k hk).1, htiles, honly⟩
  refine ⟨fun hat hopc => ?_, fun hat hopc hflag => ⟨fun hset => ?_, fun hclear => ?_⟩,
    fun halone hopc hgrp hqs => ⟨fun hat => ?_, fun hqueue hheld hdown => ?_⟩⟩
  · obtain ⟨hleft, honly, -⟩ := runHead_left (opc := fun o => o = 0x00 || 0x14 ≤ o) (unit := fun _ _ _ s => .done s) hat (by simp [hopc])
      (by simp [bindName, hopc]) hidle rfl (.of_quiet (.refl _ _ _)) (.refl _ _)
    exact ⟨_, rfl, hleaves hleft honly⟩
  · have hoccurred : occurred s0 n j c.insn = true := (occurred_flag hflag).trans hset
    obtain ⟨hleft, honly, hflags⟩ := waitRun_takes hflag hopc hat hidle hoccurred
    have hrelease := waitRelease_exec hat hopc
    rw [if_pos hoccurred] at hrelease
    exact ⟨⟨_, rfl, hleaves hleft honly, hflags⟩, ⟨_, hrelease, hleaves hleft honly, hflags⟩⟩
  · have hoccurred : occurred s0 n j c.insn = false := (occurred_flag hflag).trans hclear
    have hrelease := waitRelease_exec hat hopc
    rw [if_neg (Bool.eq_false_iff.mp hoccurred)] at hrelease
    exact ⟨⟨_, rfl, waitRun_stays hflag hopc hat hoccurred⟩, ⟨_, hrelease, rfl⟩⟩
  · have ⟨hcq, hdone, _⟩ := hat
    have hqueue := held_queue hcq hdone
    refine ⟨_, (barrier_exec hat hopc hqs).trans (congrArg Host.Outcome.next (barrier_held halone hopc hgrp hqs hat)), ?_, hqueue, fun k hk => ?_,
      (updHead_only _ _ _ _ _).trans (updHead_only _ _ _ _ _)⟩
    · rw [cqHead, hqueue]
      rfl
    · rw [updHead_tile_other hk, updHead_tile_other hk]
      rfl
  · obtain ⟨hleft, honly⟩ := completeHead_left (j := j) (q := q) (c := c) (s := s0) hidle
    refine ⟨_, rfl, ?_⟩
    rw [barrierRelease_one halone hopc hgrp hqs cq.isLt hidle hqueue hheld hdown]
    exact hleaves hleft honly

end Sys2Proof.Safety
end

section
/-! PROOF. The pilot core (O57): what triggers and custom CSRs do to its tile (08 R222 to R227, Table TP-14). -/

namespace Sys2Proof.Safety

open Sys2Proof.Machine

/-! ### Work on one tile -/

/-- From s to s' tile n alone may have changed, and counters. -/
structure OneTile (n : Nat) (s s' : State) : Prop where
  only : OnlyChanges tileAreas s s'
  tiles : ∀ m, m ≠ n → s'.tile m = s.tile m

namespace OneTile

variable {n : Nat} {s s' s'' : State}

theorem trans (h : OneTile n s s') (h' : OneTile n s' s'') : OneTile n s s'' :=
  ⟨h.only.trans h'.only, fun m hm => (h'.tiles m hm).trans (h.tiles m hm)⟩

theorem of_obs (n : Nat) (h : OnlyChanges [.obs] s s') : OneTile n s s' := ⟨tileAreas_obs h, fun m _ => h.tile (by simp) m⟩

theorem updTile (n : Nat) (f : TileS → TileS) (s : State) : OneTile n s (s.updTile n f) :=
  ⟨tileAreas_tile _ _ _, fun _ hm => updTile_tile_other hm _ _⟩

end OneTile

/-! ### One instruction is dispatched (R198, R223, R227) -/

/-- From s to s' instruction e has entered command queue q of job j on tile n, behind the rest; nothing waits for room, and no other queue, event or
tile changes. -/
structure Entered (n j q : Nat) (e : CqEnt) (s s' : State) : Prop where
  queue : Tbl.get [] ((s'.tile n).job j).cqs q = Tbl.get [] ((s.tile n).job j).cqs q ++ [e]
  queues : ∀ p, p ≠ q → Tbl.get [] ((s'.tile n).job j).cqs p = Tbl.get [] ((s.tile n).job j).cqs p
  waits : (s'.tile n).dispatchQ = []
  events : (s'.tile n).evq = (s.tile n).evq
  tiles : ∀ m, m ≠ n → s'.tile m = s.tile m

/-- The entry that an instruction becomes in the queues of its job. -/
def entryOf (d : Disp) (t : TJob) : CqEnt := ⟨d.insn, d.lop, t.orders, d.bad, 0, false, false⟩

theorem enqueue_only (n : Nat) (d : Disp) (s : State) : OnlyChanges [.tiles] s (enqueue n d s) := updTile_only _ _ _

section

variable {n q : Nat} {d : Disp} {s : State} (hidle : (s.tile n).dispatchQ = []) (hqs : cqsOf d.insn = [q])
include hidle hqs

theorem enqueue_entered : Entered n d.slot q (entryOf d ((s.tile n).job d.slot)) s (enqueue n d s) where
  queue := by simp [enqueue, hqs, entryOf]
  queues p hp := by simp [enqueue, hqs, Tbl.get_upd_other _ _ _ hp]
  waits := by simpa [enqueue, TileS.updJob] using hidle
  events := by simp [enqueue, TileS.updJob]
  tiles m hm := updTile_tile_other hm _ _

/-- With nothing before it and room in its queue, an instruction goes on at once. -/
theorem dispatch_one (hroom : (Tbl.get [] ((s.tile n).job d.slot).cqs q).length < 32) : dispatch n [d] s = enqueue n d s := by
  have hsame (l : List Disp) (k : Nat) : (({ s.tile n with dispatchQ := l } : TileS).job k) = (s.tile n).job k := rfl
  simp only [dispatch, pumpTile, hidle, List.nil_append, List.zipIdx_cons, List.zipIdx_nil, List.map_cons, List.map_nil, updTile_tile_same,
    List.length_cons, List.length_nil, pumpQueues, hasRoom, hqs, hsame, hroom, List.all_cons, List.all_nil, decide_true, Bool.and_self, if_true,
    updTile_twice]
  unfold enqueue
  rw [updTile_twice]
  refine updTile_congr ?_
  rw [← hidle]
  rfl

end

/-! ### A DISPATCH message of the branch trace (R464) -/

/-- From s to s' tile n has written to its trace or lost a message. -/
structure Traced (n : Nat) (s s' : State) : Prop extends OneTile n s s' where
  tile : s'.tile n = { s.tile n with trace := (s'.tile n).trace }

theorem Traced.refl (n : Nat) (s : State) : Traced n s s := ⟨⟨.refl _ _, fun _ _ => rfl⟩, rfl⟩

/-- A tile's trace state changes, before or after a change of the counters. -/
theorem Traced.of_updTrace {n : Nat} {g : TileS → TraceT} {s z s' : State} (h : OnlyChanges [.obs] s z)
    (h' : OnlyChanges [.obs] (z.updTile n (fun y => { y with trace := g y })) s') : Traced n s s' := by
  refine ⟨((OneTile.of_obs n h).trans (.updTile _ _ _)).trans (.of_obs n h'), ?_⟩
  rw [h'.tile (by simp), updTile_tile_same, h.tile (by simp)]

theorem traceMsg_traced (n : Nat) (m : DWord) (s : State) : Traced n s (traceMsg n m s) := by
  unfold traceMsg
  extract_lets die d x lost pc pre count post ms written
  split
  · exact .refl _ _
  · split
    · exact .of_updTrace (.refl _ _) (((updObs_only _ _).trans (logCode_only _ _ _)).trans (updObs_only _ _))
    · exact .of_updTrace (updObs_only _ _) (.refl _ _)

theorem traceDisp_traced (n layer oper j : Nat) (s : State) : Traced n s (traceDisp n layer oper j s) := by
  unfold traceDisp
  split
  · exact traceMsg_traced _ _ _
  · exact .refl _ _

theorem Traced.tjob {n : Nat} {s s' : State} (h : Traced n s s') (k : Nat) : (s'.tile n).job k = (s.tile n).job k := by
  rw [h.tile]
  rfl

theorem Traced.entered {n j q : Nat} {e : CqEnt} {s z s' : State} (h : Traced n s z) (h' : Entered n j q e z s') : Entered n j q e s s' where
  queue := by rw [h'.queue, h.tjob]
  queues p hp := by rw [h'.queues p hp, h.tjob]
  waits := h'.waits
  events := by rw [h'.events, h.tile]
  tiles m hm := (h'.tiles m hm).trans (h.tiles m hm)

/-- An instruction is dispatched behind its DISPATCH message. -/
theorem dispatch_traced {n q : Nat} {d : Disp} {s z : State} (h : Traced n s z) (hidle : (s.tile n).dispatchQ = []) (hqs : cqsOf d.insn = [q])
    (hroom : (Tbl.get [] ((s.tile n).job d.slot).cqs q).length < 32) :
    Entered n d.slot q (entryOf d ((s.tile n).job d.slot)) s (dispatch n [d] z) ∧ OnlyChanges tileAreas s (dispatch n [d] z) := by
  have hidle' : (z.tile n).dispatchQ = [] := by rw [h.tile, ← hidle]
  rw [dispatch_one hidle' hqs (by rwa [h.tjob]), ← h.tjob]
  exact ⟨h.entered (enqueue_entered hidle' hqs), h.only.trans ((enqueue_only _ _ _).mono (by simp [tileAreas]))⟩

/-- A block of one instruction, as it stands in the image. -/
theorem progBlock_one (s : State) (n j first : Nat) (lop : Word) (k : Nat) :
    progBlock s n j first 1 lop false k = [⟨j, (s.tile n).imgInsn j first, lop, false, false⟩] := rfl

/-! ### Triggers (R223) -/

theorem runTrigger_one {n j : Nat} {g : BitVec 128} {s : State} (heach : trEach g = false) (hcount : trCount g = 1) :
    runTrigger n j g s = dispatch n [⟨j, (s.tile n).imgInsn j (trBlock g), trLop g, false, false⟩]
      (traceDisp n (bitsN (trLop g).toNat 16 16) (bitsN (trLop g).toNat 0 16) j s) := by
  simp [runTrigger, heach, hcount, progBlock_one]

/-- The triggers of a job on a tile that match an event. -/
def matching (x : TileS) (w : Word) : List (BitVec 128) :=
  ((List.range (x.job (evSlot w)).ntrig).map (x.imgTrig (evSlot w))).filter (trMatches w)

/-- The event at the head of a tile's FIFO has been taken. -/
def popped (n : Nat) (rest : List Word) (s : State) : State := s.updTile n (fun x => { x with evq := rest })

theorem triggerDispatch_stops {n : Nat} {s : State} (h : tileDown s n = true ∨ stalled (s.tile n) = true) : triggerDispatch n s = s := by
  simp [triggerDispatch, h]

section

variable {n : Nat} {s : State} (hdown : tileDown s n = false) (hstall : stalled (s.tile n) = false)
include hdown hstall

theorem triggerDispatch_empty (hevq : (s.tile n).evq = []) : triggerDispatch n s = s := by
  simp [triggerDispatch, hdown, hstall, hevq]

variable {w : Word} {rest : List Word} (hevq : (s.tile n).evq = w :: rest)
include hevq

theorem triggerDispatch_event : triggerDispatch n s =
    if !((s.tile n).job (evSlot w)).loaded || (s.job (evSlot w)).away then popped n rest s
    else (matching (s.tile n) w).foldl (fun s g => runTrigger n (evSlot w) g s) (popped n rest s) := by
  simp only [triggerDispatch, hdown, hstall, hevq, Bool.or_self, Bool.false_eq_true, if_false, updTile_tile_same]
  rfl

theorem triggerDispatch_unmatched (hnone : matching (s.tile n) w = []) : triggerDispatch n s = popped n rest s := by
  rw [triggerDispatch_event hdown hstall hevq, hnone]
  exact ite_self _

theorem triggerDispatch_matched {g : BitVec 128} (hloaded : ((s.tile n).job (evSlot w)).loaded = true) (hhere : (s.job (evSlot w)).away = false)
    (hone : matching (s.tile n) w = [g]) : triggerDispatch n s = runTrigger n (evSlot w) g (popped n rest s) := by
  rw [triggerDispatch_event hdown hstall hevq, hone]
  simp [hloaded, hhere]

end

/-- A matching trigger's block of one instruction enters its queue; the event is gone. -/
theorem runTrigger_enters {n q : Nat} {w : Word} {rest : List Word} {g : BitVec 128} {s : State} (hidle : (s.tile n).dispatchQ = [])
    (heach : trEach g = false) (hcount : trCount g = 1) (hqs : cqsOf ((s.tile n).imgInsn (evSlot w) (trBlock g)) = [q])
    (hroom : (Tbl.get [] ((s.tile n).job (evSlot w)).cqs q).length < 32) :
    let s' := runTrigger n (evSlot w) g (popped n rest s)
    Entered n (evSlot w) q ⟨(s.tile n).imgInsn (evSlot w) (trBlock g), trLop g, ((s.tile n).job (evSlot w)).orders, false, 0, false, false⟩
      (popped n rest s) s' ∧ OnlyChanges tileAreas s s' := by
  have htile : (popped n rest s).tile n = { s.tile n with evq := rest } := updTile_tile_same _ _ _
  have himage : ((popped n rest s).tile n).imgInsn = (s.tile n).imgInsn := by
    rw [htile]
    rfl
  have hjob (k : Nat) : ((popped n rest s).tile n).job k = (s.tile n).job k := by
    rw [htile]
    rfl
  intro s'
  rw [show s' = _ from runTrigger_one heach hcount, himage]
  obtain ⟨hentered, honly⟩ := dispatch_traced (d := ⟨evSlot w, (s.tile n).imgInsn (evSlot w) (trBlock g), trLop g, false, false⟩) (q := q)
    (traceDisp_traced n (bitsN (trLop g).toNat 16 16) (bitsN (trLop g).toNat 0 16) (evSlot w) (popped n rest s))
    (by rw [htile, ← hidle]) hqs (by rwa [hjob])
  rw [hjob] at hentered
  exact ⟨hentered, (tileAreas_tile _ _ _).trans honly⟩

/-! ### Custom CSRs (Table TP-14) -/

theorem pilotDo_stops {n : Nat} {f : State → State} {s : State} (h : tileDown s n = true ∨ stalled (s.tile n) = true) : pilotDo n f s = s := by
  simp [pilotDo, h]

theorem pilotDo_runs {n : Nat} {f : State → State} {s : State} (hdown : tileDown s n = false) (hstall : stalled (s.tile n) = false) :
    pilotDo n f s = f s := by
  simp [pilotDo, hdown, hstall]

/-- TPRUNB of one instruction, not relocated, is its dispatch behind a DISPATCH message. -/
theorem tprunb_one {n : Nat} {v : Word} {s : State} (hhere : (s.job (bitsN (s.tile n).tpruna.toNat 16 6)).away = false)
    (hcount : bitsN v.toNat 0 15 = 0) (hrel : v.getLsbD 26 = false) :
    let j := bitsN (s.tile n).tpruna.toNat 16 6
    let lop := (s.tile n).tplop
    tprunb n v s = dispatch n [⟨j, (s.tile n).imgInsn j (bitsN (s.tile n).tpruna.toNat 0 15), lop, false, false⟩]
      (traceDisp n (bitsN lop.toNat 16 16) (bitsN lop.toNat 0 16) j s) := by
  simp only [tprunb, hhere, hcount, hrel, Nat.zero_add, progBlock_one, Bool.false_eq_true, if_false]

theorem tpflag_sets {n : Nat} {v : Word} {s : State} (hloaded : ((s.tile n).job (bitsN v.toNat 21 6)).loaded = true) :
    tpflag n v s = s.updTile n (fun x => x.updJob (bitsN v.toNat 21 6)
      (fun t => { t with flags := t.flags ||| ((1 : BitVec 32) <<< bitsN v.toNat 0 5) })) := by
  simp [tpflag, hloaded]

theorem tpflag_unloaded {n : Nat} {v : Word} {s : State} (hloaded : ((s.tile n).job (bitsN v.toNat 21 6)).loaded = false) : tpflag n v s = s := by
  simp [tpflag, hloaded]

theorem tpaccrel_frees {n : Nat} {v : Word} {s : State} (hspilled : tagState ((s.tile n).acc (bitsN v.toNat 0 11)).tag = accSpilled) :
    tpaccrel n v s = s.updTile n (fun x => x.updAcc (bitsN v.toNat 0 11) (fun y => { Acc.reset with tag := retag accFree y.tag })) := by
  simp [tpaccrel, hspilled]

theorem iqCells_popIq_other {p q : Nat} (h : q ≠ p) (n k j : Nat) (s : State) : iqCells (popIq n p k j s) n q = iqCells s n q := by
  have htile := (popIq_freed n p k j s).tile
  rw [updTile_tile_same] at htile
  rw [iqCells, htile]
  exact Tbl.get_set_other _ _ _ h

theorem popIq_tile_other {n m : Nat} (h : m ≠ n) (p k j : Nat) (s : State) : (popIq n p k j s).tile m = s.tile m :=
  ((popIq_freed n p k j s).tiles m h).trans (updTile_tile_other h _ _)

/-- A control cell for the device itself is handed over (R261, R268). -/
theorem sendCtlCell_here {n : Nat} {c : Cell} {s : State} (hunicast : c.mgrp = 0) (hown : c.ddev = s.dev.id.toNat) (hid : s.dev.idValid = true)
    (hdevice : forEndpoint s c = false) : sendCtlCell n c s = deliverHere c s := by
  have hroute : route s none n c = .go [] true := by simp [route, hunicast, hown, hid, hdevice]
  simp [sendCtlCell, hroute, pushCtl]

section

variable {n : Nat} {s : State}

theorem tpcmdhi_enters {v : Word} {q : Nat} (hidle : (s.tile n).dispatchQ = []) (hqs : cqsOf (v ++ (s.tile n).tpcmdlo) = [q])
    (hroom : (Tbl.get [] ((s.tile n).job (bitsN (s.tile n).tpruna.toNat 16 6)).cqs q).length < 32) :
    let j := bitsN (s.tile n).tpruna.toNat 16 6
    Entered n j q ⟨v ++ (s.tile n).tpcmdlo, (s.tile n).tplop, ((s.tile n).job j).orders, false, 0, false, false⟩ s (tpcmdhi n v s) ∧
      OnlyChanges [.tiles] s (tpcmdhi n v s) := by
  intro j
  let d : Disp := ⟨j, v ++ (s.tile n).tpcmdlo, (s.tile n).tplop, false, true⟩
  have hone : tpcmdhi n v s = enqueue n d s := dispatch_one (d := d) hidle hqs hroom
  rw [hone]
  exact ⟨enqueue_entered (d := d) hidle hqs, enqueue_only _ _ _⟩

theorem tprunb_enters {v : Word} {q : Nat} (hidle : (s.tile n).dispatchQ = [])
    (hhere : (s.job (bitsN (s.tile n).tpruna.toNat 16 6)).away = false) (hcount : bitsN v.toNat 0 15 = 0) (hrel : v.getLsbD 26 = false)
    (hqs : cqsOf ((s.tile n).imgInsn (bitsN (s.tile n).tpruna.toNat 16 6) (bitsN (s.tile n).tpruna.toNat 0 15)) = [q])
    (hroom : (Tbl.get [] ((s.tile n).job (bitsN (s.tile n).tpruna.toNat 16 6)).cqs q).length < 32) :
    let j := bitsN (s.tile n).tpruna.toNat 16 6
    Entered n j q ⟨(s.tile n).imgInsn j (bitsN (s.tile n).tpruna.toNat 0 15), (s.tile n).tplop, ((s.tile n).job j).orders, false, 0, false, false⟩ s
      (tprunb n v s) ∧ OnlyChanges tileAreas s (tprunb n v s) := by
  intro j
  let d : Disp := ⟨j, (s.tile n).imgInsn j (bitsN (s.tile n).tpruna.toNat 0 15), (s.tile n).tplop, false, false⟩
  rw [tprunb_one hhere hcount hrel]
  exact dispatch_traced (d := d) (traceDisp_traced _ _ _ _ _) hidle hqs hroom

theorem tpevqRead_pops : (tpevqRead n s).dev = { s.dev with rdata := ((s.tile n).evq.headD 0).zeroExtend 64 } ∧
    (tpevqRead n s).tile n = { s.tile n with evq := (s.tile n).evq.tail } ∧ (∀ m, m ≠ n → (tpevqRead n s).tile m = s.tile m) ∧
    OnlyChanges [.dev, .tiles] s (tpevqRead n s) := by
  refine ⟨rfl, ?_, fun m hm => ?_, ?_⟩
  · rw [tpevqRead, updDev_tile, updTile_tile_same]
  · rw [tpevqRead, updDev_tile, updTile_tile_other hm]
  · exact ((updTile_only _ _ _).mono (by simp)).trans ((updDev_only _ _).mono (by simp))

theorem updTJob_changes (k : Nat) (f : TJob → TJob) :
    let s' := s.updTile n (fun x => x.updJob k f)
    (s'.tile n).job k = f ((s.tile n).job k) ∧ (∀ i, i ≠ k → (s'.tile n).job i = (s.tile n).job i) ∧ (∀ m, m ≠ n → s'.tile m = s.tile m) ∧
      OnlyChanges [.tiles] s s' := by
  refine ⟨by simp, fun i hi => ?_, fun m hm => updTile_tile_other hm _ _, updTile_only _ _ _⟩
  rw [updTile_tile_same, tileUpdJob_job_other hi]

theorem updAcc_changes (a : Nat) (f : Acc → Acc) :
    let s' := s.updTile n (fun x => x.updAcc a f)
    (s'.tile n).acc a = f ((s.tile n).acc a) ∧ (∀ i, i ≠ a → (s'.tile n).acc i = (s.tile n).acc i) ∧ (∀ m, m ≠ n → s'.tile m = s.tile m) ∧
      OnlyChanges [.tiles] s s' := by
  refine ⟨by simp, fun i hi => ?_, fun m hm => updTile_tile_other hm _ _, updTile_only _ _ _⟩
  rw [updTile_tile_same, updAcc_acc_other hi]

theorem tpcellpop_empty (hnone : iqCells s n (bitsN (s.tile n).tpcellsel.toNat 0 6) = []) : tpcellpop n s = s := by
  simp [tpcellpop, hnone]

theorem tpcellpop_pops {c : QCell} {rest : List QCell} (hcells : iqCells s n (bitsN (s.tile n).tpcellsel.toNat 0 6) = c :: rest) :
    let p := bitsN (s.tile n).tpcellsel.toNat 0 6
    iqCells (tpcellpop n s) n p = rest ∧ (∀ q, q ≠ p → iqCells (tpcellpop n s) n q = iqCells s n q) ∧
      (∀ m, m ≠ n → (tpcellpop n s).tile m = s.tile m) ∧ OnlyChanges tileAreas s (tpcellpop n s) := by
  intro p
  have hpop : tpcellpop n s = popIq n p 1 ((slotOf c.cell.job s).getD 0) s := by simp [tpcellpop, hcells, p]
  rw [hpop]
  refine ⟨?_, fun q hq => iqCells_popIq_other hq _ _ _ _, fun m hm => popIq_tile_other hm _ _ _ _, popIq_only _ _ _ _ _⟩
  rw [iqCells_popIq, hcells, List.drop_one, List.tail_cons]

theorem tpcellsend_here (hctl : (sendWindow (s.tile n)).cls = clsCtl) (hunicast : (sendWindow (s.tile n)).mgrp = 0)
    (hown : (sendWindow (s.tile n)).ddev = s.dev.id.toNat) (hid : s.dev.idValid = true) (hdevice : forEndpoint s (sendWindow (s.tile n)) = false) :
    tpcellsend n s = deliverHere (sendWindow (s.tile n)) s := by
  rw [tpcellsend, if_pos hctl, sendCtlCell_here hunicast hown hid hdevice]

end

end Sys2Proof.Safety
end

section
/-! PROOF. The watchdogs (O57): the pilot watchdog resets its island, a queue watchdog discards its job's queued instructions (16 R430; 18 R467). -/

namespace Sys2Proof.Safety

open Sys2Proof.Machine

/-! ### The pilot watchdog (R430) -/

theorem trimVdd_only (d : Nat) (s : State) : OnlyChanges [.clk] s (trimVdd d s) := by
  unfold trimVdd
  extract_lets v
  split
  · exact updClk_only _ _
  · exact .refl _ _

theorem gateTile_only (p : Nat) (s : State) : OnlyChanges [.clk, .tiles] s (gateTile p s) := by
  unfold gateTile
  extract_lets s1 s2
  have hgated : OnlyChanges [.clk, .tiles] s s2 := ((updIsland_only _ _ _).trans (trimVdd_only _ s1)).mono (by simp)
  split
  · exact hgated.trans ((updTile_only _ _ _).mono (by simp))
  · exact hgated

theorem abandonMove_resetting (m : Move) (s : State) : (abandonMove m s).dev.resetting = s.dev.resetting := by
  unfold abandonMove
  extract_lets s1 s2
  have hlogged : s1.dev = s.dev := ((logCode_only _ _ _).mono (by simp) |>.trans ((updClk_only _ _).mono (by simp)) :
    OnlyChanges [.obs, .clk] s s1).2.2 .dev (by simp)
  rw [(gateTile_only m.new s2).2.2 .dev (by simp), ← hlogged]
  rfl

theorem abandonMoves_resetting (l : List Move) (s : State) : (l.foldl (fun s m => abandonMove m s) s).dev.resetting = s.dev.resetting := by
  induction l generalizing s with
  | nil => rfl
  | cons m l ih => rw [List.foldl_cons, ih, abandonMove_resetting]

theorem tileCause_only (j k n st code : Nat) (s : State) : OnlyChanges [.jobs] s (tileCause j k n st code s) := by
  rw [tileCause_eq]
  exact onEntry_only _ _ _ _

theorem jobIncomplete_only (n j code : Nat) (s : State) : OnlyChanges [.jobs] s (jobIncomplete n j code s) :=
  OnlyChanges.foldl _ (fun _ _ => .ite (tileCause_only _ _ _ _ _ _) (.refl _ _)) _ s

theorem islandClear_only (n : Nat) (s : State) : OnlyChanges [.jobs, .tiles] s (islandClear n s) := by
  have hcauses := OnlyChanges.foldl (fun s j => jobIncomplete n j 0x0A07 s) (fun s j => jobIncomplete_only n j 0x0A07 s)
    ((List.range 64).filter (fun j => ((s.tile n).job j).loaded)) s
  exact (hcauses.mono (by simp)).trans ((updTile_only _ _ _).mono (by simp))

/-- The start of an island reset puts the island under reset. -/
theorem startIslandReset_resetting (p : Nat) (s : State) : (startIslandReset p s).dev.resetting.contains p = true := by
  unfold startIslandReset
  extract_lets s1 s2 s3
  have hstart : s3.dev.resetting.contains p = true := by
    have hkept : s3.dev.resetting = s1.dev.resetting := abandonMoves_resetting _ s2
    rw [hkept]
    by_cases hin : p ∈ s.dev.resetting <;> simp [s1, hin]
  split
  · rw [(islandClear_only _ _).2.2 .dev (by simp)]
    exact hstart
  · exact hstart

section

variable {n p : Nat} {s : State} (hphys : physOf s n = some p)
include hphys

theorem pilotWatchdog_waits (htime : s.time < (s.tile n).wdogAt + ms s.obs.ptime.toNat) : pilotWatchdog n s = s := by
  simp [pilotWatchdog, hphys, htime]

theorem pilotWatchdog_expires (htime : (s.tile n).wdogAt + ms s.obs.ptime.toNat ≤ s.time) (hpower : powered (s.island p) = true)
    (hfresh : s.dev.resetting.contains p = false) : (pilotWatchdog n s).dev.resetting.contains p = true := by
  have hexpired : (decide (s.time < (s.tile n).wdogAt + ms s.obs.ptime.toNat) || !powered (s.island p) || s.dev.resetting.contains p) = false := by
    rw [decide_eq_false (Nat.not_lt.mpr htime), hpower, hfresh]
    rfl
  rw [pilotWatchdog, hphys]
  simp only [hexpired, Bool.false_eq_true, if_false]
  exact startIslandReset_resetting _ _

end

/-! ### Snapshots (R468) -/

theorem snapshot_oneTile (n cause : Nat) (s : State) : OneTile n s (snapshot n cause s) := by
  unfold snapshot
  extract_lets s1
  have hlogged : OneTile n s s1 := .of_obs n (.ite ((logCode_only _ _ _).trans (updObs_only _ _)) (.refl _ _))
  exact hlogged.trans (.updTile _ _ _)

theorem watchdogSnapshot_oneTile (n cause : Nat) (s : State) : OneTile n s (watchdogSnapshot n cause s) := by
  unfold watchdogSnapshot
  split
  · exact .of_obs n (.refl _ _)
  · exact snapshot_oneTile _ _ _

/-! ### What waits for room goes on (R223) -/

theorem pumpQueues_oneTile (k n : Nat) (s : State) : OneTile n s (pumpQueues k n s) := by
  induction k generalizing s with
  | zero => exact .of_obs n (.refl _ _)
  | succ k ih =>
    unfold pumpQueues
    split
    · exact .of_obs n (.refl _ _)
    · split
      · exact ((OneTile.updTile _ _ _).trans (.updTile _ _ _)).trans (ih _)
      · exact .of_obs n (.refl _ _)

/-- No instruction of job j waits for room on tile n. -/
def NoneWaits (n j : Nat) (s : State) : Prop := ∀ d ∈ (s.tile n).dispatchQ, d.slot ≠ j

/-- A job of which nothing waits gets nothing. -/
theorem pumpQueues_tjob {n j : Nat} {s : State} (h : NoneWaits n j s) (k : Nat) : ((pumpQueues k n s).tile n).job j = (s.tile n).job j := by
  induction k generalizing s with
  | zero => rfl
  | succ k ih =>
    unfold pumpQueues
    split
    · rfl
    · next d rest hd =>
      have ⟨hslot, hrest⟩ : d.slot ≠ j ∧ ∀ e ∈ rest, e.slot ≠ j := by simpa [NoneWaits, hd] using h
      split
      · rw [ih (by simpa [NoneWaits, enqueue, TileS.updJob] using hrest), enqueue, updTile_tile_same, tileUpdJob_job_other (Ne.symm hslot),
          updTile_tile_same]
        rfl
      · rfl

/-! ### Queued instructions are discarded (R217) -/

theorem popIq_framed (n j p k i : Nat) (s : State) : Framed n j s (popIq n p k i s) :=
  (Popping.of_freed (popIq_freed n p k i s) rfl rfl rfl).toFramed

theorem popEnts_framed (n j q k : Nat) (s : State) : Framed n j s (popEnts n j q k s) := (setEnts_popping _ _ _ _ _).toFramed

theorem reconPops_framed (n j : Nat) (i : DWord) (k : Nat) (s : State) : Framed n j s (reconPops n j i k s) := by
  induction k generalizing s with
  | zero => exact .of_quiet (.refl _ _ _)
  | succ k ih =>
    unfold reconPops
    dsimp only
    split
    · exact .of_quiet (.refl _ _ _)
    · exact ((updTJob_framed (by exact fun _ => rfl) s).trans (popEnts_framed _ _ _ _ _)).trans (ih _)

theorem discardSrc_framed (n j : Nat) (c : CqEnt) (s : State) : Framed n j s (discardSrc n j c s) := by
  unfold discardSrc
  dsimp only
  split
  · exact .of_quiet (.refl _ _ _)
  · split
    · exact reconPops_framed _ _ _ _ _
    · split
      · exact popIq_framed _ _ _ _ _ _
      · split
        · exact popEnts_framed _ _ _ _ _
        · exact .of_quiet (.refl _ _ _)

theorem Framed.foldl {α : Type} {n j : Nat} (f : State → α → State) (hf : ∀ s a, Framed n j s (f s a)) (l : List α) (s : State) :
    Framed n j s (l.foldl f s) := by
  induction l generalizing s with
  | nil => exact .of_quiet (.refl _ _ _)
  | cons a l ih => exact (hf s a).trans (ih _)

/-- Queues that are filtered one by one are empty where no entry passes. -/
theorem filtered_queues_nil {l : List Nat} {c : Tbl (List CqEnt)} {q : Nat} (h : q ∈ l ∨ Tbl.get [] c q = []) :
    Tbl.get [] (l.foldl (fun c q => Tbl.upd [] c q (fun l => l.filter (fun _ => false))) c) q = [] := by
  induction l generalizing c with
  | nil => simpa using h
  | cons p l ih =>
    refine ih ?_
    by_cases hqp : q = p
    · subst hqp
      exact .inr (by simp)
    · rw [Tbl.get_upd_other _ _ _ hqp]
      simpa [hqp] using h

/-- With nothing of the job waiting for room, its command queues are empty after all their instructions are discarded. -/
theorem discardQueued_all {n j : Nat} {s : State} (h : NoneWaits n j s) :
    OneTile n s (discardQueued n j (fun _ => true) s) ∧
      ∀ q, q < 8 → Tbl.get [] (((discardQueued n j (fun _ => true) s).tile n).job j).cqs q = [] := by
  unfold discardQueued
  extract_lets all out s1 s2 s3
  have hwork : Framed n j s s3 :=
    ((Framed.foldl _ (fun s c => discardSrc_framed n j c s) out s).trans (.of_quiet (Noted.of_obs n j (bump_only _ _ _)).toQuiet)).trans
      (.of_quiet (Noted.of_obs n j (bump_only _ _ _)).toQuiet)
  have honly := discardQueued_only n j (fun _ => true) s
  have hnone (f : TJob → TJob) : NoneWaits n j (s3.updTile n (fun x => x.updJob j f)) := by
    simpa [NoneWaits, TileS.updJob, hwork.waits] using h
  refine ⟨⟨honly, fun m hm => ?_⟩, fun q hq => ?_⟩
  · exact (((OneTile.updTile n _ s3).trans (pumpQueues_oneTile _ n _)).tiles m hm).trans (hwork.tiles m hm)
  · rw [pumpTile, pumpQueues_tjob (hnone _), updTile_tile_same, tileUpdJob_job_same]
    simp only [Bool.not_true]
    exact filtered_queues_nil (.inl (List.mem_range.mpr hq))

/-! ### The queue watchdog (R467) -/

/-- A queue watchdog expires where it is on, its queue holds instructions, and none has completed for QTIME. -/
theorem queueExpired_iff {n j q : Nat} {s : State} : queueExpired s n j q = true ↔
    s.obs.qtime ≠ 0 ∧ Tbl.get [] ((s.tile n).job j).cqs q ≠ [] ∧ Tbl.get 0 ((s.tile n).job j).lastDone q + ms s.obs.qtime.toNat ≤ s.time := by
  simp [queueExpired, and_assoc]

theorem queueWatchdog_quiet {n j q : Nat} {s : State} (h : ¬ queueExpired s n j q = true) : queueWatchdog n j q s = s := by
  simp [queueWatchdog, h]

theorem queueWatchdog_discards {n j q : Nat} {s : State} (hexpired : queueExpired s n j q = true) (hdown : tileDown s n = false) :
    (∀ p, p < 8 → Tbl.get [] (((queueWatchdog n j q s).tile n).job j).cqs p = []) ∧ (∀ m, m ≠ n → (queueWatchdog n j q s).tile m = s.tile m) ∧
      OnlyChanges engineAreas s (queueWatchdog n j q s) := by
  simp only [queueWatchdog, hexpired, hdown, Bool.not_true, Bool.or_self, Bool.false_eq_true, if_false]
  generalize hlogged : trcReason 0x0C02 (logCode 0x0C02 (unitTile n) (watchdogSnapshot n 0x0C02 s)) = s1
  have hsnap : OneTile n s s1 := by
    rw [← hlogged]
    exact (watchdogSnapshot_oneTile _ _ _).trans (.of_obs n ((logCode_only _ _ _).trans (updObs_only _ _)))
  have hnone : NoneWaits n j (s1.updTile n (fun x => { x with dispatchQ := x.dispatchQ.filter (fun d => d.slot ≠ j) })) := by
    intro d hd
    rw [updTile_tile_same] at hd
    simpa using (List.mem_filter.mp hd).2
  obtain ⟨hdiscard, hempty⟩ := discardQueued_all hnone
  have htile := (hsnap.trans (.updTile _ _ _)).trans hdiscard
  have hjobs := jobIncomplete_only n j 0x0C02 (discardQueued n j (fun _ => true)
    (s1.updTile n (fun x => { x with dispatchQ := x.dispatchQ.filter (fun d => d.slot ≠ j) })))
  refine ⟨fun p hp => ?_, fun m hm => ?_, (htile.only.mono (by simp [tileAreas, engineAreas])).trans (hjobs.mono (by simp [engineAreas]))⟩
  · rw [hjobs.tile (by simp)]
    exact hempty p hp
  · rw [hjobs.tile (by simp)]
    exact htile.tiles m hm

/-! ### The commands (O57) -/

/-- Settles O57: a pilot core that is down or stalled does nothing (pilotDo_stops); a dispatch of one instruction enters its queue (runTrigger_enters,
tpcmdhi_enters, tprunb_enters); each other CSR is one update of its tile; the watchdogs are pilotWatchdog_expires and queueWatchdog_discards. -/
theorem pilotAndWatchdogs : Obligations.PilotAndWatchdogs := by
  refine ⟨fun t tile v s => ?_, fun t tile slot cq s => ?_⟩
  · intro s0 n x others j
    refine ⟨fun hstops => ?_, fun hdown hstall => ?_⟩
    · have hpilot {c : Instr} {f : State → State} (hexec : exec c s = .next (pilotDo n f s0)) : Runs c s (fun s' => s' = s0) :=
        ⟨_, hexec, pilotDo_stops hstops⟩
      exact ⟨⟨_, rfl, triggerDispatch_stops hstops⟩, hpilot rfl, hpilot rfl, hpilot rfl, hpilot rfl, hpilot rfl, hpilot rfl, hpilot rfl, hpilot rfl⟩
    have hpilot {c : Instr} {f : State → State} {P : State → Prop} (hexec : exec c s = .next (pilotDo n f s0)) (hp : P (f s0)) : Runs c s P :=
      ⟨_, hexec.trans (congrArg Host.Outcome.next (pilotDo_runs hdown hstall)), hp⟩
    refine ⟨fun hevq => ⟨_, rfl, triggerDispatch_empty hdown hstall hevq⟩,
      fun w rest hevq hnone => ⟨_, rfl, triggerDispatch_unmatched hdown hstall hevq hnone⟩, ?matched, ?tpcmdhi, ?tprunb, hpilot rfl tpevqRead_pops,
      ⟨?tpflag, ?unloaded⟩, ⟨?tpaccrel, ?unspilled⟩,
      ⟨fun hnone => hpilot rfl (tpcellpop_empty hnone), fun c rest hcells => hpilot rfl (tpcellpop_pops hcells)⟩, ⟨?notControl, ?tpcellsend⟩, hpilot rfl ⟨updTile_tile_same _ _ _, fun m hm => updTile_tile_other hm _ _, updTile_only _ _ _⟩⟩
    case matched =>
      intro w rest g q hevq hidle hloaded hhere hone heach hcount i y hqs hroom
      refine ⟨_, congrArg Host.Outcome.next (triggerDispatch_matched (s := s0) hdown hstall hevq hloaded hhere hone), ?_⟩
      obtain ⟨hentered, honly⟩ := runTrigger_enters (s := s0) (rest := rest) hidle heach hcount hqs hroom
      refine ⟨?_, ?_, hentered.waits, fun m hm => (hentered.tiles m hm).trans (updTile_tile_other hm _ _), honly⟩
      · rw [hentered.queue, popped, updTile_tile_same]
        rfl
      · rw [hentered.events, popped, updTile_tile_same]
    case tpcmdhi =>
      intro q hidle hqs hroom
      obtain ⟨hentered, honly⟩ := tpcmdhi_enters (s := s0) hidle hqs hroom
      exact hpilot rfl ⟨hentered.queue, hentered.queues, hentered.tiles, honly⟩
    case tprunb =>
      intro q i hidle hhere hcount hrel hqs hroom
      obtain ⟨hentered, honly⟩ := tprunb_enters (s := s0) hidle hhere hcount hrel hqs hroom
      exact hpilot rfl ⟨hentered.queue, hentered.tiles, honly⟩
    case tpflag =>
      intro hloaded
      refine hpilot rfl ?_
      rw [tpflag_sets (s := s0) hloaded]
      exact updTJob_changes _ _
    case unloaded => exact fun hloaded => hpilot rfl (tpflag_unloaded hloaded)
    case tpaccrel =>
      intro hspilled
      refine hpilot rfl ?_
      rw [tpaccrel_frees (s := s0) hspilled]
      exact updAcc_changes _ _
    case unspilled => exact fun hspilled => hpilot rfl (if_pos hspilled)
    case notControl => exact fun hctl => hpilot rfl (if_neg hctl)
    case tpcellsend =>
      intro hctl hunicast hown hid hdevice
      refine hpilot rfl ?_
      rw [tpcellsend_here (s := s0) hctl hunicast hown hid hdevice]
      exact ⟨rfl, updFabric_only _ _⟩
  · intro s0 n j x
    refine ⟨fun p hphys => ⟨fun htime => ⟨_, rfl, pilotWatchdog_waits hphys htime⟩,
      fun htime hpower hfresh => ⟨_, rfl, pilotWatchdog_expires hphys htime hpower hfresh⟩⟩, fun hoff => ⟨_, rfl, queueWatchdog_quiet fun h => ?_⟩,
      fun hnone => ⟨_, rfl, queueWatchdog_quiet fun h => ?_⟩,
      fun hon hsome hdown htime => ⟨_, rfl, queueWatchdog_discards (queueExpired_iff.mpr ⟨hon, hsome, htime⟩) hdown⟩⟩
    · obtain ⟨hon, -⟩ := queueExpired_iff.mp h
      exact hon hoff
    · obtain ⟨-, hsome, -⟩ := queueExpired_iff.mp h
      exact hsome hnone

end Sys2Proof.Safety
end

section
/-! PROOF. JOB_LOAD (O16): a package that passes every check is admitted into the lowest free slot (09 R230, R236), any other changes nothing (R383). -/

namespace Sys2Proof.Safety

open Sys2Proof.Machine

/-! ### A job is made in its slot (R230, R239 to R243, R312) -/

/-- What the admission of a job and the completion of its command may change. -/
def admitAreas : List Region := [.jobs, .tiles, .fabric, .ports, .host, .hostMem, .obs]

/-- The job that admission puts into its slot: the areas sized, the grants made. -/
def admitted (s : State) (x : Job) (p : Pkg) : Job := { sized s x with grants := (grantsOf p).map (madeGrant s x p) }

/-- Sizing a job and granting it its tiles leave what its package says of it (R230). -/
theorem admitted_ident (s : State) (tag uprio : Nat) (p : Pkg) (bs : List Byte) :
    let x := candidate tag uprio p bs
    let y := admitted s x p
    y.st = .loaded ∧ y.tag = BitVec.ofNat 12 tag ∧ y.seed = BitVec.ofNat 64 p.seed ∧ y.devset = p.devset.map (BitVec.ofNat 12) ∧ y.step = x.step :=
  ⟨rfl, rfl, rfl, rfl, rfl⟩

/-- From s to s' job slot j comes to hold y; every other job is as it was, and nothing outside the areas changes. -/
structure Admitted (j : Nat) (y : Job) (s s' : State) : Prop where
  job : s'.job j = y
  other : ∀ i, i ≠ j → s'.job i = s.job i
  only : OnlyChanges admitAreas s s'

theorem Admitted.after {j : Nat} {y : Job} {l : List Region} {s s1 s' : State} (h : Admitted j y s s1) (hl : OnlyChanges l s1 s')
    (hareas : ∀ a ∈ l, a ∈ admitAreas) (hjobs : Region.jobs ∉ l) : Admitted j y s s' :=
  ⟨(hl.job hjobs j).trans h.job, fun i hi => (hl.job hjobs i).trans (h.other i hi), h.only.trans (hl.mono hareas)⟩

theorem setJobs_only (l : Jobs) (s : State) : OnlyChanges [.jobs] s { s with jobs := l } := by
  refine ⟨rfl, rfl, fun a ha => ?_⟩
  cases a
  case jobs => exact absurd (List.mem_singleton_self _) ha
  all_goals rfl

theorem makeJob_admits (j : Nat) (x : Job) (p : Pkg) (s : State) : Admitted j (admitted s x p) s (makeJob j x p s) := by
  unfold makeJob
  extract_lets gs sizedJob y s1 s2 jobs s3 s4
  have hgrants : OnlyChanges [.tiles] s s1 := .foldl _ (fun _ _ => updTile_only _ _ _) _ _
  have h2 : Admitted j y s s2 :=
    ⟨updJob_job_same _ _ _, fun i hi => (updJob_job_other hi _ _).trans (hgrants.job (by simp) i),
      (hgrants.mono (by simp [admitAreas])).trans ((updJob_only _ _ _).mono (by simp [admitAreas]))⟩
  have h3 : Admitted j y s s3 := ⟨h2.job, h2.other, h2.only.trans ((setJobs_only _ _).mono (by simp [admitAreas]))⟩
  have h4 : Admitted j y s s4 := h3.after (updFabric_only _ _) (by simp [admitAreas]) (by simp)
  exact h4.after (.foldl _ (fun _ _ => wakePort_only _ _) _ _) (by simp [admitAreas]) (by simp)

/-! ### JOB_LOAD (R236, R385, R459) -/

section

variable {x : Exec} {data : List Byte} {ok : Bool} {s : State}

theorem jobLoad_noBuffer (hres : descN x.desc 40 8 = 0) : jobLoad x data ok s = refuse x 0x040F s := if_pos hres

variable (hres : descN x.desc 40 8 ≠ 0)
include hres

theorem jobLoad_malformed (hpkg : parsePkg (descJob x.desc) data = none) : jobLoad x data ok s = refuse x 0x040A s := by
  simp only [jobLoad, hres, hpkg, if_false]

variable {p : Pkg} (hpkg : parsePkg (descJob x.desc) data = some p)
include hpkg

theorem jobLoad_refused {code : Nat}
    (hcode : admitCode s (descJob x.desc) (candidate (descJob x.desc) (descN x.desc 24 1) p data) p data.length = some code) :
    jobLoad x data ok s = refuse x code s := by
  simp only [jobLoad, hres, hpkg, hcode, if_false]

/-- The lowest free slot takes the job (R230). -/
theorem jobLoad_admits {j : Nat}
    (hcode : admitCode s (descJob x.desc) (candidate (descJob x.desc) (descN x.desc 24 1) p data) p data.length = none)
    (hj : j < 64) (hfree : (s.job j).st = .free) (hlow : ∀ i, i < j → (s.job i).st ≠ .free) :
    let m := hostWrite (descN x.desc 40 8)
      (baseRecords ((clearJobCtrs j (makeJob j (candidate (descJob x.desc) (descN x.desc 24 1) p data) p s)).job j).grants)
      (clearJobCtrs j (makeJob j (candidate (descJob x.desc) (descN x.desc 24 1) p data) p s))
    jobLoad x data ok s =
      finish x stDone 0 (leBytes 4 (jobWord m j) ++ leBytes 2 ((m.job j).grants.filter (fun g => g.acc ≠ 0)).length) ok m := by
  have hslot : (List.range 64).find? (fun j => decide ((s.job j).st = .free)) = some j := by
    rw [List.find?_range_eq_some]
    exact ⟨decide_eq_true hfree, List.mem_range.mpr hj, fun i hi => by simpa using hlow i hi⟩
  simp only [jobLoad, hres, hpkg, hcode, hslot, if_false]
  rfl

end

/-- Settles O16: each check refuses (jobLoad_noBuffer, jobLoad_malformed, jobLoad_refused); a package that passes them makes its job in the lowest
free slot (jobLoad_admits, makeJob_admits), and clearing counters, writing the records and completing leave the jobs alone. -/
theorem jobLoadAdmits : Obligations.JobLoadAdmits := by
  intro t h x s hg s0 tag
  have hruns {P : State → Prop} (hp : P (jobLoad x h.data h.writeOk s0)) : Runs (.jobLoad t h) s P := runs_given rfl hg hp
  refine ⟨fun hres => hruns (jobLoad_noBuffer hres), fun hres hpkg => hruns (jobLoad_malformed hres hpkg), fun hres p hpkg => ?_⟩
  intro y
  refine ⟨fun code hcode => hruns (jobLoad_refused hres hpkg hcode), fun j hcode hj hfree hlow => ?_⟩
  intro m1 m
  have hmade : Admitted j (admitted s0 y p) s0 m :=
    ((makeJob_admits j y p s0).after (updObs_only _ _) (by simp [admitAreas]) (by simp)).after (hostWrite_only _ _ _) (by simp [admitAreas]) (by simp)
  have heq := jobLoad_admits (ok := h.writeOk) hres hpkg hcode hj hfree hlow
  obtain ⟨hjob, hother, honly⟩ : Admitted j (admitted s0 y p) s0 (jobLoad x h.data h.writeOk s0) := by
    rw [heq]
    exact hmade.after (finish_only _ _ _ _ _ _) (by simp [ringAreas, admitAreas]) (by simp [ringAreas])
  have hsame (a : Region) (ha : a ∉ admitAreas) : a.same s0 (jobLoad x h.data h.writeOk s0) := honly.2.2 a ha
  obtain ⟨hst, htag, hseed, hdevset, hstep⟩ := admitted_ident s0 tag (descN x.desc 24 1) p h.data
  refine hruns ⟨heq, ?_⟩
  rw [hjob]
  exact ⟨hst, htag, hseed, hdevset, hstep, hother, hsame .dev (by decide), hsame .twin (by decide), hsame .flash (by decide), hsame .tide (by decide)⟩

end Sys2Proof.Safety
end

section
/-! PROOF. Jobs start, stop and leave (09 R231 to R233; 13 R364): what each step of it leaves of the job's identity and of the other jobs. -/

namespace Sys2Proof.Safety

open Sys2Proof.Machine

/-! ### A slot keeps its job -/

/-- From s to s' job slot j keeps its job's state and tag, every other job is as it was, and nothing outside the areas changes. -/
structure SlotKept (j : Nat) (s s' : State) : Prop where
  only : OnlyChanges verdictAreas s s'
  other : ∀ q, q ≠ j → s'.job q = s.job q
  st : (s'.job j).st = (s.job j).st
  tag : (s'.job j).tag = (s.job j).tag

theorem JobStands.slotKept {j : Nat} {s s' : State} (h : JobStands j s s') : SlotKept j s s' := ⟨h.only, h.other, h.kept.ident.1, h.kept.ident.2⟩

theorem Closed.slotKept {j : Nat} {s s' : State} (h : Closed j s s') : SlotKept j s s' := ⟨h.only, h.other, h.ident.1, h.ident.2⟩

namespace SlotKept

variable {j : Nat} {s s' s'' : State}

theorem refl (j : Nat) (s : State) : SlotKept j s s := ⟨.refl _ _, fun _ _ => rfl, rfl, rfl⟩

theorem trans (h : SlotKept j s s') (h' : SlotKept j s' s'') : SlotKept j s s'' :=
  ⟨h.only.trans h'.only, fun q hq => (h'.other q hq).trans (h.other q hq), h'.st.trans h.st, h'.tag.trans h.tag⟩

theorem foldl {α : Type} (f : State → α → State) (hf : ∀ s a, SlotKept j s (f s a)) (l : List α) (s : State) : SlotKept j s (l.foldl f s) := by
  induction l generalizing s with
  | nil => exact .refl _ _
  | cons a l ih => exact (hf s a).trans (ih _)

theorem ite {p : Prop} [Decidable p] {a b : State} (ha : SlotKept j s a) (hb : SlotKept j s b) : SlotKept j s (if p then a else b) := by
  split
  · exact ha
  · exact hb

theorem of_updJob {f : Job → Job} (hst : (f (s.job j)).st = (s.job j).st) (htag : (f (s.job j)).tag = (s.job j).tag) :
    SlotKept j s (s.updJob j f) :=
  ⟨(updJob_only _ _ _).mono (by simp [verdictAreas]), fun _ hq => updJob_job_other hq _ _, by rwa [updJob_job_same], by rwa [updJob_job_same]⟩

theorem ownSlot (h : SlotKept j s s') (hslot : slotOf (s.job j).tag.toNat s = some j) : slotOf (s'.job j).tag.toNat s' = some j :=
  ownSlot_congr hslot h.other h.st h.tag

end SlotKept

theorem finish_kept (j : Nat) (x : Exec) (st code : Nat) (res : List Byte) (ok : Bool) (s : State) : SlotKept j s (finish x st code res ok s) :=
  (JobStands.of_only (finish_only _ _ _ _ _ _) (by simp [ringAreas, verdictAreas]) (by simp [ringAreas])).slotKept

/-- A slot that is found by a tag holds a job of that tag. -/
theorem slotOf_some {tag j : Nat} {s : State} (h : slotOf tag s = some j) : (s.job j).st ≠ .free ∧ (s.job j).tag.toNat = tag := by
  simpa using List.find?_some h

theorem slotOf_own {tag j : Nat} {s : State} (h : slotOf tag s = some j) : slotOf (s.job j).tag.toNat s = some j := by
  rwa [(slotOf_some h).2]

/-- A loaded job stays in its slot whatever else of it changes, as long as it stays loaded and keeps its tag. -/
theorem slotOf_updJob {tag j : Nat} {f : Job → Job} {s : State} (h : slotOf tag s = some j) (hst : (f (s.job j)).st ≠ .free)
    (htag : (f (s.job j)).tag = (s.job j).tag) : slotOf tag (s.updJob j f) = some j := by
  obtain ⟨hbusy, -⟩ := slotOf_some h
  have hsame (q : Nat) : (((s.updJob j f).job q).st ≠ .free ↔ (s.job q).st ≠ .free) ∧ ((s.updJob j f).job q).tag = (s.job q).tag := by
    by_cases hq : q = j
    · subst hq
      rw [updJob_job_same]
      exact ⟨iff_of_true hst hbusy, htag⟩
    · rw [updJob_job_other hq]
      exact ⟨Iff.rfl, rfl⟩
  rw [← h]
  simp only [slotOf, hsame]

/-! ### A replay, an open decision and an attempt end (Tables JB-7, UP-14) -/

theorem GateKept.updEntry (k : Nat) (f : Entry → Entry) (x : Job) : GateKept x (x.updEntry k f) := rfl

theorem GateKept.foldl {α : Type} (f : Job → α → Job) (hf : ∀ x a, GateKept x (f x a)) (l : List α) (x : Job) : GateKept x (l.foldl f x) := by
  induction l generalizing x with
  | nil => exact .refl _
  | cons a l ih => exact (hf x a).trans (ih _)

/-- A replay's entries hold again what they held before it (R169). -/
def restoreEntries (saved : List (Nat × BitVec 4 × BitVec 4)) (x : Job) : Job :=
  saved.foldl (fun x q => x.updEntry q.1 (fun e => { e with epoch := q.2.1, status := q.2.2, inst := none })) x

theorem restoreEntries_kept (saved : List (Nat × BitVec 4 × BitVec 4)) (x : Job) : GateKept x (restoreEntries saved x) :=
  .foldl _ (fun _ _ => .updEntry _ _ _) _ _

theorem endReplay_kept (j : Nat) (s : State) : SlotKept j s (endReplay j s) := by
  unfold endReplay
  split
  · exact .refl _ _
  · rename_i r _
    extract_lets colls s1
    have hended : JobStands j s s1 := .foldl _ (fun _ _ => (endInst_stands _ _ _).trans (freeColl_stands _ _ _)) _ _
    obtain ⟨hst, htag⟩ := (restoreEntries_kept (colls.zip r.saved) (s1.job j)).ident
    exact hended.slotKept.trans (.of_updJob hst htag)

theorem stopReplay_kept (j : Nat) (s : State) : SlotKept j s (stopReplay j s) := by
  unfold stopReplay
  split
  · exact .refl _ _
  · exact (endReplay_kept _ _).trans (finish_kept _ _ _ _ _ _ _)

theorem updVerd_kept (j : Nat) (f : Verd → Verd) (s : State) : SlotKept j s (updVerd j f s) := .of_updJob rfl rfl

theorem sendVerdict_kept (j : Nat) (p : Payload) (s : State) : SlotKept j s (sendVerdict j p s) := by
  cases h : (s.job j).verd with
  | none =>
    have hnone : sendVerdict j p s = s := by simp only [sendVerdict, h]
    rw [hnone]
    exact .refl _ _
  | some v =>
    obtain ⟨s1, hsent, heq⟩ := sendVerdict_eq h p
    have hcells : JobStands j s s1 := .of_only hsent (by simp [ctlAreas, verdictAreas]) (by simp [ctlAreas])
    exact heq ▸ hcells.slotKept.trans (updVerd_kept _ _ _)

theorem stopVerdict_kept (j : Nat) (s : State) : SlotKept j s (stopVerdict j s) := by
  unfold stopVerdict
  extract_lets x s1
  have hopened : SlotKept j s s1 := .of_updJob rfl rfl
  refine .ite (.refl _ _) ?_
  split
  · exact .ite hopened (.ite (hopened.trans (sendVerdict_kept _ _ _))
      ((hopened.trans (sendTwin_stands _ _ _).slotKept).trans (sendVerdict_kept _ _ _)))
  · exact hopened

theorem abortInst_kept (j k code : Nat) (s : State) : SlotKept j s (abortInst j k code true s) := by
  cases h : s.inst? j k with
  | none =>
    have hnone : abortInst j k code true s = s := by simp [abortInst, h]
    rw [hnone]
    exact .refl _ _
  | some i => exact (abortInst_stands code h).slotKept

theorem rejectAttempt_kept (j : Nat) (s : State) : SlotKept j s (rejectAttempt j s) := by
  obtain ⟨s1, hstands, heq⟩ := rejectAttempt_stands j s
  exact heq ▸ hstands.slotKept.trans (.of_updJob rfl rfl)

theorem dropAttempt_kept (j : Nat) (s : State) : SlotKept j s (dropAttempt j s) := by
  have hmark (m : Nat × Nat × Nat × Nat) (s : State) : SlotKept j s (markManifest j m s) :=
    .of_updJob (GateKept.touch _ _ _ _).ident.1 (GateKept.touch _ _ _ _).ident.2
  exact .ite (.refl _ _) (.ite ((rejectAttempt_kept _ _).trans (closeGate_closed _ _).slotKept)
    (((rejectAttempt_kept _ _).trans (hmark _ _)).trans (closeGate_closed _ _).slotKept))

/-! ### Job reset (R431) -/

theorem resetOnTile_stands (j n : Nat) (s : State) : JobStands j s (resetOnTile j n s) := by
  have htile (s : State) (f : TileS → TileS) : JobStands j s (s.updTile n f) := .of_tileAreas (tileAreas_tile n f s)
  have hbuf (s : State) (b : Option Nat) : JobStands j s (freeBuf n b s) := .of_tileAreas (freeBuf_only n b s)
  unfold resetOnTile
  extract_lets s1 s2 s3 t s4 s5
  have h3 : JobStands j s s3 := ((JobStands.of_tileAreas (discardQueued_only n j _ s)).trans (htile s1 _)).trans (freeAccs_stands n j _ s2)
  have h4 : JobStands j s3 s4 := .foldl _ (fun s _ => (htile s _).trans (.foldl _ (fun s _ => hbuf s _) _ _)) _ _
  have h5 : JobStands j s4 s5 := .foldl _ (fun s _ => (htile s _).trans (.foldl _ (fun s _ => hbuf s _) _ _)) _ _
  exact ((h3.trans h4).trans h5).trans (htile s5 _)

theorem jobReset_stands (j : Nat) (s : State) : JobStands j s (jobReset j s) :=
  (JobStands.foldl _ (fun _ _ => resetOnTile_stands _ _ _) _ _).trans (invalidateSpill_stands _ _ _)

/-! ### A running job stops (R231, R20) -/

/-- A refusal changes the rings, and the tide's reason for a TIDE_LOAD (R383). -/
theorem refuse_only (x : Exec) (code : Nat) (s : State) : OnlyChanges [.tide, .host, .hostMem, .obs] s (refuse x code s) :=
  (OnlyChanges.ite ((updTide_only _ _).mono (by simp)) (.refl _ _)).trans ((finish_only _ _ _ _ _ _).mono (by simp [ringAreas]))

theorem failCmds_only (j : Nat) (ops : List Nat) (st code : Nat) (s : State) :
    OnlyChanges [.tide, .host, .hostMem, .obs] s (failCmds j ops st code s) :=
  .foldl _ (fun _ _ => .ite (refuse_only _ _ _) ((finish_only _ _ _ _ _ _).mono (by simp [ringAreas]))) _ _

/-- Commands that end FAILED change the rings alone. -/
theorem failCmds_kept (j : Nat) (ops : List Nat) (code : Nat) (s : State) : SlotKept j s (failCmds j ops stFailed code s) :=
  .foldl _ (fun s e => finish_kept j e stFailed code [] true s) _ _

/-- What ends before a job is STOPPING: its replay and commands, transfer, comparisons, attempt and instances, and what its tiles hold of it. -/
theorem stopJob_eq {j : Nat} (unload : Bool) {s : State} (hslot : slotOf (s.job j).tag.toNat s = some j) :
    ∃ s1, SlotKept j s s1 ∧ stopJob j unload s = s1.updJob j (fun x =>
      { x with st := .stopping, unload := unload, stale := x.stale || x.away, rejoin := none, ready := false }) := by
  unfold stopJob
  extract_lets s1 s2 s3 s4 s5 s6 s7
  have h2 : SlotKept j s s2 := (stopReplay_kept _ _).trans (failCmds_kept _ _ _ _)
  have h3 : SlotKept j s2 s3 := by
    show SlotKept j s2 (if _ then _ else _)
    split
    · rename_i hxfer
      exact (abortXfer_stands hxfer (h2.ownSlot hslot)).slotKept
    · exact .refl _ _
  have h5 : SlotKept j s3 s5 := (uncompareJob_stands _ _ _).slotKept.trans (stopVerdict_kept _ _)
  have h6 : SlotKept j s5 s6 := .foldl _ (fun _ _ => abortInst_kept _ _ _ _) _ _
  have h7 : SlotKept j s6 s7 := (dropAttempt_kept _ _).trans (jobReset_stands _ _).slotKept
  exact ⟨s7, (((h2.trans h3).trans h5).trans h6).trans h7, rfl⟩

/-- The job after a stop: STOPPING, with its tag; every other job is as it was. -/
structure JobStopping (j : Nat) (unload : Bool) (s s' : State) : Prop where
  st : (s'.job j).st = .stopping
  unload : (s'.job j).unload = unload
  tag : (s'.job j).tag = (s.job j).tag
  other : ∀ i, i ≠ j → s'.job i = s.job i
  only : OnlyChanges verdictAreas s s'

theorem stopJob_stops {j : Nat} (unload : Bool) {s : State} (hslot : slotOf (s.job j).tag.toNat s = some j) :
    JobStopping j unload s (stopJob j unload s) := by
  obtain ⟨s1, hkept, heq⟩ := stopJob_eq unload hslot
  rw [heq]
  constructor
  case other => exact fun i hi => (updJob_job_other hi _ _).trans (hkept.other i hi)
  case only => exact hkept.only.trans ((updJob_only _ _ _).mono (by simp [verdictAreas]))
  all_goals simp only [updJob_job_same, hkept.tag]

/-! ### A job leaves its slot (R231, R233) -/

theorem setJobs_job (l : Jobs) (s : State) (i : Nat) : ({ s with jobs := l } : State).job i = Tbl.get Job.reset l.slots i := rfl

theorem unloadJob_leaves (j : Nat) (s : State) :
    (unloadJob j s).job j = Job.reset ∧ (∀ i, i ≠ j → (unloadJob j s).job i = s.job i) ∧ (unloadJob j s).dev = s.dev := by
  unfold unloadJob
  extract_lets x s1 s2 s3
  have hreset := jobReset_stands j s
  have hreleased : OnlyChanges [.tiles, .fabric] s1 s3 :=
    (OnlyChanges.foldl _ (fun _ _ => (updTile_only _ _ _).mono (by simp)) _ _).trans ((updFabric_only _ _).mono (by simp))
  refine ⟨?_, fun i hi => ?_, ?_⟩
  · rw [setJobs_job, Tbl.get_set_same]
  · rw [setJobs_job, Tbl.get_set_other _ _ _ hi]
    exact (hreleased.job (by simp) i).trans (hreset.other i hi)
  · exact (hreleased.2.2 .dev (by simp)).trans (hreset.only.2.2 .dev (by simp [verdictAreas]))

/-! ### A job starts (R232, R364, R421) -/

theorem startOpp_only (p o : Nat) (s : State) : OnlyChanges [.clk] s (startOpp p o s) := by
  unfold startOpp
  extract_lets die v s1
  exact .ite ((updIsland_only _ _ _).trans (updClk_only _ _)) (updIsland_only _ _ _)

theorem wakeTile_only (p : Nat) (s : State) : OnlyChanges [.clk] s (wakeTile p s) :=
  (OnlyChanges.foldl _ (fun _ _ => .ite (startOpp_only _ _ _) (.refl _ _)) _ _).trans (updIsland_only _ _ _)

theorem raiseTile_only (n : Nat) (s : State) : OnlyChanges [.clk] s (raiseTile n s) := by
  unfold raiseTile
  split
  · exact .refl _ _
  · exact .ite (wakeTile_only _ _) (.ite ((updIsland_only _ _ _).trans (.ite (startOpp_only _ _ _) (updIsland_only _ _ _))) (.refl _ _))

theorem uncompareJob_only (j : Nat) (s : State) : OnlyChanges [.twin, .obs] s (uncompareJob j s) := by
  refine ((updTwin_only _ _).mono (by simp)).trans (.foldl _ (fun s d => ?_) _ _)
  split
  · exact (bump_only _ _ _).mono (by simp)
  · exact .refl _ _

/-- An aborted transfer leaves the twin state of every job (R367). -/
theorem abortXfer_twin (j : Nat) (s : State) : ((abortXfer s).job j).twin = (s.job j).twin := by
  unfold abortXfer
  split
  · rfl
  · extract_lets s1
    split
    · rename_i k hk
      by_cases hj : j = k
      · rw [hj, updJob_job_same]
        rfl
      · rw [updJob_job_other hj]
        rfl
    · rfl

theorem setJTwin_twin (j : Nat) (tw : JTwin) (s : State) : ((setJTwin j tw s).job j).twin = tw := by
  unfold setJTwin
  extract_lets was s1 s2
  have h1 : (s1.job j).twin = tw := by rw [updJob_job_same]
  have h2 : (s2.job j).twin = tw := by
    show ((if _ then _ else _ : State).job j).twin = tw
    split
    · rw [abortXfer_twin, h1]
    · exact h1
  split
  · assumption
  · split
    · exact h2
    · rw [(uncompareJob_only j s2).job (by simp), h2]

/-- The job after its start without a notice: it runs in its twin state, or OUT where it is STALE (R364); every other job is as it was. -/
structure JobStarted (j : Nat) (tw : JTwin) (s s' : State) : Prop where
  st : (s'.job j).st = .running
  twin : (s'.job j).twin = if (s.job j).stale then .out else tw
  startTide : (s'.job j).startTide = (s.job j).startTide
  other : ∀ i, i ≠ j → s'.job i = s.job i
  only : OnlyChanges (.clk :: verdictAreas) s s'

theorem GateKept.startTide {x y : Job} (h : GateKept x y) : y.startTide = x.startTide := by
  rw [h]

/-- The job in slot j runs, with no QUERY open. -/
def toRunning (j : Nat) (s : State) : State := s.updJob j (fun x => { x with st := .running, announced := false, query := none })

/-- The twin state that a starting job takes: OUT where it is STALE (R364). -/
def startTwin (tw : JTwin) (x : Job) : JTwin := if x.stale then .out else tw

/-- A start without a notice: the job runs in its twin state, and its tiles' floors rise. -/
theorem startJob_eq (j : Nat) (tw : JTwin) (s : State) :
    let z := setJTwin j (startTwin tw (s.job j)) (toRunning j s)
    startJob j tw false s = (jobTiles z j).foldl (fun s n => raiseTile n s) z := rfl

theorem startJob_starts {j : Nat} (tw : JTwin) {s : State} (hslot : slotOf (s.job j).tag.toNat s = some j) :
    JobStarted j tw s (startJob j tw false s) := by
  have hjob : (toRunning j s).job j = { s.job j with st := .running, announced := false, query := none } := updJob_job_same _ _ _
  have hown : slotOf ((toRunning j s).job j).tag.toNat (toRunning j s) = some j := by
    rw [hjob]
    exact slotOf_updJob hslot (by simp) rfl
  have hset := setJTwin_stands (st := startTwin tw (s.job j)) hown
  have hraised (l : List Nat) (z : State) : OnlyChanges [.clk] z (l.foldl (fun s n => raiseTile n s) z) :=
    .foldl _ (fun _ _ => raiseTile_only _ _) _ _
  rw [startJob_eq]
  constructor
  case st => rw [(hraised _ _).job (by simp), hset.kept.ident.1, hjob]
  case twin =>
    rw [(hraised _ _).job (by simp), setJTwin_twin]
    rfl
  case startTide => rw [(hraised _ _).job (by simp), hset.kept.startTide, hjob]
  case other => exact fun i hi => ((hraised _ _).job (by simp) i).trans ((hset.other i hi).trans (updJob_job_other hi _ _))
  case only =>
    exact (((updJob_only _ _ _).mono (by simp [verdictAreas])).trans (hset.only.mono (fun _ => List.mem_cons_of_mem _))).trans ((hraised _ _).mono (by simp))

end Sys2Proof.Safety
end

section
/-! PROOF. JOB_START, JOB_STOP and JOB_QUOTA (O17): what each command refuses, and what it leaves where it does not (09 R231 to R233, R248, R249). -/

namespace Sys2Proof.Safety

open Sys2Proof.Machine

/-! ### JOB_START (R232, R364) -/

theorem beginExec_only (x : Exec) (s : State) : OnlyChanges [.host] s (beginExec x s) := updHost_only _ _

@[simp] theorem beginExec_job (x : Exec) (s : State) (i : Nat) : (beginExec x s).job i = s.job i := rfl

/-- The command has begun for the job in a slot, which takes its start tide (R232). -/
def startBegun (x : Exec) (slot start : Nat) (s : State) : State :=
  beginExec x (s.updJob slot (fun y => { y with startTide := BitVec.ofNat 48 start }))

theorem startBegun_job (x : Exec) (slot start : Nat) (s : State) :
    (startBegun x slot start s).job slot = { s.job slot with startTide := BitVec.ofNat 48 start } := updJob_job_same _ _ _

theorem startBegun_other {i slot : Nat} (hi : i ≠ slot) (x : Exec) (start : Nat) (s : State) : (startBegun x slot start s).job i = s.job i :=
  updJob_job_other hi _ _

theorem startBegun_own {tag slot : Nat} {s : State} (hslot : slotOf tag s = some slot) (x : Exec) (start : Nat) :
    slotOf ((startBegun x slot start s).job slot).tag.toNat (startBegun x slot start s) = some slot := by
  rw [startBegun_job]
  exact slotOf_updJob (slotOf_own hslot) (slotOf_some hslot).1 rfl

theorem startBegun_only (x : Exec) (slot start : Nat) (s : State) : OnlyChanges [.jobs, .host] s (startBegun x slot start s) :=
  ((updJob_only _ _ _).mono (by simp)).trans ((updHost_only _ _).mono (by simp))

section

variable {x : Exec} {slot : Nat} {s : State} (hslot : slotOf (descJob x.desc) s = some slot)
include hslot

theorem jobStart_unfit (hfit : ¬ ((s.job slot).st = .loaded ∨ (s.job slot).st = .stopped)) : jobStart x s = refuse x 0x0504 s := by
  obtain ⟨hloaded, hstopped⟩ := not_or.mp hfit
  simp [jobStart, hslot, hloaded, hstopped]

variable (hfit : (s.job slot).st = .loaded ∨ (s.job slot).st = .stopped)
include hfit

theorem jobStart_fit :
    jobStart x s = if descN x.desc 24 6 ≤ s.tide.now then refuse x 0x0515 s
      else if startsEarly s slot (descN x.desc 24 6) then refuse x 0x0504 s
      else if s.twin.dst = .moored then sendNote (descJob x.desc) 2 0 (descN x.desc 24 6)
        ((startBegun x slot (descN x.desc 24 6) s).updJob slot (fun y => { y with query := some (0, false, s.time) }))
      else decideStart slot .serving false (startBegun x slot (descN x.desc 24 6) s) := by
  have hst : ((s.job slot).st ≠ .loaded && (s.job slot).st ≠ .stopped) = false := by
    rcases hfit with h | h <;> simp [h]
  simp only [jobStart, hslot, hst]
  rfl

theorem jobStart_past (hpast : descN x.desc 24 6 ≤ s.tide.now) : jobStart x s = refuse x 0x0515 s := by
  rw [jobStart_fit hslot hfit, if_pos hpast]

variable (hlater : s.tide.now < descN x.desc 24 6)
include hlater

theorem jobStart_early (hearly : startsEarly s slot (descN x.desc 24 6) = true) : jobStart x s = refuse x 0x0504 s := by
  rw [jobStart_fit hslot hfit, if_neg (Nat.not_le.mpr hlater), if_pos hearly]

variable (hearly : startsEarly s slot (descN x.desc 24 6) = false)
include hearly

/-- On a MOORED device the twin is asked first (R364). -/
theorem jobStart_asks (hmoored : s.twin.dst = .moored) :
    jobStart x s = sendNote (descJob x.desc) 2 0 (descN x.desc 24 6)
      ((startBegun x slot (descN x.desc 24 6) s).updJob slot (fun y => { y with query := some (0, false, s.time) })) := by
  rw [jobStart_fit hslot hfit, if_neg (Nat.not_le.mpr hlater), if_neg (by simp [hearly]), if_pos hmoored]

theorem jobStart_starts (hmoored : s.twin.dst ≠ .moored)
    (hbegun : begunFor 0x02 slot (startBegun x slot (descN x.desc 24 6) s) = some { x with started := true }) :
    let m := startJob slot .serving false (startBegun x slot (descN x.desc 24 6) s)
    jobStart x s = finish { x with started := true } stDone 0 (leBytes 4 (jobWord m slot)) true m := by
  rw [jobStart_fit hslot hfit, if_neg (Nat.not_le.mpr hlater), if_neg (by simp [hearly]), if_neg hmoored]
  simp only [decideStart, hbegun]

end

theorem sendNote_only (tag note state start : Nat) (s : State) : OnlyChanges [.ports, .obs] s (sendNote tag note state start s) := sendTwin_only _ _

/-! ### JOB_STOP (R231, R233) -/

section

variable {x : Exec} {slot : Nat} {s : State} (hslot : slotOf (descJob x.desc) s = some slot)
include hslot

theorem jobStop_running (hst : (s.job slot).st = .running) :
    jobStop x s = beginExec x (stopJob slot (bitN (descN x.desc 24 1) 0) s) := by
  simp only [jobStop, hslot, hst]

theorem jobStop_unloads (hunload : bitN (descN x.desc 24 1) 0 = true) (hst : (s.job slot).st = .loaded ∨ (s.job slot).st = .stopped) :
    let m := unloadJob slot (failCmds slot [0x02] stRefused 0x0504 s)
    jobStop x s = finish x stDone 0 (leBytes 4 (jobWordOf (descJob x.desc) m)) true m := by
  rcases hst with hst | hst <;> simp only [jobStop, hslot, hst, hunload]

/-- A job that does not run is neither stopped again nor, without UNLOAD, touched (R233). -/
theorem jobStop_refused (hrunning : (s.job slot).st ≠ .running)
    (hnot : (s.job slot).st = .stopping ∨ bitN (descN x.desc 24 1) 0 = false) : jobStop x s = refuse x 0x0504 s := by
  have hbusy := (slotOf_some hslot).1
  simp only [jobStop, hslot]
  cases hst : (s.job slot).st with
  | free => exact absurd hst hbusy
  | running => exact absurd hst hrunning
  | stopping => rfl
  | loaded => rw [hnot.resolve_left (by simp [hst])]
  | stopped => rw [hnot.resolve_left (by simp [hst])]

end

/-- The job is STOPPED, and leaves its slot where UNLOAD asked for it (R231). -/
def stoppedJob (j : Nat) (s : State) : State :=
  let m := s.updJob j (fun y => { y with st := .stopped, unload := false })
  if (s.job j).unload then unloadJob j m else m

theorem jobStopped_waits {j : Nat} {s : State} (hleft : allStopped s j = false) : jobStopped j s = s := by
  simp [jobStopped, hleft]

theorem jobStopped_ends {j : Nat} {s : State} (hst : (s.job j).st = .stopping) (hend : allStopped s j = true) :
    jobStopped j s = match begunFor 0x03 j s with
      | some c => finish c stDone 0 (leBytes 4 (jobWordOf (s.job j).tag.toNat (stoppedJob j s))) true (stoppedJob j s)
      | none => stoppedJob j s := by
  simp only [jobStopped, hst, hend]
  rfl

theorem stoppedJob_leaves (j : Nat) (s : State) :
    ((stoppedJob j s).job j).st = (if (s.job j).unload then .free else .stopped) ∧ (∀ i, i ≠ j → (stoppedJob j s).job i = s.job i) ∧
      (stoppedJob j s).dev = s.dev := by
  unfold stoppedJob
  extract_lets m
  have hother (i : Nat) (hi : i ≠ j) : m.job i = s.job i := updJob_job_other hi _ _
  split
  · obtain ⟨hjob, hothers, hdev⟩ := unloadJob_leaves j m
    exact ⟨by rw [hjob]; rfl, fun i hi => (hothers i hi).trans (hother i hi), hdev⟩
  · exact ⟨by rw [updJob_job_same], hother, rfl⟩

/-- The end of a stop leaves every job as stoppedJob leaves it, and the device. -/
theorem jobStopped_jobs {j : Nat} {s : State} (hst : (s.job j).st = .stopping) (hend : allStopped s j = true) :
    (∀ i, (jobStopped j s).job i = (stoppedJob j s).job i) ∧ (jobStopped j s).dev = (stoppedJob j s).dev := by
  rw [jobStopped_ends hst hend]
  split
  · exact ⟨finish_job _ _ _ _ _ _, (finish_only _ _ _ _ _ _).2.2 .dev (by simp [ringAreas])⟩
  · exact ⟨fun _ => rfl, rfl⟩

/-! ### JOB_QUOTA (R248, R249) -/

theorem quotaNow_setQuota_same (kind tile q : Nat) (x : Job) : quotaNow (setQuota kind tile q x) kind tile = q := by
  match kind with
  | 0 => simp [quotaNow, setQuota, Job.accQuota]
  | 1 => simp [quotaNow, setQuota, Job.cbufQuota]
  | 2 => rfl
  | _ + 3 => rfl

/-- A quota of one kind leaves the other kinds, and the other tiles of its own. -/
theorem quotaNow_setQuota_other {kind tile k n : Nat} (q : Nat) (x : Job) (hkind : kind < 4) (hk : k < 4) (h : k ≠ kind ∨ (k < 2 ∧ n ≠ tile)) :
    quotaNow (setQuota kind tile q x) k n = quotaNow x k n := by
  by_cases hsame : k = kind
  · obtain ⟨hlow, htile⟩ := h.resolve_left (not_not.mpr hsame)
    subst hsame
    match k with
    | 0 =>
      simp only [quotaNow, setQuota, Job.accQuota, Tbl.get_set_other _ _ _ htile]
      rfl
    | 1 =>
      simp only [quotaNow, setQuota, Job.cbufQuota, Tbl.get_set_other _ _ _ htile]
      rfl
  · match kind, k with
    | 0, 0 | 1, 1 | 2, 2 => exact absurd rfl hsame
    | _ + 3, _ + 3 => omega
    | 0, 1 | 0, 2 | 0, _ + 3 | 1, 0 | 1, 2 | 1, _ + 3 | 2, 0 | 2, 1 | 2, _ + 3 | _ + 3, 0 | _ + 3, 1 | _ + 3, 2 => rfl

theorem setQuota_kept (kind tile q : Nat) (x : Job) : (setQuota kind tile q x).grants = x.grants ∧ (setQuota kind tile q x).st = x.st := by
  unfold setQuota
  split <;> exact ⟨rfl, rfl⟩

/-- A quota takes effect where its tile has a grant (R248). -/
def withQuota (slot kind tile q : Nat) (s : State) : State :=
  if quotaGrant (s.job slot) kind tile = 0 then s else s.updJob slot (setQuota kind tile q)

/-- From s to s' job slot j takes a quota; its other quotas, its grants, its state and every other job are as they were. -/
structure QuotaTaken (j kind tile q : Nat) (s s' : State) : Prop where
  taken : 0 < quotaGrant (s.job j) kind tile → quotaNow (s'.job j) kind tile = q
  others : ∀ k n, (k ≠ kind ∨ (k < 2 ∧ n ≠ tile)) → k < 4 → quotaNow (s'.job j) k n = quotaNow (s.job j) k n
  grants : (s'.job j).grants = (s.job j).grants
  st : (s'.job j).st = (s.job j).st
  only : OnlyJob j s s'

theorem withQuota_takes {kind : Nat} (hkind : kind < 4) (slot tile q : Nat) (s : State) :
    QuotaTaken slot kind tile q s (withQuota slot kind tile q s) := by
  unfold withQuota
  split
  · rename_i hnone
    exact ⟨fun hsome => absurd hnone (Nat.ne_of_gt hsome), fun _ _ _ _ => rfl, rfl, rfl, .refl _ _⟩
  · obtain ⟨hgrants, hst⟩ := setQuota_kept kind tile q (s.job slot)
    refine ⟨fun _ => ?_, fun k n h hk => ?_, ?_, ?_, .updJob _ _ _⟩
    all_goals rw [updJob_job_same]
    · exact quotaNow_setQuota_same _ _ _ _
    · exact quotaNow_setQuota_other _ _ hkind hk h
    · exact hgrants
    · exact hst

section

variable {x : Exec} {slot : Nat} {s : State} (hslot : slotOf (descJob x.desc) s = some slot) (hst : (s.job slot).st ≠ .stopping)
variable (hkind : descN x.desc 24 1 < 4) (hscope : 2 ≤ descN x.desc 24 1 → descN x.desc 25 1 = 0) (htile : descN x.desc 25 1 ≤ 127)
include hslot hst hkind hscope htile

/-- A quota of a known kind and scope is measured against its grant, then against the state in use (R249). -/
theorem jobQuota_eq :
    jobQuota x s =
      if descN x.desc 32 8 > quotaGrant (s.job slot) (descN x.desc 24 1) (descN x.desc 25 1) then refuse x 0x0511 s
      else if descN x.desc 24 1 = 3 && descN x.desc 32 8 < (s.job slot).stateBytes then refuse x 0x0512 s
      else
        let m := withQuota slot (descN x.desc 24 1) (descN x.desc 25 1) (descN x.desc 32 8) s
        finish x stDone 0 (leBytes 4 (jobWord m slot) ++ leBytes 4 0 ++
          leBytes 8 (quotaNow (s.job slot) (descN x.desc 24 1) (descN x.desc 25 1))) true m := by
  have hform : (descN x.desc 24 1 > 3 || (descN x.desc 24 1 ≥ 2 && descN x.desc 25 1 ≠ 0)) = false := by
    simp only [Bool.or_eq_false_iff, Bool.and_eq_false_iff, decide_eq_false_iff_not]
    omega
  have hrange : ¬ descN x.desc 25 1 > 127 := Nat.not_lt.mpr htile
  simp only [jobQuota, hslot, hform, hrange, hst, if_false]
  rfl

theorem jobQuota_aboveGrant (habove : quotaGrant (s.job slot) (descN x.desc 24 1) (descN x.desc 25 1) < descN x.desc 32 8) :
    jobQuota x s = refuse x 0x0511 s := by
  rw [jobQuota_eq hslot hst hkind hscope htile, if_pos habove]

variable (hwithin : descN x.desc 32 8 ≤ quotaGrant (s.job slot) (descN x.desc 24 1) (descN x.desc 25 1))
include hwithin

theorem jobQuota_belowState (hstate : descN x.desc 24 1 = 3) (hbelow : descN x.desc 32 8 < (s.job slot).stateBytes) :
    jobQuota x s = refuse x 0x0512 s := by
  rw [jobQuota_eq hslot hst hkind hscope htile, if_neg (Nat.not_lt.mpr hwithin), if_pos (by simp [hstate, hbelow])]

theorem jobQuota_takes (hused : descN x.desc 24 1 = 3 → (s.job slot).stateBytes ≤ descN x.desc 32 8) :
    let m := withQuota slot (descN x.desc 24 1) (descN x.desc 25 1) (descN x.desc 32 8) s
    jobQuota x s = finish x stDone 0 (leBytes 4 (jobWord m slot) ++ leBytes 4 0 ++
      leBytes 8 (quotaNow (s.job slot) (descN x.desc 24 1) (descN x.desc 25 1))) true m := by
  rw [jobQuota_eq hslot hst hkind hscope htile, if_neg (Nat.not_lt.mpr hwithin), if_neg (by simpa using hused)]

end

/-! ### The commands (O17) -/

/-- Settles O17: a start runs the job or asks the twin (jobStart_starts, jobStart_asks), a stop leaves it STOPPING until its last work ends
(stopJob_stops, jobStopped_ends) or frees its slot (unloadJob_leaves), and a quota is one update of the job (withQuota_takes). -/
theorem jobControl : Obligations.JobControl := by
  refine ⟨fun t h x slot s hg hslot => ?start, fun t h x slot s => ?stop, fun t h x slot s hg hslot hst => ?quota⟩
  case start =>
    intro s0 start fit s1
    have hruns {P : State → Prop} (hp : P (jobStart x s0)) : Runs (.jobStart t h) s P := runs_given rfl hg hp
    have hslot0 : slotOf (descJob x.desc) s0 = some slot := hslot
    refine ⟨fun hfit hlater hearly hmoored hbegun => hruns ?_, fun hfit hlater hearly hmoored => hruns ?_, fun hfit => hruns (jobStart_unfit hslot0 hfit),
      fun hfit hpast => hruns (jobStart_past hslot0 hfit hpast), fun hfit hlater hearly => hruns (jobStart_early hslot0 hfit hlater hearly)⟩
    · obtain ⟨hst, htwin, hstart, hother, honly⟩ := startJob_starts .serving (startBegun_own hslot0 x start)
      have hframe (res : List Byte) : OnlyChanges (.clk :: verdictAreas) s0
          (finish { x with started := true } stDone 0 res true (startJob slot .serving false s1)) :=
        (((startBegun_only _ _ _ _).mono (by simp [verdictAreas])).trans honly).trans ((finish_only _ _ _ _ _ _).mono (by simp [ringAreas, verdictAreas]))
      rw [jobStart_starts hslot0 hfit hlater hearly hmoored hbegun]
      simp only [startBegun_job] at htwin hstart
      simp only [finish_job]
      exact ⟨rfl, hst, htwin, hstart, fun i hi => (hother i hi).trans (startBegun_other hi _ _ _),
        (hframe _).2.2 .dev (by simp [verdictAreas]), (hframe _).2.2 .tide (by simp [verdictAreas]), (hframe _).2.2 .flash (by simp [verdictAreas])⟩
    · rw [jobStart_asks hslot0 hfit hlater hearly hmoored]
      have hsent := sendNote_only (descJob x.desc) 2 0 start ((startBegun x slot start s0).updJob slot (fun y => { y with query := some (0, false, s0.time) }))
      have hjob := hsent.job (by simp)
      refine ⟨rfl, ?_, ?_, fun i hi => ?_, hsent.2.2 .dev (by simp), hsent.2.2 .tide (by simp)⟩
      · rw [hjob, updJob_job_same, startBegun_job]
        rfl
      · rw [hjob, updJob_job_same, startBegun_job]
      · rw [hjob, updJob_job_other hi, startBegun_other hi]
        rfl
  case stop =>
    intro s0 tag unload
    have hruns {P : State → Prop} (hg : Given 0x03 h x s) (hp : P (jobStop x s0)) : Runs (.jobStop t h) s P := runs_given rfl hg hp
    refine ⟨fun hg hslot hst => hruns hg ?_, fun hg hslot hunload hst => hruns hg ?_, fun hg hslot hst hnot => hruns hg (jobStop_refused hslot hst hnot),
      fun hst hend => ⟨_, rfl, ?_⟩, fun hst hleft => ⟨_, rfl, jobStopped_waits hleft⟩⟩
    · obtain ⟨hstopping, hunload, htag, hother, honly⟩ := stopJob_stops (s := s0) unload (slotOf_own hslot)
      rw [jobStop_running (s := s0) hslot hst]
      simp only [beginExec_job]
      have hframe : OnlyChanges verdictAreas s0 (beginExec x (stopJob slot.val unload s0)) :=
        honly.trans ((beginExec_only _ _).mono (by simp [verdictAreas]))
      exact ⟨rfl, hstopping, hunload, htag, fun i hi => congrArg Job.st (hother i hi), hframe.2.2 .dev (by simp [verdictAreas]),
        hframe.2.2 .flash (by simp [verdictAreas])⟩
    · have hfailed := failCmds_only slot.val [0x02] stRefused 0x0504 s0
      obtain ⟨hfree, hother, hdev⟩ := unloadJob_leaves slot.val (failCmds slot.val [0x02] stRefused 0x0504 s0)
      rw [jobStop_unloads (s := s0) hslot hunload hst]
      simp only [finish_job]
      exact ⟨rfl, hfree, fun i hi => (hother i hi).trans (hfailed.job (by simp) i),
        ((finish_only _ _ _ _ _ _).2.2 .dev (by simp [ringAreas])).trans (hdev.trans (hfailed.2.2 .dev (by simp)))⟩
    · obtain ⟨hfinal, hother, hdev⟩ := stoppedJob_leaves slot.val (tick t s)
      obtain ⟨hjobs, hdev'⟩ := jobStopped_jobs (s := tick t s) hst hend
      simp only [hjobs, hdev']
      exact ⟨jobStopped_ends hst hend, hfinal, hother, hdev⟩
  case quota =>
    intro s0 kind tile q grant hkind hscope htile
    have hslot0 : slotOf (descJob x.desc) s0 = some slot := hslot
    have hruns {P : State → Prop} (hp : P (jobQuota x s0)) : Runs (.jobQuota t h) s P := runs_given rfl hg hp
    refine ⟨fun hwithin hused => hruns ?_, fun habove => hruns (jobQuota_aboveGrant hslot0 hst hkind hscope htile habove),
      fun hwithin hstate hbelow => hruns (jobQuota_belowState hslot0 hst hkind hscope htile hwithin hstate hbelow)⟩
    obtain ⟨htaken, hothers, hgrants, hkept, honly, hjobs⟩ := withQuota_takes hkind slot tile q s0
    rw [jobQuota_takes hslot0 hst hkind hscope htile hwithin hused]
    simp only [finish_job]
    exact ⟨rfl, htaken, hothers, hgrants, hkept, hjobs, (honly.mono (by simp)).trans ((finish_only _ _ _ _ _ _).mono (by simp [ringAreas]))⟩

end Sys2Proof.Safety
end

section
/-! PROOF. The buffer pool (O34): a free of a buffer (10 Table SW-13, R282), and what the auditor finds (R284). -/

namespace Sys2Proof.Safety

open Sys2Proof.Machine

/-! ### The buffers of a tile -/

@[simp] theorem updBuf_buf_same (b : Nat) (f : Buf → Buf) (x : TileS) : (x.updBuf b f).buf b = f (x.buf b) := Tbl.get_upd_same _ _ _ _

theorem updBuf_buf_other {b k : Nat} (h : k ≠ b) (f : Buf → Buf) (x : TileS) : (x.updBuf b f).buf k = x.buf k := Tbl.get_upd_other _ _ _ h

@[simp] theorem updBuf_freeList (b : Nat) (f : Buf → Buf) (x : TileS) : (x.updBuf b f).freeList = x.freeList := rfl

@[simp] theorem updBuf_audit (b : Nat) (f : Buf → Buf) (x : TileS) : (x.updBuf b f).audit = x.audit := rfl

/-- From s to s' buffer b of a tile is released: it ends the free list, at its reset value; no other buffer and no other tile changes. -/
structure Released (n b : Nat) (s s' : State) : Prop where
  free : (s'.tile n).free = (s.tile n).free ++ [b]
  reset : (s'.tile n).buf b = Buf.reset
  bufs : ∀ k, k ≠ b → (s'.tile n).buf k = (s.tile n).buf k
  tiles : ∀ m, m ≠ n → s'.tile m = s.tile m
  only : OnlyChanges [.tiles] s s'

theorem releaseBuf_released (n b : Nat) (s : State) : Released n b s (releaseBuf n b s) where
  free := by simp [releaseBuf, TileS.free]
  reset := by simp [releaseBuf, TileS.buf]
  bufs k hk := by simp [releaseBuf, TileS.buf, Tbl.get_set_other _ _ _ hk]
  tiles _ hm := updTile_tile_other hm _ _
  only := updTile_only _ _ _

/-! ### A free of an address (Table SW-13) -/

section

variable {n a : Nat} {s : State}

theorem freeAddr_noBuffer (h : ¬ (a < 1835008 ∧ a % 112 = 0)) : freeAddr n a s = logCode 0x020C (unitTile n) s :=
  if_pos (by simpa [Nat.not_lt, imp_iff_not_or] using h)

variable (h : a < 1835008 ∧ a % 112 = 0)
include h

theorem freeAddr_free (hst : ((s.tile n).buf (a / 112)).state = false) :
    freeAddr n a s = bump (tileCtr n 0x0C8) 1 (logCode 0x020D (unitTile n) s) := by
  simp [freeAddr, Nat.not_le.mpr h.1, h.2, hst]

theorem freeAddr_shared (hst : ((s.tile n).buf (a / 112)).state = true) (hcount : 1 < ((s.tile n).buf (a / 112)).count) :
    freeAddr n a s = s.updTile n (fun x => x.updBuf (a / 112) (fun y => { y with count := y.count - 1 })) := by
  simp [freeAddr, Nat.not_le.mpr h.1, h.2, hst, hcount]

theorem freeAddr_last (hst : ((s.tile n).buf (a / 112)).state = true) (hcount : ((s.tile n).buf (a / 112)).count ≤ 1) :
    freeAddr n a s = releaseBuf n (a / 112) s := by
  simp [freeAddr, Nat.not_le.mpr h.1, h.2, hst, Nat.not_lt.mpr hcount]

end

/-! ### The auditor (Table SW-14, R284) -/

/-- The auditor goes on to the next buffer. -/
def auditNext (n : Nat) (s : State) : State := s.updTile n (fun x => { x with audit := ((s.tile n).audit + 1) % 16384 })

/-- The auditor puts a buffer back on the free list. -/
def relinked (n : Nat) (s : State) : State :=
  (auditNext n s).updTile n (fun x => { x with freeList := some ((s.tile n).free ++ [(s.tile n).audit]) }.updBuf (s.tile n).audit
    (fun y => { y with onList := true }))

section

variable {n : Nat} {s : State} (hst : ((s.tile n).buf (s.tile n).audit).state = false)
include hst

/-- A buffer that is neither in use nor on the list returns to it, as a finding. -/
theorem auditStep_lost (hlinks : ((s.tile n).free.filter (· = (s.tile n).audit)).length = 0) :
    auditStep n s = auditFound n (relinked n s) := by
  simp only [auditStep, hst, hlinks]
  rfl

theorem auditStep_sound (hlinks : ((s.tile n).free.filter (· = (s.tile n).audit)).length = 1) : auditStep n s = auditNext n s := by
  simp [auditStep, auditNext, hst, hlinks]

end

theorem auditFound_only (n : Nat) (s : State) : OnlyChanges [.obs] s (auditFound n s) := (logCode_only _ _ _).trans (bump_only _ _ _)

theorem relinked_only (n : Nat) (s : State) : OnlyChanges [.tiles] s (relinked n s) := (updTile_only _ _ _).trans (updTile_only _ _ _)

theorem relinked_tile (n : Nat) (s : State) :
    ((relinked n s).tile n).free = (s.tile n).free ++ [(s.tile n).audit] ∧ ((relinked n s).tile n).audit = ((s.tile n).audit + 1) % 16384 ∧
      ∀ m, m ≠ n → (relinked n s).tile m = s.tile m := by
  refine ⟨?_, ?_, fun m hm => ?_⟩
  · simp [relinked, TileS.free]
  · simp [relinked, auditNext]
  · simp [relinked, auditNext, updTile_tile_other hm]

/-- Settles O34: a free logs, counts down or releases by its buffer's state (freeAddr_noBuffer to freeAddr_last), and the auditor returns a
buffer on no list and in no use (auditStep_lost). -/
theorem bufferPool : Obligations.BufferPool := by
  intro t n addr s s0 b x y good
  refine ⟨fun hbad => ⟨_, rfl, freeAddr_noBuffer hbad⟩, fun hgood hst => ⟨_, rfl, freeAddr_free hgood hst⟩, fun hgood hst hcount => ⟨_, rfl, ?_⟩,
    fun hgood hst hcount => ⟨_, rfl, ?_⟩, fun hst hlinks => ⟨_, rfl, ?_⟩, fun hst hlinks => ⟨_, rfl, ?_⟩⟩
  · rw [freeAddr_shared (s := s0) hgood hst hcount]
    simp only [updTile_tile_same]
    exact ⟨updBuf_buf_same _ _ _, rfl, fun k hk => updBuf_buf_other hk _ _, fun m hm => updTile_tile_other hm _ _, updTile_only _ _ _⟩
  · rw [freeAddr_last (s := s0) hgood hst hcount]
    obtain ⟨hfree, hreset, hbufs, htiles, honly⟩ := releaseBuf_released n.val b s0
    exact ⟨hreset, hfree, hbufs, htiles, honly⟩
  · rw [auditStep_lost (s := s0) hst hlinks]
    have hfound := auditFound_only n.val (relinked n.val s0)
    obtain ⟨hfree, haudit, htiles⟩ := relinked_tile n.val s0
    simp only [hfound.tile (by simp)]
    exact ⟨hfree, haudit, htiles, ((relinked_only _ _).mono (by simp)).trans (hfound.mono (by simp))⟩
  · rw [auditStep_sound (s := s0) hst hlinks]
    exact ⟨updTile_tile_same _ _ _, fun m hm => updTile_tile_other hm _ _, updTile_only _ _ _⟩

end Sys2Proof.Safety
end

section
/-! PROOF. Tides: what the passing of time leaves of the tide block (R308). -/

namespace Sys2Proof.Safety

open Sys2Proof.Machine

section

variable (time : Time) (x : Tide)

@[simp] theorem advance_en : (x.advance time).en = x.en := by cases x; rfl
@[simp] theorem advance_active : (x.advance time).active = x.active := by cases x; rfl
@[simp] theorem advance_hold : (x.advance time).hold = x.hold := by cases x; rfl
@[simp] theorem advance_pending : (x.advance time).pending = x.pending := by cases x; rfl
@[simp] theorem advance_switchAt : (x.advance time).switchAt = x.switchAt := by cases x; rfl
@[simp] theorem advance_len : (x.advance time).len = x.len := by cases x; rfl
@[simp] theorem advance_bank0 : (x.advance time).bank0 = x.bank0 := by cases x; rfl
@[simp] theorem advance_bank1 : (x.advance time).bank1 = x.bank1 := by cases x; rfl
@[simp] theorem advance_go : (x.advance time).go = x.go := by cases x; rfl
@[simp] theorem advance_switchedAt : (x.advance time).switchedAt = x.switchedAt := by cases x; rfl

end

theorem tick_otherBank (t : Time) (s : State) : (tick t s).otherBank = s.otherBank := by simp [State.otherBank]

@[simp] theorem at_tide (t : Time) (h : HostCmd) (s : State) : (at_ t h s).tide = s.tide.advance (max s.time t) := rfl

end Sys2Proof.Safety
end

section
/-! PROOF. TIDE_LOAD (O19): the checks of an image refuse in their order, and a good one fills the bank not in force (10 R269, R272). -/

namespace Sys2Proof.Safety

open Sys2Proof.Machine

/-- The image stands staged in the bank that is not in force. -/
def stagedIn (b : TideBank) (x : Tide) : Tide := if x.active then { x with bank0 := b, staged := true } else { x with bank1 := b, staged := true }

/-- Staging fills one bank and leaves the tide in force and its enable as they are. -/
theorem stagedIn_stages (b : TideBank) (x : Tide) :
    (stagedIn b x).staged = true ∧ (stagedIn b x).active = x.active ∧
    (if x.active then (stagedIn b x).bank0 = b ∧ (stagedIn b x).bank1 = x.bank1 else (stagedIn b x).bank1 = b ∧ (stagedIn b x).bank0 = x.bank0) ∧
    (stagedIn b x).en = x.en ∧ (stagedIn b x).switchAt = x.switchAt := by
  cases hactive : x.active <;> simp [stagedIn, hactive]

section

variable {x : Exec} {data : List Byte} {s : State}

theorem tideLoad_busy (h : s.tide.pending = true ∨ s.tide.hold = true) : tideLoad x data s = refuse x 0x0209 s :=
  if_pos (by simpa using h)

variable (hpending : s.tide.pending = false) (hhold : s.tide.hold = false)
include hpending hhold

theorem tideLoad_malformed (hform : tideFormBad data = true) : tideLoad x data s = refuse x 0x0201 s := by
  simp [tideLoad, hpending, hhold, hform]

variable (hform : tideFormBad data = false)
include hform

theorem tideLoad_otherDevice (hdev : s.dev.idValid = false ∨ (bankOf data).device ≠ s.dev.id) : tideLoad x data s = refuse x 0x0202 s := by
  rcases hdev with hdev | hdev <;> simp [tideLoad, hpending, hhold, hform, hdev]

variable (hid : s.dev.idValid = true) (hdev : (bankOf data).device = s.dev.id)
include hid hdev

theorem tideLoad_badLength (hlen : tideLenBad data = true) : tideLoad x data s = refuse x 0x0203 s := by
  simp [tideLoad, hpending, hhold, hform, hid, hdev, hlen]

variable (hlen : tideLenBad data = false)
include hlen

theorem tideLoad_otherSlices (hslices : slicesDiffer s (bankOf data) = true) : tideLoad x data s = refuse x 0x0514 s := by
  simp [tideLoad, hpending, hhold, hform, hid, hdev, hlen, hslices]

theorem tideLoad_stages (hslices : slicesDiffer s (bankOf data) = false) :
    tideLoad x data s = finish x stDone 0 (leBytes 4 (bankOf data).tableid.toNat ++ leBytes 4 (bankOf data).len) true
      (s.updTide (stagedIn (bankOf data))) := by
  simp [tideLoad, hpending, hhold, hform, hid, hdev, hlen, hslices]
  rfl

end

/-- Settles O19: each check refuses in its turn (tideLoad_busy to tideLoad_otherSlices); an image that passes them is staged (tideLoad_stages). -/
theorem tideLoadStages : Obligations.TideLoadStages := by
  intro t h x s hg s0 b bad
  have hruns {P : State → Prop} (hp : P (tideLoad x h.data s0)) : Runs (.tideLoad t h) s P := runs_given rfl hg hp
  have hpending0 : s0.tide.pending = s.tide.pending := advance_pending _ _
  have hhold0 : s0.tide.hold = s.tide.hold := advance_hold _ _
  rw [← hpending0, ← hhold0]
  refine ⟨fun hbusy => hruns (tideLoad_busy hbusy), fun hpending hhold hform => hruns (tideLoad_malformed hpending hhold hform),
    fun hpending hhold hform hdev => hruns (tideLoad_otherDevice hpending hhold hform hdev),
    fun hpending hhold hform hid hdev hlen => hruns (tideLoad_badLength hpending hhold hform hid hdev hlen),
    fun hpending hhold hform hid hdev hlen hslices => hruns (tideLoad_otherSlices hpending hhold hform hid hdev hlen hslices),
    fun hpending hhold hform hid hdev hlen hslices => hruns ?_⟩
  have hs' := tideLoad_stages (x := x) (s := s0) hpending hhold hform hid hdev hlen hslices
  have hdone := finish_only x stDone 0 (leBytes 4 b.tableid.toNat ++ leBytes 4 b.len) true (s0.updTide (stagedIn b))
  have htide : (tideLoad x h.data s0).tide = stagedIn b s0.tide := by
    rw [hs']
    exact hdone.2.2 .tide (by simp [ringAreas])
  obtain ⟨hstaged, hactive, hbanks, hen, hswitch⟩ := stagedIn_stages b s0.tide
  simp only [htide]
  simp only [s0, at_tide, advance_active, advance_bank0, advance_bank1, advance_en, advance_switchAt] at hactive hbanks hen hswitch
  refine ⟨hstaged, hactive, hbanks, hen, hswitch, hs', ?_⟩
  rw [hs']
  exact ((updTide_only _ _).mono (by simp)).trans (hdone.mono (by simp [ringAreas]))

end Sys2Proof.Safety
end

section
/-! PROOF. Tide switches (O31): the consistency check, the pending switch, the bank switch and the hold (10 R272, R273; 16 R421). -/

namespace Sys2Proof.Safety

open Sys2Proof.Machine

/-! ### The consistency check reads neither TIDE_CTL.EN nor the clock block -/

theorem OnlyChanges.clk_eq {s s' : State} (h : OnlyChanges [.clk] s s') : s' = { s with clk := s'.clk } := by
  obtain ⟨htime, hpending, hsame⟩ := h
  have hrest (a : Region) (ha : a ≠ .clk) : a.same s s' := hsame a (by simpa using ha)
  cases s
  cases s'
  simp only [State.mk.injEq]
  exact ⟨htime, hrest .dev (by decide), hrest .tide (by decide), hrest .host (by decide), hrest .hostMem (by decide), hrest .twin (by decide),
    hrest .ports (by decide), hrest .fabric (by decide), hrest .tiles (by decide), hrest .jobs (by decide), trivial, hrest .obs (by decide),
    hrest .flash (by decide), hrest .side (by decide), hrest .free (by decide), hpending⟩

theorem tideCheck_clk {s s' : State} (h : OnlyChanges [.clk] s s') : tideCheck s' = tideCheck s := by
  rw [h.clk_eq]
  rfl

theorem tideCheck_en (on : Bool) (s : State) : tideCheck (s.updTide (fun x => { x with en := on })) = tideCheck s := rfl

theorem otherBank_en (on : Bool) (s : State) : (s.updTide (fun x => { x with en := on })).otherBank = s.otherBank := rfl

theorem staged_of_tideCheck {s : State} (h : tideCheck s = none) : s.tide.staged = true := by
  cases hstaged : s.tide.staged
  · simp [tideCheck, hstaged] at h
  · rfl

/-! ### EN's check (R272, R421) -/

/-- The islands of the tiles that a bank gives use are raised. -/
def raisedFor (b : TideBank) (s : State) : State := (List.range 128).foldl (fun s n => if bankUses b n then raiseTile n s else s) s

theorem raisedFor_only (b : TideBank) (s : State) : OnlyChanges [.clk] s (raisedFor b s) :=
  .foldl _ (fun _ _ => .ite (raiseTile_only _ _) (.refl _ _)) _ _

theorem raisedFor_tide (b : TideBank) (s : State) : (raisedFor b s).tide = s.tide := (raisedFor_only b s).2.2 .tide (by simp)

/-- The check takes a switch up as pending. -/
def pend (x : Tide) : Tide := { x with en := true, pending := true, go := false }

section

variable {s : State}

/-- A failing row is TIDE_STAT.REASON, and EN falls. -/
theorem runTideCheck_refuses {code : Nat} (h : tideCheck s = some code) :
    (runTideCheck s).tide = { s.tide with en := false, reason := BitVec.ofNat 16 code } ∧ OnlyChanges [.tide, .clk] s (runTideCheck s) := by
  have hrefused {m : State} (hm : OnlyChanges [.clk] s m) :
      (tideReason code (m.updTide (fun x => { x with en := false }))).tide = { s.tide with en := false, reason := BitVec.ofNat 16 code } ∧
        OnlyChanges [.tide, .clk] s (tideReason code (m.updTide (fun x => { x with en := false }))) := by
    have htide : m.tide = s.tide := hm.2.2 .tide (by simp)
    exact ⟨by simp [tideReason, htide], (hm.mono (by simp)).trans (((updTide_only _ _).trans (updTide_only _ _)).mono (by simp))⟩
  unfold runTideCheck
  extract_lets b m
  have hm : OnlyChanges [.clk] s m := .ite (raisedFor_only b s) (.refl _ _)
  rw [(tideCheck_clk hm).trans h]
  exact hrefused hm

/-- A check that passes waits for the islands it raises, and then its switch is pending. -/
theorem runTideCheck_passes {b : TideBank} (hb : s.otherBank = b) (h : tideCheck s = none) :
    runTideCheck s = if raising (raisedFor b s) b then (raisedFor b s).updDev (fun d => { d with waiting := d.waiting ++ [.tide] })
      else toCoordinator 2 (tidePay s.tide.switchAt.toNat b.len b.tableid.toNat) ((raisedFor b s).updTide pend) := by
  have hcheck : tideCheck (raisedFor b s) = none := (tideCheck_clk (raisedFor_only b s)).trans h
  rw [← raisedFor_tide b s]
  simp only [raisedFor] at hcheck ⊢
  simp only [runTideCheck, hb, staged_of_tideCheck h, if_true, hcheck]
  rfl

end

theorem toCoordinator_rootless {s : State} (h : s.fabric.root = none) (sub : Nat) (pay : Payload) : toCoordinator sub pay s = s := by
  simp [toCoordinator, h]

/-! ### TIDE_CTL (Table SW-10) -/

section

variable {t : Time} {v : Word} {s : State} {P : State → Prop}

theorem runs_tideEnable (h : Working s) (hen : s.tide.en = false) (hp : P (runTideCheck ((tick t s).updTide (fun x => { x with en := true })))) :
    Runs (.tideEnable t v) s P := by
  refine ⟨_, congrArg Host.Outcome.next (bar0_serving h.1), ?_⟩
  have hbit : (v ||| 1).getLsbD 0 = true := by simp
  have hen0 : (tick t s).tide.en = false := (advance_en _ _).trans hen
  have hnow := startCheck_now (c := .tide) (run := runTideCheck) (s := (tick t s).updTide (fun x => { x with en := true })) h.1.2 h.2
  simpa only [writeTideCtl, hbit, hen0, hnow, if_true, Bool.false_eq_true, if_false] using hp

theorem runs_tideDisable (h : Serving s) (hcheck : checking .tide s = false)
    (hp : P (if s.tide.pending then cancelSwitch (toCoordinator 5
      (tidePay s.tide.switchAt.toNat s.otherBank.len s.otherBank.tableid.toNat) (tick t s)) else tick t s)) : Runs (.tideDisable t v) s P := by
  refine ⟨_, congrArg Host.Outcome.next (bar0_serving h), ?_⟩
  have hbit : (v &&& 0xFFFFFFFE).getLsbD 0 = false := by simp
  have hcheck0 : checking .tide (tick t s) = false := hcheck
  simpa [writeTideCtl, hbit, hcheck0, tick_otherBank] using hp

end

/-! ### The switch (R273) -/

/-- A switch takes the staged bank into force and holds the old one; its tides are counted on from TIDE_SWITCH. -/
theorem bankSwitch_switches (s : State) :
    let x := s.tide
    let y := (bankSwitch s).tide
    y.active = !x.active ∧ y.en = false ∧ y.pending = false ∧ y.staged = false ∧ y.go = false ∧ y.hold = true ∧ y.bank0 = x.bank0 ∧
    y.bank1 = x.bank1 ∧ y.len = s.otherBank.len ∧
    y.switchPos = ((x.base : Int) + ((x.switchAt.toNat : Int) - x.now) * (4 * x.len)).toNat ∧ y.switchPos ≤ y.base ∧ x.switchAt.toNat ≤ y.now ∧
    OnlyChanges [.tide] s (bankSwitch s) :=
  ⟨rfl, rfl, rfl, rfl, rfl, rfl, rfl, rfl, rfl, rfl, Nat.le_add_right _ _, Nat.le_add_right _ _, updTide_only _ _⟩

/-- Settles O31: EN's check refuses (runTideCheck_refuses), waits for islands or leaves the switch pending (runTideCheck_passes); clearing EN cancels it
(runs_tideDisable); the switch and the end of its hold are one update of the tide block each (bankSwitch_switches). -/
theorem tideSwitches : Obligations.TideSwitches := by
  intro t v s s0
  obtain ⟨hswitchAt, hactive, hlen, hpending, hgo, hbank0, hbank1⟩ : s0.tide.switchAt = s.tide.switchAt ∧ s0.tide.active = s.tide.active ∧
      s0.tide.len = s.tide.len ∧ s0.tide.pending = s.tide.pending ∧ s0.tide.go = s.tide.go ∧ s0.tide.bank0 = s.tide.bank0 ∧
      s0.tide.bank1 = s.tide.bank1 := by simp [s0]
  have hother : s0.otherBank = s.otherBank := tick_otherBank t s
  refine ⟨fun hwork hen => ⟨fun code hcheck => runs_tideEnable hwork hen ?refused, fun hcheck => ?passed⟩,
    fun hserve hquiet => ⟨fun hpend => runs_tideDisable hserve hquiet ?cancelled, fun hidle => runs_tideDisable hserve hquiet ?kept⟩,
    fun hpend hgone => ⟨fun htime => ?switched, fun htime => ?early⟩, fun hheld htime => ?ended⟩
  case refused =>
    obtain ⟨htide, honly⟩ := runTideCheck_refuses ((tideCheck_en true s0).trans hcheck)
    rw [updTide_tide] at htide
    exact ⟨htide, ((updTide_only _ s0).mono (by simp)).trans honly⟩
  case passed =>
    intro b m
    let s1 := s0.updTide (fun x => { x with en := true })
    have hm : m = raisedFor b s1 := rfl
    have honly : OnlyChanges [.tide, .clk] s0 m := ((updTide_only _ s0).mono (by simp)).trans ((raisedFor_only b s1).mono (by simp))
    have htide : m.tide = { s0.tide with en := true } := by rw [hm, raisedFor_tide, updTide_tide]
    have hpasses := runTideCheck_passes ((otherBank_en true s0).trans hother) ((tideCheck_en true s0).trans hcheck)
    rw [updTide_tide, hswitchAt, ← hm] at hpasses
    refine ⟨fun hraising => runs_tideEnable hwork hen ?_, fun hraising => runs_tideEnable hwork hen ?_⟩
    · have hraised : ¬ raising m s.otherBank = true := ne_true_of_eq_false hraising
      rw [if_neg hraised] at hpasses
      refine ⟨hpasses, fun hroot => ?_⟩
      have hroot' : (m.updTide pend).fabric.root = none := (congrArg Fabric.root (honly.2.2 .fabric (by simp))).trans hroot
      rw [hpasses, toCoordinator_rootless hroot']
      exact ⟨by simp [pend, htide], honly.trans ((updTide_only _ _).mono (by simp))⟩
    · rw [if_pos hraising] at hpasses
      rw [hpasses]
      exact ⟨rfl, htide, (honly.mono (by simp)).trans ((updDev_only _ _).mono (by simp))⟩
  case cancelled =>
    rw [if_pos hpend]
    refine ⟨rfl, fun hroot => ?_⟩
    rw [toCoordinator_rootless (s := tick t s) hroot]
    exact ⟨rfl, updTide_only _ _⟩
  case kept => simp [hidle, s0]
  case switched =>
    have hruns : execTideBankSwitch t s = .next (bankSwitch s0) := by
      rw [execTideBankSwitch, if_pos (by simpa [hpend, hgone, hpending, hgo, hswitchAt, s0] using htime)]
    have hswitched := bankSwitch_switches s0
    simp only [hother, hactive, hbank0, hbank1, hlen, hswitchAt] at hswitched
    exact ⟨_, hruns, hswitched⟩
  case early =>
    have hruns : execTideBankSwitch t s = .next s0 := by
      rw [execTideBankSwitch, if_neg (by simpa [hpend, hgone, hpending, hgo, hswitchAt, s0] using htime)]
    exact ⟨_, hruns, rfl⟩
  case ended =>
    have hruns : execTideHoldEnd t s = .next (s0.updTide (fun x => { x with hold := false })) := by
      rw [execTideHoldEnd, if_pos (by simpa [hheld, s0] using htime)]
    exact ⟨_, hruns, rfl, updTide_only _ _⟩

end Sys2Proof.Safety
end

section
/-! PROOF. Cells through the switch core (O33): PASS cells, unscheduled cells and slipped cells (10 R266, R270, R271, R275, R276). -/

namespace Sys2Proof.Safety

open Sys2Proof.Machine

theorem OnlyChanges.port {l : List Region} {s s' : State} (h : OnlyChanges l s s') (hp : Region.ports ∉ l) (m : Nat) : s'.port m = s.port m := by
  have hports : s'.ports = s.ports := h.2.2 .ports hp
  simp only [State.port, hports]

/-! ### A scheduled cell is queued for its transmit position (R271) -/

/-- A queued cell need not wake the port: AUTOWAKE is off, or the port is awake (Table FB-7). -/
def StaysAwake (p : PortS) : Prop := p.autowake = false ∨ (p.slp = .active ∧ p.slpMove = .none)

theorem autoWake_awake {n : Nat} {s : State} (h : StaysAwake (s.port n)) : autoWake n s = s := by
  rcases h with hoff | ⟨hactive, hmove⟩
  · simp [autoWake, hoff]
  · simp [autoWake, hactive, hmove]

theorem crossExchange_only (n k : Nat) (ds : List Nat) (s : State) : OnlyChanges [.obs] s (crossExchange n k ds s) :=
  .ite (.refl _ _) (((bump_only _ _ _).trans (.foldl _ (fun _ _ => bump_only _ _ _) _ _)).trans
    (.foldl _ (fun _ _ => (bump_only _ _ _).trans (bump_only _ _ _)) _ _))

/-- A port that is up and awake takes a scheduled cell into its queue. -/
def schedQueued (m pos : Nat) (own : Bool) (c : Cell) (s : State) : State := s.updPort m (fun p => { p with schedQ := p.schedQ ++ [⟨pos, c, own⟩] })

theorem pushSched_alive {m : Nat} {s : State} (halive : linkAlive (s.port m) = true) (hawake : StaysAwake (s.port m)) (pos : Nat) (own : Bool) (c : Cell) :
    pushSched m pos own c s = schedQueued m pos own c s := by
  simp only [pushSched, halive, Bool.not_true, Bool.false_eq_true, if_false]
  exact autoWake_awake (by rw [updPort_port_same]; exact hawake)

/-- An entry that names another port sends its cell over the exchange to that port (R270, Table SW-8). -/
theorem toDest_port {n : Nat} {e : Word} (hmc : teMc e = false) (htile : teTile e = false) (hother : teUnit e ≠ n) (pos : Nat) (off : Nat → Nat → Nat)
    (own : Bool) (c : Cell) (s : State) :
    toDest n pos off own e c s = pushSched (teUnit e) (pos + off n (teUnit e)) own c (crossExchange n 1 [teUnit e] s) := by
  simp [toDest, hmc, htile, hother]

/-! ### Where an unscheduled cell goes (R261, R276) -/

/-- From s to s' port n changes, but not its kind, and besides the counters nothing else. -/
structure AtPort (n : Nat) (s s' : State) : Prop where
  only : OnlyChanges [.ports, .obs] s s'
  others : ∀ m, m ≠ n → s'.port m = s.port m
  kind : (s'.port n).kind = (s.port n).kind

namespace AtPort

variable {n : Nat} {s s' s'' : State}

theorem of_updPort {f : PortS → PortS} (hkind : (f (s.port n)).kind = (s.port n).kind) : AtPort n s (s.updPort n f) :=
  ⟨(updPort_only _ _ _).mono (by simp), fun _ hm => updPort_port_other hm _ _, by rw [updPort_port_same, hkind]⟩

theorem of_bump (n a k : Nat) (s : State) : AtPort n s (bump a k s) := ⟨(bump_only _ _ _).mono (by simp), fun _ _ => rfl, rfl⟩

theorem trans (h : AtPort n s s') (h' : AtPort n s' s'') : AtPort n s s'' :=
  ⟨h.only.trans h'.only, fun m hm => (h'.others m hm).trans (h.others m hm), h'.kind.trans h.kind⟩

theorem tile (h : AtPort n s s') (m : Nat) : s'.tile m = s.tile m := h.only.tile (by simp) m

theorem dev (h : AtPort n s s') : s'.dev = s.dev := h.only.2.2 .dev (by simp)

theorem fabric (h : AtPort n s s') : s'.fabric = s.fabric := h.only.2.2 .fabric (by simp)

theorem kinds (h : AtPort n s s') (m : Nat) : (s'.port m).kind = (s.port m).kind := by
  by_cases hm : m = n
  · rw [hm, h.kind]
  · rw [h.others m hm]

theorem slotOf (h : AtPort n s s') (tag : Nat) : Machine.slotOf tag s' = Machine.slotOf tag s := by
  simp only [Machine.slotOf, h.only.job (by simp)]

theorem noTag (h : AtPort n s s') (c : Cell) : Machine.noTag c s' = Machine.noTag c s := by simp only [Machine.noTag, h.slotOf]

theorem cellSlot (h : AtPort n s s') (c : Cell) : Machine.cellSlot s' c = Machine.cellSlot s c := h.slotOf c.job

theorem transitUse (h : AtPort n s s') (m : Nat) : Machine.transitUse s' m = Machine.transitUse s m := by simp only [Machine.transitUse, h.tile]

theorem forEndpoint (h : AtPort n s s') (c : Cell) : Machine.forEndpoint s' c = Machine.forEndpoint s c := by
  unfold Machine.forEndpoint
  rw [h.kinds]

theorem forwards (h : AtPort n s s') : Machine.forwards s' = Machine.forwards s := by
  unfold Machine.forwards
  rw [h.dev]

/-- Routing asks the ports for their kinds alone. -/
theorem unsTargets (h : AtPort n s s') (m : Nat) (c : Cell) : Machine.unsTargets m c s' = Machine.unsTargets m c s := by
  have hroute : route s' (some m) 0 c = route s (some m) 0 c := by
    unfold route
    rw [h.dev, h.fabric, h.forEndpoint, h.forwards]
  simp only [Machine.unsTargets, unsRoute, hroute]

end AtPort

/-! ### A cell takes a transit buffer (R275, R281) -/

/-- Buffer b leaves a tile's free list for a transit cell with its copies. -/
def transitTaken (n b : Nat) (rest : List Nat) (copies : Nat) (s : State) : State :=
  let z := s.updTile n (fun x => { x with freeList := some rest, bufs := Tbl.set Buf.reset x.bufs b ⟨true, copies, false, some .transit, false⟩ })
  bumpMax (tileCtr n 0x500) ((z.tile n).bufs.filter (fun e => e.2.state)).length z

section

variable {n b copies : Nat} {rest : List Nat} {s : State}

theorem allocUns_transit (huse : transitUse s n < 1024) (hfree : (s.tile n).free = b :: rest) :
    allocUns n none copies s = (some b, transitTaken n b rest copies s) := by
  simp only [allocUns, Nat.not_le.mpr huse, if_false, allocBuf, hfree]
  rfl

theorem transitTaken_only : OnlyChanges [.tiles, .obs] s (transitTaken n b rest copies s) :=
  ((updTile_only _ _ _).mono (by simp)).trans ((bumpMax_only _ _ _).mono (by simp))

theorem transitTaken_tile_other {m : Nat} (h : m ≠ n) : (transitTaken n b rest copies s).tile m = s.tile m := by
  rw [transitTaken, bumpMax_tile, updTile_tile_other h]

theorem transitTaken_tile : (transitTaken n b rest copies s).tile n =
    { s.tile n with freeList := some rest, bufs := Tbl.set Buf.reset (s.tile n).bufs b ⟨true, copies, false, some .transit, false⟩ } := by
  rw [transitTaken, bumpMax_tile, updTile_tile_same]

theorem transitTaken_buf : ((transitTaken n b rest copies s).tile n).buf b = ⟨true, copies, false, some .transit, false⟩ := by
  simp [transitTaken_tile, TileS.buf]

theorem transitTaken_free : ((transitTaken n b rest copies s).tile n).free = rest := by
  rw [transitTaken_tile]
  rfl

/-! ### A cell leaves its staging place (R275, R276) -/

/-- A copy for a port, of a cell of no job, enters its tile's queue of priority 0 for that port. -/
def voqEntered (n m : Nat) (q : QCell) (s : State) : State := s.updTile n (fun x => { x with voqs := Tbl.upd [] x.voqs (4 * m) (· ++ [q]) })

theorem enterVoqs_port {m : Nat} {q : QCell} (hslot : cellSlot s q.cell = none) (hawake : StaysAwake (s.port m)) :
    enterVoqs n [m] false q s = voqEntered n m q s := by
  simp only [enterVoqs, hslot]
  exact autoWake_awake hawake

section

variable {c : Cell} (hslot : cellSlot s c = none) (huse : transitUse s n < 1024) (hfree : (s.tile n).free = b :: rest)
include hslot huse hfree

/-- The device's own cell takes a buffer and gives it back as the harbourmaster takes it. -/
theorem enterUns_here (hb : b < 16384) : enterUns n [] true c s = some (deliverHere c (releaseBuf n b (transitTaken n b rest 1 s))) := by
  have hfreed : freeAddr n (112 * b) (transitTaken n b rest 1 s) = releaseBuf n b (transitTaken n b rest 1 s) := by
    have hdiv : 112 * b / 112 = b := by omega
    rw [freeAddr_last (by omega) (by rw [hdiv, transitTaken_buf]) (by rw [hdiv, transitTaken_buf]), hdiv]
  simp only [enterUns, List.filter_nil, List.isEmpty_nil, Bool.not_true, Bool.and_false, Bool.false_eq_true, if_false, List.length_nil, b2n, if_true,
    Nat.zero_add, hslot, allocUns_transit huse hfree, List.foldl_nil, enterVoqs, freeBuf, hfreed]

theorem enterUns_port {m : Nat} (halive : linkAlive (s.port m) = true) (hawake : StaysAwake (s.port m)) :
    enterUns n [m] false c s = some (voqEntered n m ⟨c, some b⟩ (transitTaken n b rest 1 s)) := by
  have hport : (transitTaken n b rest 1 s).port m = s.port m := transitTaken_only.port (by simp) m
  have hslot' : cellSlot (transitTaken n b rest 1 s) c = none := by
    rw [← hslot]
    simp only [cellSlot, slotOf, transitTaken_only.job (by simp)]
  have hentered := enterVoqs_port (n := n) (q := ⟨c, some b⟩) hslot' (by rw [hport]; exact hawake)
  simp [enterUns, halive, hport, hslot, allocUns_transit huse hfree, b2n, hentered]

end

end

/-! ### The staged cells of a tile move on (R275) -/

/-- The one staged cell of a port has moved on: its credit is owed, and no hold is left. -/
def oneMoved (p : PortS) : PortS := { p with staged := [], owed := p.owed + 1, creditHold := false }

/-- The hold of a port with nothing staged ends. -/
def holdEnded (p : PortS) : PortS := { p with creditHold := false }

section

variable {n k : Nat} {s : State}

theorem moveStaged_none (h : (s.port n).staged = []) : moveStaged (k + 1) n s = s.updPort n holdEnded := by
  simp only [moveStaged, h]
  rfl

variable {q : QCell} (hstaged : (s.port n).staged = [q]) (htag : noTag q.cell s = false)
include hstaged htag

theorem moveStaged_enters {ps : List Nat} {here : Bool} {s' : State} (hto : unsTargets n q.cell s = .go ps here)
    (henter : enterUns n ps here q.cell s = some s') : moveStaged (k + 2) n s = s'.updPort n oneMoved := by
  simp only [moveStaged, hstaged, htag, hto, henter, Bool.false_eq_true, if_false, updPort_port_same, updPort_twice]
  rfl

theorem moveStaged_unreach (hto : unsTargets n q.cell s = .unreach) :
    moveStaged (k + 2) n s = (bump (portCtr n 0x088) 1 (s.updPort n (fun p => { p with staged := [], owed := p.owed + 1 }))).updPort n holdEnded := by
  simp only [moveStaged, hstaged, htag, hto, Bool.false_eq_true, if_false, bump_port, updPort_port_same]
  rfl

end

/-! ### A staged cell and its port -/

/-- Cell q is the one staged cell of port n, and s0 is the state before it was staged. -/
structure OneStaged (n : Nat) (q : QCell) (s0 s : State) : Prop extends AtPort n s0 s where
  staged : (s.port n).staged = [q]
  tagged : noTag q.cell s0 = false

namespace OneStaged

variable {n b k : Nat} {rest : List Nat} {q : QCell} {s0 s : State} (h : OneStaged n q s0 s)
include h

theorem dropped (hto : unsTargets n q.cell s0 = .unreach) :
    (moveStaged (k + 2) n s).port n = oneMoved (s.port n) ∧ OnlyChanges [.ports, .obs] s0 (moveStaged (k + 2) n s) := by
  rw [moveStaged_unreach h.staged ((h.noTag _).trans h.tagged) ((h.unsTargets _ _).trans hto)]
  refine ⟨by simp [holdEnded, oneMoved], h.only.trans ?_⟩
  exact (((updPort_only _ _ _).mono (by simp)).trans ((bump_only _ _ _).mono (by simp))).trans ((updPort_only _ _ _).mono (by simp))

variable (hslot : cellSlot s0 q.cell = none) (huse : transitUse s0 n < 1024) (hfree : (s0.tile n).free = b :: rest)
include hslot huse hfree

/-- The device's own cell comes to the harbourmaster, and its buffer to the end of the free list. -/
theorem delivered (hto : unsTargets n q.cell s0 = .go [] true) (hb : b < 16384) :
    let s' := moveStaged (k + 2) n s
    s'.fabric = { s0.fabric with hmRx := s0.fabric.hmRx ++ [q.cell] } ∧ (s'.tile n).free = rest ++ [b] ∧ (s'.tile n).buf b = Buf.reset ∧
      s'.port n = oneMoved (s.port n) ∧ (∀ m, m ≠ n → s'.port m = s0.port m) ∧ OnlyChanges [.ports, .tiles, .fabric, .obs] s0 s' := by
  intro s'
  let z := transitTaken n b rest 1 s
  have henter := enterUns_here ((h.cellSlot _).trans hslot) ((h.transitUse n).trans_lt huse) ((congrArg TileS.free (h.tile n)).trans hfree) hb
  have hs' : s' = (deliverHere q.cell (releaseBuf n b z)).updPort n oneMoved :=
    moveStaged_enters h.staged ((h.noTag _).trans h.tagged) ((h.unsTargets _ _).trans hto) henter
  have hreleased := releaseBuf_released n b z
  have htaken : OnlyChanges [.tiles, .obs] s z := transitTaken_only
  have hbuffers : OnlyChanges [.tiles, .obs] s (releaseBuf n b z) := htaken.trans (hreleased.only.mono (by simp))
  have hfabric : (releaseBuf n b z).fabric = s0.fabric := (hbuffers.2.2 .fabric (by simp)).trans h.fabric
  have hport (m : Nat) : (deliverHere q.cell (releaseBuf n b z)).port m = s.port m := hbuffers.port (by simp) m
  rw [hs']
  refine ⟨?_, ?_, hreleased.reset, ?_, fun m hm => ?_, ?_⟩
  · rw [updPort_fabric, deliverHere, updFabric_fabric, hfabric]
  · exact hreleased.free.trans (congrArg (· ++ [b]) transitTaken_free)
  · rw [updPort_port_same, hport]
  · rw [updPort_port_other hm, hport, h.others m hm]
  · exact (h.only.mono (by simp)).trans ((hbuffers.mono (by simp)).trans (((updFabric_only _ _).mono (by simp)).trans ((updPort_only _ _ _).mono (by simp))))

/-- A cell for another port waits in its tile's queue for that port, in the buffer it has taken. -/
theorem queued {m : Nat} (hto : unsTargets n q.cell s0 = .go [m] false) (hm : m ≠ n) (halive : linkAlive (s0.port m) = true)
    (hawake : StaysAwake (s0.port m)) :
    let s' := moveStaged (k + 2) n s
    Tbl.get [] (s'.tile n).voqs (4 * m) = Tbl.get [] (s0.tile n).voqs (4 * m) ++ [⟨q.cell, some b⟩] ∧
      (s'.tile n).buf b = ⟨true, 1, false, some .transit, false⟩ ∧ (s'.tile n).free = rest ∧ s'.port n = oneMoved (s.port n) ∧
      (∀ i, i ≠ n → s'.tile i = s0.tile i) ∧ OnlyChanges [.ports, .tiles, .obs] s0 s' := by
  intro s'
  let z := transitTaken n b rest 1 s
  have hother : s.port m = s0.port m := h.others m hm
  have henter := enterUns_port ((h.cellSlot _).trans hslot) ((h.transitUse n).trans_lt huse) ((congrArg TileS.free (h.tile n)).trans hfree)
    (by rw [hother]; exact halive) (by rw [hother]; exact hawake)
  have hs' : s' = (voqEntered n m ⟨q.cell, some b⟩ z).updPort n oneMoved :=
    moveStaged_enters h.staged ((h.noTag _).trans h.tagged) ((h.unsTargets _ _).trans hto) henter
  have htaken : OnlyChanges [.tiles, .obs] s z := transitTaken_only
  have hqueued : OnlyChanges [.tiles, .obs] s (voqEntered n m ⟨q.cell, some b⟩ z) := htaken.trans ((updTile_only _ _ _).mono (by simp))
  have htile : (voqEntered n m ⟨q.cell, some b⟩ z).tile n =
      { z.tile n with voqs := Tbl.upd [] (z.tile n).voqs (4 * m) (· ++ [⟨q.cell, some b⟩]) } := updTile_tile_same _ _ _
  rw [hs']
  simp only [updPort_tile, htile, Tbl.get_upd_same]
  refine ⟨?_, transitTaken_buf, transitTaken_free, ?_, fun i hi => ?_, ?_⟩
  · rw [transitTaken_tile, h.tile]
  · rw [updPort_port_same, hqueued.port (by simp)]
  · exact (updTile_tile_other hi _ _).trans ((transitTaken_tile_other hi).trans (h.tile i))
  · exact (h.only.mono (by simp)).trans ((hqueued.mono (by simp)).trans ((updPort_only _ _ _).mono (by simp)))

end OneStaged

/-! ### An unscheduled cell is staged on its credit (R275) -/

/-- A port's cell is the one staged cell of the port. -/
def toStaging (c : Cell) (p : PortS) : PortS := { p with rxCells := dropFirst (fun e => e.2 = c) p.rxCells, staged := [⟨c, none⟩] }

theorem toStaging_moved {c : Cell} {p : PortS} (hstaged : p.staged = []) (hhold : p.creditHold = false) :
    oneMoved (toStaging c p) = { p with rxCells := dropFirst (fun e => e.2 = c) p.rxCells, owed := p.owed + 1 } := by
  simp only [oneMoved, toStaging]
  rw [← hstaged, ← hhold]

theorem toStaging_oneStaged {c : Cell} {s : State} (htag : noTag c s = false) (n : Nat) :
    OneStaged n ⟨c, none⟩ s (s.updPort n (toStaging c)) where
  toAtPort := .of_updPort rfl
  staged := by simp [toStaging]
  tagged := htag

/-- The next cell of a port with nothing staged, and no hold, moves on at once. -/
theorem stageCell_moves {n : Nat} {c : Cell} {s : State} (hnext : isNext c ((s.port n).rxCells.map (·.2)) = true) (hstaged : (s.port n).staged = [])
    (hhold : (s.port n).creditHold = false) : stageCell n c s = moveStaged 2 n (s.updPort n (toStaging c)) := by
  have hstage : s.updPort n (fun p => { p with rxCells := dropFirst (fun e => e.2 = c) p.rxCells, staged := p.staged ++ [⟨c, none⟩] }) =
      s.updPort n (toStaging c) := updPort_congr (by simp [toStaging, hstaged])
  simp [stageCell, takeRx, hnext, hstaged, hhold, hstage, toStaging]

/-! ### PASS cells and slipped cells (R266, R270) -/

theorem passCell_forwarded {n : Nat} {lbl : BitVec 14} {c : Cell} {q : PassCell} {s : State}
    (hq : (s.port n).passCells.find? (fun q => q.label = lbl && q.cell = c) = some q) (hmc : teMc q.entry = false) (htile : teTile q.entry = false)
    (hother : teUnit q.entry ≠ n) (halive : linkAlive (s.port (teUnit q.entry)) = true) (hawake : StaysAwake (s.port (teUnit q.entry))) :
    passCell n lbl c s = schedQueued (teUnit q.entry) (q.pos + passOffset n (teUnit q.entry)) false c
      (crossExchange n 1 [teUnit q.entry] (s.updPort n (fun p => { p with passCells := dropFirst (· = q) p.passCells }))) := by
  have hport (z : State) (hz : z = s.updPort n (fun p => { p with passCells := dropFirst (· = q) p.passCells })) :
      (crossExchange n 1 [teUnit q.entry] z).port (teUnit q.entry) = s.port (teUnit q.entry) := by
    rw [(crossExchange_only _ _ _ _).port (by simp), hz, updPort_port_other hother]
  simp only [passCell, takePass, hq, Option.map_some, toDest_port hmc htile hother]
  exact pushSched_alive (by rw [hport _ rfl]; exact halive) (by rw [hport _ rfl]; exact hawake) _ _ _

/-- A scheduled cell of a job that is not loaded is lost without a trace in any instance. -/
theorem schedLost_unloaded {x : SchedCell} {s : State} (hslot : slotOf x.cell.job s = none) (n : Nat) :
    schedLost n x s = logCode 0x020F (unitPort n) s := by
  have hslot' : slotOf x.cell.job (logCode 0x020F (unitPort n) s) = none := hslot
  simp [schedLost, cellLeft, markCellInc, hslot']

/-- A slipped cell has left its port's queue. -/
def slipGone (n : Nat) (x : SchedCell) (s : State) : State := s.updPort n (fun p => { p with slipQ := dropFirst (· = x) p.slipQ })

theorem execSlipLimit_drops {t : Time} {set : PSet} {x : SchedCell} {s : State}
    (hx : (s.port set.val).slipQ.find? (fun x => x.pos + 8192 ≤ posNow (tick t s)) = some x) (hslot : slotOf x.cell.job s = none) :
    execSlipLimit t set s = .next (logCode 0x020F (unitPort set.val) (bump (portCtr set.val 0x0B0) 1 (slipGone set.val x (tick t s)))) := by
  have hlost := schedLost_unloaded (s := bump (portCtr set.val 0x0B0) 1 (slipGone set.val x (tick t s))) hslot set.val
  simp only [execSlipLimit, tick_port, hx, ← hlost]
  rfl

/-- Settles O33: a PASS cell is queued at its position's offset (passCell_forwarded); the one staged cell of a port is dropped, delivered or queued
(OneStaged), after its arrival (stageCell_moves) or at a retry; a slipped cell of no loaded job is dropped and counted (execSlipLimit_drops). -/
theorem cellsThroughTheSwitch : Obligations.CellsThroughTheSwitch := by
  intro t n c s s0 p
  refine ⟨fun lbl q hq => ?pass, fun hcls hnext hstaged hhold htag => ?arrival, fun hhold hstaged => ?idleRetry,
    fun q b rest hhold hstaged htag hto hslot huse hfree hb => ?retry, fun set x hx hslot => ?slip⟩
  case pass =>
    intro e hmc htile hother halive hawake
    have hexec : exec (.passCell t n lbl c) s = .next _ := congrArg Host.Outcome.next (passCell_forwarded (s := s0) hq hmc htile hother halive hawake)
    have hcross := crossExchange_only n.val 1 [teUnit e] (s0.updPort n.val (fun p => { p with passCells := dropFirst (· = q) p.passCells }))
    refine ⟨_, hexec, ?_, ?_, fun k hk hke => ?_, ?_⟩
    · rw [schedQueued, updPort_port_same, hcross.port (by simp), updPort_port_other hother]
      rfl
    · rw [schedQueued, updPort_port_other (Ne.symm hother), hcross.port (by simp), updPort_port_same]
      rfl
    · rw [schedQueued, updPort_port_other hke, hcross.port (by simp), updPort_port_other hk]
      rfl
    · exact (((updPort_only _ _ _).mono (by simp)).trans (hcross.mono (by simp))).trans ((updPort_only _ _ _).mono (by simp))
  case arrival =>
    have hexec : exec (.unscheduledCell t n c) s = .next (moveStaged 2 n.val (s0.updPort n.val (toStaging c))) :=
      congrArg Host.Outcome.next ((if_pos hcls).trans (stageCell_moves (s := s0) hnext hstaged hhold))
    have hone : OneStaged n.val ⟨c, none⟩ s0 (s0.updPort n.val (toStaging c)) := toStaging_oneStaged (s := s0) htag n.val
    have hmoved : oneMoved ((s0.updPort n.val (toStaging c)).port n.val) =
        { p with rxCells := dropFirst (fun e => e.2 = c) p.rxCells, owed := p.owed + 1 } := by
      rw [updPort_port_same]
      exact toStaging_moved hstaged hhold
    refine ⟨fun b rest hto hslot huse hfree hb => ⟨_, hexec, ?_⟩, fun hto => ⟨_, hexec, ?_⟩,
      fun m b rest hto hm halive hawake hslot huse hfree => ⟨_, hexec, ?_⟩⟩
    · obtain ⟨hfabric, hfreed, hreset, hport, hothers, honly⟩ := hone.delivered (k := 0) hslot huse hfree hto hb
      exact ⟨hfabric, hfreed, hreset, hport.trans hmoved, hothers, honly⟩
    · obtain ⟨hport, honly⟩ := hone.dropped (k := 0) hto
      exact ⟨hport.trans hmoved, honly⟩
    · obtain ⟨hvoq, hbuf, hrest, hport, htiles, honly⟩ := hone.queued (k := 0) hslot huse hfree hto hm halive hawake
      have hport' := hport.trans hmoved
      exact ⟨hvoq, hbuf, hrest, congrArg PortS.owed hport', (congrArg PortS.staged hport').trans hstaged, htiles, honly⟩
  case idleRetry =>
    have hexec : exec (.creditHoldRetry t n) s = .next ((bump (portCtr n.val 0x098) 1 s0).updPort n.val holdEnded) :=
      congrArg Host.Outcome.next ((if_pos hhold).trans (moveStaged_none hstaged))
    exact ⟨_, hexec, updPort_port_same _ _ _, fun k hk => updPort_port_other hk _ _,
      ((bump_only _ _ _).mono (by simp)).trans ((updPort_only _ _ _).mono (by simp))⟩
  case retry =>
    let z := bump (portCtr n.val 0x098) 1 s0
    have hone : OneStaged n.val q s0 z := ⟨.of_bump _ _ _ _, hstaged, htag⟩
    have hlen : (s0.port n.val).staged.length + 1 = 2 := by
      rw [show (s0.port n.val).staged = [q] from hstaged]
      rfl
    have hexec : exec (.creditHoldRetry t n) s = .next (moveStaged 2 n.val z) :=
      congrArg Host.Outcome.next ((if_pos hhold).trans (congrArg (fun k => moveStaged k n.val z) hlen))
    obtain ⟨hfabric, _, _, hport, _, honly⟩ := hone.delivered (k := 0) hslot huse hfree hto hb
    exact ⟨_, hexec, hport, hfabric, honly⟩
  case slip =>
    refine ⟨_, execSlipLimit_drops hx hslot, ?_, fun k hk => ?_, ?_⟩
    · simp only [logCode_port, bump_port, slipGone, updPort_port_same, tick_port]
    · simp only [logCode_port, bump_port, slipGone, updPort_port_other hk, tick_port]
    · exact ((updPort_only _ _ _).mono (by simp)).trans (((bump_only _ _ _).trans (logCode_only _ _ _)).mono (by simp))

end Sys2Proof.Safety
end

section
/-! PROOF. What every step keeps (O59): fabric time, host memory's canonical form and the queue. One lemma for each operation of the model, in the
model's order; its proof names the operations that the definition is made of. -/

namespace Sys2Proof.Safety

open Sys2Proof.Machine

/-- From s to s' fabric time has not moved back, host memory has kept its canonical form, and the same commands wait. -/
structure Keeps (s s' : State) : Prop where
  time : s.time ≤ s'.time
  mem : Mem.wf s.hostMem = true → Mem.wf s'.hostMem = true
  pending : s'.pending = s.pending

/-- A next state that a command answers keeps these. -/
def KeepsOut (s : State) (o : Out) : Prop := ∀ s', o = .next s' → Keeps s s'

/-- A state that an operation may answer keeps these. -/
def KeepsOpt (s : State) (o : Option State) : Prop := ∀ s', o = some s' → Keeps s s'

/-- The state beside an operation's answer keeps these. -/
def KeepsPair {α : Type} (s : State) (p : α × State) : Prop := ∀ a s', p = (a, s') → Keeps s s'

/-- The state in which a unit of an instruction is done keeps these. -/
def KeepsRes (s : State) (r : Res) : Prop := ∀ s', r = .done s' → Keeps s s'

theorem Keeps.refl (s : State) : Keeps s s := ⟨le_refl _, id, rfl⟩

section
variable {s0 s s' : State} {α : Type}

/-- An update of areas other than fabric time, host memory and the queue. -/
theorem Keeps.same (h : Keeps s0 s) (ht : s'.time = s.time) (hm : s'.hostMem = s.hostMem) (hp : s'.pending = s.pending) : Keeps s0 s' :=
  ⟨ht ▸ h.time, fun hw => hm ▸ h.mem hw, hp.trans h.pending⟩

theorem withJobs_keeps {x : Jobs} (h : Keeps s0 s) : Keeps s0 { s with jobs := x } := h.same rfl rfl rfl
theorem withObs_keeps {x : Obs} (h : Keeps s0 s) : Keeps s0 { s with obs := x } := h.same rfl rfl rfl
theorem withFree_keeps {x : Nat} (h : Keeps s0 s) : Keeps s0 { s with free := x } := h.same rfl rfl rfl

theorem keepsOut_next (h : Keeps s0 s) : KeepsOut s0 (.next s) := fun _ e => Host.Outcome.next.inj e ▸ h
theorem keepsOpt_some (h : Keeps s0 s) : KeepsOpt s0 (some s) := fun _ e => Option.some.inj e ▸ h
theorem keepsOpt_none : KeepsOpt s0 none := fun _ e => nomatch e
theorem keepsPair_mk {a : α} (h : Keeps s0 s) : KeepsPair s0 (a, s) := fun _ _ e => (Prod.mk.inj e).2 ▸ h
theorem KeepsPair.snd {p : α × State} (h : KeepsPair s0 p) : Keeps s0 p.2 := h p.1 p.2 rfl
theorem keepsRes_done (h : Keeps s0 s) : KeepsRes s0 (.done s) := fun _ e => Res.done.inj e ▸ h
theorem keepsRes_wait : KeepsRes s0 .wait := fun _ e => nomatch e
theorem keepsRes_skip {c : Nat} : KeepsRes s0 (.skip c) := fun _ e => nomatch e
theorem keepsRes_void : KeepsRes s0 .void := fun _ e => nomatch e

/-- What holds of both branches holds of the choice between them. -/
theorem ite_both {α : Type} {P : α → Prop} {c : Prop} [Decidable c] {a b : α} (ha : P a) (hb : P b) : P (if c then a else b) := by
  split
  · exact ha
  · exact hb

theorem getD_keeps {o : Option State} (ho : KeepsOpt s0 o) (h : Keeps s0 s) : Keeps s0 (o.getD s) := by
  cases o with
  | none => exact h
  | some s' => exact ho s' rfl

theorem bindState_keeps {o : Option State} {f : State → Option State} (ho : KeepsOpt s0 o) (hf : ∀ s, Keeps s0 s → KeepsOpt s0 (f s)) :
    KeepsOpt s0 (o.bind f) := by
  cases o with
  | none => exact keepsOpt_none
  | some s' => exact hf s' (ho s' rfl)

theorem bind_keeps {β : Type} {o : Option β} {f : β → Option State} (hf : ∀ b, KeepsOpt s0 (f b)) : KeepsOpt s0 (o.bind f) := by
  cases o with
  | none => exact keepsOpt_none
  | some b => exact hf b

/-- A list of operations keeps what each of them keeps. -/
theorem foldl_keeps {β : Type} {f : State → β → State} {l : List β} (hf : ∀ s a, Keeps s0 s → Keeps s0 (f s a)) (h : Keeps s0 s) :
    Keeps s0 (l.foldl f s) := by
  induction l generalizing s with
  | nil => exact h
  | cons a l ih => exact ih (hf s a h)

theorem foldlPair_keeps {β : Type} {f : α × State → β → α × State} {l : List β} {q : α × State}
    (hf : ∀ q b, KeepsPair s0 q → KeepsPair s0 (f q b)) (h : KeepsPair s0 q) : KeepsPair s0 (l.foldl f q) := by
  induction l generalizing q with
  | nil => exact h
  | cons b l ih => exact ih (hf q b h)

end

/-! ### Shared operations -/

section
variable {s0 s : State}
variable {a addr aux code e field j k level n p r reason status tile unit v : Nat} {f : PortS → PortS} {slot : Option Nat} {irq ok : Bool}
variable {c : Machine.Compl} {x : Exec} {bs result : List Byte} {t : Time}

theorem updPort_keeps (h : Keeps s0 s) : Keeps s0 (State.updPort n f s) := h.same rfl rfl rfl
theorem updTile_keeps {f : TileS → TileS} (h : Keeps s0 s) : Keeps s0 (State.updTile n f s) := h.same rfl rfl rfl
theorem updJob_keeps {f : Job → Job} (h : Keeps s0 s) : Keeps s0 (State.updJob j f s) := withJobs_keeps h
theorem updRing_keeps {f : Machine.Ring → Machine.Ring} (h : Keeps s0 s) : Keeps s0 (State.updRing r f s) := h.same rfl rfl rfl
theorem updIsland_keeps {f : Island → Island} (h : Keeps s0 s) : Keeps s0 (State.updIsland p f s) := h.same rfl rfl rfl
theorem updDev_keeps {f : Dev → Dev} (h : Keeps s0 s) : Keeps s0 (State.updDev f s) := h.same rfl rfl rfl
theorem updTide_keeps {f : Tide → Tide} (h : Keeps s0 s) : Keeps s0 (State.updTide f s) := h.same rfl rfl rfl
theorem updHost_keeps {f : HostIf → HostIf} (h : Keeps s0 s) : Keeps s0 (State.updHost f s) := h.same rfl rfl rfl
theorem updTwin_keeps {f : Twin → Twin} (h : Keeps s0 s) : Keeps s0 (State.updTwin f s) := h.same rfl rfl rfl
theorem updFabric_keeps {f : Fabric → Fabric} (h : Keeps s0 s) : Keeps s0 (State.updFabric f s) := h.same rfl rfl rfl
theorem updClk_keeps {f : Clk → Clk} (h : Keeps s0 s) : Keeps s0 (State.updClk f s) := h.same rfl rfl rfl
theorem updObs_keeps {f : Obs → Obs} (h : Keeps s0 s) : Keeps s0 (State.updObs f s) := withObs_keeps h
theorem updFlash_keeps {f : Flash → Flash} (h : Keeps s0 s) : Keeps s0 (State.updFlash f s) := h.same rfl rfl rfl
theorem updSide_keeps {f : Side → Side} (h : Keeps s0 s) : Keeps s0 (State.updSide f s) := h.same rfl rfl rfl
/-- Fabric time never moves back (R302). -/
theorem tick_keeps (h : Keeps s0 s) : Keeps s0 (tick t s) :=
  ⟨h.time.trans (le_max_left _ _), h.mem, h.pending⟩
theorem logEv_keeps (h : Keeps s0 s) : Keeps s0 (logEv code unit v aux s) := withObs_keeps h
theorem logCode_keeps (h : Keeps s0 s) : Keeps s0 (logCode code unit s) := logEv_keeps h
theorem bump_keeps (h : Keeps s0 s) : Keeps s0 (bump addr n s) := withObs_keeps h
theorem bumpMax_keeps (h : Keeps s0 s) : Keeps s0 (bumpMax addr level s) := withObs_keeps h
theorem profEvent_keeps (h : Keeps s0 s) : Keeps s0 (profEvent e tile slot n s) := foldl_keeps (fun _ _ h1 => ite_both (bump_keeps h1) h1) h
theorem charge_keeps (h : Keeps s0 s) : Keeps s0 (charge tag layer oper insn accb hbmb s) := by
  unfold charge
  refine ite_both h ?_
  generalize binFor tag layer oper s.obs = found
  exact ite_both (updObs_keeps (logCode_keeps (withObs_keeps h))) (withObs_keeps h)
theorem devReason_keeps (h : Keeps s0 s) : Keeps s0 (devReason code s) := updDev_keeps h
theorem markDev_keeps (h : Keeps s0 s) : Keeps s0 (markDev k s) := updDev_keeps h
theorem markClk_keeps (h : Keeps s0 s) : Keeps s0 (markClk k s) := updClk_keeps h
theorem setPred_keeps (h : Keeps s0 s) : Keeps s0 (setPred p s) := markClk_keeps (updIsland_keeps h)
theorem setAlarm_keeps (h : Keeps s0 s) : Keeps s0 (setAlarm p s) := markClk_keeps (updIsland_keeps h)
theorem setWarn_keeps (h : Keeps s0 s) : Keeps s0 (setWarn p s) := markClk_keeps (updIsland_keeps h)
theorem tideReason_keeps (h : Keeps s0 s) : Keeps s0 (tideReason code s) := updTide_keeps h
theorem twinReason_keeps (h : Keeps s0 s) : Keeps s0 (twinReason code s) := updTwin_keeps h
theorem portReason_keeps (h : Keeps s0 s) : Keeps s0 (portReason n code s) := updPort_keeps h
theorem sleepReason_keeps (h : Keeps s0 s) : Keeps s0 (sleepReason n code s) := updPort_keeps h
theorem clkReason_keeps (h : Keeps s0 s) : Keeps s0 (clkReason code s) := updClk_keeps h
theorem pwrReason_keeps (h : Keeps s0 s) : Keeps s0 (pwrReason code s) := updClk_keeps h
theorem monReason_keeps (h : Keeps s0 s) : Keeps s0 (monReason code s) := updClk_keeps h
theorem trcReason_keeps (h : Keeps s0 s) : Keeps s0 (trcReason code s) := updObs_keeps h
theorem evrReason_keeps (h : Keeps s0 s) : Keeps s0 (evrReason code s) := updObs_keeps h
theorem hostWrite_keeps (h : Keeps s0 s) : Keeps s0 (hostWrite a bs s) :=
  ⟨h.time, fun hw => Mem.writeN_wf _ _ _ (h.mem hw), h.pending⟩
theorem hostRead_keeps (h : Keeps s0 s) : Keeps s0 (hostRead n s) := bump_keeps h
theorem sendMsix_keeps {v : BitVec 6} (h : Keeps s0 s) : Keeps s0 (sendMsix v s) :=
  ite_both (updHost_keeps h) (bump_keeps (updHost_keeps h))
theorem writeBack_keeps {v : Word} (h : Keeps s0 s) : Keeps s0 (writeBack r field v s) := hostWrite_keeps h
theorem ringFault_keeps (h : Keeps s0 s) : Keeps s0 (ringFault r code s) := updHost_keeps (updRing_keeps h)
theorem afterCompletion_keeps (h : Keeps s0 s) : Keeps s0 (afterCompletion r irq s) :=
  ite_both (sendMsix_keeps (updRing_keeps h)) (updRing_keeps h)
theorem putCompletion_keeps (h : Keeps s0 s) : Keeps s0 (putCompletion r c s) :=
  ite_both (ringFault_keeps h) (afterCompletion_keeps (writeBack_keeps (updRing_keeps (hostWrite_keeps (hostWrite_keeps h)))))
theorem flushN_keeps {n : Nat} (h : Keeps s0 s) : Keeps s0 (flushN n r s) := by
  induction n generalizing s with
  | zero => exact h
  | succ n ih =>
    unfold flushN
    dsimp only
    split
    · exact h
    · exact ite_both h (ite_both h (ih (putCompletion_keeps (updRing_keeps h))))
theorem drainRing_keeps (h : Keeps s0 s) : Keeps s0 (drainRing r s) := ite_both (updRing_keeps h) h
theorem flushRing_keeps (h : Keeps s0 s) : Keeps s0 (flushRing r s) :=
  drainRing_keeps (ite_both (updRing_keeps (flushN_keeps h)) (ite_both (updRing_keeps (flushN_keeps h)) (flushN_keeps h)))
theorem postCompletion_keeps (h : Keeps s0 s) : Keeps s0 (postCompletion x status reason result ok s) :=
  ite_both h (flushRing_keeps (updRing_keeps h))
theorem finish_keeps (h : Keeps s0 s) : Keeps s0 (finish x status reason result ok s) :=
  drainRing_keeps (postCompletion_keeps (bump_keeps (updHost_keeps h)))
theorem writeBuffer_keeps {es : List (Nat × Nat)} {bs : List Byte} (h : Keeps s0 s) : Keeps s0 (writeBuffer es bs s) := by
  induction es generalizing bs s with
  | nil => exact h
  | cons e es ih => exact ih (hostWrite_keeps h)

end

/-! ### Jobs -/

section
variable {s0 s : State}
variable {code coll epoch job op slot st : Nat} {x : Exec} {t : Time} {cmd : HostCmd} {body : Exec → State → State}

theorem raiseInst_keeps (h : Keeps s0 s) : Keeps s0 (raiseInst slot coll st code s) := updJob_keeps h
theorem markInc_keeps (h : Keeps s0 s) : Keeps s0 (markInc slot coll code s) := raiseInst_keeps h
theorem markCellInc_keeps (h : Keeps s0 s) : Keeps s0 (markCellInc job coll epoch code s) := by
  unfold markCellInc
  split
  · exact h
  · exact ite_both (markInc_keeps h) h
theorem refuse_keeps (h : Keeps s0 s) : Keeps s0 (refuse x code s) := finish_keeps (ite_both (tideReason_keeps h) h)
theorem fail_keeps (h : Keeps s0 s) : Keeps s0 (fail x code s) := finish_keeps h
theorem hostCmd_keeps (hbody : ∀ a0 s, Keeps s0 s → Keeps s0 (body a0 s)) (h : Keeps s0 s) : Keeps s0 (hostCmd op t cmd body s) := by
  unfold hostCmd
  dsimp only
  split
  · exact tick_keeps h
  · exact ite_both (tick_keeps h) (ite_both (tick_keeps h) (ite_both (finish_keeps (tick_keeps h)) (hbody _ _ (hostRead_keeps (tick_keeps
      h)))))

end

/-! ### Buffers -/

section
variable {s0 s : State}
variable {addr b copies i k n slot tile : Nat} {owner : BufOwner} {c : Cell} {x : SchedCell}

theorem allocBuf_keeps (h : Keeps s0 s) : KeepsPair s0 (allocBuf tile owner copies s) := by
  unfold allocBuf
  split
  · exact keepsPair_mk (bump_keeps h)
  · exact keepsPair_mk (bumpMax_keeps (updTile_keeps h))
theorem releaseBuf_keeps (h : Keeps s0 s) : Keeps s0 (releaseBuf tile b s) := updTile_keeps h
theorem freeAddr_keeps (h : Keeps s0 s) : Keeps s0 (freeAddr tile addr s) :=
  ite_both (logCode_keeps h) (ite_both (bump_keeps (logCode_keeps h)) (ite_both (updTile_keeps h) (releaseBuf_keeps h)))
theorem freeBuf_keeps {b : Option Nat} (h : Keeps s0 s) : Keeps s0 (freeBuf tile b s) := by
  unfold freeBuf
  split
  · exact h
  · exact freeAddr_keeps h
theorem allocSched_keeps (h : Keeps s0 s) : KeepsPair s0 (allocSched tile slot s) :=
  ite_both (keepsPair_mk (bump_keeps h)) (allocBuf_keeps h)
theorem allocUns_keeps {slot : Option Nat} (h : Keeps s0 s) : KeepsPair s0 (allocUns tile slot copies s) := by
  unfold allocUns
  split <;> exact ite_both (keepsPair_mk (bump_keeps h)) (allocBuf_keeps h)
theorem ctlGone_keeps (h : Keeps s0 s) : Keeps s0 (ctlGone c s) := by
  unfold ctlGone
  split
  · exact h
  · exact updFabric_keeps h
theorem cellLeft_keeps (h : Keeps s0 s) : Keeps s0 (cellLeft n x s) := by
  unfold cellLeft
  split
  · exact h
  · exact updJob_keeps h
theorem schedLost_keeps (h : Keeps s0 s) : Keeps s0 (schedLost n x s) := markCellInc_keeps (cellLeft_keeps (logCode_keeps h))
theorem dropSched_keeps (h : Keeps s0 s) : Keeps s0 (dropSched n s) :=
  ite_both h (foldl_keeps (fun _ _ h1 => schedLost_keeps h1) (updPort_keeps h))
theorem dropVoq_keeps (h : Keeps s0 s) : Keeps s0 (dropVoq n i k s) := by
  unfold dropVoq
  split
  · exact h
  · exact foldl_keeps (fun _ _ h1 => bump_keeps (freeBuf_keeps h1)) (updTile_keeps h)
theorem dropVoqs_keeps (h : Keeps s0 s) : Keeps s0 (dropVoqs n s) :=
  ite_both h (foldl_keeps (fun _ _ h1 => ite_both h1 (foldl_keeps (fun _ _ h2 => dropVoq_keeps h2) h1)) h)

end

/-! ### Rings and the host port -/

section
variable {s0 s : State}
variable {t : Time} {f run : State → State} {c : WaitCheck} {p q r : Nat} {v : Word} {ring : Fin 10} {bs chunk : List Byte} {x : Exec}
variable {ok : Bool} {w : BitVec 128} {word : Option (BitVec 128)} {desc : Option (BitVec 512)} {l1 : Option (List Byte)}
variable {l2 : List (Option (List Byte))}

theorem accErr_keeps (h : Keeps s0 s) : Keeps s0 (accErr s) := markDev_keeps (updDev_keeps h)
theorem bar0_keeps (hf : ∀ s, Keeps s0 s → Keeps s0 (f s)) (h : Keeps s0 s) : Keeps s0 (bar0 t f s) :=
  ite_both (tick_keeps h) (ite_both (accErr_keeps (tick_keeps h)) (hf _ (tick_keeps h)))
theorem startCheck_keeps (hrun : ∀ s, Keeps s0 s → Keeps s0 (run s)) (h : Keeps s0 s) : Keeps s0 (startCheck c run s) :=
  ite_both (updDev_keeps h) (hrun _ h)
theorem cancelCheck_keeps (h : Keeps s0 s) : Keeps s0 (cancelCheck c s) := updDev_keeps h
theorem runRingCheck_keeps (h : Keeps s0 s) : Keeps s0 (runRingCheck r s) := by
  unfold runRingCheck
  split <;> exact updRing_keeps h
theorem writeRingCtl_keeps (h : Keeps s0 s) : Keeps s0 (writeRingCtl r v s) :=
  ite_both h (ite_both (ite_both (updRing_keeps h) (startCheck_keeps (fun _ h1 => runRingCheck_keeps h1) (updRing_keeps (updRing_keeps
      h)))) (ite_both (cancelCheck_keeps (updRing_keeps (updRing_keeps h))) (ite_both (drainRing_keeps (updRing_keeps (updRing_keeps h)))
      (updRing_keeps h))))
theorem execRingEnable_keeps (h : Keeps s0 s) : KeepsOut s0 (execRingEnable t ring v s) :=
  keepsOut_next (bar0_keeps (fun _ h1 => writeRingCtl_keeps h1) h)
theorem execRingDisable_keeps (h : Keeps s0 s) : KeepsOut s0 (execRingDisable t ring v s) :=
  keepsOut_next (bar0_keeps (fun _ h1 => writeRingCtl_keeps h1) h)
theorem putSlot_keeps (h : Keeps s0 s) : Keeps s0 (putSlot r chunk s) :=
  ite_both (sendMsix_keeps (writeBack_keeps (updRing_keeps (hostWrite_keeps (hostWrite_keeps h))))) (writeBack_keeps (updRing_keeps
      (hostWrite_keeps (hostWrite_keeps h))))
theorem pumpN_keeps {k : Nat} (h : Keeps s0 s) : Keeps s0 (pumpN k r s) := by
  induction k generalizing s with
  | zero => exact h
  | succ k ih =>
    unfold pumpN
    split
    · exact h
    · split
      · exact finish_keeps (updHost_keeps h)
      · exact ite_both h (ih (putSlot_keeps (updHost_keeps h)))
theorem pumpOut_keeps (h : Keeps s0 s) : Keeps s0 (pumpOut r s) := drainRing_keeps (pumpN_keeps h)
theorem startOut_keeps (h : Keeps s0 s) : Keeps s0 (startOut r x ok bs s) :=
  pumpOut_keeps (ite_both (updHost_keeps h) (ringFault_keeps (updHost_keeps h)))
theorem takeDoorbell_keeps (h : Keeps s0 s) : Keeps s0 (takeDoorbell r w s) :=
  ite_both (flushRing_keeps (updRing_keeps h)) (pumpOut_keeps (updRing_keeps h))
theorem execDoorbellPoll_keeps (h : Keeps s0 s) : KeepsOut s0 (execDoorbellPoll t ring word s) := by
  unfold execDoorbellPoll
  refine keepsOut_next (ite_both (tick_keeps h) ?_)
  split
  · exact ringFault_keeps (tick_keeps h)
  · exact takeDoorbell_keeps (hostRead_keeps (tick_keeps h))
theorem beginCommand_keeps (h : Keeps s0 s) : Keeps s0 (beginCommand r index d l1 l2 s) := by
  have refused {x : Exec} {result : List Byte} {code code' : Nat} {ok : Bool} {p q : Prop} [Decidable p] [Decidable q] :
      Keeps s0 (drainRing r (postCompletion x stRefused code result ok
        (bump (devCtr 0x118) 1 (if p then tideReason code s else if q then trcReason code' s else s)))) :=
    drainRing_keeps (postCompletion_keeps (bump_keeps (ite_both (tideReason_keeps h) (ite_both (trcReason_keeps h) h))))
  unfold beginCommand
  refine ite_both refused (ite_both refused ?_)
  split
  · exact ringFault_keeps h
  · exact hostRead_keeps refused
  · exact hostRead_keeps (ite_both refused (ite_both refused (ite_both refused (updHost_keeps h))))
theorem pickup_keeps (h : Keeps s0 s) : Keeps s0 (pickup r desc l1 l2 s) := by
  unfold pickup
  refine ite_both h ?_
  dsimp only
  split
  · exact beginCommand_keeps (updRing_keeps (updHost_keeps h))
  · split
    · exact ringFault_keeps (updHost_keeps h)
    · exact ite_both (updRing_keeps (writeBack_keeps (hostRead_keeps (updRing_keeps (updHost_keeps h))))) (beginCommand_keeps
        (writeBack_keeps (hostRead_keeps (updRing_keeps (updHost_keeps h)))))
theorem execDescriptorPickup_keeps {ring : Fin 8} (h : Keeps s0 s) : KeepsOut s0 (execDescriptorPickup t ring desc l1 l2 s) :=
  keepsOut_next (pickup_keeps (tick_keeps h))
theorem execMsixTimedMessage_keeps (h : Keeps s0 s) : KeepsOut s0 (execMsixTimedMessage t ring s) :=
  keepsOut_next (ite_both (sendMsix_keeps (updRing_keeps (tick_keeps h))) (tick_keeps h))
theorem hostPortReset_keeps (h : Keeps s0 s) : Keeps s0 (hostPortReset s) := by
  unfold hostPortReset
  exact updDev_keeps (bump_keeps (updHost_keeps h))
theorem execFunctionLevelReset_keeps (h : Keeps s0 s) : KeepsOut s0 (execFunctionLevelReset t s) :=
  keepsOut_next (hostPortReset_keeps (tick_keeps h))
theorem execHotReset_keeps (h : Keeps s0 s) : KeepsOut s0 (execHotReset t s) := keepsOut_next (hostPortReset_keeps (tick_keeps h))
theorem execLinkDown_keeps (h : Keeps s0 s) : KeepsOut s0 (execLinkDown t s) := keepsOut_next (hostPortReset_keeps (tick_keeps h))
theorem execPerstN_keeps (h : Keeps s0 s) : KeepsOut s0 (execPerstN t s) := keepsOut_next (hostPortReset_keeps (tick_keeps h))

end

/-! ### Links -/

section
variable {s0 s : State}
variable {code n : Nat} {lane : Fin 8} {codes cs : List (BitVec 4)} {c : BitVec 4} {nak on : Bool} {w word : BitVec 128} {t : Time}
variable {set : PSet} {width : BitVec 2} {crc v : Word} {port : Port} {ph : Phase} {m : TrainMeas} {height : BitVec 8} {ack seq : BitVec 12}
variable {f : TxSlot → TxSlot} {x : TxSlot}

theorem adjDown_keeps (h : Keeps s0 s) : Keeps s0 (adjDown n s) := ite_both (updFabric_keeps (updPort_keeps h)) (updPort_keeps h)
theorem moveHalf_keeps (h : Keeps s0 s) : Keeps s0 (moveHalf n s) := ite_both h (updPort_keeps (updPort_keeps h))
theorem portDown_keeps (h : Keeps s0 s) : Keeps s0 (portDown n s) :=
  adjDown_keeps (updPort_keeps (bump_keeps (foldl_keeps (fun _ _ h1 => ctlGone_keeps h1) (dropVoqs_keeps (dropSched_keeps (moveHalf_keeps
      h))))))
theorem trainFail_keeps (h : Keeps s0 s) : Keeps s0 (trainFail n code s) := portReason_keeps (portDown_keeps h)
theorem startFull_keeps (h : Keeps s0 s) : Keeps s0 (startFull n s) := updPort_keeps (withFree_keeps h)
theorem startShort_keeps (h : Keeps s0 s) : Keeps s0 (startShort n s) := updPort_keeps h
theorem narrow_keeps {lane : Nat} (h : Keeps s0 s) : Keeps s0 (narrow n lane s) := by
  unfold narrow
  refine ite_both (updPort_keeps h) ?_
  split
  · exact portDown_keeps (updPort_keeps h)
  · exact startShort_keeps (updPort_keeps (portReason_keeps (logCode_keeps (updPort_keeps h))))
theorem sendCtl_keeps (h : Keeps s0 s) : Keeps s0 (sendCtl n cs s) := updPort_keeps h
theorem takeCtl_keeps (h : Keeps s0 s) : KeepsOpt s0 (takeCtl n c s) := ite_both (keepsOpt_some (updPort_keeps h)) keepsOpt_none
theorem withdraw_keeps (h : Keeps s0 s) : Keeps s0 (withdraw n s) := bump_keeps (logCode_keeps (updPort_keeps h))
theorem dropSleep_keeps (h : Keeps s0 s) : Keeps s0 (dropSleep n s) :=
  ite_both (sleepReason_keeps (bump_keeps (logCode_keeps (updPort_keeps h)))) h
theorem planSwitch_keeps {c : LinkReq} (h : Keeps s0 s) : Keeps s0 (planSwitch n c codes s) := sendCtl_keeps (updPort_keeps h)
theorem askFec_keeps (h : Keeps s0 s) : Keeps s0 (askFec n on s) := sendCtl_keeps (updPort_keeps h)
theorem askWidth_keeps {w : BitVec 2} (h : Keeps s0 s) : Keeps s0 (askWidth n w s) := sendCtl_keeps (updPort_keeps (dropSleep_keeps h))
theorem execWreq_keeps (h : Keeps s0 s) : KeepsOut s0 (execWreq t set width s) := by
  unfold execWreq
  refine keepsOut_next ?_
  split
  · exact tick_keeps h
  · rename_i hs1
    have h1 := takeCtl_keeps (tick_keeps h) _ hs1
    dsimp only
    split
    · exact planSwitch_keeps (dropSleep_keeps h1)
    · exact dropSleep_keeps h1
    · exact ite_both (dropSleep_keeps h1) (planSwitch_keeps (withdraw_keeps (dropSleep_keeps h1)))
theorem execWack_keeps (h : Keeps s0 s) : KeepsOut s0 (execWack t set s) := by
  unfold execWack
  refine keepsOut_next ?_
  split
  · exact tick_keeps h
  · rename_i hs1
    have h1 := takeCtl_keeps (tick_keeps h) _ hs1
    split
    · exact planSwitch_keeps (updPort_keeps h1)
    · exact h1
theorem execWdraw_keeps (h : Keeps s0 s) : KeepsOut s0 (execWdraw t set s) :=
  keepsOut_next (getD_keeps (takeCtl_keeps (tick_keeps h)) (tick_keeps h))
theorem advertise_keeps (h : Keeps s0 s) : Keeps s0 (advertise s) := updFabric_keeps h
theorem execSwitch_keeps (h : Keeps s0 s) : KeepsOut s0 (execSwitch t set s) := by
  unfold execSwitch
  refine keepsOut_next ?_
  split
  · exact tick_keeps h
  · rename_i hs1
    have h1 := takeCtl_keeps (tick_keeps h) _ hs1
    split
    · exact h1
    · exact advertise_keeps (updPort_keeps h1)
theorem execRtreq_keeps (h : Keeps s0 s) : KeepsOut s0 (execRtreq t set s) := by
  unfold execRtreq
  refine keepsOut_next ?_
  split
  · exact tick_keeps h
  · rename_i hs1
    have h1 := takeCtl_keeps (tick_keeps h) _ hs1
    dsimp only
    split
    · exact startShort_keeps (sendCtl_keeps (dropSleep_keeps h1))
    · exact startShort_keeps (sendCtl_keeps (withdraw_keeps (dropSleep_keeps h1)))
    · exact ite_both (dropSleep_keeps h1) (startShort_keeps (sendCtl_keeps (withdraw_keeps (dropSleep_keeps h1))))
theorem execRtack_keeps (h : Keeps s0 s) : KeepsOut s0 (execRtack t set s) := by
  unfold execRtack
  refine keepsOut_next ?_
  split
  · exact tick_keeps h
  · rename_i hs1
    have h1 := takeCtl_keeps (tick_keeps h) _ hs1
    split
    · exact startShort_keeps (updPort_keeps h1)
    · exact h1
theorem takeFec_keeps (h : Keeps s0 s) : Keeps s0 (takeFec n on s) := by
  unfold takeFec
  split
  · exact h
  · rename_i hs1
    have h1 := takeCtl_keeps h _ hs1
    exact ite_both (planSwitch_keeps h1) h1
theorem execFecon_keeps (h : Keeps s0 s) : KeepsOut s0 (execFecon t set s) := keepsOut_next (takeFec_keeps (tick_keeps h))
theorem execFecoff_keeps (h : Keeps s0 s) : KeepsOut s0 (execFecoff t set s) := keepsOut_next (takeFec_keeps (tick_keeps h))
theorem execFecack_keeps (h : Keeps s0 s) : KeepsOut s0 (execFecack t set s) := by
  unfold execFecack
  refine keepsOut_next ?_
  split
  · exact tick_keeps h
  · rename_i hs1
    have h1 := takeCtl_keeps (tick_keeps h) _ hs1
    split
    · exact planSwitch_keeps (updPort_keeps h1)
    · exact h1
theorem enterLoop_keeps {v : BitVec 2} (h : Keeps s0 s) : Keeps s0 (enterLoop n v s) := updPort_keeps h
theorem portGo_keeps (h : Keeps s0 s) : Keeps s0 (portGo n s) :=
  ite_both (startFull_keeps h) (ite_both (startFull_keeps (portReason_keeps (updPort_keeps h))) (enterLoop_keeps h))
theorem runPortCheck_keeps (h : Keeps s0 s) : Keeps s0 (runPortCheck n s) := by
  unfold runPortCheck
  split
  · exact portReason_keeps (updPort_keeps h)
  · exact portGo_keeps h
theorem portOff_keeps (h : Keeps s0 s) : Keeps s0 (portOff n s) := updPort_keeps (portDown_keeps h)
theorem writeLoop_keeps {v : BitVec 2} (h : Keeps s0 s) : Keeps s0 (writeLoop n v s) :=
  ite_both h (ite_both (portReason_keeps h) (ite_both (ite_both (startFull_keeps (updPort_keeps h)) (updPort_keeps h)) (enterLoop_keeps h)))
theorem writeWidth_keeps {w : BitVec 2} (h : Keeps s0 s) : Keeps s0 (writeWidth n w s) :=
  ite_both h (ite_both (portReason_keeps h) (ite_both (portReason_keeps h) (ite_both (askWidth_keeps (updPort_keeps h)) (updPort_keeps h))))
theorem writeFec_keeps (h : Keeps s0 s) : Keeps s0 (writeFec n on s) :=
  ite_both h (ite_both (portReason_keeps h) (ite_both (askFec_keeps (updPort_keeps h)) (updPort_keeps h)))
theorem writeRetrain_keeps (h : Keeps s0 s) : Keeps s0 (writeRetrain n s) := ite_both (sendCtl_keeps (updPort_keeps (dropSleep_keeps h))) h
theorem owedRetrain_keeps (h : Keeps s0 s) : Keeps s0 (owedRetrain n s) := ite_both (writeRetrain_keeps h) (ite_both (updPort_keeps h) h)
theorem writePortCtl_keeps (h : Keeps s0 s) : Keeps s0 (writePortCtl n v s) :=
  ite_both (ite_both (ite_both (writeRetrain_keeps (writeFec_keeps (writeLoop_keeps (updPort_keeps h)))) (writeFec_keeps (writeLoop_keeps
      (updPort_keeps h)))) (updPort_keeps h)) (ite_both h (ite_both (ite_both (portOff_keeps (updPort_keeps (cancelCheck_keeps h)))
      (ite_both (writeRetrain_keeps (writeFec_keeps (writeWidth_keeps (writeLoop_keeps (updPort_keeps h))))) (writeFec_keeps
      (writeWidth_keeps (writeLoop_keeps (updPort_keeps h)))))) (ite_both (startCheck_keeps (fun _ h1 => runPortCheck_keeps h1)
      (updPort_keeps h)) (updPort_keeps h))))
theorem execPortEnable_keeps (h : Keeps s0 s) : KeepsOut s0 (execPortEnable t port v s) :=
  keepsOut_next (bar0_keeps (fun _ h1 => writePortCtl_keeps h1) h)
theorem execPortDisable_keeps (h : Keeps s0 s) : KeepsOut s0 (execPortDisable t port v s) :=
  keepsOut_next (bar0_keeps (fun _ h1 => writePortCtl_keeps h1) h)
theorem execPortRetrain_keeps (h : Keeps s0 s) : KeepsOut s0 (execPortRetrain t set v s) :=
  keepsOut_next (bar0_keeps (fun _ h1 => writePortCtl_keeps h1) h)
theorem execFecRequest_keeps (h : Keeps s0 s) : KeepsOut s0 (execFecRequest t set v s) :=
  keepsOut_next (bar0_keeps (fun _ h1 => writePortCtl_keeps h1) h)
theorem execWidthRequest_keeps (h : Keeps s0 s) : KeepsOut s0 (execWidthRequest t set v s) :=
  keepsOut_next (bar0_keeps (fun _ h1 => writePortCtl_keeps h1) h)
theorem execLoopbackRequest_keeps (h : Keeps s0 s) : KeepsOut s0 (execLoopbackRequest t set v s) :=
  keepsOut_next (bar0_keeps (fun _ h1 => writePortCtl_keeps h1) h)
theorem sendTrain_keeps (h : Keeps s0 s) : Keeps s0 (sendTrain n s) :=
  ite_both (updPort_keeps (updPort_keeps h)) (updPort_keeps (updPort_keeps h))
theorem enterPhase_keeps (h : Keeps s0 s) : Keeps s0 (enterPhase n ph s) := ite_both (updPort_keeps h) (sendTrain_keeps (updPort_keeps h))
theorem linkUp_keeps (h : Keeps s0 s) : Keeps s0 (linkUp n s) :=
  ite_both (ite_both (askFec_keeps (updPort_keeps (updPort_keeps (ite_both (askFec_keeps (advertise_keeps (updPort_keeps h)))
      (advertise_keeps (updPort_keeps h)))))) (updPort_keeps (ite_both (askFec_keeps (advertise_keeps (updPort_keeps h))) (advertise_keeps
      (updPort_keeps h))))) (ite_both (askFec_keeps (advertise_keeps (updPort_keeps h))) (advertise_keeps (updPort_keeps h)))
theorem timeStep_keeps (h : Keeps s0 s) : Keeps s0 (timeStep n w m s) :=
  ite_both (startFull_keeps (portReason_keeps (logCode_keeps (updPort_keeps h)))) (ite_both (enterPhase_keeps (updPort_keeps (updPort_keeps
      h))) (sendTrain_keeps (updPort_keeps h)))
theorem takeSeed_keeps (h : Keeps s0 s) : Keeps s0 (takeSeed n w s) := ite_both h (updPort_keeps h)
theorem alignStep_keeps (h : Keeps s0 s) : Keeps s0 (alignStep n w m s) :=
  ite_both (trainFail_keeps h) (ite_both h (enterPhase_keeps (updPort_keeps (takeSeed_keeps h))))
theorem eqStep_keeps {lane : Nat} (h : Keeps s0 s) : Keeps s0 (eqStep n lane w m s) :=
  ite_both (enterPhase_keeps (updPort_keeps (ite_both h (withFree_keeps h)))) (sendTrain_keeps (updPort_keeps (ite_both h (withFree_keeps
      h))))
theorem loopWord_keeps (h : Keeps s0 s) : Keeps s0 (loopWord n w s) :=
  ite_both (ite_both (updPort_keeps h) (startFull_keeps (portReason_keeps (updPort_keeps h)))) (ite_both (portReason_keeps (updPort_keeps
      h)) (updPort_keeps (enterLoop_keeps h)))
theorem trainStep_keeps {lane : Nat} (h : Keeps s0 s) : Keeps s0 (trainStep n lane w m s) := by
  unfold trainStep
  refine ite_both (loopWord_keeps (updPort_keeps h)) (ite_both (ite_both (startFull_keeps (updPort_keeps h)) (ite_both (startShort_keeps
      (updPort_keeps h)) (updPort_keeps h))) ?_)
  split
  · exact eqStep_keeps (updPort_keeps h)
  · exact ite_both (alignStep_keeps (updPort_keeps h)) (updPort_keeps h)
  · exact ite_both (timeStep_keeps (updPort_keeps h)) (updPort_keeps h)
  · exact ite_both (linkUp_keeps (takeSeed_keeps (updPort_keeps h))) (updPort_keeps h)
  · exact updPort_keeps h
theorem execTrainingWord_keeps (h : Keeps s0 s) : KeepsOut s0 (execTrainingWord t set lane word crc m s) :=
  keepsOut_next (ite_both (tick_keeps h) (ite_both (trainStep_keeps (updPort_keeps (tick_keeps h))) (ite_both (updPort_keeps (tick_keeps
      h)) (trainStep_keeps (tick_keeps h)))))
theorem execFarEndDetect_keeps (h : Keeps s0 s) : KeepsOut s0 (execFarEndDetect t set s) :=
  keepsOut_next (ite_both (enterPhase_keeps (tick_keeps h)) (tick_keeps h))
theorem execClockLock_keeps (h : Keeps s0 s) : KeepsOut s0 (execClockLock t set s) :=
  keepsOut_next (ite_both (enterPhase_keeps (tick_keeps h)) (tick_keeps h))
theorem execTrainingPhaseTimeout_keeps (h : Keeps s0 s) : KeepsOut s0 (execTrainingPhaseTimeout t set s) :=
  keepsOut_next (ite_both (trainFail_keeps (tick_keeps h)) (tick_keeps h))
theorem execTrainingRetry_keeps (h : Keeps s0 s) : KeepsOut s0 (execTrainingRetry t set s) :=
  keepsOut_next (ite_both (startFull_keeps (tick_keeps h)) (tick_keeps h))
theorem execLossOfSignal_keeps (h : Keeps s0 s) : KeepsOut s0 (execLossOfSignal t set lane s) :=
  keepsOut_next (ite_both (portDown_keeps (updPort_keeps (tick_keeps h))) (ite_both (narrow_keeps (updPort_keeps (tick_keeps h)))
      (updPort_keeps (tick_keeps h))))
theorem execLossOfLock_keeps {lane : Option (Fin 8)} (h : Keeps s0 s) : KeepsOut s0 (execLossOfLock t set lane s) := by
  unfold execLossOfLock
  refine keepsOut_next ?_
  split
  · exact ite_both (tick_keeps h) (ite_both (portDown_keeps (updPort_keeps (tick_keeps h))) (tick_keeps h))
  · exact ite_both (portDown_keeps (updPort_keeps (tick_keeps h))) (ite_both (narrow_keeps (updPort_keeps (tick_keeps h))) (updPort_keeps
      (tick_keeps h)))
theorem execFrameLoss_keeps (h : Keeps s0 s) : KeepsOut s0 (execFrameLoss t set lane s) :=
  keepsOut_next (ite_both (portDown_keeps (tick_keeps h)) (updPort_keeps (tick_keeps h)))
theorem execLaneLost_keeps (h : Keeps s0 s) : KeepsOut s0 (execLaneLost t set lane s) :=
  keepsOut_next (ite_both (narrow_keeps (tick_keeps h)) (tick_keeps h))
theorem autoFec_keeps (h : Keeps s0 s) : Keeps s0 (autoFec n s) := ite_both (updPort_keeps h) (ite_both (askFec_keeps (updPort_keeps h)) h)
theorem execMarginScan_keeps {width : BitVec 8} (h : Keeps s0 s) : KeepsOut s0 (execMarginScan t set lane height width s) :=
  keepsOut_next (ite_both (portReason_keeps (logEv_keeps (ite_both (autoFec_keeps (portReason_keeps (logEv_keeps (updPort_keeps (tick_keeps
      h))))) (updPort_keeps (tick_keeps h))))) (ite_both (autoFec_keeps (portReason_keeps (logEv_keeps (updPort_keeps (tick_keeps h)))))
      (updPort_keeps (tick_keeps h))))
theorem execBlockLock_keeps (h : Keeps s0 s) : KeepsOut s0 (execBlockLock t set lane s) := keepsOut_next (updPort_keeps (tick_keeps h))
theorem execBlockLockLoss_keeps (h : Keeps s0 s) : KeepsOut s0 (execBlockLockLoss t set lane s) :=
  keepsOut_next (ite_both (ite_both (portDown_keeps (updPort_keeps (tick_keeps h))) (ite_both (narrow_keeps (updPort_keeps (tick_keeps h)))
      (updPort_keeps (tick_keeps h)))) (tick_keeps h))
theorem startReplay_keeps (h : Keeps s0 s) : Keeps s0 (startReplay n s) := updPort_keeps (bump_keeps h)
theorem updHeld_keeps (h : Keeps s0 s) : Keeps s0 (updHeld n seq f s) := updPort_keeps h
theorem slotSlips_keeps (h : Keeps s0 s) : Keeps s0 (slotSlips n x s) := bump_keeps (updHeld_keeps h)
theorem retryLimit_keeps (h : Keeps s0 s) : Keeps s0 (retryLimit n x s) :=
  ite_both (startShort_keeps (portReason_keeps (logCode_keeps (updPort_keeps h)))) h
theorem takeAck_keeps (h : Keeps s0 s) : Keeps s0 (takeAck n ack nak s) := ite_both (startReplay_keeps (updPort_keeps h)) (updPort_keeps h)
theorem execReplayTimeout_keeps (h : Keeps s0 s) : KeepsOut s0 (execReplayTimeout t set s) :=
  keepsOut_next (ite_both (startReplay_keeps (tick_keeps h)) (tick_keeps h))

end

/-! ### Routing -/

section
variable {s0 s s' : State}
variable {n port pos q tag tile : Nat} {c : Cell} {ports : List Nat} {own : Bool}

theorem queueMgmt_keeps (h : Keeps s0 s) : Keeps s0 (queueMgmt n c s) := ite_both (logCode_keeps h) (updPort_keeps h)
theorem wakePort_keeps (h : Keeps s0 s) : Keeps s0 (wakePort n s) := by
  unfold wakePort
  dsimp only
  split
  · exact updPort_keeps h
  · exact h
  · exact queueMgmt_keeps (updPort_keeps h)
  · exact updPort_keeps h
  · exact updPort_keeps h
  · exact h
theorem autoWake_keeps (h : Keeps s0 s) : Keeps s0 (autoWake n s) := ite_both (wakePort_keeps h) h
theorem pushMgmt_keeps (h : Keeps s0 s) : Keeps s0 (pushMgmt n c s) := ite_both (queueMgmt_keeps h) (autoWake_keeps (queueMgmt_keeps h))
theorem pushCtl_keeps (h : Keeps s0 s) : Keeps s0 (pushCtl n ports c s) :=
  ite_both (foldl_keeps (fun _ _ h1 => bump_keeps h1) h) (ite_both (logCode_keeps (foldl_keeps (fun _ _ h1 => bump_keeps h1) h))
      (foldl_keeps (fun _ _ h1 => autoWake_keeps (updPort_keeps h1)) (updFabric_keeps (foldl_keeps (fun _ _ h1 => bump_keeps h1) h))))
theorem pushSched_keeps (h : Keeps s0 s) : Keeps s0 (pushSched n pos own c s) :=
  ite_both (schedLost_keeps h) (autoWake_keeps (updPort_keeps h))
theorem deliverHere_keeps (h : Keeps s0 s) : Keeps s0 (deliverHere c s) := updFabric_keeps h
theorem countForeign_keeps (h : Keeps s0 s) : Keeps s0 (countForeign port c s) := by
  unfold countForeign
  split
  · exact bump_keeps h
  · exact h
theorem sendCtlCell_keeps (h : Keeps s0 s) : Keeps s0 (sendCtlCell tile c s) := by
  unfold sendCtlCell
  split
  · exact ite_both (deliverHere_keeps (pushCtl_keeps h)) (pushCtl_keeps h)
  · exact bump_keeps h
  · exact countForeign_keeps h
theorem noteTag_keeps (h : Keeps s0 s) : Keeps s0 (noteTag tag s) := by
  unfold noteTag
  split
  · exact updJob_keeps h
  · exact withJobs_keeps h
theorem ctlArrive_keeps (h : Keeps s0 s) : Keeps s0 (ctlArrive n c s) := by
  unfold ctlArrive
  refine ite_both (bump_keeps h) ?_
  split
  · exact ite_both (updPort_keeps (pushCtl_keeps h)) (pushCtl_keeps h)
  · exact bump_keeps h
  · exact countForeign_keeps h
theorem takeRx_keeps (h : Keeps s0 s) : KeepsOpt s0 (takeRx n c s) := ite_both (keepsOpt_some (updPort_keeps h)) keepsOpt_none
theorem takePass_keeps {l : BitVec 14} {c : Cell} {q : PassCell} (h : Keeps s0 s) (hq : takePass n l c s = some (q, s')) : Keeps s0 s' := by
  obtain ⟨x, -, hx⟩ := Option.map_eq_some_iff.mp hq
  exact (Prod.mk.inj hx).2 ▸ updPort_keeps h
theorem takeAny_keeps (h : Keeps s0 s) : KeepsOpt s0 (takeAny c s) := by
  unfold takeAny
  refine ite_both (keepsOpt_some (updFabric_keeps h)) ?_
  split
  · exact takeRx_keeps h
  · exact keepsOpt_none
theorem takeTile_keeps (h : Keeps s0 s) : KeepsOpt s0 (takeTile tile c s) :=
  ite_both (ite_both (keepsOpt_some (updTile_keeps h)) keepsOpt_none) (takeRx_keeps h)
theorem takeTwin_keeps (h : Keeps s0 s) : KeepsOpt s0 (takeTwin c s) := by
  unfold takeTwin
  split
  · rename_i hs1
    have h1 := takeRx_keeps h _ hs1
    exact keepsOpt_some h1
  · exact takeRx_keeps h
theorem sendTwin_keeps (h : Keeps s0 s) : Keeps s0 (sendTwin c s) :=
  ite_both (updPort_keeps h) (ite_both (logCode_keeps h) (updPort_keeps h))

end

/-! ### Instructions and their queues -/

section
variable {s0 s : State}
variable {a code coll n off p q rd slot st tile v wr : Nat} {f : Inst → Inst} {illegal on : Bool} {ev : Ev} {l : List Ent} {e : CqEnt}
variable {d : Disp} {ds : List Disp}

theorem updInst_keeps (h : Keeps s0 s) : Keeps s0 (State.updInst slot coll f s) := updJob_keeps h
theorem addPart_keeps {f : Machine.Part → Machine.Part} (h : Keeps s0 s) : Keeps s0 (addPart slot coll tile f s) := updInst_keeps h
theorem tileCause_keeps (h : Keeps s0 s) : Keeps s0 (tileCause slot coll tile st code s) := addPart_keeps (raiseInst_keeps h)
theorem setSat_keeps (h : Keeps s0 s) : Keeps s0 (setSat slot coll tile on s) := ite_both (addPart_keeps h) h
theorem countEv_keeps (h : Keeps s0 s) : Keeps s0 (countEv tile slot ev s) := foldl_keeps (fun _ _ h1 => ite_both h1 (bump_keeps h1)) h
theorem statEv_keeps (h : Keeps s0 s) : Keeps s0 (statEv slot coll tile ev s) := ite_both h (addPart_keeps h)
theorem setAccN_keeps (h : Keeps s0 s) : Keeps s0 (setAccN tile a off n v s) := updTile_keeps h
theorem setEnts_keeps (h : Keeps s0 s) : Keeps s0 (setEnts tile slot q l s) := by
  unfold setEnts
  refine ite_both (updTile_keeps h) ?_
  split
  · exact bumpMax_keeps (updTile_keeps h)
  · exact h
theorem pushEnts_keeps (h : Keeps s0 s) : Keeps s0 (pushEnts tile slot q l s) := profEvent_keeps (setEnts_keeps h)
theorem popEnts_keeps (h : Keeps s0 s) : Keeps s0 (popEnts tile slot q n s) := setEnts_keeps h
theorem popIq_keeps (h : Keeps s0 s) : Keeps s0 (popIq tile p n slot s) :=
  bump_keeps (foldl_keeps (fun _ _ h1 => freeBuf_keeps h1) (profEvent_keeps (updTile_keeps h)))
theorem logSkip_keeps (h : Keeps s0 s) : Keeps s0 (logSkip tile slot e code illegal s) := by
  unfold logSkip
  dsimp only
  split
  · exact ite_both (tileCause_keeps (logEv_keeps (ite_both (bump_keeps (bump_keeps (bump_keeps (updTile_keeps h)))) (bump_keeps (bump_keeps
      (updTile_keeps h)))))) (logEv_keeps (ite_both (bump_keeps (bump_keeps (bump_keeps (updTile_keeps h)))) (bump_keeps (bump_keeps
      (updTile_keeps h)))))
  · exact logEv_keeps (ite_both (bump_keeps (bump_keeps (bump_keeps (updTile_keeps h)))) (bump_keeps (bump_keeps (updTile_keeps h))))
theorem updHead_keeps {f : CqEnt → CqEnt} (h : Keeps s0 s) : Keeps s0 (updHead tile slot q f s) := updTile_keeps h
theorem enqueue_keeps (h : Keeps s0 s) : Keeps s0 (enqueue tile d s) := updTile_keeps h
theorem pumpQueues_keeps {k : Nat} (h : Keeps s0 s) : Keeps s0 (pumpQueues k tile s) := by
  induction k generalizing s with
  | zero => exact h
  | succ k ih =>
    unfold pumpQueues
    split
    · exact h
    · exact ite_both (ih (enqueue_keeps (updTile_keeps h))) h
theorem pumpTile_keeps (h : Keeps s0 s) : Keeps s0 (pumpTile tile s) := pumpQueues_keeps h
theorem dispatch_keeps (h : Keeps s0 s) : Keeps s0 (dispatch tile ds s) := pumpTile_keeps (updTile_keeps h)
theorem completeHead_keeps (h : Keeps s0 s) : Keeps s0 (completeHead tile slot q e s) := by
  unfold completeHead
  exact charge_keeps (bump_keeps (pumpTile_keeps (updTile_keeps h)))
theorem chargeAcc_keeps (h : Keeps s0 s) : Keeps s0 (chargeAcc tile slot e rd wr s) := by
  unfold chargeAcc
  exact charge_keeps (bump_keeps (bump_keeps h))
theorem chargeHbm_keeps (h : Keeps s0 s) : Keeps s0 (chargeHbm tile slot e rd wr s) := by
  unfold chargeHbm
  exact charge_keeps (bump_keeps (bump_keeps (bump_keeps (bump_keeps h))))
theorem reconPops_keeps {i : DWord} {k : Nat} (h : Keeps s0 s) : Keeps s0 (reconPops tile slot i k s) := by
  induction k generalizing s with
  | zero => exact h
  | succ k ih =>
    unfold reconPops
    dsimp only
    split
    · exact h
    · exact ih (popEnts_keeps (updTile_keeps h))
theorem discardSrc_keeps (h : Keeps s0 s) : Keeps s0 (discardSrc tile slot e s) := by
  unfold discardSrc
  dsimp only
  split
  · exact h
  · refine ite_both (reconPops_keeps h) ?_
    split
    · exact popIq_keeps h
    · exact ite_both (popEnts_keeps h) h
theorem discardQueued_keeps {p : CqEnt → Bool} (h : Keeps s0 s) : Keeps s0 (discardQueued tile slot p s) :=
  pumpTile_keeps (updTile_keeps (bump_keeps (bump_keeps (foldl_keeps (fun _ _ h1 => discardSrc_keeps h1) h))))
theorem abortAcc_keeps (h : Keeps s0 s) : Keeps s0 (abortAcc tile a s) :=
  ite_both (updTile_keeps h) (ite_both (updTile_keeps h) (ite_both (updTile_keeps h) h))
theorem freeAccs_keeps {p : Word → Bool} (h : Keeps s0 s) : Keeps s0 (freeAccs tile slot p s) :=
  foldl_keeps (fun _ _ h1 => abortAcc_keeps (setSat_keeps h1)) h
theorem invalidateSpill_keeps {p : Word → Bool} (h : Keeps s0 s) : Keeps s0 (invalidateSpill slot p s) := updJob_keeps h

end

/-! ### Footprints of jobs and entries -/

section
variable {s0 s : State}
variable {arg bind clean code coll decision epoch ev k lsexp missing note off op slot start state step tag tile : Nat} {d : DigRec}
variable {keep notice report round : Bool} {p : Machine.Part} {wlsb : Int} {bs : List Byte} {c : Cell} {mark : Option (Nat × Nat × Nat × Nat)}
variable {m : Nat × Nat × Nat × Nat} {st : JTwin}

theorem pushEvent_keeps (h : Keeps s0 s) : Keeps s0 (pushEvent tile slot ev bind arg s) := bumpMax_keeps (updTile_keeps h)
theorem tileEvent_keeps (h : Keeps s0 s) : Keeps s0 (tileEvent tile slot coll ev arg s) :=
  foldl_keeps (fun _ _ h1 => ite_both (pushEvent_keeps h1) h1) h
theorem jobEvent_keeps (h : Keeps s0 s) : Keeps s0 (jobEvent slot coll ev arg s) := foldl_keeps (fun _ _ h1 => tileEvent_keeps h1) h
theorem sendNote_keeps (h : Keeps s0 s) : Keeps s0 (sendNote tag note state start s) := sendTwin_keeps h
theorem sendXfer_keeps (h : Keeps s0 s) : Keeps s0 (sendXfer tag op s) := sendTwin_keeps h
theorem sendDig_keeps (h : Keeps s0 s) : Keeps s0 (sendDig slot d s) := ite_both (sendTwin_keeps h) h
theorem sendStat_keeps (h : Keeps s0 s) : Keeps s0 (sendStat slot coll epoch round p missing wlsb s) := ite_both h (sendCtlCell_keeps h)
theorem instStat_keeps (h : Keeps s0 s) : Keeps s0 (instStat slot coll round s) := by
  unfold instStat
  split
  · exact h
  · exact sendStat_keeps h
theorem endDigs_keeps (h : Keeps s0 s) : Keeps s0 (endDigs tile slot coll s) :=
  updTile_keeps (foldl_keeps (fun _ _ h1 => ite_both (sendDig_keeps h1) h1) h)
theorem endOnTile_keeps (h : Keeps s0 s) : Keeps s0 (endOnTile tile slot coll keep s) :=
  tileEvent_keeps (ite_both (ite_both (discardQueued_keeps (updTile_keeps (endDigs_keeps h))) (updTile_keeps (discardQueued_keeps
      (updTile_keeps (endDigs_keeps h))))) (freeAccs_keeps (ite_both (discardQueued_keeps (updTile_keeps (endDigs_keeps h))) (updTile_keeps
      (discardQueued_keeps (updTile_keeps (endDigs_keeps h)))))))
theorem putOperand_keeps (h : Keeps s0 s) : Keeps s0 (putOperand slot coll k bs s) := by
  unfold putOperand
  dsimp only
  split
  · exact setAccN_keeps h
  · exact updJob_keeps h
theorem writeOperand_keeps (h : Keeps s0 s) : Keeps s0 (writeOperand slot coll off bs s) :=
  foldl_keeps (fun _ _ h1 => putOperand_keeps h1) h
theorem takeOperand_keeps (h : Keeps s0 s) : Keeps s0 (takeOperand slot coll s) := by
  unfold takeOperand
  split
  · exact h
  · exact writeOperand_keeps (updJob_keeps h)
theorem finishHeld_keeps (h : Keeps s0 s) : Keeps s0 (finishHeld slot coll s) := by
  unfold finishHeld
  dsimp only
  split
  · exact h
  · split
    · exact finish_keeps (takeOperand_keeps h)
    · exact takeOperand_keeps h
theorem endInst_keeps (h : Keeps s0 s) : Keeps s0 (endInst slot coll s) := by
  unfold endInst
  split
  · exact h
  · exact ite_both (finishHeld_keeps (foldl_keeps (fun _ _ h1 => endOnTile_keeps h1) (updJob_keeps h))) (invalidateSpill_keeps
      (finishHeld_keeps (foldl_keeps (fun _ _ h1 => endOnTile_keeps h1) (updJob_keeps h))))
theorem judge_keeps (h : Keeps s0 s) : KeepsPair s0 (judge slot c s) := keepsPair_mk (updJob_keeps h)
theorem endRelays_keeps (h : Keeps s0 s) : Keeps s0 (endRelays s) :=
  foldl_keeps (fun _ _ h1 => ite_both h1 (foldl_keeps (fun _ _ h2 => ite_both (endInst_keeps h2) h2) h1)) h
theorem freeColl_keeps (h : Keeps s0 s) : Keeps s0 (freeColl slot coll s) :=
  invalidateSpill_keeps (foldl_keeps (fun _ _ h1 => freeAccs_keeps h1) h)
theorem abortInst_keeps (h : Keeps s0 s) : Keeps s0 (abortInst slot coll code report s) :=
  ite_both h (endInst_keeps (ite_both (raiseInst_keeps h) (ite_both (updInst_keeps (raiseInst_keeps h)) (instStat_keeps (raiseInst_keeps
      h)))))
theorem payStat_keeps (h : Keeps s0 s) : Keeps s0 (payStat slot coll s) := by
  unfold payStat
  split
  · exact h
  · exact ite_both (instStat_keeps (updInst_keeps h)) h
theorem writeCommit_keeps (h : Keeps s0 s) : Keeps s0 (writeCommit slot step lsexp clean mark s) := updJob_keeps h
theorem endReplay_keeps (h : Keeps s0 s) : Keeps s0 (endReplay slot s) := by
  unfold endReplay
  split
  · exact h
  · exact updJob_keeps (foldl_keeps (fun _ _ h1 => freeColl_keeps (endInst_keeps h1)) h)
theorem markManifest_keeps (h : Keeps s0 s) : Keeps s0 (markManifest slot m s) := updJob_keeps h
theorem closeGate_keeps (h : Keeps s0 s) : Keeps s0 (closeGate slot s) := updJob_keeps h
theorem closeAttempt_keeps (h : Keeps s0 s) : Keeps s0 (closeAttempt slot decision s) := closeGate_keeps (markManifest_keeps h)
theorem rejectAttempt_keeps (h : Keeps s0 s) : Keeps s0 (rejectAttempt slot s) :=
  updJob_keeps (foldl_keeps (fun _ _ h1 => jobEvent_keeps h1) (foldl_keeps (fun _ _ h1 => freeColl_keeps h1) (foldl_keeps (fun _ _ h1 =>
      endInst_keeps h1) h)))
theorem dropAttempt_keeps (h : Keeps s0 s) : Keeps s0 (dropAttempt slot s) :=
  ite_both h (ite_both (closeGate_keeps (rejectAttempt_keeps h)) (closeAttempt_keeps (rejectAttempt_keeps h)))
theorem resetOnTile_keeps (h : Keeps s0 s) : Keeps s0 (resetOnTile slot tile s) :=
  updTile_keeps (foldl_keeps (fun _ _ h1 => foldl_keeps (fun _ _ h2 => freeBuf_keeps h2) (updTile_keeps h1)) (foldl_keeps (fun _ _ h1 =>
      foldl_keeps (fun _ _ h2 => freeBuf_keeps h2) (updTile_keeps h1)) (freeAccs_keeps (updTile_keeps (discardQueued_keeps h)))))
theorem jobReset_keeps (h : Keeps s0 s) : Keeps s0 (jobReset slot s) :=
  invalidateSpill_keeps (foldl_keeps (fun _ _ h1 => resetOnTile_keeps h1) h)
theorem uncompare_keeps {p : DigRec → Bool} (h : Keeps s0 s) : Keeps s0 (uncompare p s) :=
    foldl_keeps (fun _ _ h1 => by
    split
    · exact bump_keeps h1
    · exact h1) (updTwin_keeps h)
theorem uncompareJob_keeps (h : Keeps s0 s) : Keeps s0 (uncompareJob slot s) := uncompare_keeps h
theorem abortXfer_keeps (h : Keeps s0 s) : Keeps s0 (abortXfer s) := by
  unfold abortXfer
  split
  · exact h
  · dsimp only
    split
    · exact updJob_keeps (twinReason_keeps (logCode_keeps (updTwin_keeps h)))
    · exact twinReason_keeps (logCode_keeps (updTwin_keeps h))
theorem setJTwin_keeps (h : Keeps s0 s) : Keeps s0 (setJTwin slot st s) :=
  ite_both h (ite_both (ite_both (abortXfer_keeps (updJob_keeps h)) (updJob_keeps h)) (uncompareJob_keeps (ite_both (abortXfer_keeps
      (updJob_keeps h)) (updJob_keeps h))))
theorem leaveService_keeps (h : Keeps s0 s) : Keeps s0 (leaveService slot code s) :=
  jobReset_keeps (foldl_keeps (fun _ _ h1 => abortInst_keeps h1) (dropAttempt_keeps h))
theorem goOut_keeps (h : Keeps s0 s) : Keeps s0 (goOut slot code notice s) :=
  ite_both (sendNote_keeps (leaveService_keeps (ite_both (setJTwin_keeps h) (twinReason_keeps (logCode_keeps (setJTwin_keeps h))))))
      (leaveService_keeps (ite_both (setJTwin_keeps h) (twinReason_keeps (logCode_keeps (setJTwin_keeps h)))))
theorem freeze_keeps (h : Keeps s0 s) : Keeps s0 (freeze slot s) :=
  ite_both (twinReason_keeps (logCode_keeps (setJTwin_keeps h))) (leaveService_keeps (twinReason_keeps (logCode_keeps (setJTwin_keeps h))))
theorem islandClear_keeps (h : Keeps s0 s) : Keeps s0 (islandClear tile s) :=
  updTile_keeps (foldl_keeps (fun _ _ h1 => foldl_keeps (fun _ _ h2 => ite_both (tileCause_keeps h2) h2) h1) h)
theorem pilotRestart_keeps (h : Keeps s0 s) : Keeps s0 (pilotRestart tile s) := updTile_keeps h

end

/-! ### Clocks and power -/

section
variable {s0 s : State}
variable {die : Die} {p q : Phys} {cause demand n o : Nat} {duration v : Word} {t : Time} {kind : CrossKind} {m : Move} {rail : Rail}
variable {lowest temp : BitVec 16} {bor kept : Bool} {pins : ColdPins} {b : BootInfo}

theorem trimVdd_keeps {die : Nat} (h : Keeps s0 s) : Keeps s0 (trimVdd die s) := by
  unfold trimVdd
  exact ite_both (updClk_keeps h) h
theorem startOpp_keeps {p : Nat} (h : Keeps s0 s) : Keeps s0 (startOpp p o s) := by
  unfold startOpp
  exact ite_both (updClk_keeps (updIsland_keeps h)) (updIsland_keeps h)
theorem askOpp_keeps {p : Nat} (h : Keeps s0 s) : Keeps s0 (askOpp p o s) := by
  unfold askOpp
  split
  · exact clkReason_keeps h
  · exact ite_both (updIsland_keeps h) (ite_both h (startOpp_keeps h))
theorem toFloor_keeps {p : Nat} (h : Keeps s0 s) : Keeps s0 (toFloor p s) := ite_both h (startOpp_keeps (updIsland_keeps h))
theorem fromFloor_keeps {p : Nat} (h : Keeps s0 s) : Keeps s0 (fromFloor p s) := by
  unfold fromFloor
  dsimp only
  split
  · exact h
  · exact ite_both h (ite_both (startOpp_keeps (updIsland_keeps h)) (updIsland_keeps h))
theorem writeClkTile_keeps {p : Nat} (h : Keeps s0 s) : Keeps s0 (writeClkTile p v s) := by
  unfold writeClkTile
  refine ite_both h (ite_both (clkReason_keeps h) (ite_both (updIsland_keeps h) ?_))
  split
  · exact clkReason_keeps h
  · exact askOpp_keeps (updIsland_keeps h)
theorem execOppRequest_keeps (h : Keeps s0 s) : KeepsOut s0 (execOppRequest t p v s) :=
  keepsOut_next (bar0_keeps (fun _ h1 => writeClkTile_keeps h1) h)
theorem execAutoOppSelect_keeps (h : Keeps s0 s) : KeepsOut s0 (execAutoOppSelect t p demand s) :=
  keepsOut_next (ite_both (askOpp_keeps (tick_keeps h)) (tick_keeps h))
theorem execVoutReached_keeps (h : Keeps s0 s) : KeepsOut s0 (execVoutReached t die s) := keepsOut_next (updClk_keeps (tick_keeps h))
theorem oppDone_keeps {p : Nat} (h : Keeps s0 s) : Keeps s0 (oppDone p s) := ite_both h (trimVdd_keeps (updIsland_keeps h))
theorem execCrossingLimitBreach_keeps (h : Keeps s0 s) : KeepsOut s0 (execCrossingLimitBreach t p q kind s) :=
  keepsOut_next (ite_both (tick_keeps h) (ite_both (clkReason_keeps (logCode_keeps (tick_keeps h))) (toFloor_keeps (updIsland_keeps
      (clkReason_keeps (logCode_keeps (tick_keeps h)))))))
theorem execLimitHoldRelease_keeps (h : Keeps s0 s) : KeepsOut s0 (execLimitHoldRelease t p s) :=
  keepsOut_next (ite_both (fromFloor_keeps (updIsland_keeps (tick_keeps h))) (tick_keeps h))
theorem execNeighbourRaise_keeps (h : Keeps s0 s) : KeepsOut s0 (execNeighbourRaise t p q s) :=
  keepsOut_next (ite_both (ite_both (startOpp_keeps (updIsland_keeps (tick_keeps h))) (clkReason_keeps (tick_keeps h))) (tick_keeps h))
theorem gateTile_keeps {p : Nat} (h : Keeps s0 s) : Keeps s0 (gateTile p s) := by
  unfold gateTile
  dsimp only
  split
  · exact updTile_keeps (trimVdd_keeps (updIsland_keeps h))
  · exact trimVdd_keeps (updIsland_keeps h)
theorem wakeTile_keeps {p : Nat} (h : Keeps s0 s) : Keeps s0 (wakeTile p s) :=
  updIsland_keeps (foldl_keeps (fun _ _ h1 => ite_both (startOpp_keeps h1) h1) h)
theorem raiseTile_keeps (h : Keeps s0 s) : Keeps s0 (raiseTile n s) := by
  unfold raiseTile
  split
  · exact h
  · exact ite_both (wakeTile_keeps h) (ite_both (ite_both (startOpp_keeps (updIsland_keeps h)) (updIsland_keeps (updIsland_keeps h))) h)
theorem abandonMove_keeps (h : Keeps s0 s) : Keeps s0 (abandonMove m s) := by
  unfold abandonMove
  exact gateTile_keeps (updClk_keeps (updDev_keeps (monReason_keeps (logCode_keeps h))))
theorem startIslandReset_keeps {p : Nat} (h : Keeps s0 s) : Keeps s0 (startIslandReset p s) := by
  unfold startIslandReset
  dsimp only
  split
  · exact islandClear_keeps (foldl_keeps (fun _ _ h1 => abandonMove_keeps h1) (logCode_keeps (pwrReason_keeps (updDev_keeps h))))
  · exact foldl_keeps (fun _ _ h1 => abandonMove_keeps h1) (logCode_keeps (pwrReason_keeps (updDev_keeps h)))
theorem writePwrTile_keeps {p : Nat} (h : Keeps s0 s) : Keeps s0 (writePwrTile p v s) :=
  ite_both (ite_both (ite_both (startIslandReset_keeps h) h) (ite_both (gateTile_keeps (ite_both (startIslandReset_keeps h) h))
      (pwrReason_keeps (ite_both (startIslandReset_keeps h) h)))) (ite_both (pwrReason_keeps (ite_both (startIslandReset_keeps h) h))
      (ite_both (wakeTile_keeps (ite_both (startIslandReset_keeps h) h)) (ite_both (startIslandReset_keeps h) h)))
theorem execGateIsland_keeps (h : Keeps s0 s) : KeepsOut s0 (execGateIsland t p v s) :=
  keepsOut_next (bar0_keeps (fun _ h1 => writePwrTile_keeps h1) h)
theorem execWakeIsland_keeps (h : Keeps s0 s) : KeepsOut s0 (execWakeIsland t p v s) :=
  keepsOut_next (bar0_keeps (fun _ h1 => writePwrTile_keeps h1) h)
theorem execIslandReset_keeps {cause : IslandCause} (h : Keeps s0 s) : KeepsOut s0 (execIslandReset t p cause s) := by
  unfold execIslandReset
  refine keepsOut_next (ite_both (tick_keeps h) (startIslandReset_keeps ?_))
  split
  · exact bump_keeps (monReason_keeps (logCode_keeps (tick_keeps h)))
  · exact bump_keeps (tick_keeps h)
  · exact tick_keeps h
theorem execIslandResetDone_keeps (h : Keeps s0 s) : KeepsOut s0 (execIslandResetDone t p s) := by
  unfold execIslandResetDone
  refine keepsOut_next (ite_both (tick_keeps h) ?_)
  dsimp only
  split
  · exact pilotRestart_keeps (updDev_keeps (tick_keeps h))
  · exact updDev_keeps (tick_keeps h)
theorem execBrownoutWarning_keeps (h : Keeps s0 s) : KeepsOut s0 (execBrownoutWarning t rail lowest duration s) :=
  ite_both (keepsOut_next (tick_keeps h)) (keepsOut_next (foldl_keeps (fun _ _ h1 => toFloor_keeps h1) (pwrReason_keeps (logEv_keeps
      (markClk_keeps (updClk_keeps (tick_keeps h)))))))
theorem warmReset_keeps (h : Keeps s0 s) : Keeps s0 (warmReset cause bor s) := h.same rfl rfl rfl
theorem coldReset_keeps (h : Keeps s0 s) : Keeps s0 (coldReset cause bor pins s) :=
  ite_both (monReason_keeps (logCode_keeps (h.same rfl rfl rfl))) (h.same rfl rfl rfl)
theorem execColdReset_keeps (h : Keeps s0 s) : KeepsOut s0 (execColdReset t pins s) := keepsOut_next (coldReset_keeps (tick_keeps h))
theorem execWarmReset_keeps (h : Keeps s0 s) : KeepsOut s0 (execWarmReset t s) := keepsOut_next (warmReset_keeps (tick_keeps h))
theorem execBrownoutReset_keeps (h : Keeps s0 s) : KeepsOut s0 (execBrownoutReset t kept pins s) :=
  keepsOut_next (pwrReason_keeps (logCode_keeps (ite_both (warmReset_keeps (tick_keeps h)) (coldReset_keeps (tick_keeps h)))))
theorem execRefclkLost_keeps (h : Keeps s0 s) : KeepsOut s0 (execRefclkLost t die s) :=
  keepsOut_next (ite_both (coldReset_keeps (clkReason_keeps (logCode_keeps (markClk_keeps (updClk_keeps (tick_keeps h))))))
      (clkReason_keeps (logCode_keeps (markClk_keeps (updClk_keeps (tick_keeps h))))))
theorem execBootWatchdog_keeps (h : Keeps s0 s) : KeepsOut s0 (execBootWatchdog t s) :=
  keepsOut_next (ite_both (tick_keeps h) (warmReset_keeps (updClk_keeps (tick_keeps h))))
theorem bootReady_keeps (h : Keeps s0 s) : Keeps s0 (bootReady b s) := by
  unfold bootReady
  refine ite_both h ?_
  dsimp only
  split
  · exact pwrReason_keeps (logCode_keeps (foldl_keeps (fun _ _ h1 => pwrReason_keeps (logCode_keeps h1)) h))
  · exact pwrReason_keeps (logCode_keeps (foldl_keeps (fun _ _ h1 => pwrReason_keeps (logCode_keeps h1)) h))
  · exact updDev_keeps (updObs_keeps (updHost_keeps (updSide_keeps (updClk_keeps (ite_both (updClk_keeps (ite_both (pwrReason_keeps
      (logCode_keeps (foldl_keeps (fun _ _ h1 => pwrReason_keeps (logCode_keeps h1)) h))) (foldl_keeps (fun _ _ h1 => pwrReason_keeps
      (logCode_keeps h1)) h))) (clkReason_keeps (logCode_keeps (updClk_keeps (ite_both (pwrReason_keeps (logCode_keeps (foldl_keeps (fun _
      _ h1 => pwrReason_keeps (logCode_keeps h1)) h))) (foldl_keeps (fun _ _ h1 => pwrReason_keeps (logCode_keeps h1)) h))))))))))
theorem execBootReady_keeps (h : Keeps s0 s) : KeepsOut s0 (execBootReady t b s) := keepsOut_next (bootReady_keeps (tick_keeps h))
theorem execOvertempWarning_keeps (h : Keeps s0 s) : KeepsOut s0 (execOvertempWarning t p temp s) :=
  keepsOut_next (ite_both (clkReason_keeps (logEv_keeps (updIsland_keeps (tick_keeps h)))) (updIsland_keeps (tick_keeps h)))
theorem execThermalTrip_keeps (h : Keeps s0 s) : KeepsOut s0 (execThermalTrip t p s) :=
  keepsOut_next (foldl_keeps (fun _ _ h1 => ite_both h1 (updPort_keeps (portDown_keeps h1))) (foldl_keeps (fun _ _ h1 => ite_both h1
      (gateTile_keeps h1)) (pwrReason_keeps (logCode_keeps (updClk_keeps (updIsland_keeps (tick_keeps h)))))))

end

/-! ### Dependability -/

section
variable {s0 s : State}
variable {a addr b die level n p q r slot tile unit : Nat} {expected v : Word} {t : Time} {m : Move} {done : SpareTest} {cause : AlarmCause}
variable {depth : BitVec 16} {slack : BitVec 8} {f : ScrubFind} {x : Exec} {cmd : HostCmd} {pass : Bool}

theorem listPos_keeps (h : Keeps s0 s) : Keeps s0 (listPos p s) := updClk_keeps h
theorem requestMove_keeps (h : Keeps s0 s) : Keeps s0 (requestMove n s) := by
  unfold requestMove
  refine ite_both (monReason_keeps h) ?_
  split
  · exact monReason_keeps h
  · exact monReason_keeps h
  · exact ite_both (monReason_keeps h) (wakeTile_keeps (updDev_keeps (updClk_keeps (foldl_keeps (fun _ _ h1 => goOut_keeps h1) h))))
theorem writeMonSpare_keeps (h : Keeps s0 s) : Keeps s0 (writeMonSpare v s) :=
  ite_both (requestMove_keeps (updClk_keeps h)) (updClk_keeps h)
theorem execSpareGo_keeps (h : Keeps s0 s) : KeepsOut s0 (execSpareGo t v s) :=
  keepsOut_next (bar0_keeps (fun _ h1 => writeMonSpare_keeps h1) h)
theorem raiseFloor_keeps (h : Keeps s0 s) : Keeps s0 (raiseFloor p s) := ite_both (updIsland_keeps h) h
theorem finishMove_keeps (h : Keeps s0 s) : Keeps s0 (finishMove m s) :=
  pilotRestart_keeps (listPos_keeps (updClk_keeps (raiseFloor_keeps (gateTile_keeps (updDev_keeps (updTile_keeps h))))))
theorem execSpareMemoryTestDone_keeps (h : Keeps s0 s) : KeepsOut s0 (execSpareMemoryTestDone t done s) := by
  unfold execSpareMemoryTestDone
  refine keepsOut_next ?_
  split
  · exact ite_both (finishMove_keeps (tick_keeps h)) (listPos_keeps (abandonMove_keeps (tick_keeps h)))
  · exact tick_keeps h
theorem writeMonRetire_keeps {v : DWord} (h : Keeps s0 s) : Keeps s0 (writeMonRetire die v s) := by
  unfold writeMonRetire
  exact updClk_keeps h
theorem execRetireClear_keeps {die : Die} {v : DWord} (h : Keeps s0 s) : KeepsOut s0 (execRetireClear t die v s) :=
  keepsOut_next (bar0_keeps (fun _ h1 => writeMonRetire_keeps h1) h)
theorem execTileAlarm_keeps {p : Phys} (h : Keeps s0 s) : KeepsOut s0 (execTileAlarm t p cause s) := by
  unfold execTileAlarm
  refine keepsOut_next ?_
  split
  · exact abandonMove_keeps (ite_both (setPred_keeps (tick_keeps h)) (tick_keeps h))
  · refine ite_both (tick_keeps h) ?_
    split
    · exact requestMove_keeps (setPred_keeps (tick_keeps h))
    · exact setPred_keeps (tick_keeps h)
theorem execDroop_keeps {p : Phys} (h : Keeps s0 s) : KeepsOut s0 (execDroop t p depth s) :=
  keepsOut_next (ite_both (tick_keeps h) (monReason_keeps (logEv_keeps (updIsland_keeps (tick_keeps h)))))
theorem execTimingWarning_keeps {p : Phys} (h : Keeps s0 s) : KeepsOut s0 (execTimingWarning t p slack s) :=
  keepsOut_next (ite_both (updIsland_keeps (tick_keeps h)) (monReason_keeps (logEv_keeps (setWarn_keeps (updIsland_keeps (tick_keeps h))))))
theorem execTimingAlarm_keeps {p : Phys} (h : Keeps s0 s) : KeepsOut s0 (execTimingAlarm t p slack s) :=
  keepsOut_next (ite_both (updIsland_keeps (tick_keeps h)) (ite_both (startOpp_keeps (monReason_keeps (logEv_keeps (setAlarm_keeps
      (updIsland_keeps (tick_keeps h)))))) (monReason_keeps (logEv_keeps (setAlarm_keeps (updIsland_keeps (tick_keeps h)))))))
theorem enterRestart_keeps (h : Keeps s0 s) : Keeps s0 (enterRestart s) :=
  foldl_keeps (fun _ _ h1 => ite_both (updRing_keeps h1) h1) (updDev_keeps h)
theorem hmRestart_keeps (h : Keeps s0 s) : Keeps s0 (hmRestart s) :=
  ite_both h (updObs_keeps (foldl_keeps (fun _ _ h1 => endReplay_keeps h1) (foldl_keeps (fun _ _ h1 => ite_both (updJob_keeps h1) h1)
      (updFlash_keeps (updHost_keeps (foldl_keeps (fun _ _ h1 => fail_keeps h1) (enterRestart_keeps h)))))))
theorem dropBuf_keeps (h : Keeps s0 s) : Keeps s0 (dropBuf tile b s) := releaseBuf_keeps (updTile_keeps h)
theorem sramUe_keeps (h : Keeps s0 s) : Keeps s0 (sramUe tile addr s) := bump_keeps (updClk_keeps h)
theorem hbmUe_keeps (h : Keeps s0 s) : Keeps s0 (hbmUe die unit s) := monReason_keeps (logCode_keeps (bump_keeps h))
theorem statsBeforeOut_keeps (h : Keeps s0 s) : Keeps s0 (statsBeforeOut slot s) :=
    foldl_keeps (fun _ _ h1 => by
    split
    · exact ite_both h1 (instStat_keeps (updInst_keeps h1))
    · exact h1) (uncompareJob_keeps h)
theorem committedHit_keeps (h : Keeps s0 s) : Keeps s0 (committedHit slot s) := by
  unfold committedHit
  dsimp only
  split
  · exact foldl_keeps (fun _ _ h1 => markInc_keeps h1) h
  · exact twinReason_keeps (goOut_keeps (statsBeforeOut_keeps (foldl_keeps (fun _ _ h1 => markInc_keeps h1) h)))
  · exact sendNote_keeps (freeze_keeps (foldl_keeps (fun _ _ h1 => markInc_keeps h1) h))
  · exact foldl_keeps (fun _ _ h1 => markInc_keeps h1) h
theorem scrub_keeps {f : ScrubFind} (h : Keeps s0 s) : Keeps s0 (scrub f s) := by
  cases f with
  | clean => exact h
  | sramCorrected n => exact bump_keeps h
  | hbmCorrected d => exact bump_keeps h
  | accMemory n a => exact ite_both (sramUe_keeps h) (tileCause_keeps (sramUe_keeps h))
  | residue n j c => exact ite_both (tileCause_keeps (bump_keeps h)) (bump_keeps h)
  | matrixBuffer n j c => exact ite_both (tileCause_keeps (bump_keeps h)) (bump_keeps h)
  | cellBuffer n b =>
    have h1 : Keeps s0 (monReason 0x0B02 (logCode 0x0B02 (unitTile n.val) (sramUe n.val (112 * b.val) s))) :=
      monReason_keeps (logCode_keeps (sramUe_keeps h))
    exact ite_both h1 (foldl_keeps (fun _ _ h2 => ite_both (markCellInc_keeps h2) h2) (dropBuf_keeps h1))
  | programMemory n addr =>
    unfold scrub
    dsimp only
    split
    · exact startIslandReset_keeps (monReason_keeps (logCode_keeps (sramUe_keeps h)))
    · exact monReason_keeps (logCode_keeps (sramUe_keeps h))
  | pilotMemory n addr =>
    unfold scrub
    dsimp only
    split
    · exact startIslandReset_keeps (sramUe_keeps h)
    · exact sramUe_keeps h
  | harbourmaster => exact hmRestart_keeps h
  | hbmCommitted j d => exact committedHit_keeps (hbmUe_keeps h)
  | hbmAlternate j c d => exact markInc_keeps (hbmUe_keeps h)
  | hbmSpill j n ord d => exact updJob_keeps (hbmUe_keeps h)
  | hbmManifest j r d => exact updJob_keeps (hbmUe_keeps h)
  | hbmShard j w d => exact updJob_keeps (hbmUe_keeps h)
  | hbmReserved d => exact hbmUe_keeps h
theorem execPatrolScrub_keeps (h : Keeps s0 s) : KeepsOut s0 (execPatrolScrub t f s) := keepsOut_next (scrub_keeps (tick_keeps h))
theorem testTile_keeps (h : Keeps s0 s) : Keeps s0 (testTile p level s) := by
  unfold testTile
  refine ite_both (wakeTile_keeps (updDev_keeps h)) ?_
  split
  · exact islandClear_keeps (updDev_keeps (foldl_keeps (fun _ _ h1 => goOut_keeps h1) h))
  · exact wakeTile_keeps (updDev_keeps h)
theorem beginExec_keeps (h : Keeps s0 s) : Keeps s0 (beginExec x s) := updHost_keeps h
theorem execTileSelftest_keeps (h : Keeps s0 s) : KeepsOut s0 (execTileSelftest t cmd s) :=
    keepsOut_next (hostCmd_keeps (fun _ _ h1 => by
    refine ite_both (refuse_keeps h1) (ite_both (refuse_keeps h1) (ite_both (ite_both (refuse_keeps (monReason_keeps h1)) (ite_both
        (refuse_keeps (monReason_keeps h1)) (beginExec_keeps (updDev_keeps h1)))) ?_))
    split
    · exact refuse_keeps h1
    · exact ite_both (refuse_keeps h1) (ite_both (refuse_keeps (monReason_keeps h1)) (ite_both (refuse_keeps (monReason_keeps h1))
        (beginExec_keeps (testTile_keeps h1))))) h)
theorem failTile_keeps (h : Keeps s0 s) : Keeps s0 (failTile p s) := setPred_keeps (updDev_keeps h)
theorem endTest_keeps {q : SelfTest} (h : Keeps s0 s) : Keeps s0 (endTest q pass s) := by
  unfold endTest
  refine ite_both h ?_
  split
  · exact ite_both (pilotRestart_keeps (islandClear_keeps h)) (failTile_keeps h)
  · exact ite_both (gateTile_keeps h) (ite_both (failTile_keeps (gateTile_keeps h)) (listPos_keeps (monReason_keeps (logCode_keeps
      (gateTile_keeps h)))))
theorem execSelftestDone_keeps {done : TestEnd} (h : Keeps s0 s) : KeepsOut s0 (execSelftestDone t done expected s) := by
  unfold execSelftestDone
  refine keepsOut_next ?_
  split
  · dsimp only
    split
    · exact finish_keeps (endTest_keeps (updDev_keeps (tick_keeps h)))
    · exact endTest_keeps (updDev_keeps (tick_keeps h))
  · exact tick_keeps h

end

/-! ### Fabric -/

section
variable {s0 s : State}
variable {v : Word} {t : Time} {kind len lseq n serial slot start sub tide : Nat} {c : Cell} {port : Port} {pay : Payload}
variable {from_ root : Option Nat} {l : Lsa} {set : PSet} {arrival : BitVec 64} {ackSent deep : Bool}

theorem runDevCheck_keeps (h : Keeps s0 s) : Keeps s0 (runDevCheck s) := ite_both (updDev_keeps h) (devReason_keeps (updDev_keeps h))
theorem writeDevCtl_keeps (h : Keeps s0 s) : Keeps s0 (writeDevCtl v s) :=
  ite_both (ite_both h (cancelCheck_keeps (updDev_keeps h))) (ite_both (ite_both (updDev_keeps h) (startCheck_keeps (fun _ h1 =>
      runDevCheck_keeps h1) (updDev_keeps (updDev_keeps h)))) (ite_both (updDev_keeps (updDev_keeps h)) (updDev_keeps h)))
theorem execDevEnable_keeps (h : Keeps s0 s) : KeepsOut s0 (execDevEnable t v s) :=
  keepsOut_next (bar0_keeps (fun _ h1 => writeDevCtl_keeps h1) h)
theorem execDevDisable_keeps (h : Keeps s0 s) : KeepsOut s0 (execDevDisable t v s) :=
  keepsOut_next (bar0_keeps (fun _ h1 => writeDevCtl_keeps h1) h)
theorem writeDevId_keeps (h : Keeps s0 s) : Keeps s0 (writeDevId v s) := updDev_keeps h
theorem execDevIdWrite_keeps (h : Keeps s0 s) : KeepsOut s0 (execDevIdWrite t v s) :=
  keepsOut_next (bar0_keeps (fun _ h1 => writeDevId_keeps h1) h)
theorem execFallbackId_keeps (h : Keeps s0 s) : KeepsOut s0 (execFallbackId t s) := by
  unfold execFallbackId
  refine keepsOut_next ?_
  split
  · exact tick_keeps h
  · exact ite_both (tick_keeps h) (startCheck_keeps (fun _ h1 => runDevCheck_keeps h1) (updDev_keeps (tick_keeps h)))
theorem execHelloTimer_keeps (h : Keeps s0 s) : KeepsOut s0 (execHelloTimer t s) :=
  keepsOut_next (ite_both (tick_keeps h) (foldl_keeps (fun _ _ h1 => ite_both (pushMgmt_keeps h1) h1) (updFabric_keeps (tick_keeps h))))
theorem clearOffv_keeps (h : Keeps s0 s) : Keeps s0 (clearOffv s) := foldl_keeps (fun _ _ h1 => ite_both (updPort_keeps h1) h1) h
theorem loseLock_keeps (h : Keeps s0 s) : Keeps s0 (loseLock s) :=
  ite_both h (clearOffv_keeps (devReason_keeps (logCode_keeps (updFabric_keeps h))))
theorem setCount_keeps (h : Keeps s0 s) : Keeps s0 (setCount tide len start s) := updTide_keeps h
theorem adoptTide_keeps (h : Keeps s0 s) : Keeps s0 (adoptTide n s) := by
  unfold adoptTide
  refine ite_both ?_ (setCount_keeps (withFree_keeps h))
  split
  · exact h
  · exact ite_both h (setCount_keeps h)
theorem gainLock_keeps (h : Keeps s0 s) : Keeps s0 (gainLock s) := by
  unfold gainLock
  refine ite_both h (foldl_keeps (fun _ _ h1 => owedRetrain_keeps h1) ?_)
  split
  · exact adoptTide_keeps (clearOffv_keeps (updFabric_keeps h))
  · exact clearOffv_keeps (updFabric_keeps h)
theorem noteHello_keeps (h : Keeps s0 s) : Keeps s0 (noteHello n c s) := updPort_keeps h
theorem followTide_keeps (h : Keeps s0 s) : Keeps s0 (followTide n s) := ite_both (adoptTide_keeps h) h
theorem hello_keeps (h : Keeps s0 s) : Keeps s0 (hello n c s) :=
  ite_both (devReason_keeps (logCode_keeps h)) (ite_both (devReason_keeps (logCode_keeps (adjDown_keeps (updPort_keeps h)))) (ite_both
      (followTide_keeps (noteHello_keeps (updPort_keeps (ite_both (adjDown_keeps h) h)))) (ite_both (followTide_keeps (noteHello_keeps
      (updPort_keeps (ite_both (adjDown_keeps h) h)))) (ite_both (advertise_keeps (updPort_keeps (followTide_keeps (noteHello_keeps
      (updPort_keeps (ite_both (adjDown_keeps h) h)))))) (ite_both (followTide_keeps (noteHello_keeps (updPort_keeps (ite_both
      (adjDown_keeps h) h)))) (advertise_keeps (updPort_keeps (followTide_keeps (noteHello_keeps (updPort_keeps (ite_both (adjDown_keeps h)
      h)))))))))))
theorem execHello_keeps (h : Keeps s0 s) : KeepsOut s0 (execHello t port c s) := by
  unfold execHello
  refine keepsOut_next (ite_both (tick_keeps h) ?_)
  split
  · exact tick_keeps h
  · rename_i hs1
    have h1 := takeRx_keeps (tick_keeps h) _ hs1
    exact hello_keeps h1
theorem execAdjacencyTimeout_keeps (h : Keeps s0 s) : KeepsOut s0 (execAdjacencyTimeout t port s) :=
  keepsOut_next (ite_both (adjDown_keeps (tick_keeps h)) (tick_keeps h))
theorem execEndpointDetect_keeps (h : Keeps s0 s) : KeepsOut s0 (execEndpointDetect t port s) :=
  keepsOut_next (ite_both (updPort_keeps (tick_keeps h)) (tick_keeps h))
theorem sendPart_keeps (h : Keeps s0 s) : Keeps s0 (sendPart n lseq pay s) := pushCtl_keeps (updPort_keeps h)
theorem flood_keeps (h : Keeps s0 s) : Keeps s0 (flood from_ lseq pay s) := foldl_keeps (fun _ _ h1 => sendPart_keeps h1) h
theorem setFull_keeps (h : Keeps s0 s) : Keeps s0 (setFull l s) := updFabric_keeps h
theorem setDb_keeps (h : Keeps s0 s) : Keeps s0 (setDb l s) := updFabric_keeps h
theorem originate_keeps (h : Keeps s0 s) : Keeps s0 (originate lseq s) :=
  foldl_keeps (fun _ _ h1 => flood_keeps h1) (setFull_keeps (setDb_keeps (updFabric_keeps h)))
theorem execLsaOriginate_keeps (h : Keeps s0 s) : KeepsOut s0 (execLsaOriginate t s) :=
  keepsOut_next (ite_both (originate_keeps (tick_keeps h)) (tick_keeps h))
theorem duplicateId_keeps (h : Keeps s0 s) : Keeps s0 (duplicateId serial s) :=
  ite_both (updDev_keeps (devReason_keeps (logCode_keeps (markDev_keeps (updDev_keeps h))))) (devReason_keeps (logCode_keeps (markDev_keeps
      (updDev_keeps h))))
theorem lsaPart_keeps (h : Keeps s0 s) : Keeps s0 (lsaPart n c s) := by
  unfold lsaPart
  refine ite_both (devReason_keeps (logCode_keeps h)) (ite_both (ite_both (originate_keeps (ite_both h (pushCtl_keeps h))) (ite_both h
      (pushCtl_keeps h))) ?_)
  dsimp only
  split
  · exact ite_both h (pushCtl_keeps h)
  · exact ite_both (flood_keeps (setDb_keeps (ite_both h (pushCtl_keeps h)))) (ite_both (duplicateId_keeps (setFull_keeps (flood_keeps
      (setDb_keeps (ite_both h (pushCtl_keeps h)))))) (setFull_keeps (flood_keeps (setDb_keeps (ite_both h (pushCtl_keeps h))))))
theorem takeFab_keeps (h : Keeps s0 s) : KeepsOpt s0 (takeFab n kind sub c s) := ite_both keepsOpt_none (takeRx_keeps h)
theorem execLsaPart_keeps (h : Keeps s0 s) : KeepsOut s0 (execLsaPart t port c s) := by
  unfold execLsaPart
  refine keepsOut_next ?_
  split
  · exact tick_keeps h
  · rename_i hs1
    have h1 := takeFab_keeps (tick_keeps h) _ hs1
    exact lsaPart_keeps h1
theorem execLsaAck_keeps (h : Keeps s0 s) : KeepsOut s0 (execLsaAck t port c s) := by
  unfold execLsaAck
  refine keepsOut_next ?_
  split
  · exact tick_keeps h
  · rename_i hs1
    have h1 := takeFab_keeps (tick_keeps h) _ hs1
    exact updPort_keeps h1
theorem execLsaRetransmit_keeps (h : Keeps s0 s) : KeepsOut s0 (execLsaRetransmit t port s) :=
  keepsOut_next (ite_both (tick_keeps h) (ite_both (adjDown_keeps (tick_keeps h)) (foldl_keeps (fun _ _ h1 => pushCtl_keeps h1)
      (updPort_keeps (tick_keeps h)))))
theorem execLsaExpiry_keeps (h : Keeps s0 s) : KeepsOut s0 (execLsaExpiry t s) :=
  keepsOut_next (ite_both (updFabric_keeps (tick_keeps h)) (tick_keeps h))
theorem takeRoot_keeps (h : Keeps s0 s) : Keeps s0 (takeRoot root s) := by
  unfold takeRoot
  split
  · exact loseLock_keeps (updFabric_keeps h)
  · exact ite_both (gainLock_keeps (updFabric_keeps h)) (ite_both (loseLock_keeps (updFabric_keeps h)) (updFabric_keeps h))
theorem retime_keeps (h : Keeps s0 s) : Keeps s0 (retime s) := takeRoot_keeps (withFree_keeps h)
theorem execRouteInstall_keeps (h : Keeps s0 s) : KeepsOut s0 (execRouteInstall t s) := by
  unfold execRouteInstall
  refine keepsOut_next ?_
  split
  · exact tick_keeps h
  · exact ite_both (tick_keeps h) (foldl_keeps (fun _ _ h1 => ite_both (goOut_keeps h1) h1) (retime_keeps (updFabric_keeps (foldl_keeps
      (fun _ _ h1 => devReason_keeps (logCode_keeps h1)) (tick_keeps h)))))
theorem execTimeExchange_keeps (h : Keeps s0 s) : KeepsOut s0 (execTimeExchange t s) := by
  unfold execTimeExchange
  refine keepsOut_next ?_
  split
  · exact tick_keeps h
  · exact ite_both (tick_keeps h) (pushMgmt_keeps (updFabric_keeps (tick_keeps h)))
theorem execTimeReq_keeps (h : Keeps s0 s) : KeepsOut s0 (execTimeReq t set c arrival s) := by
  unfold execTimeReq
  refine keepsOut_next (ite_both (tick_keeps h) ?_)
  split
  · exact tick_keeps h
  · rename_i hs1
    have h1 := takeRx_keeps (tick_keeps h) _ hs1
    exact pushMgmt_keeps h1
/-- A step of an unlocked clock never moves time back (R305). -/
theorem stepTime_keeps {x : Nat} (h : Keeps s0 s) : Keeps s0 { s with time := max s.time x } :=
  ⟨h.time.trans (le_max_left _ _), h.mem, h.pending⟩

theorem discipline_keeps {theta : Int} (h : Keeps s0 s) : Keeps s0 (discipline theta s) :=
  ite_both (ite_both (loseLock_keeps h) (updFabric_keeps h))
    (ite_both (ite_both (updFabric_keeps h) (gainLock_keeps (updFabric_keeps h))) (gainLock_keeps (stepTime_keeps h)))
theorem takeResp_keeps (h : Keeps s0 s) : Keeps s0 (takeResp n c arrival s) := by
  unfold takeResp
  dsimp only
  split
  · exact updPort_keeps h
  · exact ite_both (discipline_keeps (updFabric_keeps h)) h
theorem execTimeResp_keeps (h : Keeps s0 s) : KeepsOut s0 (execTimeResp t set c arrival s) := by
  unfold execTimeResp
  refine keepsOut_next (ite_both (tick_keeps h) ?_)
  split
  · exact tick_keeps h
  · rename_i hs1
    have h1 := takeRx_keeps (tick_keeps h) _ hs1
    exact takeResp_keeps h1
theorem execStartTideExchange_keeps {slot : Slot} {port : Port} {x : Option (Cell × BitVec 64)} (h : Keeps s0 s) :
    KeepsOut s0 (execStartTideExchange t slot port x s) := by
  refine keepsOut_next ?_
  cases x with
  | none => exact ite_both (tick_keeps h) (pushMgmt_keeps (updPort_keeps (updFabric_keeps (tick_keeps h))))
  | some x =>
    refine ite_both (tick_keeps h) ?_
    split
    · exact tick_keeps h
    · rename_i hs1
      exact takeResp_keeps (takeRx_keeps (tick_keeps h) _ hs1)
theorem execPpsEdge_keeps (h : Keeps s0 s) : KeepsOut s0 (execPpsEdge t s) :=
  keepsOut_next (ite_both (tick_keeps h) (ite_both (updFabric_keeps (retime_keeps (updClk_keeps (tick_keeps h)))) (retime_keeps
      (updClk_keeps (tick_keeps h)))))
theorem execPpsLoss_keeps (h : Keeps s0 s) : KeepsOut s0 (execPpsLoss t s) :=
  keepsOut_next (ite_both (retime_keeps (updClk_keeps (tick_keeps h))) (tick_keeps h))
theorem execPpsOut_keeps (h : Keeps s0 s) : KeepsOut s0 (execPpsOut t s) := keepsOut_next (updClk_keeps (tick_keeps h))
theorem enterSleep_keeps (h : Keeps s0 s) : Keeps s0 (enterSleep n deep ackSent s) := updPort_keeps h
theorem requestSleep_keeps (h : Keeps s0 s) : Keeps s0 (requestSleep n deep s) :=
  ite_both h (ite_both (sleepReason_keeps h) (pushMgmt_keeps (updPort_keeps h)))
theorem writePortSleep_keeps (h : Keeps s0 s) : Keeps s0 (writePortSleep n v s) := by
  unfold writePortSleep
  dsimp only
  split
  · exact requestSleep_keeps (updPort_keeps h)
  · exact requestSleep_keeps (updPort_keeps h)
  · exact wakePort_keeps (updPort_keeps h)
  · exact updPort_keeps h
theorem execSleepRequestLight_keeps (h : Keeps s0 s) : KeepsOut s0 (execSleepRequestLight t port v s) :=
  keepsOut_next (bar0_keeps (fun _ h1 => writePortSleep_keeps h1) h)
theorem execSleepRequestDeep_keeps (h : Keeps s0 s) : KeepsOut s0 (execSleepRequestDeep t port v s) :=
  keepsOut_next (bar0_keeps (fun _ h1 => writePortSleep_keeps h1) h)
theorem execWakeCommand_keeps (h : Keeps s0 s) : KeepsOut s0 (execWakeCommand t port v s) :=
  keepsOut_next (bar0_keeps (fun _ h1 => writePortSleep_keeps h1) h)
theorem takeSleep_keeps (h : Keeps s0 s) : KeepsOpt s0 (takeSleep n sub c s) := ite_both keepsOpt_none (takeRx_keeps h)
theorem sleepCome_keeps (h : Keeps s0 s) : Keeps s0 (sleepCome n deep s) := by
  unfold sleepCome
  dsimp only
  split
  · exact ite_both h (enterSleep_keeps (pushMgmt_keeps (updPort_keeps (sleepReason_keeps (bump_keeps (logCode_keeps (updPort_keeps h)))))))
  · exact ite_both (enterSleep_keeps (pushMgmt_keeps (updPort_keeps h))) (pushMgmt_keeps h)
  · exact h
theorem execSleep_keeps (h : Keeps s0 s) : KeepsOut s0 (execSleep t port c s) := by
  unfold execSleep
  refine keepsOut_next ?_
  split
  · exact tick_keeps h
  · rename_i hs1
    have h1 := takeSleep_keeps (tick_keeps h) _ hs1
    exact sleepCome_keeps h1
theorem execSleepAck_keeps (h : Keeps s0 s) : KeepsOut s0 (execSleepAck t port c s) := by
  unfold execSleepAck
  refine keepsOut_next ?_
  split
  · exact tick_keeps h
  · rename_i hs1
    have h1 := takeSleep_keeps (tick_keeps h) _ hs1
    exact ite_both (enterSleep_keeps h1) h1
theorem execSleepNak_keeps (h : Keeps s0 s) : KeepsOut s0 (execSleepNak t port c s) := by
  unfold execSleepNak
  refine keepsOut_next ?_
  split
  · exact tick_keeps h
  · rename_i hs1
    have h1 := takeSleep_keeps (tick_keeps h) _ hs1
    split
    · exact ite_both (updPort_keeps h1) h1
    · exact h1
    · exact ite_both (sleepReason_keeps (updPort_keeps h1)) h1
theorem execSleepTimeout_keeps (h : Keeps s0 s) : KeepsOut s0 (execSleepTimeout t port s) :=
  keepsOut_next (ite_both (sleepReason_keeps (updPort_keeps (tick_keeps h))) (tick_keeps h))
theorem execSleepEntryDone_keeps (h : Keeps s0 s) : KeepsOut s0 (execSleepEntryDone t port s) := by
  unfold execSleepEntryDone
  refine keepsOut_next ?_
  split
  · exact ite_both (tick_keeps h) (ite_both (wakePort_keeps (updPort_keeps (tick_keeps h))) (updPort_keeps (tick_keeps h)))
  · exact tick_keeps h
theorem execSleepExitDone_keeps (h : Keeps s0 s) : KeepsOut s0 (execSleepExitDone t port s) :=
  keepsOut_next (ite_both (tick_keeps h) (ite_both (startShort_keeps (updPort_keeps (tick_keeps h))) (updPort_keeps (tick_keeps h))))
theorem execWakeSignal_keeps (h : Keeps s0 s) : KeepsOut s0 (execWakeSignal t set s) :=
  keepsOut_next (updPort_keeps (wakePort_keeps (tick_keeps h)))

end

/-! ### The step gate -/

section
variable {s0 s : State}
variable {coll epoch p slot tile : Nat} {c : Cell} {f : Verd → Verd} {mine p0 theirs : Payload} {round simplex : Bool} {t : Time}
variable {dev : BitVec 12} {cs : List Cell}

theorem dropKsf_keeps (h : Keeps s0 s) : Keeps s0 (dropKsf tile s) := bump_keeps h
theorem runPlanner_keeps {c : Option Nat} (h : Keeps s0 s) : Keeps s0 (runPlanner slot coll c s) := updJob_keeps h
theorem updVerd_keeps (h : Keeps s0 s) : Keeps s0 (updVerd slot f s) := updJob_keeps h
theorem openVerd_keeps (h : Keeps s0 s) : Keeps s0 (openVerd slot s) := updJob_keeps h
theorem sendVerdict_keeps (h : Keeps s0 s) : Keeps s0 (sendVerdict slot p0 s) := by
  unfold sendVerdict
  dsimp only
  split
  · exact h
  · exact updVerd_keeps (foldl_keeps (fun _ _ h1 => foldl_keeps (fun _ _ h2 => sendCtlCell_keeps h2) (ite_both h1 (sendCtlCell_keeps h1)))
      h)
theorem sendClip_keeps (h : Keeps s0 s) : Keeps s0 (sendClip slot p0 s) :=
  updVerd_keeps (foldl_keeps (fun _ _ h1 => sendCtlCell_keeps h1) h)
theorem actOn_keeps {p : Payload} (h : Keeps s0 s) : Keeps s0 (actOn slot round p s) :=
  ite_both (sendClip_keeps h) (sendVerdict_keeps (ite_both (logCode_keeps h) h))
theorem agreeOn_keeps (h : Keeps s0 s) : Keeps s0 (agreeOn slot round mine theirs s) :=
  ite_both (actOn_keeps (updVerd_keeps h)) (sendVerdict_keeps (updVerd_keeps h))
theorem sendDecision_keeps {p : Payload} (h : Keeps s0 s) : Keeps s0 (sendDecision slot p s) := sendTwin_keeps h
theorem propose_keeps {p : Payload} (h : Keeps s0 s) : Keeps s0 (propose slot round p s) := by
  unfold propose
  split
  · exact h
  · exact ite_both (actOn_keeps h) (updVerd_keeps (sendDecision_keeps h))
theorem verdictTry_keeps (h : Keeps s0 s) : Keeps s0 (verdictTry slot s) := by
  unfold verdictTry
  dsimp only
  split
  · exact h
  · refine ite_both h ?_
    split
    · exact ite_both h (propose_keeps h)
    · refine ite_both (actOn_keeps h) ?_
      split
      · exact agreeOn_keeps h
      · exact h
    · exact ite_both h (propose_keeps h)
    · refine ite_both (actOn_keeps h) ?_
      split
      · exact agreeOn_keeps h
      · exact h
    · exact h
theorem verdictRun_keeps (h : Keeps s0 s) : Keeps s0 (verdictRun slot s) :=
  verdictTry_keeps (verdictTry_keeps (verdictTry_keeps (verdictTry_keeps h)))
theorem instVerdict_keeps (h : Keeps s0 s) : Keeps s0 (instVerdict slot coll epoch s) :=
  ite_both h (ite_both (updJob_keeps h) (sendCtlCell_keeps (updJob_keeps h)))
theorem admitStat_keeps {c : Cell} (h : Keeps s0 s) : Keeps s0 (admitStat slot c s).2 ∧ KeepsOpt s0 (admitStat slot c s).1 := by
  unfold admitStat
  dsimp only
  split
  · exact ⟨markCellInc_keeps h, keepsOpt_none⟩
  · split
    · exact ⟨bump_keeps h, keepsOpt_none⟩
    · split
      · exact ⟨tileCause_keeps (bump_keeps h), keepsOpt_none⟩
      · exact ⟨bumpMax_keeps (updJob_keeps h), keepsOpt_some (bumpMax_keeps (updJob_keeps h))⟩
theorem takeStat_keeps {dev : BitVec 12} {c : Cell} (h : Keeps s0 s) : Keeps s0 (takeStat dev c s) := by
  unfold takeStat
  split
  · exact h
  · rename_i slot _
    refine ite_both (dropKsf_keeps h) (ite_both h ?_)
    obtain ⟨hout, hin⟩ := admitStat_keeps (slot := slot) (c := c) h
    split
    · rename_i hs
      rw [hs] at hout
      exact hout
    · rename_i hs
      have h1 := hin _ (congrArg Prod.fst hs)
      split
      · split
        · exact h1
        · have h2 := openVerd_keeps (slot := slot) h1
          exact ite_both (ite_both (ite_both (updVerd_keeps h2) h2) (updVerd_keeps (ite_both (updVerd_keeps h2) h2)))
            (verdictRun_keeps (updVerd_keeps (ite_both (updVerd_keeps h2) h2)))
      · exact instVerdict_keeps (updJob_keeps h1)
theorem execStatCell_keeps (h : Keeps s0 s) : KeepsOut s0 (execStatCell t dev c s) := by
  unfold execStatCell
  refine keepsOut_next (ite_both (tick_keeps h) ?_)
  split
  · rename_i hs1
    have h1 := takeAny_keeps (tick_keeps h) _ hs1
    exact takeStat_keeps h1
  · exact tick_keeps h
theorem execVerdictDeadline_keeps {slot : Slot} (h : Keeps s0 s) : KeepsOut s0 (execVerdictDeadline t slot s) := by
  unfold execVerdictDeadline
  refine keepsOut_next ?_
  split
  · exact ite_both (tick_keeps h) (verdictRun_keeps (tick_keeps h))
  · exact tick_keeps h
theorem execTwinDecision_keeps (h : Keeps s0 s) : KeepsOut s0 (execTwinDecision t c s) := by
  unfold execTwinDecision
  refine keepsOut_next (ite_both (tick_keeps h) ?_)
  split
  · exact tick_keeps h
  · rename_i hs1
    have h1 := takeTwin_keeps (tick_keeps h) _ hs1
    split
    · exact h1
    · exact ite_both (dropKsf_keeps h1) (ite_both h1 (verdictRun_keeps (updVerd_keeps (openVerd_keeps h1))))
theorem gateMove_keeps (h : Keeps s0 s) : Keeps s0 (gateMove slot s) := by
  unfold gateMove
  dsimp only
  split
  · exact ite_both (updJob_keeps h) h
  · exact ite_both (updJob_keeps h) h
  · exact h
theorem statSend_keeps (h : Keeps s0 s) : Keeps s0 (statSend slot coll s) := by
  unfold statSend
  dsimp only
  split
  · exact ite_both h (ite_both (gateMove_keeps (payStat_keeps h)) (payStat_keeps h))
  · exact ite_both h (ite_both (ite_both h (endInst_keeps h)) (ite_both (ite_both h (gateMove_keeps (instStat_keeps (updInst_keeps h))))
      (ite_both h (ite_both (gateMove_keeps (instStat_keeps (updInst_keeps h))) (endInst_keeps (instStat_keeps (updInst_keeps h)))))))
theorem execStatSend_keeps {slot : Slot} {coll : BitVec 12} (h : Keeps s0 s) : KeepsOut s0 (execStatSend t slot coll s) :=
  keepsOut_next (statSend_keeps (tick_keeps h))
theorem planStep_keeps (h : Keeps s0 s) : Keeps s0 (planStep slot cs s) := foldl_keeps (fun _ _ h1 => runPlanner_keeps h1) h
theorem announce_keeps (h : Keeps s0 s) : Keeps s0 (announce slot simplex s) :=
  ite_both (sendNote_keeps (updJob_keeps (ite_both (setJTwin_keeps h) h))) (ite_both (setJTwin_keeps h) h)
theorem ignoreVerdict_keeps (h : Keeps s0 s) : Keeps s0 (ignoreVerdict slot s) := updJob_keeps h
theorem applyVerdict_keeps (h : Keeps s0 s) : Keeps s0 (applyVerdict slot cs s) := by
  unfold applyVerdict
  split
  · exact h
  · exact ite_both (ignoreVerdict_keeps h) (announce_keeps (ite_both (writeCommit_keeps (ite_both (closeGate_keeps (foldl_keeps (fun _ _ h1
      => jobEvent_keeps h1) (foldl_keeps (fun _ _ h1 => endInst_keeps h1) (planStep_keeps h)))) (foldl_keeps (fun _ _ h1 => jobEvent_keeps
      h1) (foldl_keeps (fun _ _ h1 => endInst_keeps h1) (planStep_keeps h))))) (ite_both (planStep_keeps (ite_both (writeCommit_keeps
      (ite_both (closeAttempt_keeps (rejectAttempt_keeps h)) (rejectAttempt_keeps h))) (ite_both (closeAttempt_keeps (rejectAttempt_keeps
      h)) (rejectAttempt_keeps h)))) (ite_both (writeCommit_keeps (ite_both (closeAttempt_keeps (rejectAttempt_keeps h))
      (rejectAttempt_keeps h))) (ite_both (closeAttempt_keeps (rejectAttempt_keeps h)) (rejectAttempt_keeps h))))))
theorem verdictPart_keeps (h : Keeps s0 s) : Keeps s0 (verdictPart slot c s) := by
  unfold verdictPart
  refine ite_both (ite_both (ignoreVerdict_keeps h) (ite_both (applyVerdict_keeps (updJob_keeps (updJob_keeps h))) (updJob_keeps h))) ?_
  split
  · exact h
  · exact ite_both h (ite_both (updJob_keeps h) (applyVerdict_keeps (updJob_keeps h)))
theorem takeVerdict_keeps (h : Keeps s0 s) : Keeps s0 (takeVerdict c s) := by
  unfold takeVerdict
  split
  · exact h
  · exact ite_both (dropKsf_keeps h) (ite_both h (ite_both (updJob_keeps h) (verdictPart_keeps h)))
theorem execStepVerdict_keeps (h : Keeps s0 s) : KeepsOut s0 (execStepVerdict t c s) := by
  unfold execStepVerdict
  refine keepsOut_next (ite_both (tick_keeps h) ?_)
  split
  · rename_i hs1
    have h1 := takeAny_keeps (tick_keeps h) _ hs1
    exact takeVerdict_keeps h1
  · exact tick_keeps h
theorem takeInstVerdict_keeps (h : Keeps s0 s) : Keeps s0 (takeInstVerdict slot c s) :=
  ite_both (dropKsf_keeps h) (ite_both h (ite_both (updJob_keeps (updJob_keeps h)) (ite_both (runPlanner_keeps (updJob_keeps h))
      (updJob_keeps h))))
theorem execInstanceVerdict_keeps (h : Keeps s0 s) : KeepsOut s0 (execInstanceVerdict t c s) := by
  unfold execInstanceVerdict
  refine keepsOut_next (ite_both (tick_keeps h) ?_)
  split
  · exact tick_keeps h
  · rename_i hs1
    have h1 := takeAny_keeps (tick_keeps h) _ hs1
    split
    · exact h1
    · exact takeInstVerdict_keeps h1
theorem commitAck_keeps (h : Keeps s0 s) : Keeps s0 (commitAck slot s) := by
  unfold commitAck
  dsimp only
  split
  · exact h
  · refine ite_both ?_ ?_
    · refine sendXfer_keeps (setJTwin_keeps (updJob_keeps ?_))
      split
      · exact updJob_keeps h
      · exact markManifest_keeps (updJob_keeps (updJob_keeps h))
    · split
      · exact updJob_keeps h
      · exact markManifest_keeps (updJob_keeps (updJob_keeps h))
theorem execCommitWordAck_keeps {slot : Slot} (h : Keeps s0 s) : KeepsOut s0 (execCommitWordAck t slot s) :=
  keepsOut_next (commitAck_keeps (tick_keeps h))
theorem clipOrder_keeps (h : Keeps s0 s) : Keeps s0 (clipOrder c s) := by
  unfold clipOrder
  split
  · exact h
  · exact ite_both (dropKsf_keeps h) (ite_both h (ite_both (ignoreVerdict_keeps h) (foldl_keeps (fun _ _ h1 => jobEvent_keeps
      (updInst_keeps h1)) (updJob_keeps h))))
theorem execClipOrder_keeps (h : Keeps s0 s) : KeepsOut s0 (execClipOrder t c s) := by
  unfold execClipOrder
  refine keepsOut_next (ite_both (tick_keeps h) ?_)
  split
  · rename_i hs1
    have h1 := takeAny_keeps (tick_keeps h) _ hs1
    exact clipOrder_keeps h1
  · exact tick_keeps h
theorem releaseHold_keeps (h : Keeps s0 s) : Keeps s0 (releaseHold s) :=
  foldl_keeps (fun _ _ h1 => verdictRun_keeps (foldl_keeps (fun _ _ h2 => verdictPart_keeps h2) (updJob_keeps h1))) (foldl_keeps (fun _ _
      h1 => fromFloor_keeps h1) (updClk_keeps h))
theorem execBrownoutHoldEnd_keeps (h : Keeps s0 s) : KeepsOut s0 (execBrownoutHoldEnd t s) :=
  keepsOut_next (ite_both (releaseHold_keeps (tick_keeps h)) (tick_keeps h))

end

/-! ### Admission -/

section
variable {s0 s : State}
variable {slot tile : Nat} {x : Job} {p : Pkg} {g : Grant} {data : List Byte} {ok : Bool} {t : Time} {cmd : HostCmd}

theorem grantTile_keeps (h : Keeps s0 s) : Keeps s0 (grantTile slot x p g s) := updTile_keeps h
theorem clearJobCtrs_keeps (h : Keeps s0 s) : Keeps s0 (clearJobCtrs slot s) := updObs_keeps h
theorem makeJob_keeps (h : Keeps s0 s) : Keeps s0 (makeJob slot x p s) :=
  foldl_keeps (fun _ _ h1 => wakePort_keeps h1) (updFabric_keeps (withJobs_keeps (updJob_keeps (foldl_keeps (fun _ _ h1 => grantTile_keeps
      h1) h))))
theorem jobLoad_keeps {x : Exec} (h : Keeps s0 s) : Keeps s0 (jobLoad x data ok s) := by
  unfold jobLoad
  refine ite_both (refuse_keeps h) ?_
  split
  · exact refuse_keeps h
  · dsimp only
    split
    · exact refuse_keeps h
    · split
      · exact refuse_keeps h
      · exact finish_keeps (hostWrite_keeps (clearJobCtrs_keeps (makeJob_keeps h)))
theorem execJobLoad_keeps (h : Keeps s0 s) : KeepsOut s0 (execJobLoad t cmd s) :=
  keepsOut_next (hostCmd_keeps (fun _ _ h1 => jobLoad_keeps h1) h)
theorem releaseTile_keeps (h : Keeps s0 s) : Keeps s0 (releaseTile slot tile s) := updTile_keeps h
theorem unloadJob_keeps (h : Keeps s0 s) : Keeps s0 (unloadJob slot s) :=
  withJobs_keeps (updFabric_keeps (foldl_keeps (fun _ _ h1 => releaseTile_keeps h1) (jobReset_keeps h)))

end

/-! ### Tides -/

section
variable {s0 s : State}
variable {sub : Nat} {pay : Payload} {len v : Word} {t : Time} {p : Phys} {dev : BitVec 12} {c : Cell} {tide : BitVec 48} {go : Bool}

theorem toCoordinator_keeps (h : Keeps s0 s) : Keeps s0 (toCoordinator sub pay s) := by
  unfold toCoordinator
  split
  · exact sendCtlCell_keeps h
  · exact h
theorem runTideCheck_keeps (h : Keeps s0 s) : Keeps s0 (runTideCheck s) := by
  unfold runTideCheck
  dsimp only
  split
  · exact tideReason_keeps (updTide_keeps (ite_both (foldl_keeps (fun _ _ h1 => ite_both (raiseTile_keeps h1) h1) h) h))
  · exact ite_both (updDev_keeps (ite_both (foldl_keeps (fun _ _ h1 => ite_both (raiseTile_keeps h1) h1) h) h)) (toCoordinator_keeps
      (updTide_keeps (ite_both (foldl_keeps (fun _ _ h1 => ite_both (raiseTile_keeps h1) h1) h) h)))
theorem cancelSwitch_keeps (h : Keeps s0 s) : Keeps s0 (cancelSwitch s) := updTide_keeps h
theorem writeTideCtl_keeps (h : Keeps s0 s) : Keeps s0 (writeTideCtl v s) :=
  ite_both (ite_both h (startCheck_keeps (fun _ h1 => runTideCheck_keeps h1) (updTide_keeps h))) (ite_both (cancelCheck_keeps
      (cancelSwitch_keeps h)) (ite_both (cancelSwitch_keeps (toCoordinator_keeps h)) h))
theorem execTideEnable_keeps (h : Keeps s0 s) : KeepsOut s0 (execTideEnable t v s) :=
  keepsOut_next (bar0_keeps (fun _ h1 => writeTideCtl_keeps h1) h)
theorem execTideDisable_keeps (h : Keeps s0 s) : KeepsOut s0 (execTideDisable t v s) :=
  keepsOut_next (bar0_keeps (fun _ h1 => writeTideCtl_keeps h1) h)
theorem retryTideCheck_keeps (h : Keeps s0 s) : Keeps s0 (retryTideCheck s) := ite_both (runTideCheck_keeps (cancelCheck_keeps h)) h
theorem execOppChangeDone_keeps (h : Keeps s0 s) : KeepsOut s0 (execOppChangeDone t p s) :=
  keepsOut_next (retryTideCheck_keeps (oppDone_keeps (tick_keeps h)))
theorem spareAwake_keeps {p : Nat} (h : Keeps s0 s) : Keeps s0 (spareAwake p s) := by
  unfold spareAwake
  split
  · exact h
  · exact updDev_keeps (updIsland_keeps h)
theorem execIslandWakeDone_keeps (h : Keeps s0 s) : KeepsOut s0 (execIslandWakeDone t p s) := by
  unfold execIslandWakeDone
  refine keepsOut_next (ite_both (tick_keeps h) (retryTideCheck_keeps (spareAwake_keeps ?_)))
  split
  · exact pilotRestart_keeps (updIsland_keeps (tick_keeps h))
  · exact updIsland_keeps (tick_keeps h)
theorem execTideReady_keeps (h : Keeps s0 s) : KeepsOut s0 (execTideReady t dev c s) := by
  unfold execTideReady
  refine keepsOut_next (ite_both (tick_keeps h) ?_)
  split
  · rename_i hs1
    have h1 := takeTwin_keeps (tick_keeps h) _ hs1
    exact updTide_keeps h1
  · split
    · rename_i hs1
      have h1 := takeAny_keeps (tick_keeps h) _ hs1
      exact updTide_keeps h1
    · exact tick_keeps h
theorem execTideWithdraw_keeps (h : Keeps s0 s) : KeepsOut s0 (execTideWithdraw t dev c s) := by
  unfold execTideWithdraw
  refine keepsOut_next (ite_both (tick_keeps h) ?_)
  split
  · rename_i hs1
    have h1 := takeAny_keeps (tick_keeps h) _ hs1
    exact updTide_keeps h1
  · exact tick_keeps h
theorem decide_keeps (h : Keeps s0 s) : Keeps s0 (decide_ tide len go s) := sendCtlCell_keeps (updTide_keeps h)
theorem tideDecision_keeps (h : Keeps s0 s) : Keeps s0 (tideDecision s) := by
  unfold tideDecision
  split
  · exact h
  · refine ite_both h ?_
    dsimp only
    split
    · exact decide_keeps h
    · split
      · exact decide_keeps (ite_both (sendTwin_keeps (updTide_keeps h)) h)
      · exact decide_keeps (ite_both (sendTwin_keeps (updTide_keeps h)) h)
      · exact ite_both (ite_both (sendTwin_keeps (updTide_keeps h)) h) (decide_keeps (ite_both (sendTwin_keeps (updTide_keeps h)) h))
theorem execTideDecision_keeps (h : Keeps s0 s) : KeepsOut s0 (execTideDecision t s) := keepsOut_next (tideDecision_keeps (tick_keeps h))
theorem execTideGo_keeps (h : Keeps s0 s) : KeepsOut s0 (execTideGo t c s) := by
  unfold execTideGo
  refine keepsOut_next (ite_both (tick_keeps h) ?_)
  split
  · exact tick_keeps h
  · rename_i hs1
    have h1 := takeAny_keeps (tick_keeps h) _ hs1
    exact ite_both (updTide_keeps h1) h1
theorem execTideCancel_keeps (h : Keeps s0 s) : KeepsOut s0 (execTideCancel t c s) := by
  unfold execTideCancel
  refine keepsOut_next (ite_both (tick_keeps h) ?_)
  split
  · exact tick_keeps h
  · rename_i hs1
    have h1 := takeAny_keeps (tick_keeps h) _ hs1
    exact ite_both (tideReason_keeps (cancelSwitch_keeps h1)) h1
theorem execTideGoDeadline_keeps (h : Keeps s0 s) : KeepsOut s0 (execTideGoDeadline t s) :=
  keepsOut_next (ite_both (tideReason_keeps (cancelSwitch_keeps (tick_keeps h))) (tick_keeps h))
theorem bankSwitch_keeps (h : Keeps s0 s) : Keeps s0 (bankSwitch s) := by
  unfold bankSwitch
  exact updTide_keeps h
theorem execTideBankSwitch_keeps (h : Keeps s0 s) : KeepsOut s0 (execTideBankSwitch t s) :=
  keepsOut_next (ite_both (bankSwitch_keeps (tick_keeps h)) (tick_keeps h))
theorem execTideHoldEnd_keeps (h : Keeps s0 s) : KeepsOut s0 (execTideHoldEnd t s) :=
  keepsOut_next (ite_both (updTide_keeps (tick_keeps h)) (tick_keeps h))

end

/-! ### Job commands -/

section
variable {s0 s : State}
variable {code slot st : Nat} {tw : JTwin} {notice unload : Bool} {x : Exec} {t : Time} {cmd : HostCmd} {ops : List Nat} {data : List Byte}

theorem startJob_keeps (h : Keeps s0 s) : Keeps s0 (startJob slot tw notice s) :=
  foldl_keeps (fun _ _ h1 => raiseTile_keeps h1) (ite_both (sendNote_keeps (updJob_keeps (setJTwin_keeps (updJob_keeps h))))
      (setJTwin_keeps (updJob_keeps h)))
theorem decideStart_keeps (h : Keeps s0 s) : Keeps s0 (decideStart slot tw notice s) := by
  unfold decideStart
  dsimp only
  split
  · exact finish_keeps (startJob_keeps h)
  · exact startJob_keeps h
theorem jobStart_keeps (h : Keeps s0 s) : Keeps s0 (jobStart x s) := by
  unfold jobStart
  split
  · exact refuse_keeps h
  · exact ite_both (refuse_keeps h) (ite_both (refuse_keeps h) (ite_both (refuse_keeps h) (ite_both (sendNote_keeps (updJob_keeps
      (beginExec_keeps (updJob_keeps h)))) (decideStart_keeps (beginExec_keeps (updJob_keeps h))))))
theorem execJobStart_keeps (h : Keeps s0 s) : KeepsOut s0 (execJobStart t cmd s) :=
  keepsOut_next (hostCmd_keeps (fun _ _ h1 => jobStart_keeps h1) h)
theorem failCmds_keeps (h : Keeps s0 s) : Keeps s0 (failCmds slot ops st code s) :=
  foldl_keeps (fun _ _ h1 => ite_both (refuse_keeps h1) (finish_keeps h1)) h
theorem stopVerdict_keeps (h : Keeps s0 s) : Keeps s0 (stopVerdict slot s) := by
  unfold stopVerdict
  refine ite_both h ?_
  dsimp only
  split
  · exact ite_both (openVerd_keeps h) (ite_both (sendVerdict_keeps (openVerd_keeps h)) (sendVerdict_keeps (sendDecision_keeps
      (openVerd_keeps h))))
  · exact openVerd_keeps h
theorem stopReplay_keeps (h : Keeps s0 s) : Keeps s0 (stopReplay slot s) := by
  unfold stopReplay
  split
  · exact h
  · exact finish_keeps (endReplay_keeps h)
theorem stopJob_keeps (h : Keeps s0 s) : Keeps s0 (stopJob slot unload s) :=
  updJob_keeps (jobReset_keeps (dropAttempt_keeps (foldl_keeps (fun _ _ h1 => abortInst_keeps h1) (stopVerdict_keeps (uncompareJob_keeps
      (ite_both (abortXfer_keeps (failCmds_keeps (stopReplay_keeps h))) (failCmds_keeps (stopReplay_keeps h))))))))
theorem jobStop_keeps (h : Keeps s0 s) : Keeps s0 (jobStop x s) := by
  unfold jobStop
  dsimp only
  split
  · exact refuse_keeps h
  · split
    · exact beginExec_keeps (stopJob_keeps h)
    · exact finish_keeps (unloadJob_keeps (failCmds_keeps h))
    · exact finish_keeps (unloadJob_keeps (failCmds_keeps h))
    · exact refuse_keeps h
theorem execJobStop_keeps (h : Keeps s0 s) : KeepsOut s0 (execJobStop t cmd s) :=
  keepsOut_next (hostCmd_keeps (fun _ _ h1 => jobStop_keeps h1) h)
theorem jobStopped_keeps (h : Keeps s0 s) : Keeps s0 (jobStopped slot s) := by
  unfold jobStopped
  refine ite_both h ?_
  dsimp only
  split
  · exact finish_keeps (ite_both (unloadJob_keeps (updJob_keeps h)) (updJob_keeps h))
  · exact ite_both (unloadJob_keeps (updJob_keeps h)) (updJob_keeps h)
theorem execJobStopped_keeps {slot : Slot} (h : Keeps s0 s) : KeepsOut s0 (execJobStopped t slot s) :=
  keepsOut_next (jobStopped_keeps (tick_keeps h))
theorem jobQuota_keeps (h : Keeps s0 s) : Keeps s0 (jobQuota x s) := by
  unfold jobQuota
  dsimp only
  split
  · exact refuse_keeps h
  · exact ite_both (refuse_keeps h) (ite_both (refuse_keeps h) (ite_both (refuse_keeps h) (ite_both (refuse_keeps h) (ite_both
      (refuse_keeps h) (finish_keeps (ite_both h (updJob_keeps h)))))))
theorem execJobQuota_keeps (h : Keeps s0 s) : KeepsOut s0 (execJobQuota t cmd s) :=
  keepsOut_next (hostCmd_keeps (fun _ _ h1 => jobQuota_keeps h1) h)
theorem collDefine_keeps (h : Keeps s0 s) : Keeps s0 (collDefine x data s) := by
  unfold collDefine
  dsimp only
  split
  · exact refuse_keeps h
  · refine ite_both (refuse_keeps h) ?_
    split
    · exact refuse_keeps h
    · exact finish_keeps (updJob_keeps h)
theorem execCollDefine_keeps (h : Keeps s0 s) : KeepsOut s0 (execCollDefine t cmd s) :=
  keepsOut_next (hostCmd_keeps (fun _ _ h1 => collDefine_keeps h1) h)
theorem tideLoad_keeps (h : Keeps s0 s) : Keeps s0 (tideLoad x data s) :=
  ite_both (refuse_keeps h) (ite_both (refuse_keeps h) (ite_both (refuse_keeps h) (ite_both (refuse_keeps h) (ite_both (refuse_keeps h)
      (finish_keeps (updTide_keeps h))))))
theorem execTideLoad_keeps (h : Keeps s0 s) : KeepsOut s0 (execTideLoad t cmd s) :=
  keepsOut_next (hostCmd_keeps (fun _ _ h1 => tideLoad_keeps h1) h)

end

/-! ### State access -/

section
variable {s0 s : State}
variable {slot : Nat} {d : BitVec 512} {bs data : List Byte} {x : Exec} {t : Time} {cmd : HostCmd} {lost ok peerLost : Bool}
variable {peers : List ShardIn}

theorem writeTarget_keeps (h : Keeps s0 s) : Keeps s0 (writeTarget slot d bs s) := ite_both (writeOperand_keeps h) (updJob_keeps h)
theorem stateWrite_keeps (h : Keeps s0 s) : Keeps s0 (stateWrite x data s) := by
  unfold stateWrite
  dsimp only
  split
  · exact refuse_keeps h
  · refine ite_both (refuse_keeps h) ?_
    split
    · exact refuse_keeps h
    · exact ite_both h (ite_both (beginExec_keeps (updJob_keeps h)) (finish_keeps (writeTarget_keeps h)))
theorem execStateWrite_keeps (h : Keeps s0 s) : KeepsOut s0 (execStateWrite t cmd s) :=
  keepsOut_next (hostCmd_keeps (fun _ _ h1 => stateWrite_keeps h1) h)
theorem stateRead_keeps (h : Keeps s0 s) : Keeps s0 (stateRead x ok s) := by
  unfold stateRead
  dsimp only
  split
  · exact refuse_keeps h
  · refine ite_both (refuse_keeps h) ?_
    split
    · exact refuse_keeps h
    · exact finish_keeps (writeBuffer_keeps h)
theorem execStateRead_keeps (h : Keeps s0 s) : KeepsOut s0 (execStateRead t cmd s) :=
  keepsOut_next (hostCmd_keeps (fun _ _ h1 => stateRead_keeps h1) h)
theorem shardEncode_keeps (h : Keeps s0 s) : Keeps s0 (shardEncode x data peers lost s) := by
  unfold shardEncode
  dsimp only
  split
  · exact refuse_keeps h
  · refine ite_both (refuse_keeps h) ?_
    split
    · exact refuse_keeps h
    · exact ite_both (ite_both (finish_keeps h) (finish_keeps h)) (ite_both (finish_keeps h) (ite_both (finish_keeps h) (finish_keeps
        (updJob_keeps h))))
theorem execShardEncode_keeps (h : Keeps s0 s) : KeepsOut s0 (execShardEncode t cmd peers lost s) :=
  keepsOut_next (hostCmd_keeps (fun _ _ h1 => shardEncode_keeps h1) h)
theorem shardRebuild_keeps (h : Keeps s0 s) : Keeps s0 (shardRebuild x data peers peerLost s) := by
  unfold shardRebuild
  dsimp only
  split
  · exact refuse_keeps h
  · refine ite_both (refuse_keeps h) (ite_both (refuse_keeps h) ?_)
    split
    · exact refuse_keeps h
    · refine ite_both (finish_keeps h) (ite_both (finish_keeps h) (ite_both (refuse_keeps h) (ite_both (finish_keeps h) ?_)))
      split
      · exact refuse_keeps h
      · exact finish_keeps (updJob_keeps h)
theorem execShardRebuild_keeps (h : Keeps s0 s) : KeepsOut s0 (execShardRebuild t cmd peers lost s) :=
  keepsOut_next (hostCmd_keeps (fun _ _ h1 => shardRebuild_keeps h1) h)

end

/-! ### Collectives -/

section
variable {s0 s : State}
variable {code coll epoch num port pos role slot tile : Nat} {b : BitVec 256} {c : Cell} {f : Chunk → Chunk} {m : Member}
variable {deadline start t : Time} {depoch : Word} {late : Bool}

theorem toIq_keeps (h : Keeps s0 s) : Keeps s0 (toIq tile slot b c s) := by
  unfold toIq
  split
  · exact bump_keeps h
  · refine ite_both (tileCause_keeps (bump_keeps h)) ?_
    split
    · rename_i hs1
      have h1 := allocSched_keeps h _ _ hs1
      exact tileCause_keeps h1
    · rename_i hs1
      have h1 := allocSched_keeps h _ _ hs1
      exact bumpMax_keeps (bump_keeps (updTile_keeps h1))
theorem toRole_keeps (h : Keeps s0 s) : Keeps s0 (toRole tile slot role c s) := by
  unfold toRole
  split
  · exact bump_keeps h
  · exact toIq_keeps h
theorem settle_keeps (h : Keeps s0 s) : Keeps s0 (settle tile slot coll s) :=
  foldl_keeps (fun _ _ h1 => tileEvent_keeps h1) (ite_both (updInst_keeps (updInst_keeps h)) (updInst_keeps h))
theorem updChunk_keeps (h : Keeps s0 s) : Keeps s0 (updChunk slot coll num f s) := updInst_keeps h
theorem homeCell_keeps (h : Keeps s0 s) : Keeps s0 (homeCell tile slot b c s) := by
  unfold homeCell
  dsimp only
  split
  · exact toIq_keeps h
  · exact ite_both (tileCause_keeps h) (ite_both (toIq_keeps h) (settle_keeps (updChunk_keeps (ite_both (tileCause_keeps h) (toIq_keeps
      h)))))
theorem sumCell_keeps (h : Keeps s0 s) : Keeps s0 (sumCell tile slot c s) := by
  unfold sumCell
  dsimp only
  split
  · exact bump_keeps h
  · exact ite_both (homeCell_keeps h) (toIq_keeps h)
theorem updMember_keeps {f : Member → Member} (h : Keeps s0 s) : Keeps s0 (updMember slot coll port f s) := updInst_keeps h
theorem orderFault_keeps (h : Keeps s0 s) : Keeps s0 (orderFault port slot c s) := tileCause_keeps (updJob_keeps h)
theorem digestContribution_keeps (h : Keeps s0 s) : Keeps s0 (digestContribution slot port m c s) := by
  unfold digestContribution
  dsimp only
  split
  · exact ite_both (updTile_keeps h) (updJob_keeps h)
  · exact h
theorem ingressCell_keeps (h : Keeps s0 s) : Keeps s0 (ingressCell port slot pos c s) := by
  unfold ingressCell
  dsimp only
  split
  · exact orderFault_keeps h
  · refine ite_both (orderFault_keeps h) ?_
    split
    · exact toIq_keeps (updMember_keeps (digestContribution_keeps h))
    · exact sumCell_keeps (updMember_keeps (digestContribution_keeps h))
theorem dropDown_keeps (h : Keeps s0 s) : Keeps s0 (dropDown c s) := markCellInc_keeps h
theorem contribution_keeps (h : Keeps s0 s) : Keeps s0 (contribution port c s) := by
  unfold contribution
  split
  · exact h
  · refine ite_both (bump_keeps h) (ite_both (bump_keeps h) (ite_both (dropDown_keeps h) (ite_both ((judge_keeps h).snd) ?_)))
    split
    · exact ingressCell_keeps ((judge_keeps h).snd)
    · exact orderFault_keeps ((judge_keeps h).snd)
    · exact sumCell_keeps ((judge_keeps h).snd)
theorem execContributionCell_keeps {port : Port} (h : Keeps s0 s) : KeepsOut s0 (execContributionCell t port c s) := by
  unfold execContributionCell
  refine keepsOut_next (ite_both (tick_keeps h) ?_)
  split
  · exact tick_keeps h
  · rename_i hs1
    have h1 := takeRx_keeps (tick_keeps h) _ hs1
    exact contribution_keeps h1
theorem partialAt_keeps (h : Keeps s0 s) : Keeps s0 (partialAt tile c s) := by
  unfold partialAt
  split
  · exact h
  · exact ite_both (bump_keeps h) (ite_both (dropDown_keeps h) (ite_both (sumCell_keeps ((judge_keeps h).snd)) ((judge_keeps h).snd)))
theorem execPartialCell_keeps {tile : LTile} (h : Keeps s0 s) : KeepsOut s0 (execPartialCell t tile c s) := by
  unfold execPartialCell
  refine keepsOut_next (ite_both (tick_keeps h) ?_)
  split
  · exact tick_keeps h
  · rename_i hs1
    have h1 := takeTile_keeps (tick_keeps h) _ hs1
    exact partialAt_keeps h1
theorem dropRecord_keeps (h : Keeps s0 s) : Keeps s0 (dropRecord port slot c s) := tileCause_keeps (updJob_keeps h)
theorem endRecord_keeps (h : Keeps s0 s) : Keeps s0 (endRecord slot c s) := updInst_keeps h
theorem recordBegins_keeps (h : Keeps s0 s) : Keeps s0 (recordBegins port slot c s) :=
  ite_both (dropRecord_keeps (updMember_keeps h)) (ite_both (toRole_keeps (updMember_keeps (endRecord_keeps h))) (ite_both (toRole_keeps
      (updMember_keeps h)) (updMember_keeps h)))
theorem fragment_keeps (h : Keeps s0 s) : Keeps s0 (fragment port slot m c s) :=
  ite_both (orderFault_keeps h) (ite_both (dropRecord_keeps h) (ite_both (recordBegins_keeps (ite_both h (dropRecord_keeps h))) (ite_both h
      (ite_both (dropRecord_keeps (updMember_keeps h)) (ite_both (foldl_keeps (fun _ _ h1 => toRole_keeps h1) (updMember_keeps h))
      (updMember_keeps h))))))
theorem shuffleIn_keeps (h : Keeps s0 s) : Keeps s0 (shuffleIn port c s) := by
  unfold shuffleIn
  split
  · exact h
  · refine ite_both (bump_keeps h) (ite_both (bump_keeps h) (ite_both (dropDown_keeps h) (ite_both ((judge_keeps h).snd) ?_)))
    split
    · exact fragment_keeps ((judge_keeps h).snd)
    · exact orderFault_keeps ((judge_keeps h).snd)
theorem execShuffleFragment_keeps {port : Port} (h : Keeps s0 s) : KeepsOut s0 (execShuffleFragment t port c s) := by
  unfold execShuffleFragment
  refine keepsOut_next (ite_both (tick_keeps h) ?_)
  split
  · exact tick_keeps h
  · rename_i hs1
    have h1 := takeRx_keeps (tick_keeps h) _ hs1
    exact shuffleIn_keeps h1
theorem gather_keeps (h : Keeps s0 s) : Keeps s0 (gather tile slot c s) :=
  ite_both (endRecord_keeps h) (ite_both h (ite_both h (ite_both (foldl_keeps (fun _ _ h1 => toRole_keeps h1) (updInst_keeps h))
      (updInst_keeps h))))
theorem egress_keeps (h : Keeps s0 s) : Keeps s0 (egress tile c s) := by
  unfold egress
  split
  · exact h
  · exact ite_both (bump_keeps h) (ite_both (dropDown_keeps h) (ite_both ((judge_keeps h).snd) (ite_both (gather_keeps ((judge_keeps
      h).snd)) (ite_both (toRole_keeps (updInst_keeps ((judge_keeps h).snd))) (toRole_keeps ((judge_keeps h).snd))))))
theorem execEgressCell_keeps {tile : LTile} (h : Keeps s0 s) : KeepsOut s0 (execEgressCell t tile c s) := by
  unfold execEgressCell
  refine keepsOut_next (ite_both (tick_keeps h) ?_)
  split
  · exact tick_keeps h
  · rename_i hs1
    have h1 := takeTile_keeps (tick_keeps h) _ hs1
    exact egress_keeps h1
theorem freshOnTile_keeps (h : Keeps s0 s) : Keeps s0 (freshOnTile slot coll tile s) := updTile_keeps h
theorem startInst_keeps (h : Keeps s0 s) : Keeps s0 (startInst slot coll epoch start deadline depoch s) :=
  jobEvent_keeps (foldl_keeps (fun _ _ h1 => freshOnTile_keeps h1) (updTwin_keeps (updJob_keeps (updJob_keeps (payStat_keeps h)))))
theorem setVerdictDeadline_keeps (h : Keeps s0 s) : Keeps s0 (setVerdictDeadline slot s) := ite_both h (updVerd_keeps (openVerd_keeps h))
theorem biasRecord_keeps (h : Keeps s0 s) : Keeps s0 (biasRecord slot s) := ite_both h (updJob_keeps h)
theorem openAttempt_keeps (h : Keeps s0 s) : Keeps s0 (openAttempt slot s) := ite_both h (biasRecord_keeps (updJob_keeps h))
theorem countFiring_keeps (h : Keeps s0 s) : Keeps s0 (countFiring slot pos deadline s) := setVerdictDeadline_keeps (updJob_keeps h)
theorem refuseFiring_keeps (h : Keeps s0 s) : Keeps s0 (refuseFiring slot coll epoch code s) :=
  ite_both (updJob_keeps h) (sendStat_keeps (updJob_keeps h))
theorem fire_keeps (h : Keeps s0 s) : Keeps s0 (fire slot coll epoch start depoch late s) := by
  unfold fire
  refine ite_both h (ite_both (updJob_keeps h) ?_)
  dsimp only
  split
  · split
    · exact refuseFiring_keeps h
    · exact startInst_keeps h
  · refine ite_both (refuseFiring_keeps (countFiring_keeps (openAttempt_keeps h))) ?_
    split
    · exact gateMove_keeps (refuseFiring_keeps (countFiring_keeps (openAttempt_keeps h)))
    · exact startInst_keeps (countFiring_keeps (openAttempt_keeps h))
theorem execPrearmedFiring_keeps {slot : Slot} {coll : BitVec 12} (h : Keeps s0 s) : KeepsOut s0 (execPrearmedFiring t slot coll s) :=
  keepsOut_next (ite_both (tick_keeps h) (fire_keeps (tick_keeps h)))
theorem launch_keeps (h : Keeps s0 s) : Keeps s0 (launch port c s) := by
  unfold launch
  split
  · exact h
  · exact ite_both h (ite_both (logCode_keeps h) (ite_both (logCode_keeps (updJob_keeps h)) (fire_keeps h)))
theorem execLaunch_keeps {port : Port} (h : Keeps s0 s) : KeepsOut s0 (execLaunch t port c s) := by
  unfold execLaunch
  refine keepsOut_next (ite_both (tick_keeps h) ?_)
  split
  · exact tick_keeps h
  · rename_i hs1
    have h1 := takeRx_keeps (tick_keeps h) _ hs1
    exact launch_keeps h1
theorem lateLimit_keeps (h : Keeps s0 s) : Keeps s0 (lateLimit slot coll s) := by
  unfold lateLimit
  dsimp only
  split
  · exact h
  · exact ite_both h (ite_both (gateMove_keeps (abortInst_keeps (updInst_keeps h))) (abortInst_keeps (updInst_keeps h)))
theorem execLateDeadline_keeps {slot : Slot} {coll : BitVec 12} (h : Keeps s0 s) : KeepsOut s0 (execLateDeadline t slot coll s) :=
  keepsOut_next (lateLimit_keeps (tick_keeps h))

end

/-! ### Observability -/

section
variable {s0 s : State}
variable {addr die k layer mask oper slot tile : Nat} {m : DWord} {t : Time} {cmd : HostCmd} {_v v : Word} {ok verifies : Bool}
variable {code : BitVec 16}

theorem traceMsg_keeps (h : Keeps s0 s) : Keeps s0 (traceMsg tile m s) :=
  ite_both h (ite_both (trcReason_keeps (logCode_keeps (updObs_keeps (updTile_keeps h)))) (updTile_keeps (updObs_keeps h)))
theorem traceDisp_keeps (h : Keeps s0 s) : Keeps s0 (traceDisp tile layer oper slot s) := ite_both (traceMsg_keeps h) h
theorem armDie_keeps (h : Keeps s0 s) : Keeps s0 (armDie die mask s) := foldl_keeps (fun _ _ h1 => updTile_keeps h1) (updObs_keeps h)
theorem execTraceArm_keeps (h : Keeps s0 s) : KeepsOut s0 (execTraceArm t cmd s) :=
  keepsOut_next (hostCmd_keeps (fun _ _ h1 => ite_both h1 (ite_both (refuse_keeps (trcReason_keeps h1)) (finish_keeps (foldl_keeps (fun _ _
      h2 => armDie_keeps h2) h1)))) h)
theorem execTraceStop_keeps (h : Keeps s0 s) : KeepsOut s0 (execTraceStop t cmd s) :=
  keepsOut_next (hostCmd_keeps (fun _ _ h1 => ite_both h1 (ite_both (refuse_keeps (trcReason_keeps h1)) (finish_keeps (updObs_keeps h1))))
      h)
theorem execTraceCopyOut_keeps (h : Keeps s0 s) : KeepsOut s0 (execTraceCopyOut t cmd s) :=
  keepsOut_next (hostCmd_keeps (fun _ _ h1 => ite_both h1 (ite_both (refuse_keeps (trcReason_keeps h1)) (ite_both (refuse_keeps
      (trcReason_keeps h1)) (ite_both (refuse_keeps (trcReason_keeps h1)) (finish_keeps (writeBuffer_keeps h1)))))) h)
theorem writeHwm_keeps (h : Keeps s0 s) : Keeps s0 (writeHwm addr s) := by
  unfold writeHwm
  refine ite_both ?_ h
  dsimp only
  split
  · exact updObs_keeps h
  · exact h
theorem execHwmCounterWrite_keeps {addr : Word} (h : Keeps s0 s) : KeepsOut s0 (execHwmCounterWrite t addr _v s) :=
  keepsOut_next (bar0_keeps (fun _ h1 => writeHwm_keeps h1) h)
theorem writeTrcCtl_keeps (h : Keeps s0 s) : Keeps s0 (writeTrcCtl v s) := updObs_keeps h
theorem execCounterClear_keeps (h : Keeps s0 s) : KeepsOut s0 (execCounterClear t v s) :=
  keepsOut_next (bar0_keeps (fun _ h1 => writeTrcCtl_keeps h1) h)
theorem execAttributionClear_keeps (h : Keeps s0 s) : KeepsOut s0 (execAttributionClear t v s) :=
  keepsOut_next (bar0_keeps (fun _ h1 => writeTrcCtl_keeps h1) h)
theorem writePsel_keeps (h : Keeps s0 s) : Keeps s0 (writePsel k v s) := ite_both (trcReason_keeps h) (updObs_keeps h)
theorem execProfileSelect_keeps {k : Fin 8} (h : Keeps s0 s) : KeepsOut s0 (execProfileSelect t k v s) :=
  keepsOut_next (bar0_keeps (fun _ h1 => writePsel_keeps h1) h)
theorem loadWindow_keeps (h : Keeps s0 s) : Keeps s0 (loadWindow s) := by
  unfold loadWindow
  exact updObs_keeps h
theorem writeCursor_keeps {v : DWord} (h : Keeps s0 s) : Keeps s0 (writeCursor v s) :=
  ite_both (updObs_keeps h) (loadWindow_keeps (updObs_keeps h))
theorem execEvrCursorWrite_keeps {v : DWord} (h : Keeps s0 s) : KeepsOut s0 (execEvrCursorWrite t v s) :=
  keepsOut_next (bar0_keeps (fun _ h1 => writeCursor_keeps h1) h)
theorem execEvrWindowLoaded_keeps (h : Keeps s0 s) : KeepsOut s0 (execEvrWindowLoaded t s) :=
  keepsOut_next (ite_both (tick_keeps h) (loadWindow_keeps (tick_keeps h)))
theorem sealedClear_keeps (h : Keeps s0 s) : Keeps s0 (sealedClear verifies s) :=
  ite_both (evrReason_keeps (logCode_keeps (updObs_keeps h))) (evrReason_keeps (logEv_keeps (ite_both (updObs_keeps (ite_both (updObs_keeps
      (updObs_keeps h)) (updObs_keeps h))) (ite_both (updObs_keeps (updObs_keeps h)) (updObs_keeps h)))))
theorem execSealedClear_keeps (h : Keeps s0 s) : KeepsOut s0 (execSealedClear t v verifies s) :=
  keepsOut_next (bar0_keeps (fun _ h1 => ite_both (sealedClear_keeps h1) h1) h)
theorem execEvrClearEraseDone_keeps (h : Keeps s0 s) : KeepsOut s0 (execEvrClearEraseDone t s) :=
  keepsOut_next (ite_both (updFlash_keeps (updObs_keeps (tick_keeps h))) (tick_keeps h))
theorem execTokenArrival_keeps (h : Keeps s0 s) : KeepsOut s0 (execTokenArrival t code s) := keepsOut_next (withObs_keeps (tick_keeps h))
theorem programRecord_keeps (h : Keeps s0 s) : Keeps s0 (programRecord ok s) := by
  unfold programRecord
  split
  · exact h
  · exact ite_both h (ite_both (evrReason_keeps (logCode_keeps (updFlash_keeps h))) (updObs_keeps (ite_both (updFlash_keeps (updFlash_keeps
      h)) (updFlash_keeps h))))
theorem execFlashRecordProgram_keeps (h : Keeps s0 s) : KeepsOut s0 (execFlashRecordProgram t ok s) :=
  keepsOut_next (programRecord_keeps (tick_keeps h))
theorem execTelemDrain_keeps (h : Keeps s0 s) : KeepsOut s0 (execTelemDrain t cmd s) :=
  keepsOut_next (hostCmd_keeps (fun _ _ h1 => ite_both (refuse_keeps (trcReason_keeps h1)) (ite_both (refuse_keeps h1) (ite_both h1
      (startOut_keeps h1)))) h)

end

/-! ### Dumps -/

section
variable {s0 s : State}
variable {cause tile : Nat} {x : Exec} {ok : Bool} {t : Time} {cmd : HostCmd}

theorem snapshot_keeps (h : Keeps s0 s) : Keeps s0 (snapshot tile cause s) := updTile_keeps (ite_both (trcReason_keeps (logCode_keeps h)) h)
theorem dump_keeps (h : Keeps s0 s) : Keeps s0 (dump x ok s) := by
  unfold dump
  refine ite_both (refuse_keeps h) (ite_both (refuse_keeps (trcReason_keeps h)) (ite_both (refuse_keeps h) (ite_both h ?_)))
  dsimp only
  split
  · exact startOut_keeps (updTile_keeps h)
  · exact startOut_keeps h
theorem execDump_keeps (h : Keeps s0 s) : KeepsOut s0 (execDump t cmd s) := keepsOut_next (hostCmd_keeps (fun _ _ h1 => dump_keeps h1) h)

end

/-! ### Twins -/

section
variable {s0 s : State}
variable {coll note op slot tag : Nat} {c : Cell} {v : Word} {t : Time} {half : Fin 2} {d mine theirs : DigRec} {f : Nat → State → State}
variable {gs : List Nat}

theorem uncompareAll_keeps (h : Keeps s0 s) : Keeps s0 (uncompareAll s) := uncompare_keeps h
theorem leaveMoored_keeps (h : Keeps s0 s) : Keeps s0 (leaveMoored s) := abortXfer_keeps (uncompareAll_keeps h)
theorem enterSimplex_keeps (h : Keeps s0 s) : Keeps s0 (enterSimplex s) :=
    foldl_keeps (fun _ _ h1 => by
    split
    · exact verdictRun_keeps (setJTwin_keeps h1)
    · exact freeze_keeps h1
    · exact h1) (ite_both (retime_keeps (leaveMoored_keeps (twinReason_keeps (logCode_keeps (updTwin_keeps h))))) (leaveMoored_keeps
        (twinReason_keeps (logCode_keeps (updTwin_keeps h)))))
theorem runTwinCheck_keeps (h : Keeps s0 s) : Keeps s0 (runTwinCheck s) :=
  ite_both (twinReason_keeps (updTwin_keeps h)) (ite_both (twinReason_keeps (updTwin_keeps h)) (portGo_keeps (portGo_keeps (updPort_keeps
      (updPort_keeps h)))))
theorem twinOff_keeps (h : Keeps s0 s) : Keeps s0 (twinOff s) := portOff_keeps (portOff_keeps (leaveMoored_keeps (updTwin_keeps h)))
theorem cmdOut_keeps (h : Keeps s0 s) : Keeps s0 (cmdOut s) := by
  unfold cmdOut
  split
  · exact ite_both (goOut_keeps h) (twinReason_keeps h)
  · exact twinReason_keeps h
theorem requestXfer_keeps {tag : BitVec 12} (h : Keeps s0 s) : Keeps s0 (requestXfer tag s) := sendXfer_keeps (updTwin_keeps h)
theorem cmdResync_keeps (h : Keeps s0 s) : Keeps s0 (cmdResync s) := by
  unfold cmdResync
  split
  · exact ite_both (twinReason_keeps h) (ite_both (updTwin_keeps h) (requestXfer_keeps h))
  · exact twinReason_keeps h
theorem cmdRejoin_keeps (h : Keeps s0 s) : Keeps s0 (cmdRejoin s) := by
  unfold cmdRejoin
  split
  · dsimp only
    split
    · exact ite_both (twinReason_keeps h) (updJob_keeps h)
    · exact ite_both (twinReason_keeps h) (updJob_keeps h)
    · exact twinReason_keeps h
  · exact twinReason_keeps h
theorem twinCmd_keeps {c : Nat} (h : Keeps s0 s) : Keeps s0 (twinCmd c s) := by
  unfold twinCmd
  split
  · exact h
  · exact cmdOut_keeps h
  · exact cmdResync_keeps h
  · exact cmdRejoin_keeps h
  · exact twinReason_keeps h
theorem writeTwinCtl_keeps (h : Keeps s0 s) : Keeps s0 (writeTwinCtl v s) :=
  ite_both (ite_both h (cancelCheck_keeps (updTwin_keeps h))) (twinCmd_keeps (ite_both (ite_both h (startCheck_keeps (fun _ h1 =>
      runTwinCheck_keeps h1) (updTwin_keeps h))) (ite_both (twinOff_keeps h) h)))
theorem execTwinEnable_keeps (h : Keeps s0 s) : KeepsOut s0 (execTwinEnable t v s) :=
  keepsOut_next (bar0_keeps (fun _ h1 => writeTwinCtl_keeps h1) h)
theorem execTwinDisable_keeps (h : Keeps s0 s) : KeepsOut s0 (execTwinDisable t v s) :=
  keepsOut_next (bar0_keeps (fun _ h1 => writeTwinCtl_keeps h1) h)
theorem execTwinCmdOut_keeps (h : Keeps s0 s) : KeepsOut s0 (execTwinCmdOut t v s) :=
  keepsOut_next (bar0_keeps (fun _ h1 => writeTwinCtl_keeps h1) h)
theorem execTwinCmdResync_keeps (h : Keeps s0 s) : KeepsOut s0 (execTwinCmdResync t v s) :=
  keepsOut_next (bar0_keeps (fun _ h1 => writeTwinCtl_keeps h1) h)
theorem execTwinCmdRejoin_keeps (h : Keeps s0 s) : KeepsOut s0 (execTwinCmdRejoin t v s) :=
  keepsOut_next (bar0_keeps (fun _ h1 => writeTwinCtl_keeps h1) h)
theorem askAgain_keeps (h : Keeps s0 s) : Keeps s0 (askAgain s) :=
    ite_both h (foldl_keeps (fun _ _ h1 => by
    split
    · exact ite_both (requestMove_keeps h1) h1
    · exact h1) h)
theorem moor_keeps (h : Keeps s0 s) : Keeps s0 (moor c s) := by
  unfold moor
  refine ite_both h ?_
  split
  · exact twinReason_keeps (logCode_keeps h)
  · exact ite_both (askAgain_keeps (ite_both (retime_keeps (updTwin_keeps (ite_both h (foldl_keeps (fun _ _ h1 => updJob_keeps h1) h))))
      (updTwin_keeps (ite_both h (foldl_keeps (fun _ _ h1 => updJob_keeps h1) h))))) (ite_both (retime_keeps (updTwin_keeps (ite_both h
      (foldl_keeps (fun _ _ h1 => updJob_keeps h1) h)))) (updTwin_keeps (ite_both h (foldl_keeps (fun _ _ h1 => updJob_keeps h1) h))))
theorem execMoor_keeps (h : Keeps s0 s) : KeepsOut s0 (execMoor t half c s) := by
  unfold execMoor
  refine keepsOut_next (ite_both (tick_keeps h) ?_)
  split
  · rename_i hs1
    have h1 := takeRx_keeps (tick_keeps h) _ hs1
    exact moor_keeps h1
  · exact tick_keeps h
theorem execMoorTimer_keeps (h : Keeps s0 s) : KeepsOut s0 (execMoorTimer t s) :=
  keepsOut_next (ite_both (tick_keeps h) (foldl_keeps (fun _ _ h1 => ite_both (pushMgmt_keeps h1) h1) (updTwin_keeps (tick_keeps h))))
theorem execMoorTimeout_keeps (h : Keeps s0 s) : KeepsOut s0 (execMoorTimeout t s) :=
  keepsOut_next (ite_both (enterSimplex_keeps (tick_keeps h)) (tick_keeps h))
theorem judgeDig_keeps (h : Keeps s0 s) : Keeps s0 (judgeDig slot mine theirs s) :=
  ite_both (bump_keeps (updTwin_keeps h)) (addPart_keeps (tileCause_keeps (logCode_keeps (twinReason_keeps (updTwin_keeps h)))))
theorem endTheirs_keeps (h : Keeps s0 s) : Keeps s0 (endTheirs slot d s) := foldl_keeps (fun _ _ h1 => bump_keeps h1) (updTwin_keeps h)
theorem takeDig_keeps (h : Keeps s0 s) : Keeps s0 (takeDig d s) := by
  unfold takeDig
  refine ite_both h ?_
  split
  · exact h
  · refine ite_both h (ite_both (endTheirs_keeps h) ?_)
    split
    · exact judgeDig_keeps h
    · exact updTwin_keeps h
theorem openDig_keeps (h : Keeps s0 s) : Keeps s0 (openDig slot d s) := by
  unfold openDig
  refine ite_both (bump_keeps h) ?_
  dsimp only
  split
  · exact judgeDig_keeps (updTwin_keeps (sendDig_keeps (updTwin_keeps h)))
  · exact ite_both (bump_keeps (updTwin_keeps (sendDig_keeps (updTwin_keeps h)))) (sendDig_keeps (updTwin_keeps h))
theorem execDigestCell_keeps (h : Keeps s0 s) : KeepsOut s0 (execDigestCell t c s) := by
  unfold execDigestCell
  refine keepsOut_next (ite_both (tick_keeps h) ?_)
  split
  · rename_i hs1
    have h1 := takeTwin_keeps (tick_keeps h) _ hs1
    exact foldl_keeps (fun _ _ h2 => takeDig_keeps h2) h1
  · exact tick_keeps h
theorem digTimeout_keeps (h : Keeps s0 s) : Keeps s0 (digTimeout slot coll s) := by
  unfold digTimeout
  dsimp only
  split
  · exact h
  · exact ite_both h (foldl_keeps (fun _ _ h1 => bump_keeps h1) (updTwin_keeps h))
theorem execDigestCompareTimeout_keeps {slot : Slot} {coll : BitVec 12} (h : Keeps s0 s) : KeepsOut s0 (execDigestCompareTimeout t slot
    coll s) :=
  keepsOut_next (digTimeout_keeps (tick_keeps h))
theorem takeNote_keeps (h : Keeps s0 s) : KeepsOpt s0 (takeNote note c s) := ite_both keepsOpt_none (takeTwin_keeps h)
theorem noteOut_keeps (h : Keeps s0 s) : Keeps s0 (noteOut slot s) := by
  unfold noteOut
  split
  · exact verdictRun_keeps (setJTwin_keeps h)
  · exact freeze_keeps h
  · exact h
theorem noteServe_keeps (h : Keeps s0 s) : Keeps s0 (noteServe slot s) := by
  unfold noteServe
  split
  · exact goOut_keeps h
  · exact ite_both (goOut_keeps h) h
  · exact goOut_keeps h
  · exact h
theorem noteQuery_keeps (h : Keeps s0 s) : Keeps s0 (noteQuery tag s) := by
  unfold noteQuery
  split <;> exact sendNote_keeps h
theorem noteReply_keeps (h : Keeps s0 s) : Keeps s0 (noteReply slot c s) := by
  unfold noteReply
  dsimp only
  split
  · exact h
  · exact ite_both (decideStart_keeps h) (ite_both (ite_both (decideStart_keeps h) (updJob_keeps h)) (ite_both (decideStart_keeps h)
      (ite_both h (ite_both (decideStart_keeps h) (ite_both (decideStart_keeps h) (decideStart_keeps h))))))
theorem onNoted_keeps (hf : ∀ a0 s, Keeps s0 s → Keeps s0 (f a0 s)) (h : Keeps s0 s) : Keeps s0 (onNoted c f s) := by
  unfold onNoted
  split
  · exact hf _ _ h
  · exact h
theorem execJobnoteOut_keeps (h : Keeps s0 s) : KeepsOut s0 (execJobnoteOut t c s) := by
  unfold execJobnoteOut
  refine keepsOut_next ?_
  split
  · rename_i hs1
    have h1 := takeNote_keeps (tick_keeps h) _ hs1
    exact onNoted_keeps (fun _ _ h2 => noteOut_keeps h2) h1
  · exact tick_keeps h
theorem execJobnoteServe_keeps (h : Keeps s0 s) : KeepsOut s0 (execJobnoteServe t c s) := by
  unfold execJobnoteServe
  refine keepsOut_next ?_
  split
  · rename_i hs1
    have h1 := takeNote_keeps (tick_keeps h) _ hs1
    exact onNoted_keeps (fun _ _ h2 => noteServe_keeps h2) h1
  · exact tick_keeps h
theorem execJobnoteQuery_keeps (h : Keeps s0 s) : KeepsOut s0 (execJobnoteQuery t c s) := by
  unfold execJobnoteQuery
  refine keepsOut_next ?_
  split
  · rename_i hs1
    have h1 := takeNote_keeps (tick_keeps h) _ hs1
    exact noteQuery_keeps h1
  · exact tick_keeps h
theorem execJobnoteReply_keeps (h : Keeps s0 s) : KeepsOut s0 (execJobnoteReply t c s) := by
  unfold execJobnoteReply
  refine keepsOut_next ?_
  split
  · rename_i hs1
    have h1 := takeNote_keeps (tick_keeps h) _ hs1
    exact onNoted_keeps (fun _ _ h2 => noteReply_keeps h2) h1
  · exact tick_keeps h
theorem queryTimeout_keeps (h : Keeps s0 s) : Keeps s0 (queryTimeout slot s) := by
  unfold queryTimeout
  dsimp only
  split
  · exact h
  · exact ite_both h (ite_both (sendNote_keeps (updJob_keeps h)) (decideStart_keeps h))
theorem execQueryTimeout_keeps {slot : Slot} (h : Keeps s0 s) : KeepsOut s0 (execQueryTimeout t slot s) :=
  keepsOut_next (queryTimeout_keeps (tick_keeps h))
theorem sendPass_keeps (h : Keeps s0 s) : Keeps s0 (sendPass slot gs s) :=
  foldl_keeps (fun _ _ h1 => foldl_keeps (fun _ _ h2 => ite_both (sendTwin_keeps h2) h2) h1) (updJob_keeps h)
theorem takeXfer_keeps (h : Keeps s0 s) : KeepsOpt s0 (takeXfer op c s) := ite_both keepsOpt_none (takeTwin_keeps h)
theorem grantXfer_keeps (h : Keeps s0 s) : Keeps s0 (grantXfer tag s) := by
  unfold grantXfer
  split
  · exact ite_both h (sendXfer_keeps (updTwin_keeps (updJob_keeps h)))
  · exact h
theorem xferReq_keeps (h : Keeps s0 s) : Keeps s0 (xferReq tag s) := by
  unfold xferReq
  split
  · exact grantXfer_keeps h
  · exact ite_both h (grantXfer_keeps (twinReason_keeps (logCode_keeps (sendXfer_keeps (updTwin_keeps h)))))
theorem execXferReq_keeps (h : Keeps s0 s) : KeepsOut s0 (execXferReq t c s) := by
  unfold execXferReq
  refine keepsOut_next ?_
  split
  · rename_i hs1
    have h1 := takeXfer_keeps (tick_keeps h) _ hs1
    exact ite_both (xferReq_keeps h1) h1
  · exact tick_keeps h
theorem xferGrant_keeps (h : Keeps s0 s) : Keeps s0 (xferGrant tag s) := by
  unfold xferGrant
  split
  · exact ite_both h (sendPass_keeps (updTwin_keeps h))
  · exact h
theorem execXferGrant_keeps (h : Keeps s0 s) : KeepsOut s0 (execXferGrant t c s) := by
  unfold execXferGrant
  refine keepsOut_next ?_
  split
  · rename_i hs1
    have h1 := takeXfer_keeps (tick_keeps h) _ hs1
    exact xferGrant_keeps h1
  · exact tick_keeps h
theorem execXferWithdraw_keeps (h : Keeps s0 s) : KeepsOut s0 (execXferWithdraw t c s) := by
  unfold execXferWithdraw
  refine keepsOut_next ?_
  split
  · rename_i hs1
    have h1 := takeXfer_keeps (tick_keeps h) _ hs1
    exact h1
  · exact tick_keeps h
theorem xferRejoin_keeps (h : Keeps s0 s) : Keeps s0 (xferRejoin slot s) := ite_both (setJTwin_keeps (updJob_keeps h)) h
theorem execXferRejoin_keeps (h : Keeps s0 s) : KeepsOut s0 (execXferRejoin t c s) := by
  unfold execXferRejoin
  refine keepsOut_next ?_
  split
  · rename_i hs1
    have h1 := takeXfer_keeps (tick_keeps h) _ hs1
    exact onNoted_keeps (fun _ _ h2 => xferRejoin_keeps h2) h1
  · exact tick_keeps h
theorem xferFreed_keeps (h : Keeps s0 s) : Keeps s0 (xferFreed s) := by
  unfold xferFreed
  split
  · exact h
  · split
    · exact ite_both (requestXfer_keeps h) (updTwin_keeps h)
    · exact updTwin_keeps h
theorem xferEnd_keeps (h : Keeps s0 s) : Keeps s0 (xferEnd tag s) := by
  unfold xferEnd
  split
  · refine ite_both h (xferFreed_keeps ?_)
    split
    · exact updJob_keeps (updTwin_keeps h)
    · exact updTwin_keeps h
  · exact h
theorem execXferEnd_keeps (h : Keeps s0 s) : KeepsOut s0 (execXferEnd t c s) := by
  unfold execXferEnd
  refine keepsOut_next ?_
  split
  · rename_i hs1
    have h1 := takeXfer_keeps (tick_keeps h) _ hs1
    exact xferEnd_keeps h1
  · exact tick_keeps h
theorem copy_keeps (h : Keeps s0 s) : Keeps s0 (copy c s) := by
  unfold copy
  split
  · refine ite_both h ?_
    split
    · exact h
    · exact updTwin_keeps (updJob_keeps h)
  · exact h
theorem execCopy_keeps (h : Keeps s0 s) : KeepsOut s0 (execCopy t c s) := by
  unfold execCopy
  refine keepsOut_next (ite_both (tick_keeps h) ?_)
  split
  · rename_i hs1
    have h1 := takeTwin_keeps (tick_keeps h) _ hs1
    exact copy_keeps h1
  · exact tick_keeps h
theorem passEnd_keeps (h : Keeps s0 s) : Keeps s0 (passEnd s) := by
  unfold passEnd
  split
  · exact h
  · split
    · exact h
    · exact ite_both (ite_both h (ite_both (xferFreed_keeps (sendXfer_keeps (updJob_keeps (updTwin_keeps h)))) (sendPass_keeps
        (updTwin_keeps h)))) (ite_both h (ite_both (updJob_keeps (updTwin_keeps h)) (updTwin_keeps h)))
theorem execResyncPassEnd_keeps (h : Keeps s0 s) : KeepsOut s0 (execResyncPassEnd t s) := keepsOut_next (passEnd_keeps (tick_keeps h))

end

/-! ### Firmware -/

section
variable {s0 s : State}
variable {x : Exec} {data : List Byte} {t : Time} {cmd : HostCmd} {pc programmed started verifies : Bool} {c : WaitCheck}

theorem fwStage_keeps (h : Keeps s0 s) : Keeps s0 (fwStage x data s) :=
  ite_both (refuse_keeps h) (ite_both (refuse_keeps (updFlash_keeps h)) (beginExec_keeps (updFlash_keeps h)))
theorem execFwStage_keeps (h : Keeps s0 s) : KeepsOut s0 (execFwStage t cmd s) :=
  keepsOut_next (hostCmd_keeps (fun _ _ h1 => fwStage_keeps h1) h)
theorem fwStageDone_keeps (h : Keeps s0 s) : Keeps s0 (fwStageDone programmed verifies s) := by
  unfold fwStageDone
  split
  · exact ite_both (finish_keeps (updFlash_keeps h)) (ite_both (finish_keeps (updFlash_keeps h)) (finish_keeps (updFlash_keeps
      (updFlash_keeps h))))
  · exact h
theorem execFwStageDone_keeps (h : Keeps s0 s) : KeepsOut s0 (execFwStageDone t programmed verifies s) :=
  keepsOut_next (fwStageDone_keeps (tick_keeps h))
theorem fwActivate_keeps (h : Keeps s0 s) : Keeps s0 (fwActivate x s) := by
  unfold fwActivate
  dsimp only
  split
  · exact refuse_keeps h
  · exact beginExec_keeps (updFlash_keeps h)
theorem execFwActivate_keeps (h : Keeps s0 s) : KeepsOut s0 (execFwActivate t cmd s) :=
  keepsOut_next (hostCmd_keeps (fun _ _ h1 => fwActivate_keeps h1) h)
theorem commitImage_keeps (h : Keeps s0 s) : Keeps s0 (commitImage pc s) := by
  unfold commitImage
  exact updFlash_keeps (updDev_keeps h)
theorem restartPilots_keeps (h : Keeps s0 s) : Keeps s0 (restartPilots s) :=
    foldl_keeps (fun _ _ h1 => by
    split
    · exact ite_both (pilotRestart_keeps h1) h1
    · exact h1) h
theorem fwActivation_keeps (h : Keeps s0 s) : Keeps s0 (fwActivation started s) := by
  unfold fwActivation
  split
  · exact ite_both h (ite_both (ite_both (finish_keeps (commitImage_keeps (restartPilots_keeps (updFlash_keeps h)))) (finish_keeps
      (restartPilots_keeps (updFlash_keeps h)))) (enterRestart_keeps (updFlash_keeps h)))
  · exact h
theorem execFwActivation_keeps (h : Keeps s0 s) : KeepsOut s0 (execFwActivation t started s) :=
  keepsOut_next (fwActivation_keeps (tick_keeps h))
theorem activationTimeout_keeps (h : Keeps s0 s) : Keeps s0 (activationTimeout s) := by
  unfold activationTimeout
  split
  · exact ite_both h (finish_keeps (updFlash_keeps h))
  · exact h
theorem execActivationTimeout_keeps (h : Keeps s0 s) : KeepsOut s0 (execActivationTimeout t s) :=
  keepsOut_next (activationTimeout_keeps (tick_keeps h))
theorem execHarbourmasterRestart_keeps (h : Keeps s0 s) : KeepsOut s0 (execHarbourmasterRestart t s) :=
  keepsOut_next (hmRestart_keeps (tick_keeps h))
theorem runWaiting_keeps (h : Keeps s0 s) : Keeps s0 (runWaiting c s) := by
  unfold runWaiting
  split
  · exact runDevCheck_keeps h
  · exact runPortCheck_keeps h
  · exact runRingCheck_keeps h
  · exact runTideCheck_keeps h
  · exact runTwinCheck_keeps h
theorem restartEnd_keeps (h : Keeps s0 s) : Keeps s0 (restartEnd s) := by
  unfold restartEnd
  refine ite_both h (foldl_keeps (fun _ _ h1 => runWaiting_keeps h1) (foldl_keeps (fun _ _ h1 => flushRing_keeps h1) ?_))
  split
  · exact finish_keeps (commitImage_keeps (updFlash_keeps (foldl_keeps (fun _ _ h1 => ite_both (updRing_keeps h1) h1) (updDev_keeps h))))
  · exact foldl_keeps (fun _ _ h1 => ite_both (updRing_keeps h1) h1) (updDev_keeps h)
theorem execHarbourmasterRestartEnd_keeps (h : Keeps s0 s) : KeepsOut s0 (execHarbourmasterRestartEnd t s) :=
  keepsOut_next (restartEnd_keeps (tick_keeps h))

end

/-! ### The switch core -/

section
variable {s0 s : State}
variable {a i k n o p pos q seq slot tile u : Nat} {label lbl : BitVec 14} {c : Cell} {lanes : List (Nat × List (BitVec 2))} {rx : SlotRx}
variable {t : Time} {set : PSet} {v : BitVec 64} {x : TxSlot} {ds ports ps : List Nat} {off : Nat → Nat → Nat} {here own : Bool} {addr e : Word}
variable {port : Port} {r : BandRun}

theorem schedArrive_keeps (h : Keeps s0 s) : Keeps s0 (schedArrive n label c s) := by
  unfold schedArrive
  refine ite_both (bump_keeps h) (ite_both (bump_keeps h) ?_)
  split
  · refine ite_both (ite_both (bump_keeps h) (ite_both (updPort_keeps h) (updPort_keeps h))) ?_
    split
    · exact bump_keeps h
    · exact h
  · exact h
theorem acceptCell_keeps (h : Keeps s0 s) : Keeps s0 (acceptCell n label c s) :=
  ite_both h (ite_both (bump_keeps h) (ite_both (updPort_keeps (noteTag_keeps (bump_keeps (bump_keeps h)))) (ite_both (schedArrive_keeps
      (noteTag_keeps (bump_keeps (bump_keeps h)))) (ite_both (ctlArrive_keeps (noteTag_keeps (bump_keeps (bump_keeps h)))) (updPort_keeps
      (noteTag_keeps (bump_keeps (bump_keeps h))))))))
theorem slotFailed_keeps (h : Keeps s0 s) : Keeps s0 (slotFailed n s) := by
  unfold slotFailed
  dsimp only
  split
  · exact bump_keeps (updPort_keeps h)
  · exact ite_both (startShort_keeps (updPort_keeps (bump_keeps (updPort_keeps h)))) (bump_keeps (updPort_keeps h))
theorem slotPassed_keeps {k : Checked} (h : Keeps s0 s) : Keeps s0 (slotPassed n k s) :=
  ite_both (takeAck_keeps h) (ite_both (ite_both (takeAck_keeps h) (updPort_keeps (takeAck_keeps h))) (foldl_keeps (fun _ _ h1 =>
      acceptCell_keeps h1) (updPort_keeps (takeAck_keeps h))))
theorem checkLoop_keeps (h : Keeps s0 s) : Keeps s0 (checkLoop n lanes s) :=
  foldl_keeps (fun _ _ h1 => bump_keeps (bump_keeps (updPort_keeps h1))) h
theorem loopReceive_keeps (h : Keeps s0 s) : Keeps s0 (loopReceive n rx s) := by
  unfold loopReceive
  dsimp only
  split <;> exact ite_both (updPort_keeps h) (ite_both (checkLoop_keeps h) h)
/-- What a port does with the frames of a slot, whatever reads and checks them. -/
theorem slotEnd_keeps {q : Option (List Frame) × PortS} {check : List Frame → Option Checked} (h : Keeps s0 s) :
    Keeps s0 (match q with
      | (fs, p) =>
        match fs with
        | none => slotFailed n (s.updPort n (fun _ => p))
        | some fs =>
          match check fs with
          | none => slotFailed n (s.updPort n (fun _ => p))
          | some k => slotPassed n k (s.updPort n (fun _ => p))) := by
  obtain ⟨fs, p⟩ := q
  cases fs with
  | none => exact slotFailed_keeps (updPort_keeps h)
  | some fs =>
    dsimp only
    split
    · exact slotFailed_keeps (updPort_keeps h)
    · exact slotPassed_keeps (updPort_keeps h)

theorem receiveSlot_keeps {rx : SlotRx} (h : Keeps s0 s) : Keeps s0 (receiveSlot n rx s) := by
  have h1 := bump_keeps (addr := portCtr n 0x010) (n := 480) h
  cases rx with
  | native lanes =>
    refine ite_both (loopReceive_keeps h) (ite_both h (ite_both (slotFailed_keeps h1) ?_))
    split
    · exact slotFailed_keeps h1
    · dsimp only
      split
      · exact slotFailed_keeps (bump_keeps (updPort_keeps h1))
      · exact slotPassed_keeps (bump_keeps (updPort_keeps h1))
  | compat lanes => exact ite_both (loopReceive_keeps h) (ite_both h (ite_both (slotFailed_keeps h1) (slotEnd_keeps h1)))
theorem execSlotReceived_keeps (h : Keeps s0 s) : KeepsOut s0 (execSlotReceived t set rx s) :=
  keepsOut_next (receiveSlot_keeps (tick_keeps h))
theorem noteT1_keeps (h : Keeps s0 s) : Keeps s0 (noteT1 n seq v s) := by
  unfold noteT1
  split
  · exact ite_both (updPort_keeps h) (updFabric_keeps h)
  · exact updFabric_keeps h
theorem stampCell_keeps (h : Keeps s0 s) : KeepsPair s0 (stampCell n pos c s) :=
  ite_both (keepsPair_mk h) (ite_both (keepsPair_mk (noteT1_keeps h)) (keepsPair_mk h))
theorem pickSleep_keeps (h : Keeps s0 s) : KeepsPair s0 (pickSleep n s) := by
  unfold pickSleep
  split
  · exact keepsPair_mk (updPort_keeps h)
  · exact keepsPair_mk h
theorem pickCell_keeps (h : Keeps s0 s) : KeepsPair s0 (pickCell n pos s) := by
  unfold pickCell
  refine ite_both (pickSleep_keeps h) ?_
  split
  · exact keepsPair_mk (cellLeft_keeps (updPort_keeps h))
  · split
    · exact keepsPair_mk (cellLeft_keeps (updPort_keeps h))
    · split
      · exact keepsPair_mk (ctlGone_keeps (updPort_keeps h))
      · exact keepsPair_mk ((stampCell_keeps (updPort_keeps h)).snd)
      · exact ite_both (keepsPair_mk h) (keepsPair_mk (profEvent_keeps (updPort_keeps h)))
      · exact keepsPair_mk h
theorem slipLate_keeps (h : Keeps s0 s) : Keeps s0 (slipLate n pos s) := ite_both h (bump_keeps (updPort_keeps h))
theorem newSlot_keeps (h : Keeps s0 s) : KeepsPair s0 (newSlot n s) :=
  keepsPair_mk (foldl_keeps (fun _ _ h1 => bump_keeps (bump_keeps h1)) (updPort_keeps ((pickCell_keeps ((pickCell_keeps ((pickCell_keeps
      ((pickCell_keeps h).snd)).snd)).snd)).snd)))
theorem transmit_keeps (h : Keeps s0 s) : Keeps s0 (transmit n x s) := by
  unfold transmit
  refine ite_both (updPort_keeps (bump_keeps h)) ?_
  split
  · exact updPort_keeps (bump_keeps h)
  · dsimp only
    split <;> exact updPort_keeps (slotSlips_keeps (bump_keeps (bump_keeps (bump_keeps h))))
theorem sentSwitch_keeps (h : Keeps s0 s) : Keeps s0 (sentSwitch n x s) := by
  unfold sentSwitch
  refine ite_both h ?_
  split
  · exact h
  · exact advertise_keeps (updPort_keeps h)
theorem loopSend_keeps (h : Keeps s0 s) : Keeps s0 (loopSend n s) :=
  ite_both h (ite_both (updPort_keeps (updPort_keeps h)) (checkLoop_keeps (updPort_keeps h)))
theorem sendFirst_keeps (h : Keeps s0 s) : Keeps s0 (sendFirst n x s) := ite_both (transmit_keeps h) (sentSwitch_keeps (transmit_keeps h))
theorem nextSlot_keeps (h : Keeps s0 s) : Keeps s0 (nextSlot n s) := by
  unfold nextSlot
  dsimp only
  split
  · exact ite_both (retryLimit_keeps (transmit_keeps h)) (sendFirst_keeps h)
  · exact retryLimit_keeps (transmit_keeps (slotSlips_keeps (updHeld_keeps (updPort_keeps h))))
  · exact ite_both (transmit_keeps h) (sendFirst_keeps (ite_both (updPort_keeps ((newSlot_keeps h).snd)) ((newSlot_keeps h).snd)))
theorem payRetrain_keeps (h : Keeps s0 s) : Keeps s0 (payRetrain n s) := ite_both (writeRetrain_keeps (updPort_keeps h)) h
theorem sendSlot_keeps (h : Keeps s0 s) : Keeps s0 (sendSlot n s) :=
  ite_both (payRetrain_keeps (slipLate_keeps h)) (ite_both (loopSend_keeps (updPort_keeps (payRetrain_keeps (slipLate_keeps h)))) (ite_both
      (payRetrain_keeps (slipLate_keeps h)) (nextSlot_keeps (updPort_keeps (payRetrain_keeps (slipLate_keeps h))))))
theorem crossExchange_keeps (h : Keeps s0 s) : Keeps s0 (crossExchange n k ds s) :=
  ite_both h (foldl_keeps (fun _ _ h1 => bump_keeps (bump_keeps h1)) (foldl_keeps (fun _ _ h1 => bump_keeps h1) (bump_keeps h)))
theorem toDest_keeps (h : Keeps s0 s) : Keeps s0 (toDest n pos off own e c s) :=
  ite_both (ite_both (countForeign_keeps h) (crossExchange_keeps (ite_both (updTile_keeps (foldl_keeps (fun _ _ h1 => pushSched_keeps h1)
      h)) (foldl_keeps (fun _ _ h1 => pushSched_keeps h1) h)))) (ite_both (crossExchange_keeps (updTile_keeps h)) (pushSched_keeps
      (crossExchange_keeps h)))
theorem copiesMade_keeps (h : Keeps s0 s) : Keeps s0 (copiesMade c k s) := by
  unfold copiesMade
  split
  · exact h
  · exact updJob_keeps h
theorem launchOne_keeps {q : QCell} (h : Keeps s0 s) : Keeps s0 (launchOne n u e q k s) := toDest_keeps (freeBuf_keeps (copiesMade_keeps h))
theorem launchTile_keeps (h : Keeps s0 s) : Keeps s0 (launchTile n s) := by
  unfold launchTile
  refine ite_both h ?_
  split
  · exact h
  · split
    · exact h
    · exact foldl_keeps (fun _ _ h1 => launchOne_keeps h1) (profEvent_keeps (updTile_keeps h))
theorem tideSlot_keeps (h : Keeps s0 s) : Keeps s0 (tideSlot s) :=
  endRelays_keeps (foldl_keeps (fun _ _ h1 => sendSlot_keeps h1) (foldl_keeps (fun _ _ h1 => launchTile_keeps h1) h))
theorem execTideSlot_keeps (h : Keeps s0 s) : KeepsOut s0 (execTideSlot t s) := keepsOut_next (tideSlot_keeps (tick_keeps h))
theorem execSlipLimit_keeps (h : Keeps s0 s) : KeepsOut s0 (execSlipLimit t set s) := by
  unfold execSlipLimit
  refine keepsOut_next ?_
  split
  · exact tick_keeps h
  · exact schedLost_keeps (bump_keeps (updPort_keeps (tick_keeps h)))
theorem passCell_keeps (h : Keeps s0 s) : Keeps s0 (passCell n label c s) := by
  unfold passCell
  split
  · exact h
  · rename_i hs1
    have h1 := takePass_keeps h hs1
    exact toDest_keeps h1
theorem execPassCell_keeps (h : Keeps s0 s) : KeepsOut s0 (execPassCell t port lbl c s) := keepsOut_next (passCell_keeps (tick_keeps h))
theorem enterVoqs_keeps {q : QCell} (h : Keeps s0 s) : Keeps s0 (enterVoqs n ports here q s) :=
  ite_both (deliverHere_keeps (freeBuf_keeps (foldl_keeps (fun _ _ h1 => autoWake_keeps (updTile_keeps h1)) h))) (foldl_keeps (fun _ _ h1
      => autoWake_keeps (updTile_keeps h1)) h)
theorem enterUns_keeps (h : Keeps s0 s) : KeepsOpt s0 (enterUns n ps here c s) := by
  unfold enterUns
  refine ite_both (keepsOpt_some (foldl_keeps (fun _ _ h1 => bump_keeps h1) h)) ?_
  split
  · rename_i hs1
    have h1 := allocUns_keeps h _ _ hs1
    exact keepsOpt_some (enterVoqs_keeps (foldl_keeps (fun _ _ h2 => bump_keeps h2) h1))
  · exact keepsOpt_none
theorem moveStaged_keeps {k : Nat} (h : Keeps s0 s) : Keeps s0 (moveStaged k n s) := by
  induction k generalizing s with
  | zero => exact h
  | succ k ih =>
    unfold moveStaged
    split
    · exact updPort_keeps h
    · refine ite_both (ih (bump_keeps (updPort_keeps h))) ?_
      split
      · exact ih (bump_keeps (updPort_keeps h))
      · exact ih (countForeign_keeps (updPort_keeps h))
      · split
        · rename_i hs
          exact ih (updPort_keeps (enterUns_keeps h _ hs))
        · exact updPort_keeps (bump_keeps h)
theorem stageCell_keeps (h : Keeps s0 s) : Keeps s0 (stageCell n c s) := by
  unfold stageCell
  split
  · exact h
  · rename_i hs1
    have h1 := takeRx_keeps h _ hs1
    exact ite_both (bump_keeps h1) (ite_both (updPort_keeps h1) (moveStaged_keeps (updPort_keeps h1)))
theorem execUnscheduledCell_keeps (h : Keeps s0 s) : KeepsOut s0 (execUnscheduledCell t port c s) :=
  keepsOut_next (ite_both (stageCell_keeps (tick_keeps h)) (tick_keeps h))
theorem execCreditHoldRetry_keeps {tile : LTile} (h : Keeps s0 s) : KeepsOut s0 (execCreditHoldRetry t tile s) :=
  keepsOut_next (ite_both (moveStaged_keeps (bump_keeps (tick_keeps h))) (tick_keeps h))
theorem matchIters_keeps {k : Nat} {first : Bool} {srcs dsts : List Nat} (h : Keeps s0 s) :
    KeepsPair s0 (matchIters k first srcs dsts s) := by
  induction k generalizing first srcs dsts s with
  | zero => exact keepsPair_mk h
  | succ k ih => exact keepsPair_mk (ih (ite_both (updFabric_keeps h) h)).snd
theorem moveMatched_keeps (h : Keeps s0 s) : Keeps s0 (moveMatched o i s) := by
  unfold moveMatched
  split
  · exact h
  · exact profEvent_keeps (updPort_keeps (crossExchange_keeps (foldl_keeps (fun _ _ h1 => freeBuf_keeps h1) (updTile_keeps h))))
theorem bandArrives_keeps (h : Keeps s0 s) : KeepsOpt s0 (bandArrives r c s) := by
  unfold bandArrives
  dsimp only
  split
  · exact keepsOpt_some (bump_keeps h)
  · refine ite_both keepsOpt_none ?_
    split
    · exact keepsOpt_none
    · rename_i hs1
      have h1 := allocSched_keeps h _ _ hs1
      exact keepsOpt_some (bumpMax_keeps (bump_keeps (updTile_keeps h1)))
theorem sendBand'_keeps {k : Nat} {r : BandRun} (h : Keeps s0 s) : KeepsPair s0 (sendBand' k n r s) := by
  induction k generalizing r s with
  | zero => exact keepsPair_mk h
  | succ k ih =>
    refine ite_both (keepsPair_mk h) ?_
    split
    · exact keepsPair_mk h
    · rename_i hs
      exact ih (crossExchange_keeps (bandArrives_keeps h _ hs))
theorem moveBand_keeps {taken : List Nat} {rs past : List BandRun} (h : Keeps s0 s) : KeepsPair s0 (moveBand n taken rs past s) := by
  induction rs generalizing past with
  | nil => exact keepsPair_mk h
  | cons r rs ih =>
    have h1 : KeepsPair s0 (sendBand' 4 n r s) := sendBand'_keeps h
    unfold moveBand
    generalize sendBand' 4 n r s = sent at h1 ⊢
    exact ite_both ih (keepsPair_mk (updTile_keeps h1.snd))
theorem moveBands_keeps {u : Nat} {ins : List Nat} (h : Keeps s0 s) : Keeps s0 (moveBands u ins s).2.2 := by
  unfold moveBands
  generalize List.range 128 = l
  suffices hl : ∀ q : List Nat × List Nat × State, Keeps s0 q.2.2 → Keeps s0 (l.foldl _ q).2.2 from hl _ h
  induction l with
  | nil => exact fun _ hq => hq
  | cons n l ih =>
    refine fun q hq => ih _ (ite_both (P := fun q : List Nat × List Nat × State => Keeps s0 q.2.2) hq ?_)
    split
    · exact hq
    · rename_i hs
      exact moveBand_keeps hq _ _ hs
theorem matchQuad_keeps (h : Keeps s0 s) : Keeps s0 (matchQuad s) := by
  have h1 := moveBands_keeps (u := slotNow s + 2) (ins := exchIns s (slotNow s + 2)) h
  unfold matchQuad
  dsimp only
  refine foldl_keeps (fun _ _ h1 => moveMatched_keeps h1) ?_
  generalize moveBands (slotNow s + 2) (exchIns s (slotNow s + 2)) s = moved at h1 ⊢
  exact KeepsPair.snd (matchIters_keeps h1)
theorem execMatchQuad_keeps (h : Keeps s0 s) : KeepsOut s0 (execMatchQuad t s) := keepsOut_next (matchQuad_keeps (tick_keeps h))
theorem execBufferFree_keeps {tile : LTile} (h : Keeps s0 s) : KeepsOut s0 (execBufferFree t tile addr s) :=
  keepsOut_next (freeAddr_keeps (tick_keeps h))
theorem auditFound_keeps (h : Keeps s0 s) : Keeps s0 (auditFound n s) := bump_keeps (logCode_keeps h)
theorem auditStep_keeps (h : Keeps s0 s) : Keeps s0 (auditStep n s) :=
  ite_both (auditFound_keeps (updTile_keeps (updTile_keeps h))) (ite_both (auditFound_keeps (updTile_keeps (updTile_keeps h))) (ite_both
      (auditFound_keeps (updTile_keeps (updTile_keeps h))) (ite_both (ite_both (auditFound_keeps (releaseBuf_keeps (updTile_keeps h)))
      (updTile_keeps (updTile_keeps h))) (ite_both (updTile_keeps (updTile_keeps h)) (updTile_keeps h)))))
theorem execAuditorStep_keeps {tile : LTile} (h : Keeps s0 s) : KeepsOut s0 (execAuditorStep t tile s) :=
  keepsOut_next (auditStep_keeps (tick_keeps h))

end

/-! ### Engines -/

section
variable {s0 s : State}
variable {a chunk code coll fold g j k n p q seg slot tile : Nat} {i : DWord} {outs : List Ent} {e : CqEnt} {hat illegal par : Bool}
variable {opc : Nat → Bool} {plan : State → CqEnt → Plan} {hold : CqEnt → Bool} {unit : Unit'} {f : BitVec 96 → BitVec 96 × Bool}
variable {first : BitVec 96} {at_ : Nat → Nat} {vals : List (Nat × Int)} {b : BitVec 256} {segs : List Nat}

theorem popSrc_keeps (h : Keeps s0 s) : Keeps s0 (popSrc tile slot q n s) := by
  unfold popSrc
  split
  · exact popIq_keeps h
  · exact ite_both (popEnts_keeps h) h
/-- No fault of a source is the end of a unit that is done. -/
theorem srcFault_keeps {z : State} {i : DWord} {res : Res} (hr : srcFault z tile slot i coll n = some res) : KeepsRes s0 res := by
  intro s' hs
  subst hs
  unfold srcFault at hr
  dsimp only at hr
  split at hr <;> split_ifs at hr <;> exact nomatch hr
theorem emit_keeps {p : Plan} (h : Keeps s0 s) : KeepsRes s0 (emit tile slot i p j outs s) :=
  ite_both keepsRes_wait (keepsRes_done (ite_both (popSrc_keeps (pushEnts_keeps h)) (pushEnts_keeps h)))
theorem skipUnit_keeps {p : Plan} (h : Keeps s0 s) : KeepsRes s0 (skipUnit tile slot i p g j s) :=
  ite_both (ite_both keepsRes_wait (keepsRes_done (reconPops_keeps h))) (ite_both keepsRes_wait (ite_both (keepsRes_done (ite_both h
      (popSrc_keeps h))) (emit_keeps h)))
theorem skipHead_keeps (h : Keeps s0 s) : Keeps s0 (skipHead tile slot q e code illegal s) := updHead_keeps (logSkip_keeps h)
theorem skipAgain_keeps (h : Keeps s0 s) : Keeps s0 (skipAgain tile slot q s) := updHead_keeps (bump_keeps (bump_keeps h))
theorem runUnits_keeps {k : Nat} {p : Plan} {unit : Unit'} {hold : Bool} {first : Option State}
    (hu : ∀ e g j s, Keeps s0 s → KeepsRes s0 (unit e g j s)) (hf : KeepsOpt s0 first) (h : Keeps s0 s) :
    Keeps s0 (runUnits k tile slot q p unit hold first s) := by
  induction k generalizing first s with
  | zero => exact h
  | succ k ih =>
    unfold runUnits
    cases cqHead s tile slot q with
    | none => exact h
    | some e =>
      refine ite_both (ite_both (updHead_keeps h) (completeHead_keeps h)) ?_
      have h1 : KeepsRes s0 (if e.skipped then skipUnit tile slot e.insn p (e.done / max 1 p.pushN) (e.done % max 1 p.pushN) s
          else unit e (e.done / max 1 p.pushN) (e.done % max 1 p.pushN) s) := ite_both (skipUnit_keeps h) (hu _ _ _ _ h)
      dsimp only
      generalize (if e.skipped then skipUnit tile slot e.insn p (e.done / max 1 p.pushN) (e.done % max 1 p.pushN) s
          else unit e (e.done / max 1 p.pushN) (e.done % max 1 p.pushN) s) = res at h1 ⊢
      cases res with
      | wait => exact h
      | done z => exact ih hf (updHead_keeps (h1 z rfl))
      | skip code => exact ih keepsOpt_none (skipHead_keeps (getD_keeps hf h))
      | void => exact ih keepsOpt_none (skipAgain_keeps (getD_keeps hf h))
theorem discardHead_keeps (h : Keeps s0 s) : Keeps s0 (discardHead tile slot q e s) :=
  pumpTile_keeps (updTile_keeps (bump_keeps (discardSrc_keeps h)))
theorem runHead_keeps (hunit : ∀ a0 a1 a2 s, Keeps s0 s → KeepsRes s0 (unit a0 a1 a2 s)) (h : Keeps s0 s) : Keeps s0 (runHead tile slot q
    opc plan hold unit s) := by
  unfold runHead
  split
  · exact h
  · refine ite_both h (ite_both (discardHead_keeps h) ?_)
    dsimp only
    split
    · exact settle_keeps (runUnits_keeps hunit (by
        refine ite_both (keepsOpt_some (ite_both ?_ h)) keepsOpt_none
        split
        · exact skipHead_keeps h
        · exact h) (by
        refine ite_both ?_ h
        split
        · exact skipHead_keeps h
        · exact h))
    · exact runUnits_keeps hunit (by
        refine ite_both (keepsOpt_some (ite_both ?_ h)) keepsOpt_none
        split
        · exact skipHead_keeps h
        · exact h) (by
        refine ite_both ?_ h
        split
        · exact skipHead_keeps h
        · exact h)
theorem openAcc_keeps (h : Keeps s0 s) : Keeps s0 (openAcc tile slot coll a seg hat s) := updTile_keeps h
theorem putElem_keeps (h : Keeps s0 s) : Keeps s0 (putElem tile a k f first s) := updTile_keeps h
theorem addElems_keeps (h : Keeps s0 s) : Keeps s0 (addElems tile at_ vals s) := foldl_keeps (fun _ _ h1 => putElem_keeps h1) h
theorem enterWindow_keeps {e : Entry} (h : Keeps s0 s) : KeepsRes s0 (enterWindow tile slot i b e segs s) := by
  unfold enterWindow
  refine ite_both keepsRes_skip (ite_both keepsRes_skip ?_)
  dsimp only
  split
  · exact keepsRes_skip
  · exact ite_both keepsRes_wait (ite_both keepsRes_skip (keepsRes_done (foldl_keeps (fun _ _ h1 => openAcc_keeps h1) h)))
theorem notePass_keeps (h : Keeps s0 s) : Keeps s0 (notePass tile slot coll a chunk par s) := updTile_keeps h
theorem noteFold_keeps (h : Keeps s0 s) : Keeps s0 (noteFold tile a fold s) := updTile_keeps h
theorem noteAdd_keeps {e : Entry} (h : Keeps s0 s) : Keeps s0 (noteAdd tile slot i b e segs fold par s) := by
  unfold noteAdd
  dsimp only
  split
  · exact noteFold_keeps (foldl_keeps (fun _ _ h1 => notePass_keeps h1) h)
  · exact foldl_keeps (fun _ _ h1 => notePass_keeps h1) h
theorem freeAcc_keeps (h : Keeps s0 s) : Keeps s0 (freeAcc tile slot coll a s) := setSat_keeps (updTile_keeps h)

end

/-! ### The reduce engine -/

section
variable {s0 s : State}
variable {a coll k p slot tile w : Nat} {l : List Quant} {ev : Ev} {fast most : Bool} {i : DWord} {b : BitVec 256} {e : Entry} {v : Ent}
variable {vals : List (Nat × Int)} {n : Inst} {t : Time} {at_ : Nat → Nat} {c : CqEnt}

theorem noteQuant_keeps (h : Keeps s0 s) : Keeps s0 (noteQuant tile slot coll l ev s) :=
  addPart_keeps (setSat_keeps (statEv_keeps (countEv_keeps h)))
theorem useSum_keeps (h : Keeps s0 s) : Keeps s0 (useSum slot coll fast s) := updInst_keeps h
theorem addToWindow_keeps (h : Keeps s0 s) : KeepsRes s0 (addToWindow tile slot i b e v vals s) := by
  unfold addToWindow
  dsimp only
  split
  · rename_i hs1
    have h1 := enterWindow_keeps h _ hs1
    exact keepsRes_done (profEvent_keeps (noteAdd_keeps (addElems_keeps h1)))
  · exact enterWindow_keeps h
theorem quantInto_keeps (h : Keeps s0 s) : KeepsRes s0 (quantInto tile slot i b e n v s) := by
  unfold quantInto
  refine ite_both keepsRes_skip ?_
  split
  · rename_i hs1
    have h1 := addToWindow_keeps h _ hs1
    exact keepsRes_done (noteQuant_keeps (useSum_keeps h1))
  · exact addToWindow_keeps h
theorem qntUnit_keeps {p : Plan} {c : CqEnt} (h : Keeps s0 s) : KeepsRes s0 (qntUnit tile slot p c j s) := by
  unfold qntUnit
  refine ite_both keepsRes_wait ?_
  split
  · rename_i hs1
    exact srcFault_keeps hs1
  · exact keepsRes_wait
  · refine ite_both keepsRes_skip (ite_both ?_ ?_)
    · split
      · rename_i hs1
        exact keepsRes_done (popSrc_keeps (quantInto_keeps h _ hs1))
      · exact quantInto_keeps h
    · split
      dsimp only
      split
      · rename_i hs1
        have h1 := emit_keeps h _ hs1
        exact keepsRes_done (ite_both (noteQuant_keeps h1) h1)
      · exact emit_keeps h
theorem execQnt_keeps {tile : LTile} {slot : Slot} (h : Keeps s0 s) : KeepsOut s0 (execQnt t tile slot s) :=
  keepsOut_next (runHead_keeps (fun _ _ _ _ h1 => qntUnit_keeps h1) (tick_keeps h))
theorem noteWmin_keeps {l : List (Nat × Int × Bool)} (h : Keeps s0 s) : Keeps s0 (noteWmin tile slot at_ l s) :=
  foldl_keeps (fun _ _ h1 => bump_keeps (updTile_keeps h1)) h
theorem addwUnit_keeps (h : Keeps s0 s) : KeepsRes s0 (addwUnit tile slot c s) := by
  unfold addwUnit
  refine ite_both keepsRes_wait ?_
  split
  · rename_i hs1
    exact srcFault_keeps hs1
  · refine ite_both ?_ ?_
    · dsimp only
      split
      · rename_i hs1
        have h1 := addToWindow_keeps h _ hs1
        exact keepsRes_done (chargeAcc_keeps (popSrc_keeps h1))
      · exact addToWindow_keeps h
    · refine ite_both ?_ ?_
      · refine ite_both keepsRes_skip ?_
        dsimp only
        split
        · rename_i hs1
          have h1 := quantInto_keeps h _ hs1
          exact keepsRes_done (chargeAcc_keeps (popSrc_keeps h1))
        · exact quantInto_keeps h
      · refine ite_both keepsRes_skip (ite_both keepsRes_skip ?_)
        split
        · rename_i hs1
          have h1 := addToWindow_keeps h _ hs1
          exact keepsRes_done (chargeAcc_keeps (popSrc_keeps (useSum_keeps (noteWmin_keeps h1))))
        · exact addToWindow_keeps h
  · exact keepsRes_wait
theorem execAddw_keeps {tile : LTile} {slot : Slot} (h : Keeps s0 s) : KeepsOut s0 (execAddw t tile slot s) :=
  keepsOut_next (runHead_keeps (fun _ _ _ _ h1 => addwUnit_keeps h1) (tick_keeps h))
theorem putCand_keeps {n : Nat} {c : Cand} (h : Keeps s0 s) : Keeps s0 (putCand most tile a n c s) := putElem_keeps h
theorem locUnit_keeps (h : Keeps s0 s) : KeepsRes s0 (locUnit most tile slot c s) := by
  unfold locUnit
  refine ite_both keepsRes_wait ?_
  split
  · rename_i hs1
    exact srcFault_keeps hs1
  · refine ite_both keepsRes_skip (ite_both keepsRes_skip ?_)
    split
    · rename_i hs1
      have h1 := enterWindow_keeps h _ hs1
      exact keepsRes_done (chargeAcc_keeps (popSrc_keeps (statEv_keeps (countEv_keeps (noteAdd_keeps (foldl_keeps (fun _ _ h2 =>
          putCand_keeps h2) h1))))))
    · exact enterWindow_keeps h
  · exact keepsRes_wait
theorem execMaxl_keeps {tile : LTile} {slot : Slot} (h : Keeps s0 s) : KeepsOut s0 (execMaxl t tile slot s) :=
  keepsOut_next (runHead_keeps (fun _ _ _ _ h1 => locUnit_keeps h1) (tick_keeps h))
theorem execMinl_keeps {tile : LTile} {slot : Slot} (h : Keeps s0 s) : KeepsOut s0 (execMinl t tile slot s) :=
  keepsOut_next (runHead_keeps (fun _ _ _ _ h1 => locUnit_keeps h1) (tick_keeps h))
theorem fastPut_keeps (h : Keeps s0 s) : KeepsPair s0 (fastPut tile a k w s) := keepsPair_mk (putElem_keeps h)
theorem fastUnit_keeps (h : Keeps s0 s) : KeepsRes s0 (fastUnit tile slot c s) := by
  unfold fastUnit
  refine ite_both keepsRes_wait ?_
  split
  · rename_i hs1
    exact srcFault_keeps hs1
  · refine ite_both keepsRes_skip (ite_both keepsRes_skip ?_)
    dsimp only
    split
    · rename_i hs1
      have h1 := enterWindow_keeps h _ hs1
      exact keepsRes_done (chargeAcc_keeps (popSrc_keeps (statEv_keeps (countEv_keeps (noteAdd_keeps ((foldlPair_keeps (fun _ _ h2 =>
          keepsPair_mk ((fastPut_keeps h2.snd).snd)) (keepsPair_mk (useSum_keeps h1))).snd))))))
    · exact enterWindow_keeps h
  · exact keepsRes_wait
theorem execFastsum_keeps {tile : LTile} {slot : Slot} (h : Keeps s0 s) : KeepsOut s0 (execFastsum t tile slot s) :=
  keepsOut_next (runHead_keeps (fun _ _ _ _ h1 => fastUnit_keeps h1) (tick_keeps h))

end

/-! ### The vector engine -/

section
variable {s0 s : State}
variable {a coll g j off seg slot tile : Nat} {i : DWord} {b : BitVec 256} {e : Entry} {n : Inst} {y : Machine.Acc} {c : CqEnt} {ev : Ev}
variable {sat sr : Bool} {p : Plan} {v : Ent} {ws : List Nat} {vs : List Ent} {t : Time}

theorem segmentOut_keeps (h : Keeps s0 s) : Keeps s0 (segmentOut slot coll seg s) := updChunk_keeps h
theorem homeDrained_keeps (h : Keeps s0 s) : Keeps s0 (homeDrained tile slot i b e n y s) :=
  segmentOut_keeps (ite_both (addPart_keeps (updTile_keeps (ite_both (setSat_keeps h) h))) (ite_both (setSat_keeps h) h))
theorem endDrain_keeps (h : Keeps s0 s) : Keeps s0 (endDrain tile slot c b a ev sat s) := by
  unfold endDrain
  refine chargeAcc_keeps (freeAcc_keeps ?_)
  split
  · exact ite_both (homeDrained_keeps (setSat_keeps (statEv_keeps (countEv_keeps h)))) (setSat_keeps (statEv_keeps (countEv_keeps h)))
  · exact setSat_keeps (statEv_keeps (countEv_keeps h))
theorem cvtDrain_keeps (h : Keeps s0 s) : KeepsRes s0 (cvtDrain tile slot p c g j s) := by
  unfold cvtDrain
  dsimp only
  split
  · exact keepsRes_skip
  · exact keepsRes_wait
  · refine ite_both keepsRes_skip (ite_both ?_ ?_)
    · refine ite_both keepsRes_skip ?_
      split
      · rename_i hs1
        have h1 := emit_keeps h _ hs1
        exact keepsRes_done (ite_both (endDrain_keeps h1) h1)
      · exact emit_keeps h
    · refine ite_both ?_ ?_
      · split
        · rename_i hs1
          have h1 := emit_keeps h _ hs1
          exact keepsRes_done (ite_both (endDrain_keeps h1) h1)
        · exact emit_keeps h
      · split
        · rename_i hs1
          have h1 := emit_keeps (ite_both (addPart_keeps h) h) _ hs1
          exact keepsRes_done (ite_both (endDrain_keeps h1) h1)
        · exact emit_keeps (ite_both (addPart_keeps h) h)
theorem escalate_keeps (h : Keeps s0 s) : KeepsPair s0 (escalate tile slot i e n sr v ws s) :=
  ite_both (keepsPair_mk h) (ite_both (keepsPair_mk (bump_keeps (updJob_keeps (updTile_keeps h)))) (keepsPair_mk (bump_keeps (updJob_keeps
      h))))
theorem convert_keeps (h : Keeps s0 s) : KeepsPair s0 (convert tile slot i e b n vs j s) :=
  ite_both (keepsPair_mk (setSat_keeps (statEv_keeps (countEv_keeps h)))) (ite_both (keepsPair_mk (setSat_keeps h)) (ite_both
      (escalate_keeps (countEv_keeps h)) (keepsPair_mk (countEv_keeps h))))
theorem cvtUnit_keeps {p : Plan} {c : CqEnt} (h : Keeps s0 s) : KeepsRes s0 (cvtUnit tile slot p c g j s) := by
  unfold cvtUnit
  refine ite_both (cvtDrain_keeps h) (ite_both keepsRes_wait ?_)
  split
  · rename_i hs1
    exact srcFault_keeps hs1
  · exact keepsRes_wait
  · refine ite_both keepsRes_skip (ite_both keepsRes_skip ?_)
    split
    rename_i hs
    have h1 := convert_keeps h _ _ hs
    split
    · rename_i hs1
      exact keepsRes_done (profEvent_keeps (emit_keeps h1 _ hs1))
    · exact emit_keeps h1
theorem rawWrite_keeps {p : Payload} (h : Keeps s0 s) : Keeps s0 (rawWrite tile a off p s) := foldl_keeps (fun _ _ h1 => updTile_keeps h1) h
theorem rawUnit_keeps (h : Keeps s0 s) : KeepsRes s0 (rawUnit tile slot c g s) := by
  unfold rawUnit
  refine ite_both keepsRes_wait ?_
  split
  · rename_i hs1
    exact srcFault_keeps hs1
  · exact ite_both keepsRes_skip (ite_both keepsRes_skip (ite_both keepsRes_skip (keepsRes_done (chargeAcc_keeps (popSrc_keeps
      (rawWrite_keeps h))))))
  · exact keepsRes_wait
theorem execCvt_keeps {tile : LTile} {slot : Slot} (h : Keeps s0 s) : KeepsOut s0 (execCvt t tile slot s) :=
  keepsOut_next (runHead_keeps (fun _ _ _ _ h1 => ite_both (rawUnit_keeps h1) (cvtUnit_keeps h1)) (tick_keeps h))
theorem elemUnit_keeps (h : Keeps s0 s) : KeepsRes s0 (elemUnit tile slot p c g j s) := by
  unfold elemUnit
  dsimp only
  split
  · exact keepsRes_skip
  · exact keepsRes_wait
  · refine ite_both keepsRes_skip (ite_both keepsRes_skip (ite_both keepsRes_wait ?_))
    split
    · rename_i hs1
      have h1 := emit_keeps h _ hs1
      exact keepsRes_done (ite_both (endDrain_keeps h1) h1)
    · exact emit_keeps h
theorem execElem_keeps {tile : LTile} {slot : Slot} (h : Keeps s0 s) : KeepsOut s0 (execElem t tile slot s) :=
  keepsOut_next (runHead_keeps (fun _ _ _ _ h1 => elemUnit_keeps h1) (tick_keeps h))

end

/-! ### The matrix engine -/

section
variable {s0 s : State}
variable {a acc coll g j k slot tile w : Nat} {r : Val} {wlsb : Int} {t : Time} {f : State → State} {i : DWord} {b : BitVec 256} {e : Entry}
variable {ended : List (Nat × List Val)} {c : CqEnt} {arr : Fin 4} {m : Mat}

theorem promote_keeps (h : Keeps s0 s) : KeepsPair s0 (promote tile a k r wlsb s) :=
  keepsPair_mk (ite_both (updTile_keeps (putElem_keeps h)) (putElem_keeps h))
theorem setUp_keeps (h : Keeps s0 s) : KeepsOpt s0 (setUp tile slot s) :=
  ite_both (keepsOpt_some h) (ite_both (keepsOpt_some (updTile_keeps h)) keepsOpt_none)
theorem matrixRun_keeps (hf : ∀ s, Keeps s0 s → Keeps s0 (f s)) (h : Keeps s0 s) : KeepsOut s0 (matrixRun t tile slot f s) := by
  unfold matrixRun
  refine keepsOut_next ?_
  split
  · rename_i hs1
    have h1 := setUp_keeps (tick_keeps h) _ hs1
    exact hf _ h1
  · exact tick_keeps h
theorem projPromote_keeps (h : Keeps s0 s) : KeepsPair s0 (projPromote tile slot i b e wlsb ended s) :=
  foldlPair_keeps (fun _ _ h1 => foldlPair_keeps (fun _ _ h2 => keepsPair_mk ((promote_keeps h2.snd).snd)) h1) (keepsPair_mk h)
theorem projUnit_keeps (h : Keeps s0 s) : KeepsRes s0 (projUnit tile slot c s) := by
  unfold projUnit
  refine ite_both keepsRes_wait ?_
  split
  · rename_i hs1
    exact srcFault_keeps hs1
  · refine ite_both keepsRes_skip (ite_both keepsRes_skip (ite_both keepsRes_skip ?_))
    dsimp only
    split
    · rename_i hs1
      have h1 := enterWindow_keeps h _ hs1
      exact keepsRes_done (chargeAcc_keeps (popSrc_keeps (statEv_keeps (countEv_keeps (profEvent_keeps (updTile_keeps (useSum_keeps
          (foldl_keeps (fun _ _ h2 => updTile_keeps h2) ((projPromote_keeps h1).snd)))))))))
    · exact enterWindow_keeps h
  · exact keepsRes_wait
theorem execProj_keeps {tile : LTile} {slot : Slot} (h : Keeps s0 s) : KeepsOut s0 (execProj t tile slot arr s) :=
  matrixRun_keeps (fun _ h1 => runHead_keeps (fun _ _ _ _ h2 => projUnit_keeps h2) h1) h
theorem reconUnit_keeps (h : Keeps s0 s) : KeepsRes s0 (reconUnit tile slot c g s) := by
  unfold reconUnit
  dsimp only
  split
  · exact keepsRes_wait
  · exact keepsRes_wait
  · refine ite_both keepsRes_skip (ite_both keepsRes_skip (ite_both keepsRes_skip ?_))
    split
    · exact keepsRes_wait
    · refine ite_both keepsRes_void ?_
      split
      · exact keepsRes_skip
      · exact keepsRes_wait
      · exact ite_both keepsRes_skip (keepsRes_done (chargeAcc_keeps (popSrc_keeps (statEv_keeps (countEv_keeps (profEvent_keeps
          (updTile_keeps ((foldlPair_keeps (fun _ _ h1 => keepsPair_mk ((promote_keeps h1.snd).snd)) (keepsPair_mk (openAcc_keeps
          h))).snd))))))))
theorem execRecon_keeps {tile : LTile} {slot : Slot} (h : Keeps s0 s) : KeepsOut s0 (execRecon t tile slot arr s) :=
  matrixRun_keeps (fun _ h1 => runHead_keeps (fun _ _ _ _ h2 => reconUnit_keeps h2) h1) h
theorem putMat_keeps {k : Block} {i : Nat} (h : Keeps s0 s) : Keeps s0 (putMat tile slot acc k m i j w s) :=
  countEv_keeps (setAccN_keeps (setAccN_keeps h))
theorem orthoStart_keeps (h : Keeps s0 s) : Keeps s0 (orthoStart tile slot i b s) := updTile_keeps h
theorem orthoPop_keeps (h : Keeps s0 s) : KeepsRes s0 (orthoPop tile slot i coll e s) := by
  unfold orthoPop
  refine ite_both keepsRes_wait ?_
  split
  · rename_i hs1
    exact srcFault_keeps hs1
  · exact keepsRes_wait
  · exact ite_both keepsRes_skip (keepsRes_done (countEv_keeps (popSrc_keeps (updTile_keeps h))))
theorem orthoUnit_keeps (h : Keeps s0 s) : KeepsRes s0 (orthoUnit tile slot c g s) :=
  ite_both keepsRes_skip (ite_both keepsRes_skip (ite_both (keepsRes_done (orthoStart_keeps h)) (ite_both (orthoPop_keeps h) (ite_both
      (keepsRes_done h) (keepsRes_done (chargeAcc_keeps (profEvent_keeps (countEv_keeps (foldl_keeps (fun _ _ h1 => ite_both (putMat_keeps
      h1) (updTile_keeps h1)) h)))))))))
theorem execOrtho_keeps {tile : LTile} {slot : Slot} (h : Keeps s0 s) : KeepsOut s0 (execOrtho t tile slot arr s) :=
  matrixRun_keeps (fun _ h1 => runHead_keeps (fun _ _ _ _ h2 => orthoUnit_keeps h2) h1) h

end

/-! ### The optimiser -/

section
variable {s0 s : State}
variable {acc g j n pos slot stage tile : Nat} {f : Job → Job} {p : Plan} {c : CqEnt} {b : BitVec 256} {e : Entry} {q : Seg} {vs : List Ent}
variable {k : Block} {m : Mat} {t : Time}

theorem countFlush_keeps (h : Keeps s0 s) : Keeps s0 (countFlush tile slot n s) := countEv_keeps h
theorem writeState_keeps (h : Keeps s0 s) : Keeps s0 (writeState slot f s) := ite_both h (updJob_keeps h)
theorem optUnit_keeps (h : Keeps s0 s) : KeepsRes s0 (optUnit tile slot p c b e q vs j s) := by
  unfold optUnit
  dsimp only
  split
  · rename_i hs1
    have h1 := emit_keeps h _ hs1
    exact ite_both (keepsRes_done h1) (keepsRes_done (chargeHbm_keeps (countFlush_keeps (ite_both (addPart_keeps (ite_both (countEv_keeps
        (writeState_keeps h1)) (writeState_keeps (countEv_keeps (writeState_keeps h1))))) (ite_both (countEv_keeps (writeState_keeps h1))
        (writeState_keeps (countEv_keeps (writeState_keeps h1))))))))
  · exact emit_keeps h
theorem stage1_keeps (h : Keeps s0 s) : Keeps s0 (stage1 tile slot c b e q vs s) :=
    foldl_keeps (fun _ _ h1 => by
    split
    · exact h1
    · exact putMat_keeps (updTile_keeps h1)) (ite_both (addPart_keeps (ite_both (writeState_keeps (countFlush_keeps h)) (writeState_keeps
        (writeState_keeps (countFlush_keeps h))))) (ite_both (writeState_keeps (countFlush_keeps h)) (writeState_keeps (writeState_keeps
        (countFlush_keeps h)))))
theorem mapBand_keeps {f : Nat → Nat → Nat → Fres} (h : Keeps s0 s) : Keeps s0 (mapBand tile slot acc k m f s) :=
  foldl_keeps (fun _ _ h1 => foldl_keeps (fun _ _ h2 => countFlush_keeps (putMat_keeps h2)) h1) h
theorem stageMid_keeps (h : Keeps s0 s) : Keeps s0 (stageMid tile slot c b pos stage s) :=
  ite_both (mapBand_keeps h) (ite_both (mapBand_keeps h) (mapBand_keeps h))
theorem stage5_keeps (h : Keeps s0 s) : KeepsRes s0 (stage5 tile slot p c b e q j s) := by
  unfold stage5
  refine ite_both keepsRes_wait ?_
  split
  · rename_i hs1
    have h1 := emit_keeps h _ hs1
    exact ite_both (keepsRes_done h1) (keepsRes_done (chargeHbm_keeps (countFlush_keeps (ite_both (addPart_keeps (writeState_keeps h1))
        (writeState_keeps h1)))))
  · exact emit_keeps h
theorem optStep_keeps (h : Keeps s0 s) : KeepsRes s0 (optStep tile slot c g j s) := by
  unfold optStep
  refine ite_both keepsRes_wait ?_
  split
  · rename_i hs1
    exact srcFault_keeps hs1
  · exact keepsRes_skip
  · exact ite_both keepsRes_skip (ite_both keepsRes_skip (ite_both keepsRes_skip (ite_both (optUnit_keeps (biasRecord_keeps h)) (ite_both
      (stage5_keeps (biasRecord_keeps h)) (emit_keeps (ite_both (biasRecord_keeps h) (ite_both (stage1_keeps (biasRecord_keeps h))
      (ite_both (biasRecord_keeps h) (stageMid_keeps (biasRecord_keeps h))))))))))
theorem execOpt_keeps {tile : LTile} {slot : Slot} (h : Keeps s0 s) : KeepsOut s0 (execOpt t tile slot s) :=
  keepsOut_next (runHead_keeps (fun _ _ _ _ h1 => optStep_keeps h1) (tick_keeps h))

end

/-! ### The mover -/

section
variable {s0 s : State}
variable {a bind cls coll fmt g kind n p q slot tile : Nat} {c : CqEnt} {prov round : Bool} {t : Time} {i : DWord} {b : BitVec 256} {d : Dig}
variable {v : Ent} {vs : List Ent} {acc : Fin 2048} {cq : Fin 8} {key : BitVec 12 × BitVec 4 × BitVec 8}

theorem pushOq_keeps {cs : List Cell} (h : Keeps s0 s) : KeepsOpt s0 (pushOq tile slot p cs s) := by
  induction cs generalizing s with
  | nil => exact keepsOpt_some h
  | cons c cs ih =>
    refine ite_both keepsOpt_none ?_
    split
    · rename_i hs
      exact ih (tileCause_keeps (allocSched_keeps h _ _ hs))
    · rename_i hs
      exact ih (updInst_keeps (bumpMax_keeps (bump_keeps (updTile_keeps (allocSched_keeps h _ _ hs)))))
theorem sendOther_keeps {c : Cell} (h : Keeps s0 s) : KeepsOpt s0 (sendOther tile cls c s) := by
  unfold sendOther
  refine ite_both (keepsOpt_some (pushMgmt_keeps h)) (ite_both (keepsOpt_some (sendCtlCell_keeps h)) ?_)
  split
  · exact enterUns_keeps h
  · exact keepsOpt_some (bump_keeps h)
  · exact keepsOpt_some (countForeign_keeps h)
theorem sendOthers_keeps {cls : Nat} {cs : List Cell} (h : Keeps s0 s) : KeepsOpt s0 (sendOthers tile cls cs s) := by
  induction cs generalizing s with
  | nil => exact keepsOpt_some h
  | cons c cs ih => exact bindState_keeps (sendOther_keeps h) (fun _ h1 => ih h1)
theorem notePcells_keeps (h : Keeps s0 s) : Keeps s0 (notePcells tile slot coll kind n s) := ite_both (addPart_keeps h) h
theorem sendUnit_keeps (h : Keeps s0 s) : KeepsRes s0 (sendUnit tile slot c cls kind fmt prov s) := by
  unfold sendUnit
  refine ite_both keepsRes_wait ?_
  split
  · rename_i hs1
    exact srcFault_keeps hs1
  · refine ite_both ?_ ?_
    · split
      · rename_i hs1
        have h1 := sendOthers_keeps (popSrc_keeps h) _ hs1
        exact keepsRes_done h1
      · exact keepsRes_wait
    · split
      · rename_i hs1
        have h1 := bind_keeps (fun _ => pushOq_keeps (popSrc_keeps h)) _ hs1
        exact keepsRes_done (notePcells_keeps h1)
      · exact keepsRes_wait
theorem execSend_keeps {tile : LTile} {slot : Slot} (h : Keeps s0 s) : KeepsOut s0 (execSend t tile slot s) :=
  keepsOut_next (runHead_keeps (fun _ _ _ _ h1 => sendUnit_keeps h1) (tick_keeps h))
theorem execMcast_keeps {tile : LTile} {slot : Slot} (h : Keeps s0 s) : KeepsOut s0 (execMcast t tile slot s) :=
  keepsOut_next (runHead_keeps (fun _ _ _ _ h1 => sendUnit_keeps h1) (tick_keeps h))
theorem rowUnit_keeps (h : Keeps s0 s) : KeepsRes s0 (rowUnit tile slot c g s) := by
  unfold rowUnit
  dsimp only
  split
  · exact keepsRes_wait
  · split
    · exact keepsRes_wait
    · rename_i hs1
      have h1 := bind_keeps (fun _ => pushOq_keeps h) _ hs1
      exact keepsRes_done (updTile_keeps (updInst_keeps h1))
theorem postUnit_keeps (h : Keeps s0 s) : Keeps s0 (postUnit tile slot i b s) := updInst_keeps h
theorem execStat_keeps {tile : LTile} {slot : Slot} (h : Keeps s0 s) : KeepsOut s0 (execStat t tile slot s) :=
  keepsOut_next (runHead_keeps (fun _ _ _ _ h1 => ite_both (keepsRes_done (postUnit_keeps h1)) (rowUnit_keeps h1)) (tick_keeps h))
theorem putDig_keeps (h : Keeps s0 s) : Keeps s0 (putDig tile slot d s) := updTile_keeps h
theorem closeGroup_keeps (h : Keeps s0 s) : Keeps s0 (closeGroup tile slot coll d s) :=
  ite_both h (bumpMax_keeps (putDig_keeps (openDig_keeps h)))
theorem digCell_keeps {c : Cell} (h : Keeps s0 s) : Keeps s0 (digCell tile slot coll bind round c s) :=
  ite_both (closeGroup_keeps h) (putDig_keeps h)
theorem foldContribs_keeps (h : Keeps s0 s) : Keeps s0 (foldContribs tile slot coll v s) :=
  foldl_keeps (fun _ _ h1 => updJob_keeps h1) (updTile_keeps h)
theorem fold_keeps (h : Keeps s0 s) : Keeps s0 (fold tile slot i b vs s) :=
    foldl_keeps (fun _ _ h1 => by
    refine ite_both h1 (ite_both (ite_both h1 (digCell_keeps h1)) (ite_both (foldContribs_keeps (putDig_keeps h1)) (ite_both ?_
        (addPart_keeps (putDig_keeps h1)))))
    split
    · exact ite_both h1 (updJob_keeps h1)
    · exact h1) h
theorem digestUnit_keeps (h : Keeps s0 s) : KeepsRes s0 (digestUnit tile slot c g s) := by
  unfold digestUnit
  refine ite_both keepsRes_wait ?_
  split
  · rename_i hs1
    exact srcFault_keeps hs1
  · refine ite_both keepsRes_wait ?_
    split
    · rename_i hs1
      have h1 := emit_keeps h _ hs1
      exact keepsRes_done (ite_both (closeGroup_keeps (fold_keeps h1)) (fold_keeps h1))
    · exact emit_keeps h
theorem releaseDigest_keeps (h : Keeps s0 s) : Keeps s0 (releaseDigest tile slot s) := by
  unfold releaseDigest
  split
  · exact ite_both (completeHead_keeps h) h
  · exact h
theorem execDigest_keeps {tile : LTile} {slot : Slot} (h : Keeps s0 s) : KeepsOut s0 (execDigest t tile slot s) :=
  keepsOut_next (releaseDigest_keeps (runHead_keeps (fun _ _ _ _ h1 => digestUnit_keeps h1) (tick_keeps h)))
theorem spillUnit_keeps (h : Keeps s0 s) : KeepsRes s0 (spillUnit tile slot c g s) := by
  unfold spillUnit
  refine ite_both keepsRes_skip ?_
  split
  · exact keepsRes_skip
  · exact keepsRes_wait
  · exact ite_both keepsRes_skip (ite_both keepsRes_wait (ite_both keepsRes_skip (keepsRes_done (chargeAcc_keeps (chargeHbm_keeps
      (updTile_keeps (updJob_keeps (setSat_keeps h))))))))
theorem releaseMover_keeps (h : Keeps s0 s) : Keeps s0 (releaseMover tile slot s) := by
  unfold releaseMover
  split
  · exact ite_both (completeHead_keeps h) h
  · exact h
theorem execSpill_keeps {tile : LTile} {slot : Slot} (h : Keeps s0 s) : KeepsOut s0 (execSpill t tile slot s) :=
  keepsOut_next (runHead_keeps (fun _ _ _ _ h1 => spillUnit_keeps h1) (tick_keeps h))
theorem spillAck_keeps (h : Keeps s0 s) : Keeps s0 (spillAck tile a s) := by
  unfold spillAck
  split
  · exact h
  · exact releaseMover_keeps (ite_both (updJob_keeps (updTile_keeps (updTile_keeps h))) (updTile_keeps (updTile_keeps h)))
theorem execSpillAck_keeps {tile : LTile} (h : Keeps s0 s) : KeepsOut s0 (execSpillAck t tile acc s) :=
  keepsOut_next (spillAck_keeps (tick_keeps h))
theorem resumeUnit_keeps (h : Keeps s0 s) : KeepsRes s0 (resumeUnit tile slot c g s) := by
  unfold resumeUnit
  refine ite_both keepsRes_skip (ite_both keepsRes_wait (ite_both keepsRes_skip (ite_both keepsRes_skip ?_)))
  split
  · exact keepsRes_wait
  · exact keepsRes_skip
  · exact keepsRes_done (chargeHbm_keeps (updTile_keeps h))
theorem execResume_keeps {tile : LTile} {slot : Slot} (h : Keeps s0 s) : KeepsOut s0 (execResume t tile slot s) :=
  keepsOut_next (runHead_keeps (fun _ _ _ _ h1 => resumeUnit_keeps h1) (tick_keeps h))
theorem resumeDone_keeps (h : Keeps s0 s) : Keeps s0 (resumeDone tile a s) := by
  unfold resumeDone
  split
  · exact h
  · refine releaseMover_keeps (ite_both (updTile_keeps (updJob_keeps (updTile_keeps h))) (ite_both (updTile_keeps (updTile_keeps h)) ?_))
    split
    · exact ite_both (skipHead_keeps (updTile_keeps (updTile_keeps h))) (updTile_keeps (updTile_keeps h))
    · exact updTile_keeps (updTile_keeps h)
theorem execResumeDone_keeps {tile : LTile} (h : Keeps s0 s) : KeepsOut s0 (execResumeDone t tile acc s) :=
  keepsOut_next (resumeDone_keeps (tick_keeps h))
theorem execNop_keeps {tile : LTile} {slot : Slot} (h : Keeps s0 s) : KeepsOut s0 (execNop t tile slot cq s) :=
  keepsOut_next (runHead_keeps (fun _ _ _ _ h1 => keepsRes_done h1) (tick_keeps h))
theorem dropHead_keeps (h : Keeps s0 s) : Keeps s0 (dropHead tile slot q s) := pumpTile_keeps (updTile_keeps h)
theorem sweep_keeps (h : Keeps s0 s) : Keeps s0 (sweep tile slot s) :=
    foldl_keeps (fun _ _ h1 => by
    split
    · exact ite_both (dropHead_keeps h1) h1
    · exact h1) h
theorem execBarrier_keeps {tile : LTile} {slot : Slot} (h : Keeps s0 s) : KeepsOut s0 (execBarrier t tile slot cq s) := by
  unfold execBarrier
  refine keepsOut_next ?_
  split
  · exact tick_keeps h
  · exact ite_both (tick_keeps h) (ite_both (sweep_keeps (runHead_keeps (fun _ _ _ _ h1 => keepsRes_done h1) (tick_keeps h))) (sweep_keeps
      (updHead_keeps (tick_keeps h))))
theorem freeBarrier_keeps (h : Keeps s0 s) : Keeps s0 (freeBarrier tile slot q s) := by
  unfold freeBarrier
  split
  · exact ite_both (sweep_keeps (completeHead_keeps h)) h
  · exact h
theorem reachGroup_keeps (h : Keeps s0 s) : Keeps s0 (reachGroup tile slot b key s) :=
    ite_both (updTile_keeps h) (foldl_keeps (fun _ _ h1 => by
    dsimp only
    split
    · exact freeBarrier_keeps (updTile_keeps h1)
    · exact updTile_keeps h1) (updTile_keeps h))
theorem barrierRelease_keeps (h : Keeps s0 s) : Keeps s0 (barrierRelease tile slot s) :=
    ite_both h (foldl_keeps (fun _ _ h1 => by
    split
    · exact h1
    · exact ite_both h1 (ite_both (reachGroup_keeps h1) (freeBarrier_keeps h1))) h)
theorem execBarrierRelease_keeps {tile : LTile} {slot : Slot} (h : Keeps s0 s) : KeepsOut s0 (execBarrierRelease t tile slot s) :=
  keepsOut_next (barrierRelease_keeps (tick_keeps h))
theorem takeEvent_keeps (h : Keeps s0 s) : Keeps s0 (takeEvent tile slot i s) := ite_both (updTile_keeps h) h
theorem waitUnit_keeps (h : Keeps s0 s) : KeepsRes s0 (waitUnit tile slot c s) := ite_both (keepsRes_done (takeEvent_keeps h)) keepsRes_wait
theorem waitRun_keeps {cq : Nat} (h : Keeps s0 s) : Keeps s0 (waitRun tile slot cq s) := runHead_keeps (fun _ _ _ _ h1 => waitUnit_keeps h1) h
theorem execWait_keeps {tile : LTile} {slot : Slot} (h : Keeps s0 s) : KeepsOut s0 (execWait t tile slot cq s) :=
  keepsOut_next (waitRun_keeps (tick_keeps h))
theorem execWaitRelease_keeps {tile : LTile} {slot : Slot} (h : Keeps s0 s) : KeepsOut s0 (execWaitRelease t tile slot cq s) := by
  unfold execWaitRelease
  refine keepsOut_next ?_
  split
  · exact ite_both (waitRun_keeps (tick_keeps h)) (tick_keeps h)
  · exact tick_keeps h

end

/-! ### The pilot core -/

section
variable {s0 s : State}
variable {cause code q slot tile : Nat} {g : BitVec 128} {t : Time} {f : State → State} {_v v : Word} {cq : Fin 8}

theorem runTrigger_keeps (h : Keeps s0 s) : Keeps s0 (runTrigger tile slot g s) :=
  foldl_keeps (fun _ _ h1 => dispatch_keeps (traceDisp_keeps h1)) h
theorem triggerDispatch_keeps (h : Keeps s0 s) : Keeps s0 (triggerDispatch tile s) := by
  unfold triggerDispatch
  refine ite_both h ?_
  split
  · exact h
  · exact ite_both (updTile_keeps h) (foldl_keeps (fun _ _ h1 => runTrigger_keeps h1) (updTile_keeps h))
theorem execTriggerDispatch_keeps {tile : LTile} (h : Keeps s0 s) : KeepsOut s0 (execTriggerDispatch t tile s) :=
  keepsOut_next (triggerDispatch_keeps (tick_keeps h))
theorem pilotDo_keeps (hf : ∀ s, Keeps s0 s → Keeps s0 (f s)) (h : Keeps s0 s) : Keeps s0 (pilotDo tile f s) := ite_both h (hf _ h)
theorem tpcmdhi_keeps (h : Keeps s0 s) : Keeps s0 (tpcmdhi tile v s) := dispatch_keeps h
theorem execTpcmdhiWrite_keeps {tile : LTile} (h : Keeps s0 s) : KeepsOut s0 (execTpcmdhiWrite t tile v s) :=
  keepsOut_next (pilotDo_keeps (fun _ h1 => tpcmdhi_keeps h1) (tick_keeps h))
theorem tprunb_keeps (h : Keeps s0 s) : Keeps s0 (tprunb tile v s) := ite_both h (dispatch_keeps (traceDisp_keeps h))
theorem execTprunbWrite_keeps {tile : LTile} (h : Keeps s0 s) : KeepsOut s0 (execTprunbWrite t tile v s) :=
  keepsOut_next (pilotDo_keeps (fun _ h1 => tprunb_keeps h1) (tick_keeps h))
theorem tpevqRead_keeps (h : Keeps s0 s) : Keeps s0 (tpevqRead tile s) := by
  unfold tpevqRead
  exact updDev_keeps (updTile_keeps h)
theorem execTpevqRead_keeps {tile : LTile} (h : Keeps s0 s) : KeepsOut s0 (execTpevqRead t tile s) :=
  keepsOut_next (pilotDo_keeps (fun _ h1 => tpevqRead_keeps h1) (tick_keeps h))
theorem tpflag_keeps (h : Keeps s0 s) : Keeps s0 (tpflag tile v s) := ite_both h (updTile_keeps h)
theorem execTpflagWrite_keeps {tile : LTile} (h : Keeps s0 s) : KeepsOut s0 (execTpflagWrite t tile v s) :=
  keepsOut_next (pilotDo_keeps (fun _ h1 => tpflag_keeps h1) (tick_keeps h))
theorem tpaccrel_keeps (h : Keeps s0 s) : Keeps s0 (tpaccrel tile v s) := ite_both h (updTile_keeps h)
theorem execTpaccrelWrite_keeps {tile : LTile} (h : Keeps s0 s) : KeepsOut s0 (execTpaccrelWrite t tile v s) :=
  keepsOut_next (pilotDo_keeps (fun _ h1 => tpaccrel_keeps h1) (tick_keeps h))
theorem tpcellpop_keeps (h : Keeps s0 s) : Keeps s0 (tpcellpop tile s) := by
  unfold tpcellpop
  dsimp only
  split
  · exact h
  · exact popIq_keeps h
theorem execTpcellpopWrite_keeps {tile : LTile} (h : Keeps s0 s) : KeepsOut s0 (execTpcellpopWrite t tile _v s) :=
  keepsOut_next (pilotDo_keeps (fun _ h1 => tpcellpop_keeps h1) (tick_keeps h))
theorem tpcellsend_keeps (h : Keeps s0 s) : Keeps s0 (tpcellsend tile s) := ite_both (sendCtlCell_keeps h) h
theorem execTpcellsendWrite_keeps {tile : LTile} (h : Keeps s0 s) : KeepsOut s0 (execTpcellsendWrite t tile _v s) :=
  keepsOut_next (pilotDo_keeps (fun _ h1 => tpcellsend_keeps h1) (tick_keeps h))
theorem tpwdog_keeps (h : Keeps s0 s) : Keeps s0 (tpwdog tile s) := updTile_keeps h
theorem execTpwdogWrite_keeps {tile : LTile} (h : Keeps s0 s) : KeepsOut s0 (execTpwdogWrite t tile _v s) :=
  keepsOut_next (pilotDo_keeps (fun _ h1 => tpwdog_keeps h1) (tick_keeps h))
theorem watchdogSnapshot_keeps (h : Keeps s0 s) : Keeps s0 (watchdogSnapshot tile cause s) := ite_both h (snapshot_keeps h)
theorem pilotWatchdog_keeps (h : Keeps s0 s) : Keeps s0 (pilotWatchdog tile s) := by
  unfold pilotWatchdog
  split
  · exact h
  · exact ite_both h (startIslandReset_keeps (ite_both (trcReason_keeps (logCode_keeps (trcReason_keeps (logCode_keeps
      (watchdogSnapshot_keeps h))))) (trcReason_keeps (logCode_keeps (watchdogSnapshot_keeps h)))))
theorem execPilotWatchdog_keeps {tile : LTile} (h : Keeps s0 s) : KeepsOut s0 (execPilotWatchdog t tile s) :=
  keepsOut_next (pilotWatchdog_keeps (tick_keeps h))
theorem jobIncomplete_keeps (h : Keeps s0 s) : Keeps s0 (jobIncomplete tile slot code s) :=
  foldl_keeps (fun _ _ h1 => ite_both (tileCause_keeps h1) h1) h
theorem queueWatchdog_keeps (h : Keeps s0 s) : Keeps s0 (queueWatchdog tile slot q s) :=
  ite_both h (jobIncomplete_keeps (discardQueued_keeps (updTile_keeps (trcReason_keeps (logCode_keeps (watchdogSnapshot_keeps h))))))
theorem execQueueWatchdog_keeps {tile : LTile} {slot : Slot} (h : Keeps s0 s) : KeepsOut s0 (execQueueWatchdog t tile slot cq s) :=
  keepsOut_next (queueWatchdog_keeps (tick_keeps h))

end

/-! ### Registers -/

section
variable {s0 s : State}
variable {addr v : Word} {a cause k n off p r size tile tval : Nat} {t : Time} {f : State → State} {write : Bool} {bus : RegBus}

theorem answer_keeps {v : Nat} (h : Keeps s0 s) : Keeps s0 (answer v s) := updDev_keeps h
theorem windowRead_keeps (h : Keeps s0 s) : Keeps s0 (windowRead off n s) := ite_both (markDev_keeps (updDev_keeps h)) (answer_keeps h)
theorem evrWindowRead_keeps (h : Keeps s0 s) : Keeps s0 (evrWindowRead off n s) := ite_both (updDev_keeps (updObs_keeps h)) (answer_keeps h)
theorem read4_keeps (h : Keeps s0 s) : Keeps s0 (read4 a s) := by
  unfold read4
  refine ite_both (windowRead_keeps h) (ite_both (evrWindowRead_keeps h) ?_)
  split
  · exact ite_both (answer_keeps (updDev_keeps h)) (answer_keeps h)
  · exact ite_both (answer_keeps h) (accErr_keeps (answer_keeps h))
  · exact answer_keeps h
  · exact accErr_keeps (answer_keeps h)
theorem readReg_keeps (h : Keeps s0 s) : Keeps s0 (readReg a n s) := by
  unfold readReg
  refine ite_both (accErr_keeps (answer_keeps h)) (ite_both (read4_keeps h) (ite_both (windowRead_keeps h) (ite_both (evrWindowRead_keeps
      h) ?_)))
  split
  · exact answer_keeps h
  · exact answer_keeps (read4_keeps (read4_keeps h))
theorem bar0Read_keeps (hf : ∀ s, Keeps s0 s → Keeps s0 (f s)) (h : Keeps s0 s) : Keeps s0 (bar0Read t f s) :=
  ite_both (answer_keeps (tick_keeps h)) (ite_both (accErr_keeps (answer_keeps (tick_keeps h))) (hf _ (tick_keeps h)))
theorem execLowHalfRead_keeps (h : Keeps s0 s) : KeepsOut s0 (execLowHalfRead t addr size s) :=
  keepsOut_next (bar0Read_keeps (fun _ h1 => readReg_keeps h1) h)
theorem execDiagWindowRead_keeps {off : Word} (h : Keeps s0 s) : KeepsOut s0 (execDiagWindowRead t off size s) :=
  keepsOut_next (bar0Read_keeps (fun _ h1 => windowRead_keeps h1) h)
theorem writeBase_keeps {v : DWord} (h : Keeps s0 s) : Keeps s0 (writeBase r v s) := ite_both h (updRing_keeps h)
theorem writeCbase_keeps {v : DWord} (h : Keeps s0 s) : Keeps s0 (writeCbase r v s) := ite_both h (updRing_keeps h)
theorem writeDbbase_keeps {v : DWord} (h : Keeps s0 s) : Keeps s0 (writeDbbase v s) := ite_both h (updHost_keeps h)
theorem writeTideSwitch_keeps {v : DWord} (h : Keeps s0 s) : Keeps s0 (writeTideSwitch v s) := ite_both h (updTide_keeps h)
theorem write64_keeps {v : DWord} (h : Keeps s0 s) : Keeps s0 (write64 a v s) := by
  unfold write64
  refine ite_both (writeTideSwitch_keeps h) (ite_both ?_ (ite_both (writeDbbase_keeps h) (ite_both (updTwin_keeps h) (ite_both
      (writeMonRetire_keeps h) (ite_both (writeCursor_keeps h) (ite_both (writeHwm_keeps h) h))))))
  dsimp only
  split
  · exact writeBase_keeps h
  · exact writeCbase_keeps h
  · exact h
theorem writeDevStat_keeps (h : Keeps s0 s) : Keeps s0 (writeDevStat v s) := updDev_keeps h
theorem writeDwsel_keeps (h : Keeps s0 s) : Keeps s0 (writeDwsel v s) := updDev_keeps h
theorem writePortDelay_keeps (h : Keeps s0 s) : Keeps s0 (writePortDelay n v s) := ite_both (updPort_keeps h) h
theorem writeMonIsland_keeps (h : Keeps s0 s) : Keeps s0 (writeMonIsland p v s) := updIsland_keeps h
theorem writeClkStat_keeps (h : Keeps s0 s) : Keeps s0 (writeClkStat v s) := updClk_keeps h
theorem writeWdog_keeps (h : Keeps s0 s) : Keeps s0 (writeWdog v s) := ite_both (trcReason_keeps h) (updObs_keeps h)
theorem writeRate_keeps (h : Keeps s0 s) : Keeps s0 (writeRate v s) := by
  unfold writeRate
  exact updObs_keeps h
theorem writeMsix_keeps (h : Keeps s0 s) : Keeps s0 (writeMsix k v s) :=
  ite_both (sendMsix_keeps (updHost_keeps (updHost_keeps h))) (updHost_keeps h)
theorem write32_keeps (h : Keeps s0 s) : Keeps s0 (write32 a v s) := by
  unfold write32
  refine ite_both (writeDevCtl_keeps h) (ite_both (writeDevStat_keeps h) (ite_both (writeDevId_keeps h) (ite_both (writeDwsel_keeps h)
      (ite_both (writeTideCtl_keeps h) (ite_both (ite_both (writeRingCtl_keeps h) h) (ite_both (writeTwinCtl_keeps h) (ite_both ?_
      (ite_both (writeClkTile_keeps h) (ite_both (writeClkStat_keeps h) (ite_both (updClk_keeps h) (ite_both (writePwrTile_keeps h)
      (ite_both (updClk_keeps h) (ite_both (updClk_keeps h) (ite_both (updClk_keeps h) (ite_both (writeMonSpare_keeps h) (ite_both
      (writeMonIsland_keeps h) (ite_both (updObs_keeps h) (ite_both (writeRate_keeps h) (ite_both (updObs_keeps h) (ite_both (updObs_keeps
      h) (ite_both (writeTrcCtl_keeps h) (ite_both (writeWdog_keeps h) (ite_both (writePsel_keeps h) (ite_both (writeMsix_keeps h)
      h))))))))))))))))))))))))
  dsimp only
  split
  · exact writePortCtl_keeps h
  · exact writePortDelay_keeps h
  · exact ite_both (writePortSleep_keeps h) h
  · exact h
theorem writeLow_keeps (h : Keeps s0 s) : Keeps s0 (writeLow a v s) := updDev_keeps h
theorem writeHigh_keeps (h : Keeps s0 s) : Keeps s0 (writeHigh a v s) := write64_keeps (updDev_keeps h)
theorem write4_keeps (h : Keeps s0 s) : Keeps s0 (write4 a v s) :=
  ite_both (writeLow_keeps h) (ite_both (writeHigh_keeps h) (ite_both (write32_keeps h) (ite_both h (accErr_keeps h))))
theorem writeReg_keeps {v : DWord} (h : Keeps s0 s) : Keeps s0 (writeReg a n v s) :=
  ite_both (accErr_keeps h) (ite_both (write4_keeps h) (ite_both (write64_keeps h) (write4_keeps (write4_keeps h))))
theorem execLowHalfWrite_keeps (h : Keeps s0 s) : KeepsOut s0 (execLowHalfWrite t addr v s) :=
  keepsOut_next (bar0_keeps (fun _ h1 => ite_both (writeLow_keeps h1) h1) h)
theorem execHighHalfWrite_keeps (h : Keeps s0 s) : KeepsOut s0 (execHighHalfWrite t addr v s) :=
  keepsOut_next (bar0_keeps (fun _ h1 => ite_both (writeHigh_keeps h1) h1) h)
theorem execAccessError_keeps (h : Keeps s0 s) : KeepsOut s0 (execAccessError t addr size write s) :=
  keepsOut_next (ite_both (tick_keeps h) (ite_both (accErr_keeps (ite_both (tick_keeps h) (answer_keeps (tick_keeps h)))) (tick_keeps h)))
theorem pilotTrap_keeps (h : Keeps s0 s) : Keeps s0 (pilotTrap tile cause tval s) := updTile_keeps h
theorem pilotCsrWrite_keeps (h : Keeps s0 s) : Keeps s0 (pilotCsrWrite tile a v s) := by
  unfold pilotCsrWrite
  dsimp only
  split
  · exact updTile_keeps h
  · exact updTile_keeps h
  · exact updTile_keeps h
  · exact updTile_keeps h
  · exact updTile_keeps h
  · exact updTile_keeps h
  · exact updTile_keeps h
  · exact tpcmdhi_keeps h
  · exact updTile_keeps h
  · exact tprunb_keeps h
  · exact updTile_keeps h
  · exact h
  · exact tpflag_keeps h
  · exact tpaccrel_keeps h
  · exact updTile_keeps h
  · exact tpcellpop_keeps h
  · exact tpcellsend_keeps h
  · exact tpwdog_keeps h
  · exact updTile_keeps h
  · exact pilotTrap_keeps h
theorem pilotStore_keeps {v : DWord} (h : Keeps s0 s) : Keeps s0 (pilotStore tile a n v s) :=
  ite_both (updTile_keeps h) (ite_both (updTile_keeps h) (ite_both (updTile_keeps h) (ite_both (updTile_keeps h) (pilotTrap_keeps h))))
theorem execRegisterWrite_keeps {v : DWord} (h : Keeps s0 s) : KeepsOut s0 (execRegisterWrite t bus addr size v s) := by
  unfold execRegisterWrite
  refine keepsOut_next ?_
  split
  · exact bar0_keeps (fun _ h1 => writeReg_keeps h1) h
  · exact pilotDo_keeps (fun _ h1 => pilotCsrWrite_keeps h1) (tick_keeps h)
  · exact pilotDo_keeps (fun _ h1 => pilotStore_keeps h1) (tick_keeps h)

end

/-! ### Replay -/

section
variable {s0 s : State}
variable {coll k slot : Nat} {x : Exec} {data : List Byte} {t : Time} {cmd : HostCmd}

theorem armReplay_keeps (h : Keeps s0 s) : Keeps s0 (armReplay slot coll k s) := startInst_keeps h
theorem beginReplay_keeps (h : Keeps s0 s) : Keeps s0 (beginReplay slot x data s) :=
  foldl_keeps (fun _ _ h1 => hostWrite_keeps h1) (withFree_keeps (foldl_keeps (fun _ _ h1 => armReplay_keeps h1) (updJob_keeps h)))
theorem stepReplay_keeps (h : Keeps s0 s) : Keeps s0 (stepReplay x data s) := by
  unfold stepReplay
  split
  · exact refuse_keeps h
  · split
    · exact refuse_keeps h
    · exact postCompletion_keeps (beginExec_keeps (beginReplay_keeps h))
theorem execStepReplay_keeps (h : Keeps s0 s) : KeepsOut s0 (execStepReplay t cmd s) :=
  keepsOut_next (hostCmd_keeps (fun _ _ h1 => stepReplay_keeps h1) h)
theorem replayDone_keeps (h : Keeps s0 s) : Keeps s0 (replayDone slot s) := by
  unfold replayDone
  dsimp only
  split
  · exact h
  · exact ite_both (finish_keeps (endReplay_keeps (foldl_keeps (fun _ _ h1 => hostWrite_keeps h1) (withFree_keeps h)))) (ite_both
      (finish_keeps (endReplay_keeps h)) h)
theorem execStepReplayDone_keeps {slot : Slot} (h : Keeps s0 s) : KeepsOut s0 (execStepReplayDone t slot s) :=
  keepsOut_next (replayDone_keeps (tick_keeps h))

end

/-! ### Sideband -/

section
variable {s0 s : State}
variable {bs : State → List Byte} {t : Time} {temp watts : BitVec 16} {cmd opcode : Byte} {write : Bool} {sda : List Bool} {op : Nat}

theorem smbAnswer_keeps (h : Keeps s0 s) : Keeps s0 (smbAnswer bs s) := ite_both (updSide_keeps h) (updSide_keeps h)
theorem execSmbReadIdcode_keeps (h : Keeps s0 s) : KeepsOut s0 (execSmbReadIdcode t s) := keepsOut_next (smbAnswer_keeps (tick_keeps h))
theorem execSmbReadSerial_keeps (h : Keeps s0 s) : KeepsOut s0 (execSmbReadSerial t s) := keepsOut_next (smbAnswer_keeps (tick_keeps h))
theorem execSmbReadStatus_keeps (h : Keeps s0 s) : KeepsOut s0 (execSmbReadStatus t s) := keepsOut_next (smbAnswer_keeps (tick_keeps h))
theorem execSmbReadTemp_keeps (h : Keeps s0 s) : KeepsOut s0 (execSmbReadTemp t s) := keepsOut_next (smbAnswer_keeps (tick_keeps h))
theorem execSmbReadPower_keeps (h : Keeps s0 s) : KeepsOut s0 (execSmbReadPower t watts s) := keepsOut_next (smbAnswer_keeps (tick_keeps h))
theorem execSmbReadHbmTemp_keeps (h : Keeps s0 s) : KeepsOut s0 (execSmbReadHbmTemp t temp s) :=
  keepsOut_next (smbAnswer_keeps (tick_keeps h))
theorem execSmbUnsupported_keeps (h : Keeps s0 s) : KeepsOut s0 (execSmbUnsupported t cmd write s) :=
  keepsOut_next (ite_both (updSide_keeps (tick_keeps h)) (tick_keeps h))
theorem execSmbAlertResponse_keeps (h : Keeps s0 s) : KeepsOut s0 (execSmbAlertResponse t s) :=
  keepsOut_next (ite_both (updSide_keeps (tick_keeps h)) (updSide_keeps (tick_keeps h)))
theorem execSmbTimeout_keeps (h : Keeps s0 s) : KeepsOut s0 (execSmbTimeout t s) := keepsOut_next (updSide_keeps (tick_keeps h))
theorem i2cClear_keeps (h : Keeps s0 s) : Keeps s0 (i2cClear sda s) := by
  unfold i2cClear
  exact updSide_keeps h
theorem execI2cBusClear_keeps (h : Keeps s0 s) : KeepsOut s0 (execI2cBusClear t sda s) :=
  keepsOut_next (ite_both (tick_keeps h) (ite_both (clkReason_keeps (logCode_keeps (i2cClear_keeps (tick_keeps h)))) (i2cClear_keeps
      (tick_keeps h))))
theorem execI2cStuckRetry_keeps (h : Keeps s0 s) : KeepsOut s0 (execI2cStuckRetry t sda s) :=
  keepsOut_next (ite_both (tick_keeps h) (i2cClear_keeps (tick_keeps h)))
theorem jtagSelect_keeps (h : Keeps s0 s) : Keeps s0 (jtagSelect op s) := updSide_keeps h
theorem execIdcode_keeps (h : Keeps s0 s) : KeepsOut s0 (execIdcode t s) := keepsOut_next (jtagSelect_keeps (tick_keeps h))
theorem execSamplePreload_keeps (h : Keeps s0 s) : KeepsOut s0 (execSamplePreload t s) := keepsOut_next (jtagSelect_keeps (tick_keeps h))
theorem execExtest_keeps (h : Keeps s0 s) : KeepsOut s0 (execExtest t s) := keepsOut_next (jtagSelect_keeps (tick_keeps h))
theorem execExtestPulse_keeps (h : Keeps s0 s) : KeepsOut s0 (execExtestPulse t s) := keepsOut_next (jtagSelect_keeps (tick_keeps h))
theorem execExtestTrain_keeps (h : Keeps s0 s) : KeepsOut s0 (execExtestTrain t s) := keepsOut_next (jtagSelect_keeps (tick_keeps h))
theorem execClamp_keeps (h : Keeps s0 s) : KeepsOut s0 (execClamp t s) := keepsOut_next (jtagSelect_keeps (tick_keeps h))
theorem execHighz_keeps (h : Keeps s0 s) : KeepsOut s0 (execHighz t s) := keepsOut_next (jtagSelect_keeps (tick_keeps h))
theorem execFlashprog_keeps (h : Keeps s0 s) : KeepsOut s0 (execFlashprog t s) := keepsOut_next (jtagSelect_keeps (tick_keeps h))
theorem execBypass_keeps (h : Keeps s0 s) : KeepsOut s0 (execBypass t opcode s) := keepsOut_next (jtagSelect_keeps (tick_keeps h))

end

/-! ### Every command -/

/-- Every command keeps fabric time, host memory's form and the queue. -/
theorem exec_keeps (c : Instr) (s : State) : KeepsOut s (exec c s) := by
  have h0 := Keeps.refl s
  cases c with
  | jobLoad => exact execJobLoad_keeps h0
  | jobStart => exact execJobStart_keeps h0
  | jobStop => exact execJobStop_keeps h0
  | jobStopped => exact execJobStopped_keeps h0
  | jobQuota => exact execJobQuota_keeps h0
  | collDefine => exact execCollDefine_keeps h0
  | tideLoad => exact execTideLoad_keeps h0
  | stateWrite => exact execStateWrite_keeps h0
  | stateRead => exact execStateRead_keeps h0
  | shardEncode => exact execShardEncode_keeps h0
  | shardRebuild => exact execShardRebuild_keeps h0
  | stepReplay => exact execStepReplay_keeps h0
  | stepReplayDone => exact execStepReplayDone_keeps h0
  | tileSelftest => exact execTileSelftest_keeps h0
  | fwStage => exact execFwStage_keeps h0
  | fwActivate => exact execFwActivate_keeps h0
  | fwActivation => exact execFwActivation_keeps h0
  | traceArm => exact execTraceArm_keeps h0
  | traceStop => exact execTraceStop_keeps h0
  | traceCopyOut => exact execTraceCopyOut_keeps h0
  | dump => exact execDump_keeps h0
  | telemDrain => exact execTelemDrain_keeps h0
  | doorbellPoll => exact execDoorbellPoll_keeps h0
  | descriptorPickup => exact execDescriptorPickup_keeps h0
  | msixTimedMessage => exact execMsixTimedMessage_keeps h0
  | ringEnable => exact execRingEnable_keeps h0
  | ringDisable => exact execRingDisable_keeps h0
  | functionLevelReset => exact execFunctionLevelReset_keeps h0
  | hotReset => exact execHotReset_keeps h0
  | linkDown => exact execLinkDown_keeps h0
  | perstN => exact execPerstN_keeps h0
  | harbourmasterRestart => exact execHarbourmasterRestart_keeps h0
  | tideEnable => exact execTideEnable_keeps h0
  | tideDisable => exact execTideDisable_keeps h0
  | tideBankSwitch => exact execTideBankSwitch_keeps h0
  | tideHoldEnd => exact execTideHoldEnd_keeps h0
  | tideSlot => exact execTideSlot_keeps h0
  | matchQuad => exact execMatchQuad_keeps h0
  | slotReceived => exact execSlotReceived_keeps h0
  | replayTimeout => exact execReplayTimeout_keeps h0
  | wreq => exact execWreq_keeps h0
  | wack => exact execWack_keeps h0
  | wdraw => exact execWdraw_keeps h0
  | switch => exact execSwitch_keeps h0
  | rtreq => exact execRtreq_keeps h0
  | rtack => exact execRtack_keeps h0
  | fecon => exact execFecon_keeps h0
  | fecoff => exact execFecoff_keeps h0
  | fecack => exact execFecack_keeps h0
  | portEnable => exact execPortEnable_keeps h0
  | portDisable => exact execPortDisable_keeps h0
  | portRetrain => exact execPortRetrain_keeps h0
  | fecRequest => exact execFecRequest_keeps h0
  | widthRequest => exact execWidthRequest_keeps h0
  | loopbackRequest => exact execLoopbackRequest_keeps h0
  | trainingWord => exact execTrainingWord_keeps h0
  | trainingPhaseTimeout => exact execTrainingPhaseTimeout_keeps h0
  | trainingRetry => exact execTrainingRetry_keeps h0
  | lossOfSignal => exact execLossOfSignal_keeps h0
  | lossOfLock => exact execLossOfLock_keeps h0
  | frameLoss => exact execFrameLoss_keeps h0
  | laneLost => exact execLaneLost_keeps h0
  | marginScan => exact execMarginScan_keeps h0
  | wakeSignal => exact execWakeSignal_keeps h0
  | sleepRequestLight => exact execSleepRequestLight_keeps h0
  | sleepRequestDeep => exact execSleepRequestDeep_keeps h0
  | wakeCommand => exact execWakeCommand_keeps h0
  | sleep => exact execSleep_keeps h0
  | sleepAck => exact execSleepAck_keeps h0
  | sleepNak => exact execSleepNak_keeps h0
  | sleepTimeout => exact execSleepTimeout_keeps h0
  | sleepEntryDone => exact execSleepEntryDone_keeps h0
  | sleepExitDone => exact execSleepExitDone_keeps h0
  | hello => exact execHello_keeps h0
  | helloTimer => exact execHelloTimer_keeps h0
  | adjacencyTimeout => exact execAdjacencyTimeout_keeps h0
  | endpointDetect => exact execEndpointDetect_keeps h0
  | lsaOriginate => exact execLsaOriginate_keeps h0
  | lsaPart => exact execLsaPart_keeps h0
  | lsaAck => exact execLsaAck_keeps h0
  | lsaRetransmit => exact execLsaRetransmit_keeps h0
  | lsaExpiry => exact execLsaExpiry_keeps h0
  | routeInstall => exact execRouteInstall_keeps h0
  | timeExchange => exact execTimeExchange_keeps h0
  | timeReq => exact execTimeReq_keeps h0
  | timeResp => exact execTimeResp_keeps h0
  | startTideExchange => exact execStartTideExchange_keeps h0
  | tideReady => exact execTideReady_keeps h0
  | tideDecision => exact execTideDecision_keeps h0
  | tideGo => exact execTideGo_keeps h0
  | tideCancel => exact execTideCancel_keeps h0
  | tideWithdraw => exact execTideWithdraw_keeps h0
  | tideGoDeadline => exact execTideGoDeadline_keeps h0
  | ppsEdge => exact execPpsEdge_keeps h0
  | ppsLoss => exact execPpsLoss_keeps h0
  | devEnable => exact execDevEnable_keeps h0
  | devDisable => exact execDevDisable_keeps h0
  | devIdWrite => exact execDevIdWrite_keeps h0
  | fallbackId => exact execFallbackId_keeps h0
  | contributionCell => exact execContributionCell_keeps h0
  | partialCell => exact execPartialCell_keeps h0
  | egressCell => exact execEgressCell_keeps h0
  | shuffleFragment => exact execShuffleFragment_keeps h0
  | passCell => exact execPassCell_keeps h0
  | unscheduledCell => exact execUnscheduledCell_keeps h0
  | creditHoldRetry => exact execCreditHoldRetry_keeps h0
  | slipLimit => exact execSlipLimit_keeps h0
  | bufferFree => exact execBufferFree_keeps h0
  | auditorStep => exact execAuditorStep_keeps h0
  | launch => exact execLaunch_keeps h0
  | prearmedFiring => exact execPrearmedFiring_keeps h0
  | lateDeadline => exact execLateDeadline_keeps h0
  | statSend => exact execStatSend_keeps h0
  | statCell => exact execStatCell_keeps h0
  | verdictDeadline => exact execVerdictDeadline_keeps h0
  | twinDecision => exact execTwinDecision_keeps h0
  | stepVerdict => exact execStepVerdict_keeps h0
  | instanceVerdict => exact execInstanceVerdict_keeps h0
  | commitWordAck => exact execCommitWordAck_keeps h0
  | clipOrder => exact execClipOrder_keeps h0
  | nop => exact execNop_keeps h0
  | barrier => exact execBarrier_keeps h0
  | barrierRelease => exact execBarrierRelease_keeps h0
  | wait => exact execWait_keeps h0
  | waitRelease => exact execWaitRelease_keeps h0
  | cvt => exact execCvt_keeps h0
  | qnt => exact execQnt_keeps h0
  | addw => exact execAddw_keeps h0
  | maxl => exact execMaxl_keeps h0
  | minl => exact execMinl_keeps h0
  | fastsum => exact execFastsum_keeps h0
  | proj => exact execProj_keeps h0
  | recon => exact execRecon_keeps h0
  | elem => exact execElem_keeps h0
  | stat => exact execStat_keeps h0
  | opt => exact execOpt_keeps h0
  | ortho => exact execOrtho_keeps h0
  | digest => exact execDigest_keeps h0
  | spill => exact execSpill_keeps h0
  | spillAck => exact execSpillAck_keeps h0
  | resume => exact execResume_keeps h0
  | resumeDone => exact execResumeDone_keeps h0
  | send => exact execSend_keeps h0
  | mcast => exact execMcast_keeps h0
  | triggerDispatch => exact execTriggerDispatch_keeps h0
  | tpcmdhiWrite => exact execTpcmdhiWrite_keeps h0
  | tprunbWrite => exact execTprunbWrite_keeps h0
  | tpevqRead => exact execTpevqRead_keeps h0
  | tpflagWrite => exact execTpflagWrite_keeps h0
  | tpaccrelWrite => exact execTpaccrelWrite_keeps h0
  | tpcellpopWrite t tile v => exact execTpcellpopWrite_keeps (_v := v) h0
  | tpcellsendWrite t tile v => exact execTpcellsendWrite_keeps (_v := v) h0
  | tpwdogWrite t tile v => exact execTpwdogWrite_keeps (_v := v) h0
  | pilotWatchdog => exact execPilotWatchdog_keeps h0
  | queueWatchdog => exact execQueueWatchdog_keeps h0
  | twinEnable => exact execTwinEnable_keeps h0
  | twinDisable => exact execTwinDisable_keeps h0
  | twinCmdOut => exact execTwinCmdOut_keeps h0
  | twinCmdResync => exact execTwinCmdResync_keeps h0
  | twinCmdRejoin => exact execTwinCmdRejoin_keeps h0
  | moor => exact execMoor_keeps h0
  | moorTimer => exact execMoorTimer_keeps h0
  | moorTimeout => exact execMoorTimeout_keeps h0
  | digestCell => exact execDigestCell_keeps h0
  | digestCompareTimeout => exact execDigestCompareTimeout_keeps h0
  | jobnoteOut => exact execJobnoteOut_keeps h0
  | jobnoteServe => exact execJobnoteServe_keeps h0
  | jobnoteQuery => exact execJobnoteQuery_keeps h0
  | jobnoteReply => exact execJobnoteReply_keeps h0
  | queryTimeout => exact execQueryTimeout_keeps h0
  | xferReq => exact execXferReq_keeps h0
  | xferGrant => exact execXferGrant_keeps h0
  | xferWithdraw => exact execXferWithdraw_keeps h0
  | xferRejoin => exact execXferRejoin_keeps h0
  | xferEnd => exact execXferEnd_keeps h0
  | copy => exact execCopy_keeps h0
  | resyncPassEnd => exact execResyncPassEnd_keeps h0
  | spareGo => exact execSpareGo_keeps h0
  | retireClear => exact execRetireClear_keeps h0
  | tileAlarm => exact execTileAlarm_keeps h0
  | droop => exact execDroop_keeps h0
  | timingWarning => exact execTimingWarning_keeps h0
  | timingAlarm => exact execTimingAlarm_keeps h0
  | patrolScrub => exact execPatrolScrub_keeps h0
  | oppRequest => exact execOppRequest_keeps h0
  | autoOppSelect => exact execAutoOppSelect_keeps h0
  | voutReached => exact execVoutReached_keeps h0
  | crossingLimitBreach => exact execCrossingLimitBreach_keeps h0
  | limitHoldRelease => exact execLimitHoldRelease_keeps h0
  | neighbourRaise => exact execNeighbourRaise_keeps h0
  | gateIsland => exact execGateIsland_keeps h0
  | wakeIsland => exact execWakeIsland_keeps h0
  | islandWakeDone => exact execIslandWakeDone_keeps h0
  | islandReset => exact execIslandReset_keeps h0
  | refclkLost => exact execRefclkLost_keeps h0
  | brownoutWarning => exact execBrownoutWarning_keeps h0
  | brownoutHoldEnd => exact execBrownoutHoldEnd_keeps h0
  | brownoutReset => exact execBrownoutReset_keeps h0
  | coldReset => exact execColdReset_keeps h0
  | warmReset => exact execWarmReset_keeps h0
  | bootWatchdog => exact execBootWatchdog_keeps h0
  | bootReady => exact execBootReady_keeps h0
  | overtempWarning => exact execOvertempWarning_keeps h0
  | thermalTrip => exact execThermalTrip_keeps h0
  | lowHalfRead => exact execLowHalfRead_keeps h0
  | lowHalfWrite => exact execLowHalfWrite_keeps h0
  | highHalfWrite => exact execHighHalfWrite_keeps h0
  | registerWrite => exact execRegisterWrite_keeps h0
  | accessError => exact execAccessError_keeps h0
  | diagWindowRead => exact execDiagWindowRead_keeps h0
  | hwmCounterWrite t addr v => exact execHwmCounterWrite_keeps (_v := v) h0
  | counterClear => exact execCounterClear_keeps h0
  | attributionClear => exact execAttributionClear_keeps h0
  | profileSelect => exact execProfileSelect_keeps h0
  | evrCursorWrite => exact execEvrCursorWrite_keeps h0
  | evrWindowLoaded => exact execEvrWindowLoaded_keeps h0
  | sealedClear => exact execSealedClear_keeps h0
  | evrClearEraseDone => exact execEvrClearEraseDone_keeps h0
  | tokenArrival => exact execTokenArrival_keeps h0
  | flashRecordProgram => exact execFlashRecordProgram_keeps h0
  | smbReadIdcode => exact execSmbReadIdcode_keeps h0
  | smbReadSerial => exact execSmbReadSerial_keeps h0
  | smbReadStatus => exact execSmbReadStatus_keeps h0
  | smbReadTemp => exact execSmbReadTemp_keeps h0
  | smbReadPower => exact execSmbReadPower_keeps h0
  | smbReadHbmTemp => exact execSmbReadHbmTemp_keeps h0
  | smbUnsupported => exact execSmbUnsupported_keeps h0
  | smbAlertResponse => exact execSmbAlertResponse_keeps h0
  | smbTimeout => exact execSmbTimeout_keeps h0
  | i2cBusClear => exact execI2cBusClear_keeps h0
  | i2cStuckRetry => exact execI2cStuckRetry_keeps h0
  | idcode => exact execIdcode_keeps h0
  | samplePreload => exact execSamplePreload_keeps h0
  | extest => exact execExtest_keeps h0
  | extestPulse => exact execExtestPulse_keeps h0
  | extestTrain => exact execExtestTrain_keeps h0
  | clamp => exact execClamp_keeps h0
  | highz => exact execHighz_keeps h0
  | flashprog => exact execFlashprog_keeps h0
  | bypass => exact execBypass_keeps h0
  | harbourmasterRestartEnd => exact execHarbourmasterRestartEnd_keeps h0
  | activationTimeout => exact execActivationTimeout_keeps h0
  | farEndDetect => exact execFarEndDetect_keeps h0
  | clockLock => exact execClockLock_keeps h0
  | blockLock => exact execBlockLock_keeps h0
  | blockLockLoss => exact execBlockLockLoss_keeps h0
  | ppsOut => exact execPpsOut_keeps h0
  | oppChangeDone => exact execOppChangeDone_keeps h0
  | fwStageDone => exact execFwStageDone_keeps h0
  | selftestDone => exact execSelftestDone_keeps h0
  | spareMemoryTestDone => exact execSpareMemoryTestDone_keeps h0
  | islandResetDone => exact execIslandResetDone_keeps h0

/-- Settles O59: an empty queue idles, and a command that runs keeps what every command keeps. -/
theorem stepKeepsTimeMemoryAndQueue : Obligations.StepKeepsTimeMemoryAndQueue := by
  unfold Obligations.StepKeepsTimeMemoryAndQueue
  intro T s s' hT hm hs
  unfold Machine.step at hs
  cases hp : s.pending with
  | nil =>
    rw [hp] at hs
    cases hs
    exact ⟨hT, hm, hp⟩
  | cons c rest =>
    rw [hp] at hs
    have hk := exec_keeps c _ s' hs
    exact ⟨hT.trans hk.time, hk.mem hm, hk.pending⟩

end Sys2Proof.Safety
end

section
/-! PROOF. The handshake codes of a link (12): what one received code does to its port, and to nothing else. -/

namespace Sys2Proof.Safety
open Sys2Proof.Machine

/-! ### Changes of one port -/

/-- From s to s' port n becomes q; no other port changes, and no part of the state but the ports and l. -/
def PortTurned (n : Nat) (l : List Region) (q : PortS) (s s' : State) : Prop :=
  s'.port n = q ∧ (∀ k, k ≠ n → s'.port k = s.port k) ∧ OnlyChanges (.ports :: l) s s'

theorem PortTurned.refl (n : Nat) (l : List Region) (s : State) : PortTurned n l (s.port n) s s := ⟨rfl, fun _ _ => rfl, .refl _ _⟩

theorem PortTurned.upd {n : Nat} {l : List Region} {q : PortS} {s s' : State} (f : PortS → PortS) (h : PortTurned n l q s s') :
    PortTurned n l (f q) s (s'.updPort n f) := by
  obtain ⟨hport, hothers, honly⟩ := h
  exact ⟨by rw [updPort_port_same, hport], fun k hk => (updPort_port_other hk f s').trans (hothers k hk),
    honly.trans ((updPort_only n f s').mono (by simp))⟩

/-- A step outside the ports keeps what port n has become. -/
theorem PortTurned.frame {n : Nat} {l l' : List Region} {q : PortS} {s s' s'' : State} (h : PortTurned n l q s s') (honly : OnlyChanges l' s' s'')
    (hports : .ports ∉ l') (hl : ∀ a ∈ l', a ∈ l) : PortTurned n l q s s'' := by
  obtain ⟨hport, hothers, hkeep⟩ := h
  exact ⟨(honly.port hports n).trans hport, fun k hk => (honly.port hports k).trans (hothers k hk),
    hkeep.trans (honly.mono fun a ha => List.mem_cons_of_mem _ (hl a ha))⟩

theorem PortTurned.logged {n : Nat} {q : PortS} {s s' : State} (c u : Nat) (h : PortTurned n [.obs] q s s') :
    PortTurned n [.obs] q s (logCode c u s') := h.frame (logCode_only c u s') (by simp) (by simp)

theorem PortTurned.bumped {n : Nat} {q : PortS} {s s' : State} (a k : Nat) (h : PortTurned n [.obs] q s s') :
    PortTurned n [.obs] q s (bump a k s') := h.frame (bump_only a k s') (by simp) (by simp)

/-! ### The operations of a handshake (R313) -/

/-- Port p once handshake code c is taken. -/
def withoutCtl (c : BitVec 4) (p : PortS) : PortS := { p with rxCtl := dropFirst (· = c) p.rxCtl }

theorem takeCtl_received {n : Nat} {c : BitVec 4} {s : State} (h : (s.port n).rxCtl.contains c = true) :
    takeCtl n c s = some (s.updPort n (withoutCtl c)) := if_pos h

/-- Port p once change c is planned for both directions, announced by codes. -/
def planned (c : LinkReq) (codes : List (BitVec 4)) (p : PortS) : PortS :=
  { p with switchOut := p.switchOut ++ [c], switchIn := p.switchIn ++ [c], ctlOut := p.ctlOut ++ (codes ++ [ctlSwitch]) }

theorem planSwitch_eq (n : Nat) (c : LinkReq) (codes : List (BitVec 4)) (s : State) :
    planSwitch n c codes s = s.updPort n (planned c codes) := updPort_twice _ _ _ _

theorem dropSleep_idle {n : Nat} {s : State} (h : (s.port n).slp ≠ .negotiating) : dropSleep n s = s := if_neg h

theorem dropSleep_turned {n : Nat} {q : PortS} {s s' : State} (h : PortTurned n [.obs] q s s') (hq : q.slp = .negotiating) :
    PortTurned n [.obs] { q with slp := .active, slpReason := 0x030A } s (dropSleep n s') := by
  rw [show dropSleep n s' = _ from if_pos ((congrArg PortS.slp h.1).trans hq)]
  exact (((h.upd _).logged _ _).bumped _ _).upd _

theorem withdraw_turned {n : Nat} {q : PortS} {s s' : State} (h : PortTurned n [.obs] q s s') :
    PortTurned n [.obs] { q with req := none } s (withdraw n s') := ((h.upd _).logged _ _).bumped _ _

/-- Which request stands does not depend on the codes received. -/
theorem ownStands_withoutCtl (n : Nat) (c : BitVec 4) (s : State) : ownStands (s.updPort n (withoutCtl c)) n = ownStands s n := by
  simp [ownStands, withoutCtl]

theorem fecAllowed_withoutCtl (n : Nat) (c : BitVec 4) (s : State) : fecAllowed (s.updPort n (withoutCtl c)) n = fecAllowed s n := by
  have hslice : carriesSlice (s.updPort n (withoutCtl c)) n = carriesSlice s n := rfl
  simp [fecAllowed, withoutCtl, hslice]

/-- Port n, from which code c was taken at time t. -/
theorem taken_turned (t : Time) (n : Nat) (l : List Region) (c : BitVec 4) (s : State) :
    PortTurned n l (withoutCtl c (s.port n)) (tick t s) ((tick t s).updPort n (withoutCtl c)) := (PortTurned.refl n l (tick t s)).upd _

theorem taken_req (t : Time) (n : Nat) (c : BitVec 4) (s : State) : (((tick t s).updPort n (withoutCtl c)).port n).req = (s.port n).req := by
  rw [updPort_port_same]
  rfl

theorem taken_fecReq (t : Time) (n : Nat) (c : BitVec 4) (s : State) : (((tick t s).updPort n (withoutCtl c)).port n).fecReq = (s.port n).fecReq := by
  rw [updPort_port_same]
  rfl

theorem dropSleep_taken {t : Time} {n : Nat} {c : BitVec 4} {s : State} (h : (s.port n).slp ≠ .negotiating) :
    dropSleep n ((tick t s).updPort n (withoutCtl c)) = (tick t s).updPort n (withoutCtl c) :=
  dropSleep_idle (by rw [updPort_port_same]; exact h)

/-- A short retrain starts (R337): what PORT_STAT shows, and the port alone changes. -/
theorem startShort_turned {n : Nat} {l : List Region} {q : PortS} {s s' : State} (h : PortTurned n l q s s') :
    PortTurned n l ((startShort n s').port n) s (startShort n s') := by
  have hup := h.upd (fun p => { p with
    st := .retrain, phase := .clock, phaseAt := s'.time, short := true, owesRetrain := false, tauReq := none, timed := false, again := none, replay := [],
    lanes := (List.range 8).foldl (fun l k => Tbl.upd Lane.reset l k (fun x => { x with frames := 0 })) p.lanes })
  exact ⟨rfl, hup.2⟩

theorem startShort_st (n : Nat) (s : State) : ((startShort n s).port n).st = .retrain := by simp [startShort]
theorem startShort_phase (n : Nat) (s : State) : ((startShort n s).port n).phase = .clock := by simp [startShort]
theorem startShort_short (n : Nat) (s : State) : ((startShort n s).port n).short = true := by simp [startShort]
theorem startShort_req (n : Nat) (s : State) : ((startShort n s).port n).req = (s.port n).req := by simp [startShort]
theorem startShort_ctlOut (n : Nat) (s : State) : ((startShort n s).port n).ctlOut = (s.port n).ctlOut := by simp [startShort]

/-! ### Width changes -/

section
variable {t : Time} {n : PSet} {w : BitVec 2} {s : State}

/-- A WREQ to a port without a request of its own is granted. -/
theorem runs_wreq_granted (h : (s.port n.val).rxCtl.contains (ctlWreq w) = true) (hslp : (s.port n.val).slp ≠ .negotiating)
    (hreq : (s.port n.val).req = none) :
    Runs (.wreq t n w) s (PortTurned n.val [] (planned (.width w) [ctlWack] (withoutCtl (ctlWreq w) (s.port n.val))) (tick t s)) := by
  have hrun : execWreq t n w s = .next (planSwitch n.val (.width w) [ctlWack] ((tick t s).updPort n.val (withoutCtl (ctlWreq w)))) := by
    rw [execWreq, takeCtl_received (s := tick t s) h]
    simp only [dropSleep_taken hslp, taken_req, hreq]
  refine ⟨_, hrun, ?_⟩
  rw [planSwitch_eq]
  exact (taken_turned ..).upd _

/-- A WREQ that collides with a request that stands is taken and nothing more (R313). -/
theorem runs_wreq_stands {own : BitVec 2} (h : (s.port n.val).rxCtl.contains (ctlWreq w) = true) (hslp : (s.port n.val).slp ≠ .negotiating)
    (hreq : (s.port n.val).req = some (.width own)) (hown : ownStands s n.val = true) :
    Runs (.wreq t n w) s (PortTurned n.val [] (withoutCtl (ctlWreq w) (s.port n.val)) (tick t s)) := by
  have hstands : ownStands ((tick t s).updPort n.val (withoutCtl (ctlWreq w))) n.val = true := (ownStands_withoutCtl ..).trans hown
  have hrun : execWreq t n w s = .next ((tick t s).updPort n.val (withoutCtl (ctlWreq w))) := by
    rw [execWreq, takeCtl_received (s := tick t s) h]
    simp only [dropSleep_taken hslp, taken_req, hreq, hstands, if_true]
  exact ⟨_, hrun, taken_turned ..⟩

/-- A WREQ that collides with a request that gives way withdraws it and is granted (R313). -/
theorem runs_wreq_yields {own : BitVec 2} (h : (s.port n.val).rxCtl.contains (ctlWreq w) = true) (hslp : (s.port n.val).slp ≠ .negotiating)
    (hreq : (s.port n.val).req = some (.width own)) (hown : ownStands s n.val = false) :
    Runs (.wreq t n w) s (PortTurned n.val [.obs]
      (planned (.width w) [ctlWdraw, ctlWack] { withoutCtl (ctlWreq w) (s.port n.val) with req := none }) (tick t s)) := by
  have hstands : ownStands ((tick t s).updPort n.val (withoutCtl (ctlWreq w))) n.val = false := (ownStands_withoutCtl ..).trans hown
  have hrun : execWreq t n w s = .next (planSwitch n.val (.width w) [ctlWdraw, ctlWack] (withdraw n.val ((tick t s).updPort n.val (withoutCtl (ctlWreq w))))) := by
    rw [execWreq, takeCtl_received (s := tick t s) h]
    simp only [dropSleep_taken hslp, taken_req, hreq, hstands, Bool.false_eq_true, if_false]
  refine ⟨_, hrun, ?_⟩
  rw [planSwitch_eq]
  exact (withdraw_turned (taken_turned ..)).upd _

/-- A WREQ stands over a sleep negotiation, which is withdrawn with 0x030A (R313). -/
theorem runs_wreq_negotiating (h : (s.port n.val).rxCtl.contains (ctlWreq w) = true) (hslp : (s.port n.val).slp = .negotiating)
    (hreq : (s.port n.val).req = none) :
    Runs (.wreq t n w) s (PortTurned n.val [.obs]
      (planned (.width w) [ctlWack] { withoutCtl (ctlWreq w) (s.port n.val) with slp := .active, slpReason := 0x030A }) (tick t s)) := by
  have hdrop := dropSleep_turned (taken_turned t n.val [.obs] (ctlWreq w) s) hslp
  have hnone := (congrArg PortS.req hdrop.1).trans hreq
  have hrun : execWreq t n w s = .next (planSwitch n.val (.width w) [ctlWack] (dropSleep n.val ((tick t s).updPort n.val (withoutCtl (ctlWreq w))))) := by
    rw [execWreq, takeCtl_received (s := tick t s) h]
    simp only [hnone]
  refine ⟨_, hrun, ?_⟩
  rw [planSwitch_eq]
  exact hdrop.upd _

theorem runs_wack (h : (s.port n.val).rxCtl.contains ctlWack = true) (hreq : (s.port n.val).req = some (.width w)) :
    Runs (.wack t n) s (PortTurned n.val [] (planned (.width w) [] { withoutCtl ctlWack (s.port n.val) with req := none }) (tick t s)) := by
  have hrun : execWack t n s = .next (planSwitch n.val (.width w) []
      (((tick t s).updPort n.val (withoutCtl ctlWack)).updPort n.val (fun p => { p with req := none }))) := by
    rw [execWack, takeCtl_received (s := tick t s) h]
    simp only [taken_req, hreq]
  refine ⟨_, hrun, ?_⟩
  rw [planSwitch_eq]
  exact ((taken_turned ..).upd _).upd _

theorem runs_wdraw (h : (s.port n.val).rxCtl.contains ctlWdraw = true) :
    Runs (.wdraw t n) s (PortTurned n.val [] (withoutCtl ctlWdraw (s.port n.val)) (tick t s)) := by
  have hrun : execWdraw t n s = .next ((tick t s).updPort n.val (withoutCtl ctlWdraw)) := by
    rw [execWdraw, takeCtl_received (s := tick t s) h]
    rfl
  exact ⟨_, hrun, taken_turned ..⟩

/-- SWITCH brings the next planned change into force in the receive direction, and the fabric is told of it (R295). -/
theorem runs_switch {c : LinkReq} {rest : List LinkReq} (h : (s.port n.val).rxCtl.contains ctlSwitch = true)
    (hin : (s.port n.val).switchIn = c :: rest) :
    Runs (.switch t n) s (fun s' =>
      PortTurned n.val [.fabric] (switchRx c { withoutCtl ctlSwitch (s.port n.val) with switchIn := rest }) (tick t s) s' ∧
      s'.fabric = { s.fabric with changedAt := some (tick t s).time }) := by
  have hcons : (((tick t s).updPort n.val (withoutCtl ctlSwitch)).port n.val).switchIn = c :: rest := by simpa [withoutCtl] using hin
  have hrun : execSwitch t n s = .next (advertise
      (((tick t s).updPort n.val (withoutCtl ctlSwitch)).updPort n.val (fun p => switchRx c { p with switchIn := rest }))) := by
    rw [execSwitch, takeCtl_received (s := tick t s) h]
    simp only [hcons]
  exact ⟨_, hrun, ((taken_turned ..).upd _).frame (updFabric_only _ _) (by simp) (by simp), rfl⟩

/-! ### Retrains -/

theorem runs_rtreq (h : (s.port n.val).rxCtl.contains ctlRtreq = true) (hslp : (s.port n.val).slp ≠ .negotiating)
    (hreq : (s.port n.val).req = none) :
    Runs (.rtreq t n) s (fun s' => (s'.port n.val).st = .retrain ∧ (s'.port n.val).phase = .clock ∧ (s'.port n.val).short = true ∧
      (s'.port n.val).ctlOut = (s.port n.val).ctlOut ++ [ctlRtack] ∧ PortTurned n.val [] (s'.port n.val) (tick t s) s') := by
  have hrun : execRtreq t n s = .next (startShort n.val (sendCtl n.val [ctlRtack] ((tick t s).updPort n.val (withoutCtl ctlRtreq)))) := by
    rw [execRtreq, takeCtl_received (s := tick t s) h]
    simp only [dropSleep_taken hslp, taken_req, hreq]
  refine ⟨_, hrun, startShort_st .., startShort_phase .., startShort_short .., ?_, startShort_turned ((taken_turned ..).upd _)⟩
  rw [startShort_ctlOut]
  simp [sendCtl, withoutCtl]

theorem runs_rtack (h : (s.port n.val).rxCtl.contains ctlRtack = true) (hreq : (s.port n.val).req = some .retrain) :
    Runs (.rtack t n) s (fun s' => (s'.port n.val).st = .retrain ∧ (s'.port n.val).phase = .clock ∧ (s'.port n.val).short = true ∧
      (s'.port n.val).req = none ∧ PortTurned n.val [] (s'.port n.val) (tick t s) s') := by
  have hrun : execRtack t n s = .next (startShort n.val
      (((tick t s).updPort n.val (withoutCtl ctlRtack)).updPort n.val (fun p => { p with req := none }))) := by
    rw [execRtack, takeCtl_received (s := tick t s) h]
    simp only [taken_req, hreq]
  refine ⟨_, hrun, startShort_st .., startShort_phase .., startShort_short .., ?_, startShort_turned ((taken_turned ..).upd _)⟩
  rw [startShort_req]
  simp

/-! ### Thin FEC (R333) -/

theorem takeFec_allowed {on : Bool} (h : (s.port n.val).rxCtl.contains (if on then ctlFecon else ctlFecoff) = true)
    (hallowed : fecAllowed s n.val = true) :
    PortTurned n.val [] (planned (.fec on) [ctlFecack] (withoutCtl (if on then ctlFecon else ctlFecoff) (s.port n.val))) (tick t s)
      (takeFec n.val on (tick t s)) := by
  have hmay : fecAllowed ((tick t s).updPort n.val (withoutCtl (if on then ctlFecon else ctlFecoff))) n.val = true :=
    (fecAllowed_withoutCtl ..).trans hallowed
  rw [takeFec, takeCtl_received (s := tick t s) h]
  simp only [hmay, if_true, planSwitch_eq]
  exact (taken_turned ..).upd _

theorem takeFec_refused {on : Bool} (h : (s.port n.val).rxCtl.contains (if on then ctlFecon else ctlFecoff) = true)
    (hrefused : fecAllowed s n.val = false) :
    PortTurned n.val [] (withoutCtl (if on then ctlFecon else ctlFecoff) (s.port n.val)) (tick t s) (takeFec n.val on (tick t s)) := by
  have hmay : fecAllowed ((tick t s).updPort n.val (withoutCtl (if on then ctlFecon else ctlFecoff))) n.val = false :=
    (fecAllowed_withoutCtl ..).trans hrefused
  rw [takeFec, takeCtl_received (s := tick t s) h]
  simp only [hmay, Bool.false_eq_true, if_false]
  exact taken_turned ..

theorem runs_fecack {on : Bool} (h : (s.port n.val).rxCtl.contains ctlFecack = true) (hreq : (s.port n.val).fecReq = some on) :
    Runs (.fecack t n) s (PortTurned n.val [] (planned (.fec on) [] { withoutCtl ctlFecack (s.port n.val) with fecReq := none }) (tick t s)) := by
  have hrun : execFecack t n s = .next (planSwitch n.val (.fec on) []
      (((tick t s).updPort n.val (withoutCtl ctlFecack)).updPort n.val (fun p => { p with fecReq := none }))) := by
    rw [execFecack, takeCtl_received (s := tick t s) h]
    simp only [taken_fecReq, hreq]
  refine ⟨_, hrun, ?_⟩
  rw [planSwitch_eq]
  exact ((taken_turned ..).upd _).upd _

end

/-- Settles O36, one lemma for each code and each way it is answered. -/
theorem linkHandshakes : Obligations.LinkHandshakes := by
  intro t n w s
  refine ⟨fun h hslp => ⟨fun hreq => runs_wreq_granted h hslp hreq, fun own hreq hown => runs_wreq_stands h hslp hreq hown,
      fun own hreq hown => runs_wreq_yields h hslp hreq hown⟩,
    fun h hslp hreq => runs_wreq_negotiating h hslp hreq, fun h hreq => runs_wack h hreq, fun h => runs_wdraw h,
    fun c rest h hin => runs_switch h hin, fun h hslp hreq => runs_rtreq h hslp hreq, fun h hreq => runs_rtack h hreq,
    fun h => ⟨fun hallowed => ⟨_, rfl, takeFec_allowed (on := true) h hallowed⟩, fun hrefused => ⟨_, rfl, takeFec_refused (on := true) h hrefused⟩⟩,
    fun h => ⟨fun hallowed => ⟨_, rfl, takeFec_allowed (on := false) h hallowed⟩, fun hrefused => ⟨_, rfl, takeFec_refused (on := false) h hrefused⟩⟩,
    fun on h hreq => runs_fecack h hreq⟩

end Sys2Proof.Safety
end

section
/-! PROOF. Port sleep (11.6): requests, answers, entry, exit and wakes, each a change of one port. -/

namespace Sys2Proof.Safety
open Sys2Proof.Machine

/-! ### Management cells queued for a port (R258, R275) -/

theorem ctlUse_turned {n : Nat} {l : List Region} {q : PortS} {s s' : State} (h : PortTurned n l q s s') (hl : .fabric ∉ l)
    (hq : q.mgmtQ = (s.port n).mgmtQ) : ctlUse s' n = ctlUse s n := by
  have hfabric : s'.fabric = s.fabric := h.2.2.2.2 .fabric (by simpa using hl)
  rw [ctlUse, ctlUse, hfabric, h.1, hq]

theorem queueMgmt_room {n : Nat} {c : Cell} {s : State} (h : ctlUse s n < ctlLimit n) :
    queueMgmt n c s = s.updPort n (fun p => { p with mgmtQ := p.mgmtQ ++ [c] }) := if_neg (by omega)

theorem pushMgmt_sleep {n : Nat} {c : Cell} {s : State} (hkind : c.kind = kSleep) (h : ctlUse s n < ctlLimit n) :
    pushMgmt n c s = s.updPort n (fun p => { p with mgmtQ := p.mgmtQ ++ [c] }) :=
  (if_pos hkind).trans (queueMgmt_room h)

theorem sleepCell_kind (sub : Fin 3) (deep : Bool) : (sleepCell sub.val deep).kind = kSleep := by
  revert sub deep
  decide

/-- A cell of the sleep exchange is queued on a port whose reserve has room for it. -/
theorem pushSleep_turned {n : Nat} {l : List Region} {q : PortS} {s s' : State} (sub : Fin 3) (deep : Bool) (h : PortTurned n l q s s') (hl : .fabric ∉ l)
    (hq : q.mgmtQ = (s.port n).mgmtQ) (hroom : ctlUse s n < ctlLimit n) :
    PortTurned n l { q with mgmtQ := q.mgmtQ ++ [sleepCell sub.val deep] } s (pushMgmt n (sleepCell sub.val deep) s') := by
  rw [pushMgmt_sleep (sleepCell_kind sub deep) (by rwa [ctlUse_turned h hl hq])]
  exact h.upd _

theorem ctlLimit_port (n : Port) : ctlLimit n.val = 512 := if_pos n.isLt

/-! ### Whether a port may sleep (R311) -/

/-- Port p with AUTOWAKE as written. -/
def withAutowake (b : Bool) (p : PortS) : PortS := { p with autowake := b }

theorem maySleep_withAutowake (n : Nat) (b : Bool) (s : State) : maySleep (s.updPort n (withAutowake b)) n = maySleep s n := by
  have hslice : carriesSlice (s.updPort n (withAutowake b)) n = carriesSlice s n := rfl
  simp [maySleep, withAutowake, hslice]

/-- Port p once cell c is taken from those it received. -/
def withoutRx (c : Cell) (p : PortS) : PortS := { p with rxCells := dropFirst (fun e => e.2 = c) p.rxCells }

theorem maySleep_withoutRx (n : Nat) (c : Cell) (s : State) : maySleep (s.updPort n (withoutRx c)) n = maySleep s n := by
  have hslice : carriesSlice (s.updPort n (withoutRx c)) n = carriesSlice s n := rfl
  simp [maySleep, withoutRx, hslice]

theorem ownStands_withoutRx (n : Nat) (c : Cell) (s : State) : ownStands (s.updPort n (withoutRx c)) n = ownStands s n := by
  simp [ownStands, withoutRx]

theorem takeRx_next {n : Nat} {c : Cell} {s : State} (h : isNext c ((s.port n).rxCells.map (·.2)) = true) :
    takeRx n c s = some (s.updPort n (withoutRx c)) := if_pos h

/-! ### Writes of PORT_SLEEP (Table FB-7) -/

theorem bitsN_extract (v : Word) (lo len : Nat) : bitsN v.toNat lo len = (v.extractLsb' lo len).toNat := by
  simp [bitsN, BitVec.extractLsb'_toNat, Nat.shiftRight_eq_div_pow]

/-- The mode field of a request is the one asked for: the mask clears it, and the command sets it. -/
theorem mode_set {v m : Word} (hm : m.extractLsb' 4 2 = 0#2) (c : Word) : bitsN ((v &&& m) ||| c).toNat 4 2 = bitsN c.toNat 4 2 := by
  rw [bitsN_extract, bitsN_extract, BitVec.extractLsb'_or, BitVec.extractLsb'_and, hm, BitVec.and_zero, BitVec.zero_or]

theorem mode_light (v : Word) : bitsN ((v &&& 0xFFFFFFCF) ||| 0x10).toNat 4 2 = 1 := mode_set (by decide) 0x10
theorem mode_deep (v : Word) : bitsN ((v &&& 0xFFFFFFCF) ||| 0x20).toNat 4 2 = 2 := mode_set (by decide) 0x20

/-- A wake command sets both bits of the mode field. -/
theorem mode_wake (v : Word) : bitsN (v ||| 0x30).toNat 4 2 = 3 := by
  have hones : (0x30 : Word).extractLsb' 4 2 = BitVec.allOnes 2 := by decide
  rw [bitsN_extract, BitVec.extractLsb'_or, hones, BitVec.or_allOnes]
  rfl

theorem autowake_light (v : Word) : ((v &&& 0xFFFFFFCF) ||| 0x10).getLsbD 3 = v.getLsbD 3 := by simp
theorem autowake_deep (v : Word) : ((v &&& 0xFFFFFFCF) ||| 0x20).getLsbD 3 = v.getLsbD 3 := by simp
theorem autowake_wake (v : Word) : (v ||| 0x30).getLsbD 3 = v.getLsbD 3 := by simp

section
variable {t : Time} {n : Port} {v : Word} {c : Cell} {s : State}

theorem execSleepRequestLight_serving (h : Serving s) : execSleepRequestLight t n v s =
    .next (requestSleep n.val false ((tick t s).updPort n.val (withAutowake (v.getLsbD 3)))) := by
  rw [execSleepRequestLight, bar0_serving h, writePortSleep, mode_light, autowake_light]
  rfl

theorem execSleepRequestDeep_serving (h : Serving s) : execSleepRequestDeep t n v s =
    .next (requestSleep n.val true ((tick t s).updPort n.val (withAutowake (v.getLsbD 3)))) := by
  rw [execSleepRequestDeep, bar0_serving h, writePortSleep, mode_deep, autowake_deep]
  rfl

theorem execWakeCommand_serving (h : Serving s) : execWakeCommand t n v s =
    .next (wakePort n.val ((tick t s).updPort n.val (withAutowake (v.getLsbD 3)))) := by
  rw [execWakeCommand, bar0_serving h, writePortSleep, mode_wake, autowake_wake]
  rfl

theorem written_turned (t : Time) (n : Nat) (b : Bool) (s : State) :
    PortTurned n [] (withAutowake b (s.port n)) (tick t s) ((tick t s).updPort n (withAutowake b)) := (PortTurned.refl n [] (tick t s)).upd _

/-- Port p as it asks its partner for sleep. -/
def asking (now : Time) (deep : Bool) (p : PortS) : PortS := { p with slp := .negotiating, slpDeep := deep, slpAt := now, woken := false }

/-- A request of an awake port is sent to the partner where the port may sleep, and refused with 0x0308 where it may not. -/
theorem requestSleep_awake {n : Nat} {deep : Bool} {s : State} (hslp : (s.port n).slp = .active) (hmove : (s.port n).slpMove = .none) :
    requestSleep n deep s = if maySleep s n then pushMgmt n (sleepCell 0 deep) (s.updPort n (asking s.time deep)) else sleepReason n 0x0308 s := by
  have hawake : ¬ ((decide ((s.port n).slp ≠ .active) || decide ((s.port n).slpMove ≠ .none)) = true) := by simp [hslp, hmove]
  unfold requestSleep
  dsimp only
  rw [if_neg hawake]
  cases hmay : maySleep s n
  · simp only [Bool.not_false, Bool.false_eq_true, if_true, if_false]
  · simp only [Bool.not_true, Bool.false_eq_true, if_true, if_false]
    rfl

theorem requestSleep_sent (b deep : Bool) (hslp : (s.port n.val).slp = .active) (hmove : (s.port n.val).slpMove = .none)
    (hmay : maySleep s n.val = true) (hroom : ctlUse s n.val < 512) :
    PortTurned n.val [] { asking (tick t s).time deep (withAutowake b (s.port n.val)) with mgmtQ := (s.port n.val).mgmtQ ++ [sleepCell 0 deep] } (tick t s)
      (requestSleep n.val deep ((tick t s).updPort n.val (withAutowake b))) := by
  have hmay' : maySleep ((tick t s).updPort n.val (withAutowake b)) n.val = true := (maySleep_withAutowake ..).trans hmay
  rw [requestSleep_awake (by rwa [updPort_port_same]) (by rwa [updPort_port_same]), if_pos hmay']
  exact pushSleep_turned 0 deep ((written_turned ..).upd _) (by simp) rfl (by rw [ctlLimit_port]; exact hroom)

theorem requestSleep_refused (b deep : Bool) (hslp : (s.port n.val).slp = .active) (hmove : (s.port n.val).slpMove = .none)
    (hmay : maySleep s n.val = false) :
    PortTurned n.val [] { withAutowake b (s.port n.val) with slpReason := 0x0308 } (tick t s)
      (requestSleep n.val deep ((tick t s).updPort n.val (withAutowake b))) := by
  have hmay' : maySleep ((tick t s).updPort n.val (withAutowake b)) n.val = false := (maySleep_withAutowake ..).trans hmay
  rw [requestSleep_awake (by rwa [updPort_port_same]) (by rwa [updPort_port_same]), if_neg (by simp [hmay'])]
  exact (written_turned ..).upd _

/-! ### Wakes (R312, Table FB-8) -/

/-- A wake of a sleeping port begins its exit, with the wake signal sent. -/
def waking (now : Time) (p : PortS) : PortS := { p with slpMove := .exiting, slpAt := now, wakeOut := true }

theorem wakePort_asleep {n : Nat} {s : State} (hmove : (s.port n).slpMove = .none) (hslp : (s.port n).slp = .light ∨ (s.port n).slp = .deep) :
    wakePort n s = s.updPort n (waking s.time) := by
  rcases hslp with hlight | hdeep
  · simp only [wakePort, hmove, hlight]
    rfl
  · simp only [wakePort, hmove, hdeep]
    rfl

theorem wakePort_negotiating {n : Nat} {s : State} (hmove : (s.port n).slpMove = .none) (hslp : (s.port n).slp = .negotiating) :
    wakePort n s = queueMgmt n (sleepCell 2 (s.port n).slpDeep) (s.updPort n (fun p => { p with slp := .active })) := by
  simp only [wakePort, hmove, hslp]

theorem runs_wakeCommand (hserving : Serving s) (hmove : (s.port n.val).slpMove = .none) (hslp : (s.port n.val).slp = .light ∨ (s.port n.val).slp = .deep) :
    Runs (.wakeCommand t n v) s (PortTurned n.val [] (waking (tick t s).time (withAutowake (v.getLsbD 3) (s.port n.val))) (tick t s)) := by
  refine ⟨_, execWakeCommand_serving hserving, ?_⟩
  rw [wakePort_asleep (by simpa [withAutowake] using hmove) (by simpa [withAutowake] using hslp)]
  exact (written_turned ..).upd _

/-- What a wake signal does besides the wake: it is not one's own, and it is noted where the port was negotiating. -/
def signalled (own asks : Bool) (p : PortS) : PortS := { p with wakeOut := own, woken := p.woken || asks }

theorem execWakeSignal_eq (set : PSet) : execWakeSignal t set s = .next ((wakePort set.val (tick t s)).updPort set.val
    (signalled (s.port set.val).wakeOut ((s.port set.val).slp = .negotiating && (s.port set.val).slpMove = .none))) := rfl

theorem runs_wakeSignal_asleep {set : PSet} (hmove : (s.port set.val).slpMove = .none)
    (hslp : (s.port set.val).slp = .light ∨ (s.port set.val).slp = .deep) :
    Runs (.wakeSignal t set) s (PortTurned set.val [] { s.port set.val with slpMove := .exiting, slpAt := (tick t s).time } (tick t s)) := by
  refine ⟨_, execWakeSignal_eq set, ?_⟩
  have hasks : (decide ((s.port set.val).slp = .negotiating) && decide ((s.port set.val).slpMove = .none)) = false := by
    rcases hslp with h | h <;> simp [h]
  rw [wakePort_asleep (s := tick t s) hmove hslp, hasks]
  have hturned := ((PortTurned.refl set.val [] (tick t s)).upd (waking (tick t s).time)).upd (signalled (s.port set.val).wakeOut false)
  have hport : signalled (s.port set.val).wakeOut false (waking (tick t s).time (s.port set.val)) =
      { s.port set.val with slpMove := .exiting, slpAt := (tick t s).time } := by
    rw [signalled, Bool.or_false]
    rfl
  exact hport ▸ hturned

theorem runs_wakeSignal_negotiating {set : PSet} (hmove : (s.port set.val).slpMove = .none) (hslp : (s.port set.val).slp = .negotiating)
    (hroom : ctlUse s set.val < ctlLimit set.val) :
    Runs (.wakeSignal t set) s (PortTurned set.val [] { s.port set.val with
      slp := .active, woken := true, mgmtQ := (s.port set.val).mgmtQ ++ [sleepCell 2 (s.port set.val).slpDeep] } (tick t s)) := by
  refine ⟨_, execWakeSignal_eq set, ?_⟩
  have hactive := (PortTurned.refl set.val [] (tick t s)).upd (fun p => { p with slp := .active })
  have hasks : (decide ((s.port set.val).slp = .negotiating) && decide ((s.port set.val).slpMove = .none)) = true := by
    simp [hslp, hmove]
  rw [wakePort_negotiating (s := tick t s) hmove hslp, hasks, queueMgmt_room (by rw [ctlUse_turned hactive (by simp) rfl]; exact hroom)]
  have hturned := (hactive.upd (fun p => { p with mgmtQ := p.mgmtQ ++ [sleepCell 2 (s.port set.val).slpDeep] })).upd
    (signalled (s.port set.val).wakeOut true)
  have hport : signalled (s.port set.val).wakeOut true
      { s.port set.val with slp := .active, mgmtQ := (s.port set.val).mgmtQ ++ [sleepCell 2 (s.port set.val).slpDeep] } =
      { s.port set.val with slp := .active, woken := true, mgmtQ := (s.port set.val).mgmtQ ++ [sleepCell 2 (s.port set.val).slpDeep] } := by
    rw [signalled, Bool.or_true]
  exact hport ▸ hturned

/-! ### The sleep exchange (Table FB-8) -/

/-- Cell c is the next of its path on the port, and a cell of the sleep exchange with this SUB. -/
def SleepNext (n sub : Nat) (c : Cell) (s : State) : Prop :=
  c.cls = clsMgmt ∧ c.kind = kSleep ∧ bitsN c.ksf 34 3 = sub ∧ isNext c ((s.port n).rxCells.map (·.2)) = true

theorem takeSleep_next {n sub : Nat} (h : SleepNext n sub c s) : takeSleep n sub c s = some (s.updPort n (withoutRx c)) := by
  obtain ⟨hcls, hkind, hsub, hnext⟩ := h
  simp [takeSleep, hcls, hkind, hsub, takeRx_next hnext]

theorem rxTaken_turned (t : Time) (n : Nat) (l : List Region) (c : Cell) (s : State) :
    PortTurned n l (withoutRx c (s.port n)) (tick t s) ((tick t s).updPort n (withoutRx c)) := (PortTurned.refl n l (tick t s)).upd _

/-- Port p as it begins to enter sleep. -/
def entering (now : Time) (deep ackSent : Bool) (p : PortS) : PortS :=
  { p with slpMove := .entering p.woken, slpDeep := deep, slpAckSent := ackSent, slpAt := now, woken := false }

theorem enterSleep_eq (n : Nat) (deep ackSent : Bool) (s : State) : enterSleep n deep ackSent s = s.updPort n (entering s.time deep ackSent) := rfl

/-- The answer SLEEP_ACK and the entry that follows it. -/
theorem acked_turned {l : List Region} {q : PortS} {s0 s' : State} (deep : Bool) (h : PortTurned n.val l q s0 s') (hl : .fabric ∉ l)
    (hq : q.mgmtQ = (s0.port n.val).mgmtQ) (hroom : ctlUse s0 n.val < 512) :
    PortTurned n.val l { q with
        mgmtQ := q.mgmtQ ++ [sleepCell 1 deep], slpMove := .entering false, slpDeep := deep, slpAckSent := true, slpAt := s0.time, woken := false } s0
      (enterSleep n.val deep true (pushMgmt n.val (sleepCell 1 deep) (s'.updPort n.val (fun p => { p with woken := false })))) := by
  have hpush := pushSleep_turned 1 deep (h.upd (fun p => { p with woken := false })) hl hq (by rw [ctlLimit_port]; exact hroom)
  rw [enterSleep_eq]
  have htime := hpush.2.2.1
  rw [show (pushMgmt n.val (sleepCell 1 deep) (s'.updPort n.val fun p => { p with woken := false })).time = s0.time from htime]
  exact hpush.upd _

theorem execSleep_taken (h : SleepNext n.val 0 c s) :
    execSleep t n c s = .next (sleepCome n.val (bitN c.ksf 33) ((tick t s).updPort n.val (withoutRx c))) := by
  rw [execSleep, takeSleep_next (s := tick t s) h]

theorem runs_sleep_acked (h : SleepNext n.val 0 c s) (hmove : (s.port n.val).slpMove = .none) (hroom : ctlUse s n.val < 512)
    (hslp : (s.port n.val).slp = .active) (hmay : maySleep s n.val = true) (hheld : heldBusy (s.port n.val) = false) :
    Runs (.sleep t n c) s (PortTurned n.val [] { withoutRx c (s.port n.val) with
      mgmtQ := (s.port n.val).mgmtQ ++ [sleepCell 1 (bitN c.ksf 33)], slpMove := .entering false, slpDeep := bitN c.ksf 33, slpAckSent := true,
      slpAt := (tick t s).time, woken := false } (tick t s)) := by
  refine ⟨_, execSleep_taken h, ?_⟩
  have hmay' : maySleep ((tick t s).updPort n.val (withoutRx c)) n.val = true := (maySleep_withoutRx ..).trans hmay
  have hslp' : (((tick t s).updPort n.val (withoutRx c)).port n.val).slp = .active := by simpa [withoutRx] using hslp
  have hmove' : (((tick t s).updPort n.val (withoutRx c)).port n.val).slpMove = .none := by simpa [withoutRx] using hmove
  have hheld' : heldBusy (((tick t s).updPort n.val (withoutRx c)).port n.val) = false := by simpa [withoutRx, heldBusy] using hheld
  simp only [sleepCome, hslp', hmove', hmay', hheld', Bool.not_false, Bool.and_self, if_true]
  exact acked_turned _ (rxTaken_turned ..) (by simp) rfl hroom

theorem runs_sleep_refused (h : SleepNext n.val 0 c s) (hmove : (s.port n.val).slpMove = .none) (hroom : ctlUse s n.val < 512)
    (hslp : (s.port n.val).slp = .active) (hnot : maySleep s n.val = false ∨ heldBusy (s.port n.val) = true) :
    Runs (.sleep t n c) s (PortTurned n.val [] { withoutRx c (s.port n.val) with
      mgmtQ := (s.port n.val).mgmtQ ++ [sleepCell 2 (bitN c.ksf 33)] } (tick t s)) := by
  refine ⟨_, execSleep_taken h, ?_⟩
  have hslp' : (((tick t s).updPort n.val (withoutRx c)).port n.val).slp = .active := by simpa [withoutRx] using hslp
  have hmove' : (((tick t s).updPort n.val (withoutRx c)).port n.val).slpMove = .none := by simpa [withoutRx] using hmove
  have hnot' : (maySleep ((tick t s).updPort n.val (withoutRx c)) n.val && !heldBusy (((tick t s).updPort n.val (withoutRx c)).port n.val)) = false := by
    have hmay : maySleep ((tick t s).updPort n.val (withoutRx c)) n.val = maySleep s n.val := maySleep_withoutRx ..
    have hheld : heldBusy (((tick t s).updPort n.val (withoutRx c)).port n.val) = heldBusy (s.port n.val) := by simp [withoutRx, heldBusy]
    rw [hmay, hheld]
    rcases hnot with hno | hno <;> simp [hno]
  simp only [sleepCome, hslp', hmove', hnot', Bool.false_eq_true, if_false]
  exact pushSleep_turned 2 _ (rxTaken_turned ..) (by simp) rfl (by rw [ctlLimit_port]; exact hroom)

theorem runs_sleep_stands (h : SleepNext n.val 0 c s) (hmove : (s.port n.val).slpMove = .none) (hslp : (s.port n.val).slp = .negotiating)
    (hown : ownStands s n.val = true) : Runs (.sleep t n c) s (PortTurned n.val [] (withoutRx c (s.port n.val)) (tick t s)) := by
  refine ⟨_, execSleep_taken h, ?_⟩
  have hslp' : (((tick t s).updPort n.val (withoutRx c)).port n.val).slp = .negotiating := by simpa [withoutRx] using hslp
  have hmove' : (((tick t s).updPort n.val (withoutRx c)).port n.val).slpMove = .none := by simpa [withoutRx] using hmove
  have hown' : ownStands ((tick t s).updPort n.val (withoutRx c)) n.val = true := (ownStands_withoutRx ..).trans hown
  simp only [sleepCome, hslp', hmove', hown', if_true]
  exact rxTaken_turned ..

theorem runs_sleep_yields (h : SleepNext n.val 0 c s) (hmove : (s.port n.val).slpMove = .none) (hroom : ctlUse s n.val < 512)
    (hslp : (s.port n.val).slp = .negotiating) (hown : ownStands s n.val = false) :
    Runs (.sleep t n c) s (PortTurned n.val [.obs] { withoutRx c (s.port n.val) with
      slp := .active, slpReason := 0x030A, mgmtQ := (s.port n.val).mgmtQ ++ [sleepCell 1 (bitN c.ksf 33)], slpMove := .entering false,
      slpDeep := bitN c.ksf 33, slpAckSent := true, slpAt := (tick t s).time, woken := false } (tick t s)) := by
  refine ⟨_, execSleep_taken h, ?_⟩
  have hslp' : (((tick t s).updPort n.val (withoutRx c)).port n.val).slp = .negotiating := by simpa [withoutRx] using hslp
  have hmove' : (((tick t s).updPort n.val (withoutRx c)).port n.val).slpMove = .none := by simpa [withoutRx] using hmove
  have hown' : ownStands ((tick t s).updPort n.val (withoutRx c)) n.val = false := (ownStands_withoutRx ..).trans hown
  simp only [sleepCome, hslp', hmove', hown', Bool.false_eq_true, if_false]
  exact acked_turned _ ((((rxTaken_turned t n.val [.obs] c s).upd _).logged _ _).bumped _ _ |>.upd _) (by simp) rfl hroom

theorem runs_sleepAck (h : SleepNext n.val 1 c s) (hmove : (s.port n.val).slpMove = .none)
    (hasked : (s.port n.val).slp = .negotiating ∨ (s.port n.val).woken = true) :
    Runs (.sleepAck t n c) s (PortTurned n.val [] (entering (tick t s).time (s.port n.val).slpDeep false (withoutRx c (s.port n.val))) (tick t s)) := by
  have hrun : execSleepAck t n c s =
      .next (((tick t s).updPort n.val (withoutRx c)).updPort n.val (entering (tick t s).time (s.port n.val).slpDeep false)) := by
    rw [execSleepAck, takeSleep_next (s := tick t s) h]
    have hcond : (decide ((s.port n.val).slp = .negotiating) || (s.port n.val).woken) = true := by
      rcases hasked with ha | ha <;> simp [ha]
    simp only [updPort_port_same, tick_port, withoutRx, hcond, hmove, decide_true, Bool.and_self, if_true, enterSleep_eq]
    rfl
  exact ⟨_, hrun, (rxTaken_turned ..).upd _⟩

theorem runs_sleepNak (hslp : (s.port n.val).slp = .negotiating) (hmove : (s.port n.val).slpMove = .none) (h : SleepNext n.val 2 c s) :
    Runs (.sleepNak t n c) s (PortTurned n.val [] { withoutRx c (s.port n.val) with slp := .active, slpReason := 0x0308 } (tick t s)) := by
  have hslp' : (((tick t s).updPort n.val (withoutRx c)).port n.val).slp = .negotiating := by simpa [withoutRx] using hslp
  have hmove' : (((tick t s).updPort n.val (withoutRx c)).port n.val).slpMove = .none := by simpa [withoutRx] using hmove
  have hrun : execSleepNak t n c s =
      .next (sleepReason n.val 0x0308 (((tick t s).updPort n.val (withoutRx c)).updPort n.val (fun p => { p with slp := .active }))) := by
    rw [execSleepNak, takeSleep_next (s := tick t s) h]
    simp only [hslp', hmove', if_true]
  exact ⟨_, hrun, ((rxTaken_turned ..).upd _).upd _⟩

theorem runs_sleepTimeout (hslp : (s.port n.val).slp = .negotiating) (hmove : (s.port n.val).slpMove = .none)
    (hdue : (s.port n.val).slpAt + us 10 ≤ (tick t s).time) :
    Runs (.sleepTimeout t n) s (PortTurned n.val [] { s.port n.val with slp := .active, slpReason := 0x0309 } (tick t s)) := by
  have hrun : execSleepTimeout t n s = .next (sleepReason n.val 0x0309 ((tick t s).updPort n.val (fun p => { p with slp := .active }))) := by
    have hlate : (decide ((s.port n.val).slp = .negotiating) && decide ((s.port n.val).slpMove = .none) &&
        decide ((s.port n.val).slpAt + us 10 ≤ (tick t s).time)) = true := by
      simp only [hslp, hmove, hdue, decide_true, Bool.and_self]
    exact congrArg Host.Outcome.next (if_pos hlate)
  exact ⟨_, hrun, ((PortTurned.refl ..).upd _).upd _⟩

/-! ### Entry and exit (R346) -/

/-- Port p asleep, its entry over. -/
def fallenAsleep (p : PortS) : PortS := { p with slp := if p.slpDeep then .deep else .light, st := .sleep, slpMove := .none }

theorem execSleepEntryDone_due {wake : Bool} (hdue : (s.port n.val).slpAt + (if (s.port n.val).slpDeep then ns 400 else ns 60) ≤ (tick t s).time)
    (hheld : heldBusy (s.port n.val) = false) (hquiet : ∀ m ∈ (s.port n.val).mgmtQ, m.kind ≠ kSleep)
    (hmove : (s.port n.val).slpMove = .entering wake) :
    execSleepEntryDone t n s =
      .next (if wake then wakePort n.val ((tick t s).updPort n.val fallenAsleep) else (tick t s).updPort n.val fallenAsleep) := by
  have hnone : (s.port n.val).mgmtQ.any (fun c => c.kind = kSleep) = false := by simpa using hquiet
  have hnow : ¬ (tick t s).time < (s.port n.val).slpAt + (if (s.port n.val).slpDeep then ns 400 else ns 60) := Nat.not_lt.mpr hdue
  have hover : (decide ((tick t s).time < (s.port n.val).slpAt + (if (s.port n.val).slpDeep then ns 400 else ns 60)) || heldBusy (s.port n.val) ||
      (s.port n.val).mgmtQ.any (fun c => c.kind = kSleep)) = false := by
    simp only [hnow, hheld, hnone, decide_false, Bool.or_self]
  simp only [execSleepEntryDone, tick_port, hmove]
  exact congrArg Host.Outcome.next (if_neg (Bool.eq_false_iff.mp hover))

theorem fallenAsleep_slp (p : PortS) : (fallenAsleep p).slp = .light ∨ (fallenAsleep p).slp = .deep := by
  cases hdeep : p.slpDeep <;> simp [fallenAsleep, hdeep]

theorem execSleepExitDone_exiting (hmove : (s.port n.val).slpMove = .exiting) :
    execSleepExitDone t n s = .next (
      let s1 := (tick t s).updPort n.val (fun p => { p with
        slp := .active, slpMove := .none, wakeOut := false, lastHello := (tick t s).time, heldAt := (tick t s).time, st := .up })
      if (s.port n.val).slp = .deep then startShort n.val s1 else s1) := by
  unfold execSleepExitDone
  dsimp only
  rw [if_neg (by simp [hmove])]
  by_cases hdeep : (s.port n.val).slp = .deep
  · simp [hdeep]
  · simp [hdeep]

end

theorem startShort_slp (n : Nat) (s : State) : ((startShort n s).port n).slp = (s.port n).slp := by simp [startShort]
theorem startShort_slpMove (n : Nat) (s : State) : ((startShort n s).port n).slpMove = (s.port n).slpMove := by simp [startShort]

/-- Settles O40, by the lemmas above, one for each row of Table FB-8. -/
theorem portSleep : Obligations.PortSleep := by
  intro t n v c s
  refine ⟨fun hserving hslp hmove => ⟨fun hmay hroom => ⟨⟨_, execSleepRequestLight_serving hserving, requestSleep_sent _ false hslp hmove hmay hroom⟩,
        ⟨_, execSleepRequestDeep_serving hserving, requestSleep_sent _ true hslp hmove hmay hroom⟩⟩,
      fun hmay => ⟨⟨_, execSleepRequestLight_serving hserving, requestSleep_refused _ false hslp hmove hmay⟩,
        ⟨_, execSleepRequestDeep_serving hserving, requestSleep_refused _ true hslp hmove hmay⟩⟩⟩,
    fun hmove hslp => ⟨fun hserving => runs_wakeCommand hserving hmove hslp, runs_wakeSignal_asleep hmove hslp⟩,
    fun hslp hmove hroom => runs_wakeSignal_negotiating hmove hslp (by rw [ctlLimit_port]; exact hroom),
    fun h hmove hroom => ⟨fun hslp hmay hheld => runs_sleep_acked h hmove hroom hslp hmay hheld,
      fun hslp hnot => runs_sleep_refused h hmove hroom hslp hnot, fun hslp hown => runs_sleep_stands h hmove hslp hown,
      fun hslp hown => runs_sleep_yields h hmove hroom hslp hown⟩,
    fun h hmove hasked => runs_sleepAck h hmove hasked,
    fun hslp hmove => ⟨fun h => runs_sleepNak hslp hmove h, fun hdue => runs_sleepTimeout hslp hmove hdue⟩,
    fun hdue hheld hquiet => ⟨fun hmove => ⟨_, execSleepEntryDone_due hdue hheld hquiet hmove, (PortTurned.refl ..).upd fallenAsleep⟩,
      fun hmove => ⟨_, execSleepEntryDone_due hdue hheld hquiet hmove, ?wakes⟩⟩,
    fun hmove => ⟨fun hlight => ⟨_, execSleepExitDone_exiting hmove, ?light⟩, fun hdeep => ⟨_, execSleepExitDone_exiting hmove, ?deep⟩⟩⟩
  case wakes =>
    rw [if_pos rfl, wakePort_asleep (by simp [fallenAsleep]) (by rw [updPort_port_same]; exact fallenAsleep_slp _)]
    exact ((PortTurned.refl n.val [] (tick t s)).upd fallenAsleep).upd _
  case light =>
    rw [if_neg (by simp [hlight])]
    exact (PortTurned.refl n.val [] (tick t s)).upd _
  case deep =>
    rw [if_pos hdeep]
    exact ⟨(startShort_slp ..).trans (by simp), (startShort_slpMove ..).trans (by simp), startShort_st .., startShort_short ..,
      startShort_turned ((PortTurned.refl n.val [] (tick t s)).upd _)⟩

end Sys2Proof.Safety
end

section
/-! PROOF. The device's identity and enable, and its neighbours (11.1, 11.2). -/

namespace Sys2Proof.Safety
open Sys2Proof.Machine

/-! ### Management cells go to one port -/

theorem queueMgmt_atPort (n : Nat) (c : Cell) (s : State) : AtPort n s (queueMgmt n c s) := by
  by_cases hfull : ctlUse s n ≥ ctlLimit n
  · rw [show queueMgmt n c s = _ from if_pos hfull]
    exact ⟨(logCode_only _ _ _).mono (by simp), fun _ _ => rfl, rfl⟩
  · rw [show queueMgmt n c s = _ from if_neg hfull]
    exact .of_updPort rfl

theorem AtPort.refl (n : Nat) (s : State) : AtPort n s s := ⟨.refl _ _, fun _ _ => rfl, rfl⟩

theorem wakePort_atPort (n : Nat) (s : State) : AtPort n s (wakePort n s) := by
  have hactive : AtPort n s (s.updPort n (fun p => { p with slp := .active })) := .of_updPort rfl
  unfold wakePort
  dsimp only
  split
  · exact .of_updPort rfl
  · exact .refl _ _
  · exact hactive.trans (queueMgmt_atPort _ _ _)
  · exact .of_updPort rfl
  · exact .of_updPort rfl
  · exact .refl _ _

theorem autoWake_atPort (n : Nat) (s : State) : AtPort n s (autoWake n s) := by
  unfold autoWake
  dsimp only
  split
  · exact wakePort_atPort n s
  · exact .refl n s

theorem pushMgmt_atPort (n : Nat) (c : Cell) (s : State) : AtPort n s (pushMgmt n c s) := by
  unfold pushMgmt
  split
  · exact queueMgmt_atPort n c s
  · exact (queueMgmt_atPort n c s).trans (autoWake_atPort n _)

/-- A port that is awake, with room in its reserve, takes a management cell into its queue. -/
theorem pushMgmt_awake {n : Nat} {c : Cell} {s : State} (hroom : ctlUse s n < ctlLimit n) (hawake : StaysAwake (s.port n)) :
    pushMgmt n c s = s.updPort n (fun p => { p with mgmtQ := p.mgmtQ ++ [c] }) := by
  unfold pushMgmt
  rw [queueMgmt_room hroom]
  split
  · rfl
  · exact autoWake_awake (by rw [updPort_port_same]; exact hawake)

/-- Where each of a list of ports takes one step of its own, a port of the list takes it in a state where it stands as at the start. -/
theorem foldl_atPort {f : State → Nat → State} (hf : ∀ s n, AtPort n s (f s n)) (xs : List Nat) (hxs : xs.Nodup) (s : State) :
    (∀ k, k ∉ xs → (xs.foldl f s).port k = s.port k) ∧
    ∀ k ∈ xs, ∃ s1, OnlyChanges [.ports, .obs] s s1 ∧ s1.port k = s.port k ∧ (xs.foldl f s).port k = (f s1 k).port k := by
  induction xs generalizing s with
  | nil => exact ⟨fun _ _ => rfl, fun k hk => absurd hk List.not_mem_nil⟩
  | cons n xs ih =>
    obtain ⟨hn, hrest⟩ := List.nodup_cons.mp hxs
    obtain ⟨hout, hin⟩ := ih hrest (f s n)
    refine ⟨fun k hk => ?_, fun k hk => ?_⟩
    · exact (hout k (List.not_mem_of_not_mem_cons hk)).trans ((hf s n).others k (List.ne_of_not_mem_cons hk))
    · by_cases hkn : k = n
      · subst hkn
        exact ⟨s, .refl _ _, rfl, hout k hn⟩
      · obtain ⟨s1, honly, hport, hstep⟩ := hin k (List.mem_of_ne_of_mem hkn hk)
        exact ⟨s1, (hf s n).only.trans honly, hport.trans ((hf s n).others k hkn), hstep⟩

/-! ### The device (R289 to R291) -/

section
variable {t : Time} {v : Word} {s : State}

theorem or_one_bit0 (v : Word) : (v ||| 1).getLsbD 0 = true := by simp
theorem or_one_bit1 (v : Word) : (v ||| 1).getLsbD 1 = v.getLsbD 1 := by simp
theorem and_even_bit0 (v : Word) : (v &&& 0xFFFFFFFE).getLsbD 0 = false := by simp
theorem and_even_bit1 (v : Word) : (v &&& 0xFFFFFFFE).getLsbD 1 = v.getLsbD 1 := by simp

theorem execDevEnable_working (hworking : Working s) (hcheck : checking .dev s = false) (hen : s.dev.en = false) :
    execDevEnable t v s = .next (runDevCheck ((tick t s).updDev (fun d => { d with noFb := v.getLsbD 1, en := true }))) := by
  obtain ⟨hserving, hrestart⟩ := hworking
  have hcheck' : checking .dev (tick t s) = false := hcheck
  have hnow : startCheck .dev runDevCheck (((tick t s).updDev (fun d => { d with noFb := v.getLsbD 1 })).updDev (fun d => { d with en := true })) = _ :=
    startCheck_now hserving.2 hrestart
  rw [execDevEnable, bar0_serving hserving, writeDevCtl, hcheck', or_one_bit0, or_one_bit1, tick_dev, hen]
  exact congrArg Host.Outcome.next hnow

theorem runs_devEnable (hworking : Working s) (hcheck : checking .dev s = false) (hen : s.dev.en = false) (hid : s.dev.idValid = true) :
    Runs (.devEnable t v) s (fun s' => s' = (tick t s).updDev (fun d => { d with noFb := v.getLsbD 1, en := true, st := .enabled })) :=
  ⟨_, execDevEnable_working hworking hcheck hen, if_pos hid⟩

theorem runs_devEnable_refused (hworking : Working s) (hcheck : checking .dev s = false) (hen : s.dev.en = false) (hid : s.dev.idValid = false) :
    Runs (.devEnable t v) s (fun s' => s' = (tick t s).updDev (fun d => { d with noFb := v.getLsbD 1, en := false, reason := 0x0301 })) :=
  ⟨_, execDevEnable_working hworking hcheck hen, if_neg (Bool.eq_false_iff.mp hid)⟩

theorem runs_devDisable (hworking : Working s) (hcheck : checking .dev s = false) (hen : s.dev.en = true) (hst : s.dev.st = .enabled)
    (hbefore : s.dev.before ≠ .enabled) :
    Runs (.devDisable t v) s (fun s' => s' = (tick t s).updDev (fun d => { d with noFb := v.getLsbD 1, en := false, st := .ready })) := by
  have hcheck' : checking .dev (tick t s) = false := hcheck
  refine ⟨_, congrArg Host.Outcome.next (bar0_serving hworking.1), ?_⟩
  rw [writeDevCtl, hcheck', and_even_bit0, and_even_bit1, tick_dev, hen]
  simp [State.updDev, hst, hbefore]

/-- What a write of DEV_ID leaves of DUP, and of the ID where EN is 0 (R289). -/
theorem writeDevId_free (hen : s.dev.en = false) :
    writeDevId v s = s.updDev (fun d => { d with
      idDup := s.dev.idDup && (!v.getLsbD 28 || decide (Tbl.get 0 s.dev.w1cAt 2 = s.time + 1)), id := v.extractLsb' 0 12, idValid := true, idSource := 1 }) := by
  simp [writeDevId, State.updDev, w1c, hen]

theorem writeDevId_held (hen : s.dev.en = true) :
    writeDevId v s = s.updDev (fun d => { d with
      idDup := s.dev.idDup && (!v.getLsbD 28 || decide (Tbl.get 0 s.dev.w1cAt 2 = s.time + 1)) }) := by
  simp [writeDevId, State.updDev, w1c, hen]

/-! ### The fallback ID (R290) -/

/-- The device waits for an ID. -/
structure WithoutId (r : Time) (s : State) : Prop where
  readyAt : s.dev.readyAt = some r
  source : s.dev.idSource = 0
  noFb : s.dev.noFb = false
  en : s.dev.en = false
  st : s.dev.st = .ready

theorem runs_fallbackId {r : Time} (h : WithoutId r s) (hdue : r + sec 2 ≤ (tick t s).time) :
    Runs (.fallbackId t) s (fun s' => s' =
      (tick t s).updDev (fun d => { d with id := fallbackOf d, idValid := true, idSource := 2, en := true, st := .enabled })) := by
  have hlate : ¬ (tick t s).time < r + sec 2 := Nat.not_lt.mpr hdue
  have hgo : (decide ((tick t s).time < r + sec 2) || decide (s.dev.idSource ≠ 0) || s.dev.noFb || s.dev.en || decide (s.dev.st = .boot)) = false := by
    simp only [hlate, h.source, h.noFb, h.en, h.st, ne_eq, not_true, decide_false, reduceCtorEq, Bool.or_self]
  have hrun : execFallbackId t s = .next (runDevCheck ((tick t s).updDev (fun d => { d with
      id := fallbackOf d, idValid := true, idSource := 2, en := true }))) := by
    unfold execFallbackId
    simp only [tick_dev, h.readyAt]
    refine congrArg Host.Outcome.next ((if_neg (Bool.eq_false_iff.mp hgo)).trans (startCheck_now ?_ ?_))
    · simp [h.st]
    · simp [h.st]
  exact ⟨_, hrun, rfl⟩

theorem runs_fallbackId_early {r : Time} (h : WithoutId r s) (hearly : (tick t s).time < r + sec 2) :
    Runs (.fallbackId t) s (fun s' => s' = tick t s) := by
  have hwait : (decide ((tick t s).time < r + sec 2) || decide (s.dev.idSource ≠ 0) || s.dev.noFb || s.dev.en || decide (s.dev.st = .boot)) = true := by
    simp only [hearly, decide_true, Bool.true_or]
  have hrun : execFallbackId t s = .next (tick t s) := by
    unfold execFallbackId
    simp only [tick_dev, h.readyAt]
    exact congrArg Host.Outcome.next (if_pos hwait)
  exact ⟨_, hrun, rfl⟩

/-! ### HELLO is sent (R292) -/

/-- One port's part of the HELLO timer. -/
def greet (s : State) (n : Nat) : State := if awake (s.port n) then pushMgmt n (helloCell s n) s else s

theorem greet_atPort (s : State) (n : Nat) : AtPort n s (greet s n) := by
  unfold greet
  split
  · exact pushMgmt_atPort n _ s
  · exact .refl n s

theorem helloCell_same {n : Nat} {s s1 : State} (h : OnlyChanges [.ports, .obs] s s1) (hport : s1.port n = s.port n) :
    helloCell s1 n = helloCell s n := by
  have hdev : s1.dev = s.dev := h.2.2 .dev (by simp)
  have htide : s1.tide = s.tide := h.2.2 .tide (by simp)
  have hfabric : s1.fabric = s.fabric := h.2.2 .fabric (by simp)
  simp only [helloCell, hport, hdev, htide, hfabric]

theorem ctlUse_same {n : Nat} {l : List Region} {s s1 : State} (h : OnlyChanges l s s1) (hl : .fabric ∉ l) (hport : s1.port n = s.port n) :
    ctlUse s1 n = ctlUse s n := by
  have hfabric : s1.fabric = s.fabric := h.2.2 .fabric hl
  simp only [ctlUse, hport, hfabric]

theorem awake_stays {p : PortS} (h : awake p = true) (hslp : p.slp = .active ∨ p.autowake = false) : StaysAwake p := by
  have hmove : p.slpMove = .none := by simpa using (Bool.and_eq_true_iff.mp h).2
  exact hslp.elim (fun hactive => .inr ⟨hactive, hmove⟩) .inl

/-- The state in which the ports begin to send HELLO. -/
def greeting (s : State) : State := s.updFabric (fun f => { f with helloAt := some s.time })

theorem execHelloTimer_due (hdue : within (tick t s) s.fabric.helloAt (us 100) = false) (hboot : s.dev.st ≠ .boot) :
    execHelloTimer t s = .next ((List.range 128).foldl greet (greeting (tick t s))) := by
  have hgo : ¬ ((within (tick t s) s.fabric.helloAt (us 100) || decide (s.dev.st = .boot)) = true) := by simp [hdue, hboot]
  exact congrArg Host.Outcome.next (if_neg hgo)

theorem greeted_only (s : State) : OnlyChanges [.ports, .obs] (greeting s) ((List.range 128).foldl greet (greeting s)) :=
  .foldl _ (fun s n => (greet_atPort s n).only) _ _

/-- A port that is awake and has room sends its HELLO. -/
theorem greeted_awake {k : Nat} (hk : k < 128) (hawake : awake (s.port k) = true) (hslp : (s.port k).slp = .active ∨ (s.port k).autowake = false)
    (hroom : ctlUse s k < 512) :
    ((List.range 128).foldl greet (greeting s)).port k = { s.port k with mgmtQ := (s.port k).mgmtQ ++ [helloCell s k] } := by
  obtain ⟨-, hin⟩ := foldl_atPort greet_atPort (List.range 128) List.nodup_range (greeting s)
  obtain ⟨s1, honly, hport, hstep⟩ := hin k (List.mem_range.mpr hk)
  have huse : ctlUse s1 k = ctlUse s k := (ctlUse_same honly (by simp) hport).trans rfl
  have hsame : s1.port k = s.port k := hport
  rw [hstep, greet, hsame, if_pos hawake, pushMgmt_awake (by rw [huse, ctlLimit, if_pos hk]; exact hroom) (hsame ▸ awake_stays hawake hslp),
    updPort_port_same, helloCell_same honly hport, hsame]
  rfl

/-- A port that is not awake, or is none of the fabric's, sends none. -/
theorem greeted_silent {k : Nat} (hk : awake (s.port k) = false ∨ 128 ≤ k) :
    ((List.range 128).foldl greet (greeting s)).port k = s.port k := by
  obtain ⟨hout, hin⟩ := foldl_atPort greet_atPort (List.range 128) List.nodup_range (greeting s)
  by_cases hrange : k < 128
  · obtain ⟨s1, -, hport, hstep⟩ := hin k (List.mem_range.mpr hrange)
    have hsame : s1.port k = s.port k := hport
    have hasleep : awake (s.port k) = false := hk.resolve_right (Nat.not_le.mpr hrange)
    rw [hstep, greet, hsame, hasleep]
    exact hport
  · exact hout k (by simpa using hrange)

end

/-! ### HELLO is received (R293, R294) -/

/-- Port p once its adjacency has gone DOWN. -/
def adjLost (p : PortS) : PortS := { p with adj := .down, peerTide := none, peerHops := 0xF, peerLock := false, unacked := [] }

theorem adjDown_turned {n : Nat} {l : List Region} {q : PortS} {s s' : State} (h : PortTurned n l q s s') (hl : .fabric ∈ l) :
    PortTurned n l (adjLost q) s (adjDown n s') := by
  have hdown := h.upd adjLost
  by_cases hwas : (s'.port n).adj ≠ .down
  · rw [show adjDown n s' = _ from if_pos hwas]
    exact hdown.frame (updFabric_only _ _) (by simp) (by simpa using hl)
  · rw [show adjDown n s' = _ from if_neg hwas]
    exact hdown

theorem adjDown_dev (n : Nat) (s : State) : (adjDown n s).dev = s.dev := by
  unfold adjDown
  dsimp only
  split
  · rfl
  · rfl

/-- A code is logged and kept as the device's reason. -/
theorem PortTurned.reported {n : Nat} {l : List Region} {q : PortS} {s s' : State} (h : PortTurned n l q s s') (hdev : .dev ∈ l) (hobs : .obs ∈ l)
    (code unit : Nat) : PortTurned n l q s (devReason code (logCode code unit s')) :=
  (h.frame (logCode_only code unit s') (by simp) (by simpa using hobs)).frame (updDev_only _ _) (by simp) (by simpa using hdev)

theorem reported_dev (code unit : Nat) (s : State) : (devReason code (logCode code unit s)).dev = { s.dev with reason := BitVec.ofNat 16 code } := rfl
theorem reported_fabric (code unit : Nat) (s : State) : (devReason code (logCode code unit s)).fabric = s.fabric := rfl

theorem adjDown_fabric {n : Nat} {s : State} (h : (s.port n).adj ≠ .down) : (adjDown n s).fabric = { s.fabric with changedAt := some s.time } := by
  rw [show adjDown n s = _ from if_pos h]
  rfl

section
variable {t : Time} {n : Port} {c : Cell} {s : State}

/-- Cell c is the next of its path on the port, and a HELLO. -/
def HelloNext (n : Nat) (c : Cell) (s : State) : Prop :=
  c.cls = clsMgmt ∧ c.kind = kDiscovery ∧ bitsN c.ksf 34 3 = 0 ∧ isNext c ((s.port n).rxCells.map (·.2)) = true

theorem execHello_taken (h : HelloNext n.val c s) : execHello t n c s = .next (hello n.val c ((tick t s).updPort n.val (withoutRx c))) := by
  obtain ⟨hcls, hkind, hsub, hnext⟩ := h
  simp only [execHello, hcls, hkind, hsub, ne_eq, not_true, decide_false, Bool.or_self, Bool.false_eq_true, if_false,
    takeRx_next (s := tick t s) hnext]

theorem runs_hello_bad (h : HelloNext n.val c s) (hbad : helloBad c = true) : Runs (.hello t n c) s (fun s' =>
    s'.dev = { s.dev with reason := 0x0304 } ∧ PortTurned n.val [.dev, .obs] (withoutRx c (s.port n.val)) (tick t s) s') := by
  have hhello : hello n.val c ((tick t s).updPort n.val (withoutRx c)) =
      devReason 0x0304 (logCode 0x0304 (unitPort n.val) ((tick t s).updPort n.val (withoutRx c))) := if_pos hbad
  exact ⟨_, (execHello_taken h).trans (congrArg Host.Outcome.next hhello), reported_dev .., (rxTaken_turned ..).reported (by simp) (by simp) _ _⟩

/-- Port p that has heard a device of the other plane. -/
def otherPlane (now : Time) (p : PortS) : PortS := { p with planeBad := true, kind := .device, lastHello := now }

/-- A HELLO of the other plane stops the adjacency. -/
theorem hello_plane {n : Nat} {s : State} (hgood : helloBad c = false) (hplane : bitN (c.pn 0 2) 13 ≠ s.dev.twinSel) :
    hello n c s = devReason 0x0303 (logCode 0x0303 (unitPort n) (adjDown n (s.updPort n (otherPlane s.time)))) := by
  have hne : (bitN (c.pn 0 2) 13 != s.dev.twinSel) = true := by simpa using hplane
  unfold hello
  rw [if_neg (Bool.eq_false_iff.mp hgood)]
  dsimp only
  rw [if_pos hne]
  rfl

theorem runs_hello_plane (h : HelloNext n.val c s) (hgood : helloBad c = false) (hplane : bitN (c.pn 0 2) 13 ≠ s.dev.twinSel) :
    Runs (.hello t n c) s (fun s' =>
      s'.dev = { s.dev with reason := 0x0303 } ∧ ((s.port n.val).adj ≠ .down → s'.fabric.changedAt = some (tick t s).time) ∧
      PortTurned n.val [.dev, .fabric, .obs] (adjLost (otherPlane (tick t s).time (withoutRx c (s.port n.val)))) (tick t s) s') := by
  have hhello := hello_plane (n := n.val) (s := (tick t s).updPort n.val (withoutRx c)) hgood hplane
  refine ⟨_, (execHello_taken h).trans (congrArg Host.Outcome.next hhello), ?_, fun hadj => ?_, ?_⟩
  · rw [reported_dev, adjDown_dev]
    rfl
  · have hwas : ((((tick t s).updPort n.val (withoutRx c)).updPort n.val (otherPlane (tick t s).time)).port n.val).adj ≠ .down := by
      rw [updPort_port_same, updPort_port_same]
      exact hadj
    rw [reported_fabric, updPort_time, adjDown_fabric hwas]
    rfl
  · rw [updPort_time]
    exact (adjDown_turned ((rxTaken_turned t n.val [.dev, .fabric, .obs] c s).upd (otherPlane (tick t s).time)) (by simp)).reported
      (by simp) (by simp) _ _

/-- What a HELLO tells of the partner, kept in the port (R293, R341). -/
def heard (c : Cell) (now : Time) (tlock : Bool) (p : PortS) : PortS :=
  let lock := bitN (c.pbyte 33) 0
  { p with
    adjDev := BitVec.ofNat 12 (c.pn 0 2), adjPort := BitVec.ofNat 7 (c.pbyte 2), adjSerial := BitVec.ofNat 64 (c.pn 7 8)
    lastHello := now, kind := .device
    peerTide := some (BitVec.ofNat 48 (c.pn 15 6), BitVec.ofNat 32 (c.pn 21 4), BitVec.ofNat 64 (c.pn 25 8))
    peerLock := lock, peerHops := BitVec.ofNat 4 (bitsN (c.pbyte 33) 1 4)
    timeRun := lock && p.timeRun, offV := lock && (p.offV || (p.timeRun && tlock)) }

theorem noteHello_eq (n : Nat) (c : Cell) (s : State) : noteHello n c s = s.updPort n (heard c s.time s.fabric.tlock) := rfl

theorem followTide_free {n : Nat} {s : State} (h : s.fabric.tlock = false ∨ s.fabric.parent ≠ some n) : followTide n s = s := by
  refine if_neg ?_
  rcases h with hlock | hparent
  · simp [hlock]
  · simp [hparent]

/-- This device is seen in a HELLO: its partner names it and this port. -/
def seesMe (s : State) (n : Nat) (c : Cell) : Bool :=
  bitN (c.pn 3 4) 19 && bitsN (c.pn 3 4) 0 12 = s.dev.id.toNat && bitsN (c.pn 3 4) 12 7 = n

/-- Port p that hears a device of its plane. -/
def samePlane (p : PortS) : PortS := { p with planeBad := false }
def withAdj (a : Adj) (p : PortS) : PortS := { p with adj := a }

/-- A HELLO on a port whose adjacency is DOWN begins one: TWOWAY where the partner sees this port, INIT where it does not yet. -/
theorem hello_begins {n : Nat} {s : State} (hgood : helloBad c = false) (hplane : bitN (c.pn 0 2) 13 = s.dev.twinSel) (hadj : (s.port n).adj = .down)
    (hvalid : bitN (c.pn 0 2) 12 = true) (hfollow : s.fabric.tlock = false ∨ s.fabric.parent ≠ some n) :
    hello n c s = advertise (((s.updPort n samePlane).updPort n (heard c s.time s.fabric.tlock)).updPort n
      (withAdj (if seesMe s n c then .twoway else .init))) := by
  have hsame : ¬ ((bitN (c.pn 0 2) 13 != s.dev.twinSel) = true) := by simp [hplane]
  have hnote : followTide n (noteHello n c (s.updPort n samePlane)) = (s.updPort n samePlane).updPort n (heard c s.time s.fabric.tlock) := by
    rw [noteHello_eq]
    exact followTide_free hfollow
  unfold hello
  rw [if_neg (Bool.eq_false_iff.mp hgood)]
  dsimp only
  rw [if_neg hsame]
  simp only [hadj, hvalid, ne_eq, not_true, decide_false, Bool.false_and, Bool.false_eq_true, if_false, Bool.not_true, Bool.or_self, reduceCtorEq]
  rw [show (fun p : PortS => { p with planeBad := false }) = samePlane from rfl, hnote]
  simp only [updPort_dev]
  change (if seesMe s n c = true then _ else _) = _
  split
  · rfl
  · rfl

theorem runs_hello_new (h : HelloNext n.val c s) (hgood : helloBad c = false) (hplane : bitN (c.pn 0 2) 13 = s.dev.twinSel)
    (hadj : (s.port n.val).adj = .down) (hvalid : bitN (c.pn 0 2) 12 = true) (hfollow : s.fabric.tlock = false ∨ s.fabric.parent ≠ some n.val) :
    Runs (.hello t n c) s (fun s' =>
      PortTurned n.val [.fabric]
        (withAdj (if seesMe s n.val c then .twoway else .init) (heard c (tick t s).time s.fabric.tlock (samePlane (withoutRx c (s.port n.val))))) (tick t s) s' ∧
      s'.fabric = { s.fabric with changedAt := some (tick t s).time }) := by
  have hdown : (((tick t s).updPort n.val (withoutRx c)).port n.val).adj = .down := by
    rw [updPort_port_same]
    exact hadj
  have hhello := hello_begins (c := c) (s := (tick t s).updPort n.val (withoutRx c)) hgood hplane hdown hvalid hfollow
  refine ⟨_, (execHello_taken h).trans (congrArg Host.Outcome.next hhello), ?_, rfl⟩
  exact (((rxTaken_turned t n.val [.fabric] c s).upd _).upd _ |>.upd _).frame (updFabric_only _ _) (by simp) (by simp)

theorem runs_adjacencyTimeout (hadj : (s.port n.val).adj ≠ .down) (hslp : (s.port n.val).slp = .active) (hmove : (s.port n.val).slpMove = .none)
    (hdue : (s.port n.val).lastHello + us 300 ≤ (tick t s).time) :
    Runs (.adjacencyTimeout t n) s (fun s' => PortTurned n.val [.fabric] (adjLost (s.port n.val)) (tick t s) s' ∧
      s'.fabric = { s.fabric with changedAt := some (tick t s).time }) := by
  have hlate : (decide ((s.port n.val).adj ≠ .down) && decide ((s.port n.val).slp = .active) && decide ((s.port n.val).slpMove = .none) &&
      decide ((s.port n.val).lastHello + us 300 ≤ (tick t s).time)) = true := by
    simp only [ne_eq, hadj, hslp, hmove, hdue, not_false_eq_true, decide_true, Bool.and_self]
  have hrun : execAdjacencyTimeout t n s = .next (adjDown n.val (tick t s)) := congrArg Host.Outcome.next (if_pos hlate)
  exact ⟨_, hrun, adjDown_turned (PortTurned.refl n.val [.fabric] (tick t s)) (by simp), adjDown_fabric (s := tick t s) hadj⟩

theorem runs_endpointDetect (hst : (s.port n.val).st = .up) (hkind : (s.port n.val).kind = .unknown)
    (hdue : (s.port n.val).upAt + ms 1 ≤ (tick t s).time) :
    Runs (.endpointDetect t n) s (PortTurned n.val [] { s.port n.val with kind := .endpoint } (tick t s)) := by
  have hlate : (decide ((s.port n.val).st = .up) && decide ((s.port n.val).kind = .unknown) &&
      decide ((s.port n.val).upAt + ms 1 ≤ (tick t s).time)) = true := by
    simp only [hst, hkind, hdue, decide_true, Bool.and_self]
  have hrun : execEndpointDetect t n s = .next ((tick t s).updPort n.val (fun p => { p with kind := .endpoint })) :=
    congrArg Host.Outcome.next (if_pos hlate)
  exact ⟨_, hrun, (PortTurned.refl n.val [] (tick t s)).upd _⟩

end

/-- Settles O41, by the lemmas above: each write of the device's identity, and each outcome of a HELLO or its absence. -/
theorem identityAndNeighbours : Obligations.IdentityAndNeighbours := by
  refine ⟨fun t v s => ⟨fun hworking hcheck => ⟨fun hen hid => runs_devEnable hworking hcheck hen hid,
      fun hen hid => runs_devEnable_refused hworking hcheck hen hid, fun hen hst hbefore => runs_devDisable hworking hcheck hen hst hbefore⟩,
    fun hserving => ⟨fun hen => ⟨_, congrArg Host.Outcome.next (bar0_serving hserving), writeDevId_free (s := tick t s) hen⟩,
      fun hen => ⟨_, congrArg Host.Outcome.next (bar0_serving hserving), writeDevId_held (s := tick t s) hen⟩⟩,
    fun r hready hsource hnoFb hen hst => ⟨fun hdue => runs_fallbackId ⟨hready, hsource, hnoFb, hen, hst⟩ hdue,
      fun hearly => runs_fallbackId_early ⟨hready, hsource, hnoFb, hen, hst⟩ hearly⟩⟩,
    fun t n c s => ⟨fun hdue hboot => ?hellos, fun hcls hkind hsub hnext => ⟨fun hbad => ?bad, fun hgood hplane => ?plane,
      fun hgood hplane hadj hvalid hfollow => ?begun⟩, fun hadj hslp hmove hdue => ?timeout, fun hst hkind hdue => runs_endpointDetect hst hkind hdue⟩⟩
  case hellos =>
    have honly := greeted_only (tick t s)
    refine ⟨_, execHelloTimer_due hdue hboot, honly.2.2 .fabric (by simp), fun k hk hawake hslp hroom => greeted_awake (s := tick t s) hk hawake hslp hroom,
      fun k hk => greeted_silent (s := tick t s) hk, ?_⟩
    exact ((updFabric_only _ _).mono (by simp)).trans (honly.mono (by simp))
  case bad =>
    obtain ⟨s', hrun, hdev, hport, hothers, honly⟩ := runs_hello_bad (t := t) ⟨hcls, hkind, hsub, hnext⟩ hbad
    exact ⟨s', hrun, hdev, hport, hothers, honly.mono (by simp)⟩
  case plane =>
    obtain ⟨s', hrun, hdev, hfabric, hport, hothers, honly⟩ := runs_hello_plane (t := t) ⟨hcls, hkind, hsub, hnext⟩ hgood hplane
    exact ⟨s', hrun, hdev, hport, hfabric, hothers, honly.mono (by simp)⟩
  case begun =>
    obtain ⟨s', hrun, ⟨hport, hothers, honly⟩, hfabric⟩ := runs_hello_new (t := t) ⟨hcls, hkind, hsub, hnext⟩ hgood hplane hadj hvalid hfollow
    exact ⟨s', hrun, congrArg PortS.adj hport, congrArg PortS.adjDev hport, congrArg PortS.adjPort hport, congrArg PortS.adjSerial hport,
      congrArg PortS.lastHello hport, congrArg PortS.kind hport, congrArg PortS.planeBad hport, hfabric, hothers, honly.mono (by simp)⟩
  case timeout =>
    obtain ⟨s', hrun, ⟨hport, hothers, honly⟩, hfabric⟩ := runs_adjacencyTimeout (t := t) hadj hslp hmove hdue
    exact ⟨s', hrun, hport, hothers, hfabric, honly.mono (by simp)⟩

end Sys2Proof.Safety
end

section
/-! PROOF. The link-state database (11.3): what control cells sent on a port change, and the LSAs that come, go and age. -/

namespace Sys2Proof.Safety
open Sys2Proof.Machine

/-! ### Control cells sent on fabric ports -/

/-- From s to s' control cells are queued on ports of P alone: buffers are held for them, and no adjacency changes. -/
structure CtlSent (P : Nat → Prop) (s s' : State) : Prop where
  only : OnlyChanges ctlAreas s s'
  held : ∃ h, s'.fabric = { s.fabric with ctlHeld := h }
  adj : ∀ k, (s'.port k).adj = (s.port k).adj
  others : ∀ k, ¬ P k → s'.port k = s.port k

namespace CtlSent

variable {P Q : Nat → Prop} {s s' s'' : State}

theorem refl (P : Nat → Prop) (s : State) : CtlSent P s s := ⟨.refl _ _, ⟨_, rfl⟩, fun _ => rfl, fun _ _ => rfl⟩

theorem trans (h : CtlSent P s s') (h' : CtlSent P s' s'') : CtlSent P s s'' := by
  obtain ⟨a, ha⟩ := h.held
  obtain ⟨b, hb⟩ := h'.held
  exact ⟨h.only.trans h'.only, ⟨b, by rw [hb, ha]⟩, fun k => (h'.adj k).trans (h.adj k), fun k hk => (h'.others k hk).trans (h.others k hk)⟩

theorem mono (h : CtlSent P s s') (hPQ : ∀ k, P k → Q k) : CtlSent Q s s' := ⟨h.only, h.held, h.adj, fun k hk => h.others k (fun hP => hk (hPQ k hP))⟩

theorem dev (h : CtlSent P s s') : s'.dev = s.dev := h.only.2.2 .dev (by simp [ctlAreas])

theorem time (h : CtlSent P s s') : s'.time = s.time := h.only.1

/-- Any part of the fabric block but the buffers held is as before. -/
theorem fabric_eq {α : Type} (h : CtlSent P s s') (g : Fabric → α) (hg : ∀ f h, g { f with ctlHeld := h } = g f) : g s'.fabric = g s.fabric := by
  obtain ⟨a, ha⟩ := h.held
  rw [ha, hg]

theorem foldl {α : Type} {f : State → α → State} (xs : List α) (hf : ∀ x ∈ xs, ∀ s, CtlSent P s (f s x)) (s : State) : CtlSent P s (xs.foldl f s) := by
  induction xs generalizing s with
  | nil => exact .refl P s
  | cons x xs ih => exact (hf x List.mem_cons_self s).trans (ih (fun y hy => hf y (List.mem_cons_of_mem _ hy)) _)

end CtlSent

theorem wakePort_adj (n : Nat) (s : State) : ((wakePort n s).port n).adj = (s.port n).adj := by
  have hqueue (c : Cell) (s : State) : ((queueMgmt n c s).port n).adj = (s.port n).adj := by
    unfold queueMgmt
    split
    · rfl
    · rw [updPort_port_same]
  unfold wakePort
  dsimp only
  split
  · rw [updPort_port_same]
  · rfl
  · rw [hqueue, updPort_port_same]
  · rw [updPort_port_same]
  · rw [updPort_port_same]
  · rfl

/-- A change of port n that keeps its adjacency, and the wake that may follow. -/
theorem autoWake_sent {n : Nat} {f : PortS → PortS} {s : State} (hf : (f (s.port n)).adj = (s.port n).adj) :
    CtlSent (· = n) s (autoWake n (s.updPort n f)) := by
  have hupd : OnlyChanges ctlAreas s (s.updPort n f) := (updPort_only n f s).mono (by simp [ctlAreas])
  have hwake := autoWake_atPort n (s.updPort n f)
  have hadj : ((autoWake n (s.updPort n f)).port n).adj = (s.port n).adj := by
    unfold autoWake
    dsimp only
    split
    · rw [wakePort_adj, updPort_port_same, hf]
    · rw [updPort_port_same, hf]
  have hothers (k : Nat) (hk : k ≠ n) : (autoWake n (s.updPort n f)).port k = s.port k := (hwake.others k hk).trans (updPort_port_other hk f s)
  refine ⟨hupd.trans (hwake.only.mono (by simp [ctlAreas])), ⟨_, hwake.fabric⟩, fun k => ?_, hothers⟩
  by_cases hk : k = n
  · rw [hk, hadj]
  · rw [hothers k hk]

theorem pushCtl_sent (n : Nat) (c : Cell) (s : State) : CtlSent (· = n) s (pushCtl n [n] c s) := by
  unfold pushCtl
  by_cases halive : linkAlive (s.port n) = true
  · have hheld : CtlSent (· = n) s (s.updFabric (fun f => { f with ctlHeld := Tbl.upd [] f.ctlHeld n (· ++ [(c, [n].length)]) })) :=
      ⟨(updFabric_only _ _).mono (by simp [ctlAreas]), ⟨_, rfl⟩, fun _ => rfl, fun _ _ => rfl⟩
    simp only [List.filter_cons, List.filter_nil, halive, Bool.not_true, if_true, Bool.false_eq_true, if_false, List.foldl_nil, List.foldl_cons,
      List.isEmpty_cons]
    split
    · exact ⟨(logCode_only _ _ _).mono (by simp [ctlAreas]), ⟨_, rfl⟩, fun _ => rfl, fun _ _ => rfl⟩
    · exact hheld.trans (autoWake_sent rfl)
  · simp only [List.filter_cons, List.filter_nil, halive, Bool.not_false, if_true, Bool.false_eq_true, if_false, List.foldl_nil, List.foldl_cons,
      List.isEmpty_nil]
    exact ⟨(bump_only _ _ _).mono (by simp [ctlAreas]), ⟨_, rfl⟩, fun _ => rfl, fun _ _ => rfl⟩

theorem sendPart_sent (n lseq : Nat) (pay : Payload) (s : State) : CtlSent (· = n) s (sendPart n lseq pay s) := by
  refine CtlSent.trans ?_ (pushCtl_sent n _ _)
  refine ⟨(updPort_only _ _ _).mono (by simp [ctlAreas]), ⟨_, rfl⟩, fun k => ?_, fun k hk => updPort_port_other hk _ s⟩
  by_cases hk : k = n
  · rw [hk, updPort_port_same]
  · rw [updPort_port_other hk]

theorem mem_twoway {s : State} {n : Nat} : n ∈ twoway s ↔ n < 128 ∧ (s.port n).adj = .twoway := by simp [twoway]

/-- An LSA part is flooded on TWOWAY links alone (R297). -/
theorem flood_sent (from_ : Option Nat) (lseq : Nat) (pay : Payload) (s : State) :
    CtlSent (fun k => (s.port k).adj = .twoway) s (flood from_ lseq pay s) := by
  refine CtlSent.foldl _ (fun n hn s1 => (sendPart_sent n lseq pay s1).mono ?_) s
  rintro k rfl
  exact (mem_twoway.mp (List.mem_filter.mp hn).1).2

theorem flood_silent {from_ : Option Nat} {lseq : Nat} {pay : Payload} {s : State} (h : ∀ k, (s.port k).adj ≠ .twoway) : flood from_ lseq pay s = s := by
  have hnone : twoway s = [] := List.eq_nil_iff_forall_not_mem.mpr (fun n hn => h n (mem_twoway.mp hn).2)
  rw [flood, hnone]
  rfl

theorem floods_sent (lseq : Nat) (ps : List Payload) (s : State) :
    CtlSent (fun k => (s.port k).adj = .twoway) s (ps.foldl (fun s p => flood none lseq p s) s) := by
  induction ps generalizing s with
  | nil => exact .refl _ s
  | cons p ps ih =>
    have hflood := flood_sent none lseq p s
    exact hflood.trans ((ih (flood none lseq p s)).mono (fun k hk => (hflood.adj k).symm.trans hk))

/-! ### The device's own LSA (R295, R296) -/

/-- The device's own LSA with a number, of the payloads given. -/
def ownLsa (s : State) (lseq : Nat) : Lsa :=
  ⟨s.dev.id, BitVec.ofNat 32 lseq, s.dev.serial, (ownParts s lseq).length, (ownParts s lseq).zipIdx.map (fun q => (q.2, q.1)), s.time⟩

/-- The database with the device's own LSA. -/
def ownHeld (lseq : Nat) (s : State) : State :=
  setFull (ownLsa s lseq) (setDb (ownLsa s lseq)
    (s.updFabric (fun f => { f with lseq := BitVec.ofNat 32 lseq, originAt := s.time, changedAt := none })))

theorem originate_sent (lseq : Nat) (s : State) : CtlSent (fun k => (s.port k).adj = .twoway) (ownHeld lseq s) (originate lseq s) :=
  floods_sent lseq (ownParts s lseq) (ownHeld lseq s)

theorem ownHeld_only (lseq : Nat) (s : State) : OnlyChanges [.fabric] s (ownHeld lseq s) :=
  ((updFabric_only _ _).trans (updFabric_only _ _)).trans (updFabric_only _ _)

theorem mem_full_setFull (l : Lsa) (s : State) : l ∈ (setFull l s).fabric.full := List.mem_append_right _ (List.mem_singleton_self l)

theorem mem_db_setDb (l : Lsa) (s : State) : l ∈ (setDb l s).fabric.db := List.mem_append_right _ (List.mem_singleton_self l)

theorem setFull_dev (l : Lsa) (s : State) : (setFull l s).dev = s.dev := rfl
theorem setFull_time (l : Lsa) (s : State) : (setFull l s).time = s.time := rfl
theorem setFull_db (l : Lsa) (s : State) : (setFull l s).fabric.db = s.fabric.db := rfl
theorem setFull_dbAt (l : Lsa) (s : State) : (setFull l s).fabric.dbAt = some s.time := rfl

theorem runs_lsaOriginate {t : Time} {s : State} (htakes : takesPart s = true)
    (hdue : s.fabric.lseq = 0 ∨ s.fabric.originAt + ms 100 ≤ (tick t s).time ∨
      (s.fabric.changedAt.isSome = true ∧ s.fabric.originAt + us 20 ≤ (tick t s).time)) :
    Runs (.lsaOriginate t) s (fun s' =>
      s'.fabric.lseq = BitVec.ofNat 32 (s.fabric.lseq.toNat + 1) ∧ s'.fabric.originAt = (tick t s).time ∧ s'.fabric.changedAt = none ∧
      (∃ l ∈ s'.fabric.full, l.origin = s.dev.id ∧ l.serial = s.dev.serial ∧ l.lseq = BitVec.ofNat 32 (s.fabric.lseq.toNat + 1)) ∧
      (∀ k, (s.port k).adj ≠ .twoway → s'.port k = s.port k) ∧ OnlyChanges [.fabric, .ports, .obs] (tick t s) s') := by
  have htakes' : takesPart (tick t s) = true := htakes
  have hgo : (takesPart (tick t s) && (decide (s.fabric.lseq = 0) || (s.fabric.changedAt.isSome && decide (s.fabric.originAt + us 20 ≤ (tick t s).time)) ||
      decide (s.fabric.originAt + ms 100 ≤ (tick t s).time))) = true := by
    rw [htakes', Bool.true_and]
    rcases hdue with hnew | hold | ⟨hchanged, hsoon⟩
    · simp only [hnew, decide_true, Bool.true_or]
    · simp only [hold, decide_true, Bool.or_true]
    · simp only [hchanged, hsoon, decide_true, Bool.and_self, Bool.or_true, Bool.true_or]
  have hrun : execLsaOriginate t s = .next (originate (s.fabric.lseq.toNat + 1) (tick t s)) := congrArg Host.Outcome.next (if_pos hgo)
  have hsent := originate_sent (s.fabric.lseq.toNat + 1) (tick t s)
  refine ⟨_, hrun, hsent.fabric_eq (·.lseq) (fun _ _ => rfl), hsent.fabric_eq (·.originAt) (fun _ _ => rfl),
    hsent.fabric_eq (·.changedAt) (fun _ _ => rfl), ⟨ownLsa (tick t s) (s.fabric.lseq.toNat + 1), ?_, rfl, rfl, rfl⟩, fun k hk => hsent.others k hk, ?_⟩
  · rw [hsent.fabric_eq (·.full) (fun _ _ => rfl)]
    exact mem_full_setFull _ _
  · exact ((ownHeld_only _ _).mono (by simp)).trans (hsent.only.mono (by simp [ctlAreas]))

/-! ### A part of an LSA comes (R296, R297) -/

/-- Fields of an LSA part (Table FB-4). -/
def partOrigin (c : Cell) : Nat := bitsN (c.pn 0 2) 0 12
def partIdx (c : Cell) : Nat := bitsN (c.pbyte 6) 0 3
def partCount (c : Cell) : Nat := bitsN (c.pbyte 6) 4 3 + 1

theorem partOrigin_lt (c : Cell) : partOrigin c < 2 ^ 12 := Nat.mod_lt _ (by decide)

theorem pn_lt (c : Cell) (lo n : Nat) : c.pn lo n < 2 ^ (8 * n) := Nat.mod_lt _ (Nat.two_pow_pos _)

/-- The LSA that part c begins at time now. -/
def begunLsa (c : Cell) (now : Time) : Lsa :=
  ⟨BitVec.ofNat 12 (partOrigin c), BitVec.ofNat 32 (c.pn 2 4), BitVec.ofNat 64 (c.pn 8 8), partCount c, Tbl.set 0 [] (partIdx c) c.pay, now⟩

theorem begunLsa_origin (c : Cell) (now : Time) : (begunLsa c now).origin.toNat = partOrigin c := by
  rw [begunLsa, BitVec.toNat_ofNat, Nat.mod_eq_of_lt (partOrigin_lt c)]

theorem begunLsa_lseq (c : Cell) (now : Time) : (begunLsa c now).lseq.toNat = c.pn 2 4 := by
  rw [begunLsa, BitVec.toNat_ofNat, Nat.mod_eq_of_lt (pn_lt c 2 4)]

theorem begunLsa_part (c : Cell) (now : Time) : Tbl.get 0 (begunLsa c now).parts (partIdx c) = c.pay := Tbl.get_set_same _ _ _ _

/-- A part alone is the whole LSA where NP says so. -/
theorem begunLsa_complete {c : Cell} {now : Time} (hcount : partCount c = 1) (hidx : partIdx c = 0) (hpay : c.pay ≠ 0) :
    (begunLsa c now).complete = true := by
  have hpart : Tbl.get 0 (begunLsa c now).parts 0 = c.pay := hidx ▸ begunLsa_part c now
  have hnp : (begunLsa c now).np = 1 := hcount
  rw [Lsa.complete, hnp, List.range_one, List.all_cons, List.all_nil, hpart, Bool.and_true, decide_eq_true_eq]
  exact hpay

/-- A good part names none beyond its LSA's last. -/
theorem partIdx_lt {c : Cell} (h : partBad c = false) : partIdx c < partCount c := by
  unfold partBad at h
  simp only [Bool.or_eq_false_iff, decide_eq_false_iff_not] at h
  exact Nat.lt_succ_of_le (Nat.not_lt.mp h.1.1.2)

/-- The acknowledgement of a part, where an adjacency stands. -/
def ackPart (n : Nat) (c : Cell) (s : State) : State :=
  if (s.port n).adj = .down then s else pushCtl n [n] (fabCell clsCtl kAck 1 (s.port n).adjDev.toNat 0 0 (payOf (leBytes 7 (c.pn 0 7)))) s

theorem ackPart_sent (n : Nat) (c : Cell) (s : State) : CtlSent (· = n) s (ackPart n c s) := by
  unfold ackPart
  split
  · exact .refl _ s
  · exact pushCtl_sent n _ s

/-- What follows the entry of an LSA that a part began: it counts once complete, and a duplicate of this ID is reported. -/
def settleLsa (mine : Bool) (l : Lsa) (serial : Nat) (s : State) : State :=
  if !l.complete then s else if mine then duplicateId serial (setFull l s) else setFull l s

/-- The first part of an LSA that is not this device's own, with no neighbour to flood it to. -/
theorem lsaPart_first {n : Nat} {c : Cell} {s : State} (hgood : partBad c = false) (hsilent : ∀ k, (s.port k).adj ≠ .twoway)
    (hfind : s.fabric.db.find? (fun l => l.origin.toNat = partOrigin c) = none)
    (hforeign : (s.dev.idValid && decide (partOrigin c = s.dev.id.toNat) && decide (c.pn 8 8 = s.dev.serial.toNat)) = false) :
    lsaPart n c s = settleLsa (s.dev.idValid && decide (partOrigin c = s.dev.id.toNat)) (begunLsa c s.time) (c.pn 8 8)
      (setDb (begunLsa c s.time) (ackPart n c s)) := by
  have hsent := ackPart_sent n c s
  have hflood (lseq : Nat) (pay : Payload) : flood (some n) lseq pay (setDb (begunLsa c s.time) (ackPart n c s)) = setDb (begunLsa c s.time) (ackPart n c s) :=
    flood_silent (fun k => by
      have hadj : ((setDb (begunLsa c s.time) (ackPart n c s)).port k).adj = (s.port k).adj := hsent.adj k
      rw [hadj]
      exact hsilent k)
  have hfind' : (ackPart n c s).fabric.db.find? (fun l => l.origin.toNat = partOrigin c) = none := by
    rw [hsent.fabric_eq (·.db) (fun _ _ => rfl)]
    exact hfind
  have hother : ¬ ((s.dev.idValid && decide (bitsN (c.pn 0 2) 0 12 = s.dev.id.toNat) && decide (c.pn 8 8 = s.dev.serial.toNat)) = true) :=
    Bool.eq_false_iff.mp hforeign
  unfold lsaPart
  rw [if_neg (Bool.eq_false_iff.mp hgood)]
  dsimp only
  rw [show (if (s.port n).adj = .down then s else
    pushCtl n [n] (fabCell clsCtl kAck 1 (s.port n).adjDev.toNat 0 0 (payOf (leBytes 7 (c.pn 0 7)))) s) = ackPart n c s from rfl]
  rw [hsent.dev, hsent.time, if_neg hother]
  rw [show (ackPart n c s).fabric.db.find? (fun l => l.origin.toNat = bitsN (c.pn 0 2) 0 12) = none from hfind']
  dsimp only
  change (if (!(begunLsa c s.time).complete) = true then flood (some n) (c.pn 2 4) c.pay (setDb (begunLsa c s.time) (ackPart n c s))
    else if (s.dev.idValid && decide (partOrigin c = s.dev.id.toNat)) = true then
      duplicateId (c.pn 8 8) (setFull (begunLsa c s.time) (flood (some n) (c.pn 2 4) c.pay (setDb (begunLsa c s.time) (ackPart n c s))))
    else setFull (begunLsa c s.time) (flood (some n) (c.pn 2 4) c.pay (setDb (begunLsa c s.time) (ackPart n c s)))) = _
  rw [hflood]
  rfl

theorem settleLsa_foreign (l : Lsa) (serial : Nat) (s : State) : settleLsa false l serial s = if l.complete then setFull l s else s := by
  unfold settleLsa
  cases l.complete <;> rfl

theorem settleLsa_mine {l : Lsa} (h : l.complete = true) (serial : Nat) (s : State) : settleLsa true l serial s = duplicateId serial (setFull l s) := by
  rw [settleLsa, h]
  rfl

/-- A duplicate of this ID with a lower serial number withdraws an enabled device (R291). -/
theorem duplicateId_withdraws {serial : Nat} {s : State} (hserial : serial < s.dev.serial.toNat) (hst : s.dev.st = .enabled) :
    (duplicateId serial s).dev = { s.dev with
      idDup := true, reason := 0x0302, idValid := false, en := false, st := .withdrawn, w1cAt := Tbl.set 0 s.dev.w1cAt 2 (s.time + 1) } := by
  have hrestart : s.dev.st ≠ .restart := by simp [hst]
  simp [duplicateId, devReason, markDev, hserial, hrestart]

section
variable {t : Time} {n : Port} {c : Cell} {s : State}

/-- Cell c is the next of its path on the port, and a control cell of this kind and SUB. -/
def FabNext (n kind sub : Nat) (c : Cell) (s : State) : Prop :=
  c.cls = clsCtl ∧ c.kind = kind ∧ bitsN c.ksf 34 3 = sub ∧ isNext c ((s.port n).rxCells.map (·.2)) = true

theorem takeFab_next {n kind sub : Nat} (h : FabNext n kind sub c s) : takeFab n kind sub c s = some (s.updPort n (withoutRx c)) := by
  obtain ⟨hcls, hkind, hsub, hnext⟩ := h
  simp [takeFab, hcls, hkind, hsub, takeRx_next hnext]

theorem execLsaPart_taken (h : FabNext n.val kDiscovery 1 c s) :
    execLsaPart t n c s = .next (lsaPart n.val c ((tick t s).updPort n.val (withoutRx c))) := by
  rw [execLsaPart, takeFab_next (s := tick t s) h]

theorem runs_lsaPart_bad (h : FabNext n.val kDiscovery 1 c s) (hbad : partBad c = true) : Runs (.lsaPart t n c) s (fun s' =>
    s'.dev = { s.dev with reason := 0x0304 } ∧ PortTurned n.val [.dev, .obs] (withoutRx c (s.port n.val)) (tick t s) s') := by
  have hpart : lsaPart n.val c ((tick t s).updPort n.val (withoutRx c)) =
      devReason 0x0304 (logCode 0x0304 (unitPort n.val) ((tick t s).updPort n.val (withoutRx c))) := if_pos hbad
  exact ⟨_, (execLsaPart_taken h).trans (congrArg Host.Outcome.next hpart), reported_dev .., (rxTaken_turned ..).reported (by simp) (by simp) _ _⟩

theorem rxTaken_adj (k : Nat) : (((tick t s).updPort n.val (withoutRx c)).port k).adj = (s.port k).adj := by
  by_cases hk : k = n.val
  · rw [hk, updPort_port_same]
    rfl
  · rw [updPort_port_other hk]
    rfl

/-- The state in which the LSA that part c begins is entered. -/
def partHeld (t : Time) (n : Nat) (c : Cell) (s : State) : State :=
  setDb (begunLsa c (tick t s).time) (ackPart n c ((tick t s).updPort n (withoutRx c)))

theorem partHeld_dev (n : Nat) : (partHeld t n c s).dev = s.dev := (ackPart_sent n c _).dev

theorem partHeld_time (n : Nat) : (partHeld t n c s).time = (tick t s).time := (ackPart_sent n c _).time

theorem partHeld_only (n : Nat) : OnlyChanges [.fabric, .ports, .obs] (tick t s) (partHeld t n c s) :=
  ((updPort_only _ _ _).mono (by simp)).trans (((ackPart_sent n c _).only.mono (by simp [ctlAreas])).trans ((updFabric_only _ _).mono (by simp)))

theorem execLsaPart_first (h : FabNext n.val kDiscovery 1 c s) (hgood : partBad c = false) (hsilent : ∀ k, (s.port k).adj ≠ .twoway)
    (hfind : s.fabric.db.find? (fun l => l.origin.toNat = partOrigin c) = none)
    (hforeign : (s.dev.idValid && decide (partOrigin c = s.dev.id.toNat) && decide (c.pn 8 8 = s.dev.serial.toNat)) = false) :
    execLsaPart t n c s = .next (settleLsa (s.dev.idValid && decide (partOrigin c = s.dev.id.toNat)) (begunLsa c (tick t s).time) (c.pn 8 8)
      (partHeld t n.val c s)) := by
  have hquiet (k : Nat) : (((tick t s).updPort n.val (withoutRx c)).port k).adj ≠ .twoway := by
    rw [rxTaken_adj]
    exact hsilent k
  exact (execLsaPart_taken h).trans (congrArg Host.Outcome.next (lsaPart_first hgood hquiet hfind hforeign))

/-- A new part of another device is kept, and its LSA counts once it is complete. -/
theorem runs_lsaPart_new (h : FabNext n.val kDiscovery 1 c s) (hgood : partBad c = false) (hsilent : ∀ k, (s.port k).adj ≠ .twoway)
    (hfind : s.fabric.db.find? (fun l => l.origin.toNat = partOrigin c) = none)
    (hother : s.dev.idValid = false ∨ partOrigin c ≠ s.dev.id.toNat) :
    Runs (.lsaPart t n c) s (fun s' =>
      begunLsa c (tick t s).time ∈ s'.fabric.db ∧
      ((begunLsa c (tick t s).time).complete = true → s'.fabric.dbAt = some (tick t s).time ∧ begunLsa c (tick t s).time ∈ s'.fabric.full) ∧
      s'.dev = s.dev ∧ OnlyChanges [.fabric, .ports, .obs] (tick t s) s') := by
  have hmine : (s.dev.idValid && decide (partOrigin c = s.dev.id.toNat)) = false := by
    rcases hother with hno | hno <;> simp [hno]
  have hrun := execLsaPart_first (t := t) h hgood hsilent hfind (by rw [hmine, Bool.false_and])
  rw [hmine, settleLsa_foreign] at hrun
  have hdb : begunLsa c (tick t s).time ∈ (partHeld t n.val c s).fabric.db := mem_db_setDb _ _
  by_cases hcomplete : (begunLsa c (tick t s).time).complete = true
  · rw [if_pos hcomplete] at hrun
    refine ⟨_, hrun, ?_, fun _ => ⟨?_, mem_full_setFull _ _⟩, (setFull_dev _ _).trans (partHeld_dev n.val), ?_⟩
    · rw [setFull_db]
      exact hdb
    · rw [setFull_dbAt, partHeld_time]
    · exact (partHeld_only n.val).trans ((updFabric_only _ _).mono (by simp))
  · rw [if_neg hcomplete] at hrun
    exact ⟨_, hrun, hdb, fun hyes => absurd hyes hcomplete, partHeld_dev n.val, partHeld_only n.val⟩

/-- A whole LSA under this device's ID, of a lower serial number, withdraws the device. -/
theorem runs_lsaPart_duplicate (h : FabNext n.val kDiscovery 1 c s) (hgood : partBad c = false) (hsilent : ∀ k, (s.port k).adj ≠ .twoway)
    (hfind : s.fabric.db.find? (fun l => l.origin.toNat = partOrigin c) = none) (hvalid : s.dev.idValid = true)
    (hid : partOrigin c = s.dev.id.toNat) (hserial : c.pn 8 8 < s.dev.serial.toNat)
    (hcomplete : (begunLsa c (tick t s).time).complete = true) (hst : s.dev.st = .enabled) :
    Runs (.lsaPart t n c) s (fun s' => s'.dev = { s.dev with
      idDup := true, reason := 0x0302, idValid := false, en := false, st := .withdrawn, w1cAt := Tbl.set 0 s.dev.w1cAt 2 ((tick t s).time + 1) }) := by
  have hmine : (s.dev.idValid && decide (partOrigin c = s.dev.id.toNat)) = true := by simp [hvalid, hid]
  have hrun := execLsaPart_first (t := t) h hgood hsilent hfind (by simp [Nat.ne_of_lt hserial])
  rw [hmine, settleLsa_mine hcomplete] at hrun
  have hdev : (setFull (begunLsa c (tick t s).time) (partHeld t n.val c s)).dev = s.dev :=
    (setFull_dev _ _).trans (partHeld_dev n.val)
  have htime : (setFull (begunLsa c (tick t s).time) (partHeld t n.val c s)).time = (tick t s).time :=
    (setFull_time _ _).trans (partHeld_time n.val)
  have hwithdrawn := duplicateId_withdraws (serial := c.pn 8 8) (s := setFull (begunLsa c (tick t s).time) (partHeld t n.val c s))
    (by rwa [hdev]) (by rwa [hdev])
  rw [hdev, htime] at hwithdrawn
  exact ⟨_, hrun, hwithdrawn⟩

/-! ### Acknowledgement and repetition (R297) -/

theorem runs_lsaAck (h : FabNext n.val kAck 1 c s) : Runs (.lsaAck t n c) s (PortTurned n.val [] { withoutRx c (s.port n.val) with
    unacked := (s.port n.val).unacked.filter (fun u => bitsN u.cell.pay.toNat 0 56 ≠ c.pn 0 7) } (tick t s)) := by
  have hrun : execLsaAck t n c s = .next (((tick t s).updPort n.val (withoutRx c)).updPort n.val (fun p => { p with
      unacked := p.unacked.filter (fun u => bitsN u.cell.pay.toNat 0 56 ≠ c.pn 0 7) })) := by
    rw [execLsaAck, takeFab_next (s := tick t s) h]
  exact ⟨_, hrun, (rxTaken_turned ..).upd _⟩

/-- A part unanswered 20 times takes the adjacency DOWN. -/
theorem runs_lsaRetransmit_down (hslp : (s.port n.val).slp = .active) (hmove : (s.port n.val).slpMove = .none)
    (hlast : ∃ u ∈ (s.port n.val).unacked, u.at_ + us 50 ≤ (tick t s).time ∧ 20 ≤ u.sends) :
    Runs (.lsaRetransmit t n) s (fun s' => PortTurned n.val [.fabric] (adjLost (s.port n.val)) (tick t s) s' ∧
      ((s.port n.val).adj ≠ .down → s'.fabric.changedAt = some (tick t s).time)) := by
  obtain ⟨u, hu, hdue, hsends⟩ := hlast
  have hawake : ¬ ((decide ((s.port n.val).slp ≠ .active) || decide ((s.port n.val).slpMove ≠ .none)) = true) := by simp [hslp, hmove]
  have hany : (s.port n.val).unacked.any (fun u => decide (u.at_ + us 50 ≤ (tick t s).time) && decide (20 ≤ u.sends)) = true :=
    List.any_eq_true.mpr ⟨u, hu, by simp only [hdue, hsends, decide_true, Bool.and_self]⟩
  have hrun : execLsaRetransmit t n s = .next (adjDown n.val (tick t s)) := by
    unfold execLsaRetransmit
    dsimp only
    rw [tick_port, if_neg hawake, if_pos hany]
  refine ⟨_, hrun, adjDown_turned (PortTurned.refl n.val [.fabric] (tick t s)) (by simp), fun hadj => ?_⟩
  rw [adjDown_fabric (s := tick t s) hadj]

theorem runs_lsaRetransmit_asleep (hasleep : (s.port n.val).slp ≠ .active ∨ (s.port n.val).slpMove ≠ .none) :
    Runs (.lsaRetransmit t n) s (fun s' => s' = tick t s) := by
  have hsleeps : (decide ((s.port n.val).slp ≠ .active) || decide ((s.port n.val).slpMove ≠ .none)) = true := by simpa using hasleep
  exact ⟨_, congrArg Host.Outcome.next (if_pos hsleeps), rfl⟩

/-- Buffers of tile n with one more control cell held, for one port. -/
def withHeld (n : Nat) (c : Cell) (f : Fabric) : Fabric := { f with ctlHeld := Tbl.upd [] f.ctlHeld n (fun l => l ++ [(c, 1)]) }

/-- A control cell for one port that is up and awake is queued there, and held in the tile's reserve. -/
theorem pushCtl_awake {n : Nat} {c : Cell} {s : State} (halive : linkAlive (s.port n) = true) (hroom : ctlUse s n < ctlLimit n)
    (hawake : StaysAwake (s.port n)) :
    pushCtl n [n] c s = (s.updFabric (withHeld n c)).updPort n (fun p => { p with ctlQ := p.ctlQ ++ [c] }) := by
  unfold pushCtl
  simp only [List.filter_cons, List.filter_nil, halive, Bool.not_true, if_true, Bool.false_eq_true, if_false, List.foldl_nil, List.foldl_cons,
    List.isEmpty_cons, Nat.not_le.mpr hroom]
  exact autoWake_awake (by rw [updPort_port_same]; exact hawake)

/-- The part is sent again at time now. -/
def resent (now : Time) (u : Unacked) : Unacked := { u with sends := u.sends + 1, at_ := now }

theorem runs_lsaRetransmit_again {u : Unacked} (hslp : (s.port n.val).slp = .active) (hmove : (s.port n.val).slpMove = .none)
    (hone : (s.port n.val).unacked = [u]) (hdue : u.at_ + us 50 ≤ (tick t s).time) (hsends : u.sends < 20)
    (halive : linkAlive (s.port n.val) = true) (hroom : ctlUse s n.val < 512) :
    Runs (.lsaRetransmit t n) s (fun s' =>
      PortTurned n.val [.fabric] { s.port n.val with unacked := [resent (tick t s).time u], ctlQ := (s.port n.val).ctlQ ++ [u.cell] } (tick t s) s' ∧
      s'.fabric = withHeld n.val u.cell s.fabric) := by
  have hturned := (PortTurned.refl n.val [.fabric] (tick t s)).upd (fun p => { p with unacked := [resent (tick t s).time u] })
  have hawake : ¬ ((decide ((s.port n.val).slp ≠ .active) || decide ((s.port n.val).slpMove ≠ .none)) = true) := by simp [hslp, hmove]
  have hfew : ¬ [u].any (fun u => decide (u.at_ + us 50 ≤ (tick t s).time) && decide (20 ≤ u.sends)) = true := by
    simp [Nat.not_le.mpr hsends]
  have hpush := pushCtl_awake (n := n.val) (c := u.cell) (s := (tick t s).updPort n.val (fun p => { p with unacked := [resent (tick t s).time u] }))
    (by rw [updPort_port_same]; exact halive) (by simpa [ctlLimit_port, ctlUse] using hroom) (by rw [updPort_port_same]; exact .inr ⟨hslp, hmove⟩)
  have hrun : execLsaRetransmit t n s = .next (pushCtl n.val [n.val] u.cell ((tick t s).updPort n.val (fun p => { p with
      unacked := [resent (tick t s).time u] }))) := by
    unfold execLsaRetransmit
    dsimp only
    rw [tick_port, hone, if_neg hawake, if_neg hfew]
    simp only [List.map_cons, List.map_nil, List.filter_cons, List.filter_nil, hdue, decide_true, if_true, List.foldl_cons, List.foldl_nil]
    rfl
  refine ⟨_, hrun, ?_, ?_⟩
  · rw [hpush]
    exact (hturned.frame (updFabric_only _ _) (by simp) (by simp)).upd _
  · rw [hpush]
    rfl

/-- LSAs not renewed for 1 s are dropped (R297). -/
theorem runs_lsaExpiry (h : ∃ l ∈ s.fabric.full, l.at_ + sec 1 ≤ (tick t s).time) : Runs (.lsaExpiry t) s (fun s' =>
    s'.fabric = { s.fabric with
      dbAt := some (tick t s).time
      full := s.fabric.full.filter (fun l => !decide (l.at_ + sec 1 ≤ (tick t s).time))
      db := s.fabric.db.filter (fun l => !decide (l.at_ + sec 1 ≤ (tick t s).time)) } ∧ OnlyChanges [.fabric] (tick t s) s') := by
  have hold : s.fabric.full.any (fun l => decide (l.at_ + sec 1 ≤ (tick t s).time)) = true := by simpa using h
  have hsome : (s.fabric.full.any (fun l => decide (l.at_ + sec 1 ≤ (tick t s).time)) ||
      s.fabric.db.any (fun l => decide (l.at_ + sec 1 ≤ (tick t s).time))) = true := by rw [hold, Bool.true_or]
  refine ⟨_, congrArg Host.Outcome.next (if_pos hsome), ?_, updFabric_only _ _⟩
  rw [updFabric_fabric, tick_fabric, if_pos hold]

end

end Sys2Proof.Safety
end

section
/-! PROOF. Time lock, the choice of root and parent, and the routing table (11.4, 11.5). -/

namespace Sys2Proof.Safety
open Sys2Proof.Machine

/-! ### Time lock (R305, R341) -/

/-- A list of updates keeps what each of them keeps of the fabric block. -/
theorem foldl_fabric {α : Type} {f : State → α → State} (hf : ∀ s x, (f s x).fabric = s.fabric) (xs : List α) (s : State) :
    (xs.foldl f s).fabric = s.fabric := by
  induction xs generalizing s with
  | nil => rfl
  | cons x xs ih => exact (ih _).trans (hf s x)

theorem clearOffv_only (s : State) : OnlyChanges [.ports] s (clearOffv s) := .foldl _ (fun _ _ => .ite (updPort_only _ _ _) (.refl _ _)) _ _

theorem clearOffv_fabric (s : State) : (clearOffv s).fabric = s.fabric := (clearOffv_only s).2.2 .fabric (by simp)

/-- What a loss or gain of lock, and the choice of a root that leads to it, may change. -/
def lockAreas : List Region := [.dev, .tide, .fabric, .ports, .obs, .free]

theorem loseLock_only (s : State) : OnlyChanges [.dev, .ports, .fabric, .obs] s (loseLock s) := by
  unfold loseLock
  split
  · exact .refl _ _
  · exact ((updFabric_only _ _).mono (by simp)).trans (((logCode_only _ _ _).mono (by simp)).trans
      (((updDev_only _ _).mono (by simp)).trans ((clearOffv_only _).mono (by simp))))

theorem loseLock_fabric (s : State) : (loseLock s).fabric = if s.fabric.tlock then { s.fabric with tlock := false, slew := 0 } else s.fabric := by
  unfold loseLock
  cases s.fabric.tlock
  · rfl
  · exact clearOffv_fabric _

theorem adoptTide_only (n : Nat) (s : State) : OnlyChanges [.tide, .free] s (adoptTide n s) := by
  have hset (tide len start : Nat) (s : State) : OnlyChanges [.tide, .free] s (setCount tide len start s) := (updTide_only _ _).mono (by simp)
  unfold adoptTide
  split
  · split
    · exact .refl _ _
    · exact .ite (.refl _ _) (hset _ _ _ _)
  · refine OnlyChanges.trans ?_ (hset _ _ _ _)
    exact ⟨rfl, rfl, fun a ha => by cases a <;> first | rfl | simp at ha⟩

theorem dropSleep_only (n : Nat) (s : State) : OnlyChanges [.ports, .obs] s (dropSleep n s) := by
  have hport (f : PortS → PortS) (s : State) : OnlyChanges [.ports, .obs] s (s.updPort n f) := (updPort_only n f s).mono (by simp)
  exact .ite ((hport _ _).trans (((logCode_only _ _ _).mono (by simp)).trans (((bump_only _ _ _).mono (by simp)).trans (hport _ _)))) (.refl _ _)

theorem owedRetrain_only (n : Nat) (s : State) : OnlyChanges [.ports, .obs] s (owedRetrain n s) := by
  have hport (f : PortS → PortS) (s : State) : OnlyChanges [.ports, .obs] s (s.updPort n f) := (updPort_only n f s).mono (by simp)
  have hretrain : OnlyChanges [.ports, .obs] s (writeRetrain n s) := .ite (((dropSleep_only n s).trans (hport _ _)).trans (hport _ _)) (.refl _ _)
  exact .ite hretrain (.ite (hport _ _) (.refl _ _))

/-- The parent's count is taken where there is a parent. -/
def adoptParent (s : State) : State :=
  match s.fabric.parent with
  | some n => adoptTide n s
  | none => s

theorem adoptParent_only (s : State) : OnlyChanges [.tide, .free] s (adoptParent s) := by
  unfold adoptParent
  split
  · exact adoptTide_only _ _
  · exact .refl _ _

/-- Lock gained on a device that is not locked. -/
def lockGained (s : State) : State :=
  (List.range 130).foldl (fun s n => owedRetrain n s) (adoptParent (clearOffv (s.updFabric (fun f => { f with tlock := true }))))

theorem gainLock_unlocked {s : State} (h : s.fabric.tlock = false) : gainLock s = lockGained s := by
  unfold gainLock lockGained
  rw [if_neg (Bool.eq_false_iff.mp h)]
  dsimp only
  generalize clearOffv (s.updFabric _) = cleared
  generalize List.range 130 = ports
  rfl

theorem gainLock_locked {s : State} (h : s.fabric.tlock = true) : gainLock s = s := if_pos h

theorem lockGained_only (s : State) : OnlyChanges lockAreas s (lockGained s) :=
  ((updFabric_only _ _).mono (by simp [lockAreas])).trans (((clearOffv_only _).mono (by simp [lockAreas])).trans
    (((adoptParent_only _).mono (by simp [lockAreas])).trans (.foldl _ (fun s n => (owedRetrain_only n s).mono (by simp [lockAreas])) _ _)))

theorem lockGained_fabric (s : State) : (lockGained s).fabric = { s.fabric with tlock := true } := by
  rw [lockGained, foldl_fabric (fun s n => (owedRetrain_only n s).2.2 .fabric (by simp))]
  exact ((adoptParent_only _).2.2 .fabric (by simp)).trans (clearOffv_fabric _)

theorem gainLock_only (s : State) : OnlyChanges lockAreas s (gainLock s) := by
  cases h : s.fabric.tlock
  · rw [gainLock_unlocked h]
    exact lockGained_only s
  · rw [gainLock_locked h]
    exact .refl _ _

theorem gainLock_fabric (s : State) : (gainLock s).fabric = { s.fabric with tlock := true } := by
  cases h : s.fabric.tlock
  · rw [gainLock_unlocked h, lockGained_fabric]
  · rw [gainLock_locked h, ← h]

/-! ### Root and parent (R303, R309) -/

/-- The fabric block's root, routes and pending change of the database. -/
def routing (f : Fabric) : Option (BitVec 12) × Tbl DWord × Option Time := (f.root, f.routes, f.dbAt)

theorem loseLock_routing (s : State) : routing (loseLock s).fabric = routing s.fabric := by
  rw [loseLock_fabric]
  split
  · rfl
  · rfl

theorem gainLock_routing (s : State) : routing (gainLock s).fabric = routing s.fabric := by
  rw [gainLock_fabric]
  rfl

theorem takeRoot_only (root : Option Nat) (s : State) : OnlyChanges lockAreas s (takeRoot root s) := by
  have hfab (f : Fabric → Fabric) : OnlyChanges lockAreas s (s.updFabric f) := (updFabric_only f s).mono (by simp [lockAreas])
  have hlose (s : State) : OnlyChanges lockAreas s (loseLock s) := (loseLock_only s).mono (by simp [lockAreas])
  unfold takeRoot
  split
  · exact (hfab _).trans (hlose _)
  · exact .ite ((hfab _).trans (gainLock_only _)) (.ite ((hfab _).trans (hlose _)) (hfab _))

theorem takeRoot_routing (root : Option Nat) (s : State) :
    routing (takeRoot root s).fabric = (root.map (BitVec.ofNat 12), s.fabric.routes, s.fabric.dbAt) := by
  unfold takeRoot
  cases root with
  | none => exact loseLock_routing _
  | some r =>
    dsimp only
    exact ite_both (P := fun x : State => routing x.fabric = ((some r).map (BitVec.ofNat 12), s.fabric.routes, s.fabric.dbAt)) (gainLock_routing _)
      (ite_both (P := fun x : State => routing x.fabric = ((some r).map (BitVec.ofNat 12), s.fabric.routes, s.fabric.dbAt)) (loseLock_routing _) rfl)

theorem retime_only (s : State) : OnlyChanges lockAreas s (retime s) := by
  refine OnlyChanges.trans ?_ (takeRoot_only _ _)
  exact ⟨rfl, rfl, fun a ha => by cases a <;> first | rfl | simp [lockAreas] at ha⟩

theorem retime_routing (s : State) : routing (retime s).fabric = ((chooseRoot s).map (BitVec.ofNat 12), s.fabric.routes, s.fabric.dbAt) :=
  takeRoot_routing _ _

/-! ### What the routing table and the root depend on (R298, R299, R303) -/

/-- Two states with the same identity, database, ports and clocks: the same routes and the same root follow. -/
structure SameView (s s' : State) : Prop where
  idValid : s'.dev.idValid = s.dev.idValid
  id : s'.dev.id = s.dev.id
  twinSel : s'.dev.twinSel = s.dev.twinSel
  full : s'.fabric.full = s.fabric.full
  ports : s'.ports = s.ports
  clk : s'.clk = s.clk
  free : s'.free = s.free

section
variable {s s' : State}

theorem edges_full (h : s'.fabric.full = s.fabric.full) (dev : Nat) : edges s' dev = edges s dev := by simp only [edges, lsaOf, h]

theorem bfs_full (h : s'.fabric.full = s.fabric.full) (k d : Nat) (front : List Nat) (known : List (Nat × Nat)) :
    bfs s' k d front known = bfs s k d front known := by
  induction k generalizing d front known with
  | zero => rfl
  | succ k ih => simp only [bfs, edges_full h, ih]

theorem hopsFrom_full (h : s'.fabric.full = s.fabric.full) (dev : Nat) : hopsFrom s' dev = hopsFrom s dev := by
  rw [hopsFrom, h, bfs_full h]
  rfl

theorem routeEntry_same (h : SameView s s') (dest hops : Nat) : routeEntry s' dest hops = routeEntry s dest hops := by
  have hport (n : Nat) : s'.port n = s.port n := by rw [State.port, h.ports, State.port]
  simp only [routeEntry, hopsFrom_full h.full, edges_full h.full, h.id, hport]

theorem newRoutes_same (h : SameView s s') : newRoutes s' = newRoutes s := by
  simp only [newRoutes, h.idValid, h.id, hopsFrom_full h.full, routeEntry_same h]

theorem chooseRoot_same (h : SameView s s') : chooseRoot s' = chooseRoot s := by
  have hpps : ppsAt s' = ppsAt s := by
    funext dev
    simp only [ppsAt, h.id, h.twinSel, h.clk, h.free]
  simp only [chooseRoot, h.idValid, h.id, h.full, hpps]

end

/-! ### The routing table is installed (R299) -/

/-- Code 0x0305 for each device beyond 8 hops. -/
def reportFar (far : List (Nat × Nat)) (s : State) : State := far.foldl (fun s _ => devReason 0x0305 (logCode 0x0305 unitDev s)) s

theorem reportFar_only (far : List (Nat × Nat)) (s : State) : OnlyChanges [.dev, .obs] s (reportFar far s) :=
  .foldl _ (fun _ _ => ((logCode_only _ _ _).mono (by simp)).trans ((updDev_only _ _).mono (by simp))) far s

/-- Only the reason of the device block changes. -/
theorem reportFar_dev (far : List (Nat × Nat)) (s : State) : ∃ r, (reportFar far s).dev = { s.dev with reason := r } := by
  induction far generalizing s with
  | nil => exact ⟨_, rfl⟩
  | cons q far ih =>
    obtain ⟨r, hr⟩ := ih (devReason 0x0305 (logCode 0x0305 unitDev s))
    exact ⟨r, hr⟩

theorem reportFar_view (far : List (Nat × Nat)) (s : State) : SameView s (reportFar far s) := by
  obtain ⟨r, hdev⟩ := reportFar_dev far s
  have honly := reportFar_only far s
  exact ⟨by rw [hdev], by rw [hdev], by rw [hdev], congrArg Fabric.full (honly.2.2 .fabric (by simp)), honly.2.2 .ports (by simp),
    honly.2.2 .clk (by simp), honly.2.2 .free (by simp)⟩

/-- The table is written and the change of the database served. -/
def routesWritten (s : State) : State := s.updFabric (fun f => { f with routes := newRoutes s, dbAt := none })

theorem routesWritten_view (s : State) : SameView s (routesWritten s) := ⟨rfl, rfl, rfl, rfl, rfl, rfl, rfl⟩

theorem SameView.trans {s s' s'' : State} (h : SameView s s') (h' : SameView s' s'') : SameView s s'' :=
  ⟨h'.idValid.trans h.idValid, h'.id.trans h.id, h'.twinSel.trans h.twinSel, h'.full.trans h.full, h'.ports.trans h.ports, h'.clk.trans h.clk,
    h'.free.trans h.free⟩

theorem loadedSlots_same {l : List Region} {s s' : State} (h : OnlyChanges l s s') (hl : .jobs ∉ l) : loadedSlots s' = loadedSlots s := by
  simp only [loadedSlots, h.job hl]

theorem runs_routeInstall {t : Time} {s : State} {a : Time} (hdb : s.fabric.dbAt = some a) (hdue : a + us 200 ≤ (tick t s).time)
    (hidle : loadedSlots s = []) : Runs (.routeInstall t) s (fun s' =>
      s'.fabric.routes = newRoutes (tick t s) ∧ s'.fabric.dbAt = none ∧ s'.fabric.root = (chooseRoot (tick t s)).map (BitVec.ofNat 12) ∧
      OnlyChanges [.dev, .tide, .fabric, .ports, .obs, .free] (tick t s) s') := by
  let far := (hopsFrom (tick t s) s.dev.id.toNat).filter (fun q => q.2 > 8)
  have hview := reportFar_view far (tick t s)
  have honly : OnlyChanges lockAreas (tick t s) (retime (routesWritten (reportFar far (tick t s)))) :=
    ((reportFar_only far _).mono (by simp [lockAreas])).trans (((updFabric_only _ _).mono (by simp [lockAreas])).trans (retime_only _))
  have hslots : loadedSlots (retime (routesWritten (reportFar far (tick t s)))) = [] := (loadedSlots_same honly (by simp [lockAreas])).trans hidle
  have hrun : execRouteInstall t s = .next (retime (routesWritten (reportFar far (tick t s)))) := by
    unfold execRouteInstall
    dsimp only
    rw [tick_fabric, hdb]
    dsimp only
    rw [if_neg (Nat.not_lt.mpr hdue)]
    change Host.Outcome.next ((loadedSlots (retime (routesWritten (reportFar far (tick t s))))).foldl _ (retime (routesWritten (reportFar far (tick t s))))) = _
    rw [hslots]
    rfl
  have hrouting := retime_routing (routesWritten (reportFar far (tick t s)))
  simp only [routing, Prod.mk.injEq] at hrouting
  obtain ⟨hroot, hroutes, hdbAt⟩ := hrouting
  refine ⟨_, hrun, hroutes.trans (newRoutes_same hview), hdbAt, hroot.trans ?_, honly⟩
  rw [chooseRoot_same (hview.trans (routesWritten_view _))]

/-- Settles O42, by the lemmas on LSAs above and on the routing table. -/
theorem database : Obligations.Database := by
  intro t n c s
  refine ⟨fun htakes hdue => runs_lsaOriginate htakes hdue,
    fun h => ⟨fun hbad => ?bad, fun hgood hsilent hfind hother => ?new, fun hgood hsilent hfind hvalid hid hserial hnp hpart hpay hst =>
      runs_lsaPart_duplicate h hgood hsilent hfind hvalid hid hserial (begunLsa_complete hnp hpart hpay) hst⟩,
    fun h => runs_lsaAck h, fun hslp hmove => ⟨fun hlast => ?down, fun u hone hdue hsends halive hroom => ?again⟩,
    fun hasleep => runs_lsaRetransmit_asleep hasleep, fun hold => runs_lsaExpiry hold, fun a hdb hdue hidle => runs_routeInstall hdb hdue hidle⟩
  case bad =>
    obtain ⟨s', hrun, hdev, hport, hothers, honly⟩ := runs_lsaPart_bad (t := t) h hbad
    exact ⟨s', hrun, hdev, hport, hothers, honly.mono (by simp)⟩
  case new =>
    obtain ⟨s', hrun, hmem, hfull, hdev, honly⟩ := runs_lsaPart_new (t := t) h hgood hsilent hfind hother
    refine ⟨s', hrun, ⟨_, hmem, begunLsa_origin .., begunLsa_lseq .., rfl, begunLsa_part ..⟩, fun hnp hpay => ?_, hdev, honly⟩
    have hidx : partIdx c = 0 := Nat.lt_one_iff.mp (hnp ▸ partIdx_lt hgood)
    obtain ⟨hdbAt, hmemFull⟩ := hfull (begunLsa_complete hnp hidx hpay)
    exact ⟨hdbAt, _, hmemFull, begunLsa_origin ..⟩
  case down =>
    obtain ⟨s', hrun, ⟨hport, hothers, honly⟩, hchanged⟩ := runs_lsaRetransmit_down hslp hmove hlast
    exact ⟨s', hrun, congrArg PortS.adj hport, congrArg PortS.unacked hport, hchanged, hothers, honly.mono (by simp)⟩
  case again =>
    obtain ⟨s', hrun, ⟨hport, hothers, honly⟩, hfabric⟩ := runs_lsaRetransmit_again hslp hmove hone hdue hsends halive hroom
    exact ⟨s', hrun, hport, hfabric, hothers, honly.mono (by simp)⟩

end Sys2Proof.Safety
end

section
/-! PROOF. Fabric time (11.5, 19): the exchange with the parent, the discipline of the clock, the start tide's exchange, and the PPS input. -/

namespace Sys2Proof.Safety
open Sys2Proof.Machine

/-! ### Requests and answers (R304) -/

/-- The port's reserve has room, and a cell queued for it wakes nothing. -/
def Sends (s : State) (n : Nat) : Prop := ctlUse s n < ctlLimit n ∧ StaysAwake (s.port n)

/-- A management cell joins the queue of a port that sends, whatever else of the port and the state changed before. -/
theorem pushMgmt_turned {n : Nat} {l : List Region} {q : PortS} {s s' : State} (c : Cell) (h : PortTurned n l q s s') (hsends : Sends s n)
    (hheld : s'.fabric.ctlHeld = s.fabric.ctlHeld) (hmgmt : q.mgmtQ = (s.port n).mgmtQ) (hawake : StaysAwake (s.port n) → StaysAwake q) :
    PortTurned n l { q with mgmtQ := q.mgmtQ ++ [c] } s (pushMgmt n c s') := by
  have huse : ctlUse s' n = ctlUse s n := by rw [ctlUse, ctlUse, hheld, h.1, hmgmt]
  rw [pushMgmt_awake (by rw [huse]; exact hsends.1) (by rw [h.1]; exact hawake hsends.2)]
  exact h.upd _

theorem pushMgmt_awake_fabric {n : Nat} {c : Cell} {s : State} : (pushMgmt n c s).fabric = s.fabric := (pushMgmt_atPort n c s).fabric

section
variable {t : Time} {n : PSet} {c : Cell} {arrival : BitVec 64} {s : State}

/-- The fabric block once an exchange with the parent has begun at time now. -/
def exchangeBegun (now : Time) (f : Fabric) : Fabric := { f with exch := f.exch + 1, reqSeq := f.exch + 1, exchAt := some now, sentT1 := none }

/-- REQ of the next exchange. -/
def nextReq (f : Fabric) : Cell := fabCell clsMgmt kTime 0 0 0 (f.exch + 1).toNat 0

theorem timeReqCell_eq (s : State) : timeReqCell s = fabCell clsMgmt kTime 0 0 0 s.fabric.exch.toNat 0 := rfl

theorem runs_timeExchange (hparent : s.fabric.parent = some n.val) (hdue : within (tick t s) s.fabric.exchAt (ms 1) = false) (hsends : Sends s n.val) :
    Runs (.timeExchange t) s (fun s' => s'.fabric = exchangeBegun (tick t s).time s.fabric ∧
      PortTurned n.val [.fabric] { s.port n.val with mgmtQ := (s.port n.val).mgmtQ ++ [nextReq s.fabric] } (tick t s) s') := by
  have hrun : execTimeExchange t s = .next (pushMgmt n.val (nextReq s.fabric) ((tick t s).updFabric (exchangeBegun (tick t s).time))) := by
    unfold execTimeExchange
    dsimp only
    rw [tick_fabric, hparent]
    dsimp only
    rw [hdue, if_neg Bool.false_ne_true, timeReqCell_eq]
    rfl
  have hbegun : PortTurned n.val [.fabric] (s.port n.val) (tick t s) ((tick t s).updFabric (exchangeBegun (tick t s).time)) :=
    (PortTurned.refl n.val [.fabric] (tick t s)).frame (updFabric_only _ _) (by simp) (by simp)
  exact ⟨_, hrun, pushMgmt_awake_fabric, pushMgmt_turned (s := tick t s) _ hbegun hsends rfl rfl id⟩

/-- Cell c is the next of its path on port n, and a time cell with this SUB. -/
def TimeNext (n sub : Nat) (c : Cell) (s : State) : Prop :=
  c.cls = clsMgmt ∧ c.kind = kTime ∧ bitsN c.ksf 34 3 = sub ∧ isNext c ((s.port n).rxCells.map (·.2)) = true

theorem TimeNext.fields {n sub : Nat} (h : TimeNext n sub c s) :
    (decide (c.cls ≠ clsMgmt) || decide (c.kind ≠ kTime) || decide (bitsN c.ksf 34 3 ≠ sub)) = false := by
  obtain ⟨hcls, hkind, hsub, -⟩ := h
  simp [hcls, hkind, hsub]

theorem TimeNext.next {n sub : Nat} (h : TimeNext n sub c s) : takeRx n c (tick t s) = some ((tick t s).updPort n (withoutRx c)) :=
  takeRx_next (s := tick t s) h.2.2.2

/-- RESP to a REQ that came at a time: T1 echoed, and T2. -/
def answer (c : Cell) (arrival : BitVec 64) : Cell := fabCell clsMgmt kTime 1 0 0 c.seq (payOf (leBytes 8 (c.pn 0 8) ++ leBytes 8 arrival.toNat))

theorem runs_timeReq (h : TimeNext n.val 0 c s) (hsends : Sends s n.val) : Runs (.timeReq t n c arrival) s
    (PortTurned n.val [] { withoutRx c (s.port n.val) with mgmtQ := (s.port n.val).mgmtQ ++ [answer c arrival] } (tick t s)) := by
  have hrun : execTimeReq t n c arrival s = .next (pushMgmt n.val (answer c arrival) ((tick t s).updPort n.val (withoutRx c))) := by
    unfold execTimeReq
    dsimp only
    rw [if_neg (Bool.eq_false_iff.mp h.fields), h.next]
    rfl
  exact ⟨_, hrun, pushMgmt_turned (s := tick t s) _ (rxTaken_turned t n.val [] c s) hsends rfl rfl id⟩

/-! ### The clock is disciplined (R305) -/

/-- θ beyond 1 µs. -/
def bigTheta (theta : Int) : Bool := theta > 65536000 || theta < -65536000

theorem bigTheta_true {theta : Int} (h : 65536000 < theta ∨ theta < -65536000) : bigTheta theta = true := by
  simpa [bigTheta] using h

theorem bigTheta_false {theta : Int} (hlow : -65536000 ≤ theta) (hhigh : theta ≤ 65536000) : bigTheta theta = false := by
  simp only [bigTheta, Bool.or_eq_false_iff, decide_eq_false_iff_not]
  omega

theorem discipline_slews {theta : Int} (hlock : s.fabric.tlock = true) (hbig : bigTheta theta = false) :
    discipline theta s = s.updFabric (fun f => { f with slew := clampInt (-50) 50 (Int.tdiv theta 65536) }) :=
  (if_pos hlock).trans (if_neg (Bool.eq_false_iff.mp hbig))

theorem discipline_loses {theta : Int} (hlock : s.fabric.tlock = true) (hbig : bigTheta theta = true) : discipline theta s = loseLock s :=
  (if_pos hlock).trans (if_pos hbig)

theorem discipline_nudges {theta : Int} (hlock : s.fabric.tlock = false) (hrunning : anyRunning s = true) (hbig : bigTheta theta = true) :
    discipline theta s = s.updFabric (fun f => { f with slew := if theta < 0 then -50 else 50 }) :=
  ((if_neg (Bool.eq_false_iff.mp hlock)).trans (if_pos hrunning)).trans (if_pos hbig)

theorem discipline_steps {theta : Int} (hlock : s.fabric.tlock = false) (hidle : anyRunning s = false) :
    discipline theta s = gainLock { s with time := max s.time ((s.time : Int) + theta).toNat } :=
  (if_neg (Bool.eq_false_iff.mp hlock)).trans (if_neg (Bool.eq_false_iff.mp hidle))

/-- OFFV falls on one port. -/
def offvCleared (s : State) (n : Nat) : State :=
  if (s.port n).offV || (s.port n).timeRun then s.updPort n (fun p => { p with offV := false, timeRun := false }) else s

theorem clearOffv_eq (s : State) : clearOffv s = (List.range 130).foldl offvCleared s := rfl

theorem offvCleared_atPort (s : State) (n : Nat) : AtPort n s (offvCleared s n) := by
  unfold offvCleared
  split
  · exact .of_updPort rfl
  · exact .refl n s

theorem offvCleared_port (s : State) (n : Nat) : ((offvCleared s n).port n).offV = false ∧ ((offvCleared s n).port n).timeRun = false := by
  unfold offvCleared
  split
  · rw [updPort_port_same]
    exact ⟨rfl, rfl⟩
  · next hoff => simpa using hoff

theorem clearOffv_port {k : Nat} (hk : k < 130) (s : State) : ((clearOffv s).port k).offV = false ∧ ((clearOffv s).port k).timeRun = false := by
  obtain ⟨-, hin⟩ := foldl_atPort offvCleared_atPort (List.range 130) List.nodup_range s
  obtain ⟨s1, -, -, hport⟩ := hin k (List.mem_range.mpr hk)
  rw [clearOffv_eq, hport]
  exact offvCleared_port s1 k

/-- A locked device that loses lock reports 0x030B, and OFFV falls on every port. -/
theorem loseLock_locked (h : s.fabric.tlock = true) :
    (loseLock s).fabric = { s.fabric with tlock := false, slew := 0 } ∧ (loseLock s).dev = { s.dev with reason := 0x030B } ∧
    (∀ k, k < 130 → ((loseLock s).port k).offV = false ∧ ((loseLock s).port k).timeRun = false) := by
  have heq : loseLock s = clearOffv (devReason 0x030B (logCode 0x030B unitDev (s.updFabric (fun f => { f with tlock := false, slew := 0 })))) :=
    if_neg (by simp [h])
  refine ⟨by rw [loseLock_fabric, if_pos h], ?_, fun k hk => ?_⟩
  · rw [heq]
    exact ((clearOffv_only _).2.2 .dev (by simp)).trans (reported_dev ..)
  · rw [heq]
    exact clearOffv_port hk _

/-! ### The answer is taken (R304, R305, R307) -/

/-- RESP c closes the exchange with this number that left at T1. -/
def closes (c : Cell) (seq : BitVec 16) (t1 : Option (BitVec 64)) : Bool := c.seq = seq.toNat && t1 = some (BitVec.ofNat 64 (c.pn 0 8))

/-- θ of the exchange that RESP c closes on a port. -/
def thetaOf (c : Cell) (arrival : BitVec 64) (p : PortS) : Int := (exchange (stampsOf c arrival) (asymOf p)).1

/-- RESP c is that of the exchange with the parent, on port n. -/
structure FromParent (n : Nat) (c : Cell) (s : State) : Prop where
  parent : s.fabric.parent = some n
  noStart : (s.port n).startEx = none
  seq : c.seq = s.fabric.reqSeq.toNat
  sent : s.fabric.sentT1 = some (BitVec.ofNat 64 (c.pn 0 8))

/-- The exchange with the parent is over. -/
def exchangeOver (f : Fabric) : Fabric := { f with sentT1 := none }

theorem takeResp_parent {n : Nat} (h : FromParent n c s) :
    takeResp n c arrival s = discipline (thetaOf c arrival (s.port n)) (s.updFabric exchangeOver) := by
  have hmine : (decide (s.fabric.parent = some n) && closes c s.fabric.reqSeq s.fabric.sentT1) = true := by
    simp [closes, h.parent, h.seq, h.sent]
  unfold takeResp
  dsimp only
  rw [h.noStart]
  exact if_pos hmine

/-- What RESP c leaves before the clock is disciplined. -/
def respTaken (t : Time) (n : Nat) (c : Cell) (s : State) : State := ((tick t s).updPort n (withoutRx c)).updFabric exchangeOver

theorem respTaken_turned (t : Time) (n : Nat) (c : Cell) (s : State) :
    PortTurned n [.fabric] (withoutRx c (s.port n)) (tick t s) (respTaken t n c s) :=
  (rxTaken_turned t n [.fabric] c s).frame (updFabric_only _ _) (by simp) (by simp)

theorem execTimeResp_parent (h : TimeNext n.val 1 c s) (hparent : FromParent n.val c s) :
    execTimeResp t n c arrival s = .next (discipline (thetaOf c arrival (s.port n.val)) (respTaken t n.val c s)) := by
  have htaken : FromParent n.val c ((tick t s).updPort n.val (withoutRx c)) :=
    ⟨hparent.parent, by rw [updPort_port_same]; exact hparent.noStart, hparent.seq, hparent.sent⟩
  have htheta : thetaOf c arrival (((tick t s).updPort n.val (withoutRx c)).port n.val) = thetaOf c arrival (s.port n.val) := by
    rw [updPort_port_same]
    rfl
  unfold execTimeResp
  dsimp only
  rw [if_neg (Bool.eq_false_iff.mp h.fields), h.next]
  dsimp only
  rw [takeResp_parent htaken, htheta]
  rfl

theorem runs_timeResp_slews (h : TimeNext n.val 1 c s) (hparent : FromParent n.val c s) (hlock : s.fabric.tlock = true)
    (hsmall : bigTheta (thetaOf c arrival (s.port n.val)) = false) :
    Runs (.timeResp t n c arrival) s (fun s' =>
      s'.fabric = { s.fabric with sentT1 := none, slew := clampInt (-50) 50 (Int.tdiv (thetaOf c arrival (s.port n.val)) 65536) } ∧
      PortTurned n.val [.fabric] (withoutRx c (s.port n.val)) (tick t s) s') := by
  have hrun := execTimeResp_parent (t := t) (arrival := arrival) h hparent
  rw [discipline_slews (s := respTaken t n.val c s) hlock hsmall] at hrun
  exact ⟨_, hrun, rfl, (respTaken_turned t n.val c s).frame (updFabric_only _ _) (by simp) (by simp)⟩

theorem runs_timeResp_loses (h : TimeNext n.val 1 c s) (hparent : FromParent n.val c s) (hlock : s.fabric.tlock = true)
    (hbig : bigTheta (thetaOf c arrival (s.port n.val)) = true) :
    Runs (.timeResp t n c arrival) s (fun s' =>
      s'.fabric = { s.fabric with sentT1 := none, tlock := false, slew := 0 } ∧ s'.dev = { s.dev with reason := 0x030B } ∧
      (∀ k, k < 130 → (s'.port k).offV = false ∧ (s'.port k).timeRun = false) ∧ OnlyChanges [.dev, .ports, .fabric, .obs] (tick t s) s') := by
  have hrun := execTimeResp_parent (t := t) (arrival := arrival) h hparent
  rw [discipline_loses (s := respTaken t n.val c s) hlock hbig] at hrun
  obtain ⟨hfabric, hdev, hports⟩ := loseLock_locked (s := respTaken t n.val c s) hlock
  exact ⟨_, hrun, hfabric, hdev, hports, ((respTaken_turned t n.val c s).2.2.mono (by simp)).trans (loseLock_only _)⟩

theorem runs_timeResp_steps (h : TimeNext n.val 1 c s) (hparent : FromParent n.val c s) (hlock : s.fabric.tlock = false) (hidle : anyRunning s = false) :
    Runs (.timeResp t n c arrival) s (fun s' =>
      s'.fabric.tlock = true ∧ s'.time = max (tick t s).time (((tick t s).time : Int) + thetaOf c arrival (s.port n.val)).toNat ∧
      s'.pending = s.pending ∧ s'.jobs = s.jobs) := by
  have hrun := execTimeResp_parent (t := t) (arrival := arrival) h hparent
  rw [discipline_steps (s := respTaken t n.val c s) hlock hidle] at hrun
  obtain ⟨htime, hpending, hrest⟩ := gainLock_only { respTaken t n.val c s with
    time := max (respTaken t n.val c s).time (((respTaken t n.val c s).time : Int) + thetaOf c arrival (s.port n.val)).toNat }
  exact ⟨_, hrun, congrArg Fabric.tlock (gainLock_fabric _), htime, hpending, hrest .jobs (by simp [lockAreas])⟩

theorem runs_timeResp_nudges (h : TimeNext n.val 1 c s) (hparent : FromParent n.val c s) (hlock : s.fabric.tlock = false)
    (hrunning : anyRunning s = true) (hbig : bigTheta (thetaOf c arrival (s.port n.val)) = true) :
    Runs (.timeResp t n c arrival) s (fun s' =>
      s'.fabric = { s.fabric with sentT1 := none, slew := if thetaOf c arrival (s.port n.val) < 0 then -50 else 50 } ∧
      PortTurned n.val [.fabric] (withoutRx c (s.port n.val)) (tick t s) s') := by
  have hrun := execTimeResp_parent (t := t) (arrival := arrival) h hparent
  rw [discipline_nudges (s := respTaken t n.val c s) hlock hrunning hbig] at hrun
  exact ⟨_, hrun, rfl, (respTaken_turned t n.val c s).frame (updFabric_only _ _) (by simp) (by simp)⟩

/-! ### The start tide's exchange (R307) -/

section
variable {slot : Slot} {q : Port}

theorem runs_startTide_begins (hrunning : (s.job slot.val).st = .running) (hnow : (tick t s).tide.now = (s.job slot.val).startTide.toNat)
    (hexchanges : exchanges (s.port q.val) = true) (hsends : Sends s q.val) (hnone : (s.port q.val).startEx = none)
    (hnew : (s.port q.val).offset.valid = false ∨ (s.port q.val).offset.job ≠ (s.job slot.val).tag ∨
      (s.port q.val).offset.tide ≠ (s.job slot.val).startTide) :
    Runs (.startTideExchange t slot q none) s (fun s' =>
      s'.fabric = { s.fabric with exch := s.fabric.exch + 1 } ∧
      PortTurned q.val [.fabric] { s.port q.val with
        startEx := some ⟨(s.job slot.val).tag, (s.job slot.val).startTide, s.fabric.exch + 1, none⟩
        mgmtQ := (s.port q.val).mgmtQ ++ [nextReq s.fabric] } (tick t s) s') := by
  have hgo : (decide ((s.job slot.val).st ≠ .running) ||
      ((s.port q.val).startEx.any (fun e => e.tag = (s.job slot.val).tag && e.tide = (s.job slot.val).startTide) ||
        ((s.port q.val).offset.valid && decide ((s.port q.val).offset.job = (s.job slot.val).tag) &&
          decide ((s.port q.val).offset.tide = (s.job slot.val).startTide))) ||
      decide ((tick t s).tide.now ≠ (s.job slot.val).startTide.toNat) || !exchanges (s.port q.val)) = false := by
    rw [hnone, hrunning, hnow, hexchanges]
    rcases hnew with hno | hno | hno <;> simp [hno]
  have hrun : execStartTideExchange t slot q none s = .next (pushMgmt q.val (nextReq s.fabric)
      (((tick t s).updFabric (fun f => { f with exch := f.exch + 1 })).updPort q.val (fun p => { p with
        startEx := some ⟨(s.job slot.val).tag, (s.job slot.val).startTide, s.fabric.exch + 1, none⟩ }))) := by
    refine (congrArg Host.Outcome.next (if_neg (Bool.eq_false_iff.mp hgo))).trans ?_
    dsimp only
    rw [timeReqCell_eq]
    rfl
  have hexch : PortTurned q.val [.fabric] (s.port q.val) (tick t s) ((tick t s).updFabric (fun f => { f with exch := f.exch + 1 })) :=
    (PortTurned.refl q.val [.fabric] (tick t s)).frame (updFabric_only _ _) (by simp) (by simp)
  exact ⟨_, hrun, pushMgmt_awake_fabric, pushMgmt_turned (s := tick t s) _ (hexch.upd _) hsends rfl rfl id⟩

theorem takeResp_start {n : Nat} {e : StartEx} (hstart : (s.port n).startEx = some e) (hseq : closes c e.seq e.t1 = true) :
    takeResp n c arrival s = s.updPort n (fun p => { p with
      startEx := none, offset := offsetRec e (stampsOf c arrival) (asymOf (s.port n)) }) := by
  have hfilter : (s.port n).startEx.filter (fun e => closes c e.seq e.t1) = some e := by
    rw [hstart, Option.filter_some, if_pos hseq]
  unfold takeResp
  dsimp only
  rw [show (s.port n).startEx.filter (fun e => decide (c.seq = e.seq.toNat) && decide (e.t1 = some (BitVec.ofNat 64 (c.pn 0 8)))) = some e from hfilter]

theorem runs_startTide_ends (h : TimeNext q.val 1 c s) {e : StartEx} (hstart : (s.port q.val).startEx = some e) (htag : e.tag = (s.job slot.val).tag)
    (htide : e.tide = (s.job slot.val).startTide) (hseq : closes c e.seq e.t1 = true) :
    Runs (.startTideExchange t slot q (some (c, arrival))) s (PortTurned q.val [] { withoutRx c (s.port q.val) with
      startEx := none, offset := offsetRec e (stampsOf c arrival) (asymOf (s.port q.val)) } (tick t s)) := by
  have hstart' : (((tick t s).updPort q.val (withoutRx c)).port q.val).startEx = some e := by
    rw [updPort_port_same]
    exact hstart
  have hasym : asymOf (((tick t s).updPort q.val (withoutRx c)).port q.val) = asymOf (s.port q.val) := by
    rw [updPort_port_same]
    rfl
  have hmine : (!(s.port q.val).startEx.any (fun e => e.tag = (s.job slot.val).tag && e.tide = (s.job slot.val).startTide) ||
      decide (c.cls ≠ clsMgmt) || decide (c.kind ≠ kTime) || decide (bitsN c.ksf 34 3 ≠ 1)) = false := by
    rw [hstart, Bool.or_assoc, Bool.or_assoc, ← Bool.or_assoc (decide (c.cls ≠ clsMgmt)), h.fields]
    simp [htag, htide]
  have hrun : execStartTideExchange t slot q (some (c, arrival)) s = .next (takeResp q.val c arrival ((tick t s).updPort q.val (withoutRx c))) := by
    refine (congrArg Host.Outcome.next (if_neg (Bool.eq_false_iff.mp hmine))).trans ?_
    rw [h.next]
  refine ⟨_, hrun, ?_⟩
  rw [takeResp_start hstart' hseq, hasym]
  exact (rxTaken_turned ..).upd _

end

/-! ### The PPS input and output (R495, R303) -/

theorem retime_clk (s : State) : (retime s).clk = s.clk := (retime_only s).2.2 .clk (by simp [lockAreas])

theorem retime_root (s : State) : (retime s).fabric.root = (chooseRoot s).map (BitVec.ofNat 12) := congrArg Prod.fst (retime_routing s)

/-- What the PPS input may change. -/
def ppsAreas : List Region := [.dev, .tide, .fabric, .ports, .clk, .obs, .free]

theorem retimed_only (f : Clk → Clk) (s : State) : OnlyChanges ppsAreas s (retime (s.updClk f)) :=
  ((updClk_only f s).mono (by simp [ppsAreas])).trans ((retime_only _).mono (by simp [ppsAreas, lockAreas]))

theorem runs_ppsEdge (hen : s.clk.ppsInEn = true) : Runs (.ppsEdge t) s (fun s' =>
    s'.clk = { s.clk with ppsPresent := true, ppsAt := (tick t s).time } ∧
    s'.fabric.root = (chooseRoot ((tick t s).updClk (fun c => { c with ppsPresent := true, ppsAt := (tick t s).time }))).map (BitVec.ofNat 12) ∧
    OnlyChanges ppsAreas (tick t s) s') := by
  have hin : ¬ ((!s.clk.ppsInEn) = true) := by simp [hen]
  refine ⟨_, congrArg Host.Outcome.next (if_neg hin), ?_⟩
  have hclk := retime_clk ((tick t s).updClk (fun c => { c with ppsPresent := true, ppsAt := (tick t s).time }))
  have hroot := retime_root ((tick t s).updClk (fun c => { c with ppsPresent := true, ppsAt := (tick t s).time }))
  have honly := retimed_only (fun c => { c with ppsPresent := true, ppsAt := (tick t s).time }) (tick t s)
  exact ite_both ⟨hclk, hroot, honly.trans ((updFabric_only _ _).mono (by simp [ppsAreas]))⟩ ⟨hclk, hroot, honly⟩

theorem runs_ppsLoss (hpresent : s.clk.ppsPresent = true) (hdue : s.clk.ppsAt + ms 1500 ≤ (tick t s).time) : Runs (.ppsLoss t) s (fun s' =>
    s'.clk = { s.clk with ppsPresent := false } ∧
    s'.fabric.root = (chooseRoot ((tick t s).updClk (fun c => { c with ppsPresent := false }))).map (BitVec.ofNat 12) ∧
    OnlyChanges ppsAreas (tick t s) s') := by
  have hlate : (s.clk.ppsPresent && decide (s.clk.ppsAt + ms 1500 ≤ (tick t s).time)) = true := by simp only [hpresent, hdue, decide_true, Bool.and_self]
  exact ⟨_, congrArg Host.Outcome.next (if_pos hlate), retime_clk _, retime_root _, retimed_only _ _⟩

end

/-- Settles O43, by the lemmas above on the exchange, the discipline of the clock and the PPS input. -/
theorem fabricTime : Obligations.FabricTime := by
  intro t n c arrival s
  refine ⟨fun hparent hdue hsends => ?exchange, fun h hsends => ?request, fun h ⟨hparent, hnone, hseq, hsent⟩ hlock => ⟨fun hlow hhigh => ?slews,
      fun hbig => runs_timeResp_loses h ⟨hparent, hnone, hseq, hsent⟩ hlock (bigTheta_true hbig)⟩,
    fun h ⟨hparent, hnone, hseq, hsent⟩ hlock => ⟨fun hidle => runs_timeResp_steps h ⟨hparent, hnone, hseq, hsent⟩ hlock hidle,
      fun hrunning hbig => ?nudges⟩,
    fun slot q => ⟨fun hrunning hnow hexchanges hsends hnone hnew => ?begins, fun h hstart hlt => ?ends⟩,
    fun hen => runs_ppsEdge hen, fun hpresent hdue => runs_ppsLoss hpresent hdue, ⟨_, rfl, rfl, updClk_only _ _⟩⟩
  case exchange =>
    obtain ⟨s', hrun, hfabric, hport, hothers, honly⟩ := runs_timeExchange hparent hdue hsends
    exact ⟨s', hrun, hfabric, hport, hothers, honly⟩
  case request => exact runs_timeReq h hsends
  case slews =>
    exact runs_timeResp_slews h ⟨hparent, hnone, hseq, hsent⟩ hlock (bigTheta_false hlow hhigh)
  case nudges => exact runs_timeResp_nudges h ⟨hparent, hnone, hseq, hsent⟩ hlock hrunning (bigTheta_true hbig)
  case begins => exact runs_startTide_begins hrunning hnow hexchanges hsends hnone hnew
  case ends =>
    refine runs_startTide_ends h hstart rfl rfl ?_
    simp [closes, Nat.mod_eq_of_lt hlt]

end Sys2Proof.Safety
end

section
/-! PROOF. Agreement on a tide switch (11.6, Table FB-6): readiness, withdrawal, the coordinator's decision, GO, CANCEL and the deadline. -/

namespace Sys2Proof.Safety
open Sys2Proof.Machine

/-! ### The tide block through the passing of time, and cells delivered to the device -/

section
variable (time : Time) (x : Tide)

@[simp] theorem advance_ready : (x.advance time).ready = x.ready := by cases x; rfl
@[simp] theorem advance_withdrawn : (x.advance time).withdrawn = x.withdrawn := by cases x; rfl
@[simp] theorem advance_decided : (x.advance time).decided = x.decided := by cases x; rfl

end

/-- The fabric block once cell c, delivered to the device, is taken. -/
def withoutHm (c : Cell) (f : Fabric) : Fabric := { f with hmRx := dropFirst (· = c) f.hmRx }

theorem takeAny_here {c : Cell} {s : State} (h : s.fabric.hmRx.contains c = true) : takeAny c s = some (s.updFabric (withoutHm c)) := if_pos h

/-- A cell came over the twin link where it is the next of its path on either half. -/
theorem takeTwin_isSome (c : Cell) (s : State) : (takeTwin c s).isSome =
    (isNext c ((s.port 128).rxCells.map (·.2)) || isNext c ((s.port 129).rxCells.map (·.2))) := by
  unfold takeTwin takeRx
  cases isNext c ((s.port 128).rxCells.map (·.2)) <;> cases isNext c ((s.port 129).rxCells.map (·.2)) <;> rfl

theorem takeTwin_tick_isSome (t : Time) (c : Cell) (s : State) : (takeTwin c (tick t s)).isSome = (takeTwin c s).isSome := by
  rw [takeTwin_isSome, takeTwin_isSome]
  rfl

section
variable {t : Time} {dev : BitVec 12} {c : Cell} {s : State}

/-- READY of a device, as a cell tells it. -/
def readyRec (dev : BitVec 12) (c : Cell) : ReadyRec := ⟨dev, BitVec.ofNat 48 (payTide c), BitVec.ofNat 32 (payLen c), BitVec.ofNat 32 (payTable c)⟩

/-! ### Readiness and withdrawal -/

/-- The record of a device, in place of an older one of it. -/
def withReady (r : ReadyRec) (x : Tide) : Tide := { x with ready := x.ready.filter (fun y => y.dev ≠ r.dev) ++ [r] }

theorem execTideReady_plane (hcell : isTideCell 2 c = true) (hhere : s.fabric.hmRx.contains c = true) (htwin : takeTwin c s = none) :
    execTideReady t dev c s = .next (((tick t s).updFabric (withoutHm c)).updTide (withReady (readyRec dev c))) := by
  have hnone : takeTwin c (tick t s) = none := Option.not_isSome_iff_eq_none.mp (by simp [takeTwin_tick_isSome, htwin])
  unfold execTideReady
  dsimp only
  rw [hcell, if_neg (by simp), hnone, takeAny_here (s := tick t s) hhere]
  rfl

theorem runs_tideReady_twin (hcell : isTideCell 2 c = true) (htwin : (takeTwin c s).isSome = true) :
    Runs (.tideReady t dev c) s (fun s' => s'.tide = { (tick t s).tide with twinReady := some (readyRec dev c) } ∧
      OnlyChanges [.tide, .ports] (tick t s) s') := by
  obtain ⟨s1, hs1⟩ := Option.isSome_iff_exists.mp ((takeTwin_tick_isSome t c s).trans htwin)
  have honly := (takeTwin_taken hs1).only
  have htide : s1.tide = (tick t s).tide := honly.2.2 .tide (by simp)
  have hrun : execTideReady t dev c s = .next (s1.updTide (fun x => { x with twinReady := some (readyRec dev c) })) := by
    unfold execTideReady
    dsimp only
    rw [hcell, if_neg (by simp), hs1]
    rfl
  refine ⟨_, hrun, ?_, (honly.mono (by simp)).trans ((updTide_only _ _).mono (by simp))⟩
  rw [updTide_tide, htide]

/-- A device withdraws: its record goes, and it is noted. -/
def deviceGone (dev : BitVec 12) (x : Tide) : Tide := { x with ready := x.ready.filter (fun y => y.dev ≠ dev), withdrawn := x.withdrawn ++ [dev] }

theorem runs_tideWithdraw (hcell : isTideCell 5 c = true) (hhere : s.fabric.hmRx.contains c = true)
    (hopen : s.tide.decided ≠ some (BitVec.ofNat 48 (payTide c))) (hfirst : s.tide.withdrawn.contains dev = false) :
    Runs (.tideWithdraw t dev c) s (fun s' => s'.tide = deviceGone dev (tick t s).tide ∧ s'.fabric = withoutHm c s.fabric ∧
      OnlyChanges [.tide, .fabric] (tick t s) s') := by
  have hopen' : (decide ((tick t s).tide.decided = some (BitVec.ofNat 48 (payTide c))) || (tick t s).tide.withdrawn.contains dev) = false := by
    rw [tick_tide, advance_decided, advance_withdrawn, hfirst, decide_eq_false hopen]
    rfl
  have hrun : execTideWithdraw t dev c s = .next (((tick t s).updFabric (withoutHm c)).updTide (fun x => { x with
      ready := x.ready.filter (fun y => y.dev ≠ dev)
      withdrawn := if x.decided = some (BitVec.ofNat 48 (payTide c)) || x.withdrawn.contains dev then x.withdrawn else x.withdrawn ++ [dev] })) := by
    unfold execTideWithdraw
    dsimp only
    rw [hcell, if_neg (by simp), takeAny_here (s := tick t s) hhere]
  refine ⟨_, hrun, ?_, rfl, ((updFabric_only _ _).mono (by simp)).trans ((updTide_only _ _).mono (by simp))⟩
  rw [updTide_tide, updFabric_tide, if_neg (Bool.eq_false_iff.mp hopen')]
  rfl

/-! ### The coordinator decides (R309, Table FB-6) -/

/-- Group 0x0001 names this device alone. -/
structure LocalGroup (s : State) : Prop where
  valid : grpValid (Tbl.get 0 s.fabric.groups 1) = true
  job : grpJob (Tbl.get 0 s.fabric.groups 1) = 0
  ports : grpPorts (Tbl.get 0 s.fabric.groups 1) = []
  here : grpLocal (Tbl.get 0 s.fabric.groups 1) = true

/-- GO or CANCEL to group 0x0001. -/
def verdictCell (go : Bool) (pay : Payload) : Cell := fabCell clsCtl kDiscovery (if go then 3 else 4) 0 1 0 pay

theorem verdictCell_header : ∀ go, (verdictCell go 0).mgrp = 1 ∧ (verdictCell go 0).job = 0 := by decide

theorem verdictCell_mgrp (go : Bool) (pay : Payload) : (verdictCell go pay).mgrp = 1 := (verdictCell_header go).1

theorem verdictCell_job (go : Bool) (pay : Payload) : (verdictCell go pay).job = 0 := (verdictCell_header go).2

theorem sendCtlCell_local {go : Bool} {pay : Payload} (h : LocalGroup s) : sendCtlCell 0 (verdictCell go pay) s = deliverHere (verdictCell go pay) s := by
  have hroute : route s none 0 (verdictCell go pay) = .go [] true := by
    unfold route
    rw [verdictCell_mgrp, verdictCell_job, if_pos Nat.one_ne_zero]
    dsimp only
    rw [h.valid, h.job, h.ports, h.here]
    simp
  rw [sendCtlCell, hroute]
  rfl

/-- The coordinator has decided about a tide. -/
def decidedFor (tide : BitVec 48) (x : Tide) : Tide := { x with decided := some tide, ready := [], withdrawn := [], twinReady := none }

theorem decide_local {tide : BitVec 48} {len : Word} {go : Bool} (h : LocalGroup s) :
    decide_ tide len go s = deliverHere (verdictCell go (tidePay tide.toNat len.toNat 0)) (s.updTide (decidedFor tide)) :=
  sendCtlCell_local (s := s.updTide (decidedFor tide)) ⟨h.valid, h.job, h.ports, h.here⟩

/-- This device decides about a tide, now, and has no twin to ask. -/
structure Deciding (tide : BitVec 48) (s : State) : Prop where
  asked : decisionTide s = some tide
  root : s.fabric.root = some s.dev.id
  valid : s.dev.idValid = true
  fresh : s.tide.decided ≠ some tide
  due : tideStart5 s tide.toNat ≤ 5 * ((s.time + us 100 : Nat) : Int)
  alone : s.twin.dst ≠ .moored

theorem Deciding.goes {tide : BitVec 48} (h : Deciding tide s) : (decide (s.fabric.root ≠ some s.dev.id) || !s.dev.idValid ||
    decide (s.tide.decided = some tide) || decide (5 * ((s.time + us 100 : Nat) : Int) < tideStart5 s tide.toNat)) = false := by
  rw [h.valid, decide_eq_false (not_not.mpr h.root), decide_eq_false h.fresh, decide_eq_false (not_lt.mpr h.due)]
  rfl

theorem tideDecision_go {tide : BitVec 48} {len : Word} (h : Deciding tide s) (hready : planeReady s tide = some len) :
    tideDecision s = decide_ tide len true s := by
  unfold tideDecision
  rw [h.asked]
  dsimp only
  rw [if_neg (Bool.eq_false_iff.mp h.goes), hready]
  dsimp only
  rw [decide_eq_false h.alone, Bool.false_and]
  rfl

theorem tideDecision_cancel {tide : BitVec 48} (h : Deciding tide s) (hready : planeReady s tide = none) (hnone : s.tide.ready = []) :
    tideDecision s = decide_ tide 0 false s := by
  unfold tideDecision
  rw [h.asked]
  dsimp only
  rw [if_neg (Bool.eq_false_iff.mp h.goes), hready, hnone]
  rfl

/-- What the passing of time leaves of a decision. -/
theorem decisionTide_tick (t : Time) (s : State) : decisionTide (tick t s) = decisionTide s := by simp [decisionTide]

theorem planeReady_tick (t : Time) (s : State) (tide : BitVec 48) : planeReady (tick t s) tide = planeReady s tide := by simp [planeReady]

theorem runs_tideDecision {tide : BitVec 48} {len : Word} {k : Nat} {go : Bool} (h : LocalGroup s)
    (hdecision : tideDecision (tick t s) = decide_ tide len go (tick t s)) (hlen : len.toNat = k) :
    Runs (.tideDecision t) s (fun s' => s'.tide = decidedFor tide (tick t s).tide ∧
      s'.fabric = { s.fabric with hmRx := s.fabric.hmRx ++ [verdictCell go (tidePay tide.toNat k 0)] } ∧
      OnlyChanges [.tide, .fabric] (tick t s) s') := by
  subst hlen
  have hlocal : LocalGroup (tick t s) := ⟨h.valid, h.job, h.ports, h.here⟩
  refine ⟨_, congrArg Host.Outcome.next (hdecision.trans (decide_local hlocal)), rfl, rfl, ?_⟩
  exact ((updTide_only _ _).mono (by simp)).trans ((updFabric_only _ _).mono (by simp))

/-! ### GO, CANCEL and the deadline (R310) -/

/-- A GO taken names the pending switch and comes in time. -/
def goCounts (c : Cell) (s : State) : Bool :=
  s.tide.pending && decide (payTide c = s.tide.switchAt.toNat) && decide (payLen c = s.otherBank.len) && beforeSwitch s (us 20)

theorem execTideGo_here (hcell : isTideCell 3 c = true) (hhere : s.fabric.hmRx.contains c = true) :
    execTideGo t c s = .next (if goCounts c (tick t s) then ((tick t s).updFabric (withoutHm c)).updTide (fun x => { x with go := true })
      else (tick t s).updFabric (withoutHm c)) := by
  unfold execTideGo
  dsimp only
  rw [hcell, if_neg (by simp), takeAny_here (s := tick t s) hhere]
  rfl

theorem goCounts_named (hpending : s.tide.pending = true) (htide : payTide c = s.tide.switchAt.toNat) (hlen : payLen c = s.otherBank.len) :
    goCounts c (tick t s) = beforeSwitch (tick t s) (us 20) := by
  rw [goCounts, tick_otherBank, tick_tide, advance_pending, advance_switchAt, hpending, decide_eq_true htide, decide_eq_true hlen]
  simp

/-- The pending switch is cancelled with a code. -/
def cancelledFor (code : BitVec 16) (x : Tide) : Tide := { x with en := false, pending := false, go := false, reason := code }

theorem cancelSwitch_reason (code : Nat) (s : State) : tideReason code (cancelSwitch s) = s.updTide (cancelledFor (BitVec.ofNat 16 code)) := rfl

theorem runs_tideCancel (hcell : isTideCell 4 c = true) (hhere : s.fabric.hmRx.contains c = true) (hpending : s.tide.pending = true)
    (htide : payTide c = s.tide.switchAt.toNat) : Runs (.tideCancel t c) s (fun s' => s'.tide = cancelledFor 0x0307 (tick t s).tide ∧
      s'.fabric = withoutHm c s.fabric ∧ OnlyChanges [.tide, .fabric] (tick t s) s') := by
  have hnamed : ((tick t s).tide.pending && decide (payTide c = (tick t s).tide.switchAt.toNat)) = true := by
    rw [tick_tide, advance_pending, advance_switchAt, hpending, decide_eq_true htide]
    rfl
  have hrun : execTideCancel t c s = .next (((tick t s).updFabric (withoutHm c)).updTide (cancelledFor 0x0307)) := by
    unfold execTideCancel
    dsimp only
    rw [hcell, if_neg (by simp), takeAny_here (s := tick t s) hhere]
    dsimp only
    rw [cancelSwitch_reason]
    exact congrArg Host.Outcome.next (if_pos hnamed)
  exact ⟨_, hrun, rfl, rfl, ((updFabric_only _ _).mono (by simp)).trans ((updTide_only _ _).mono (by simp))⟩

theorem runs_tideGoDeadline (hpending : s.tide.pending = true) (hgo : s.tide.go = false) (hlate : beforeSwitch (tick t s) (us 20) = false) :
    Runs (.tideGoDeadline t) s (fun s' => s'.tide = cancelledFor 0x0306 (tick t s).tide ∧ OnlyChanges [.tide] (tick t s) s') := by
  have hdead : ((tick t s).tide.pending && !(tick t s).tide.go && !beforeSwitch (tick t s) (us 20)) = true := by
    rw [hlate, tick_tide, advance_pending, advance_go, hpending, hgo]
    rfl
  have hrun : execTideGoDeadline t s = .next ((tick t s).updTide (cancelledFor 0x0306)) := by
    unfold execTideGoDeadline
    dsimp only
    rw [cancelSwitch_reason]
    exact congrArg Host.Outcome.next (if_pos hdead)
  exact ⟨_, hrun, rfl, updTide_only _ _⟩

end

/-- Settles O44, by the lemmas above, one for each row of Table FB-6. -/
theorem tideAgreement : Obligations.TideAgreement := by
  intro t dev c s
  refine ⟨fun hcell hhere htwin => ?ready, fun hcell htwin => runs_tideReady_twin hcell htwin,
    fun hcell hhere hopen hfirst => ?withdraws, fun tide hdecision hroot hvalid hfresh hdue halone hgvalid hgjob hgports hglocal => ?decides,
    fun hcell hhere hpending htide hlen => ⟨fun hsoon => ⟨_, execTideGo_here hcell hhere, ?go⟩, fun hlate => ⟨_, execTideGo_here hcell hhere, ?late⟩⟩,
    fun hcell hhere hpending htide => runs_tideCancel hcell hhere hpending htide, fun hpending hgo hlate => runs_tideGoDeadline hpending hgo hlate⟩
  case ready =>
    refine ⟨_, execTideReady_plane hcell hhere htwin, ?_, rfl, ((updFabric_only _ _).mono (by simp)).trans ((updTide_only _ _).mono (by simp))⟩
    simp [withReady, readyRec]
  case withdraws =>
    obtain ⟨s', hrun, htide, hfabric, honly⟩ := runs_tideWithdraw (t := t) hcell hhere hopen hfirst
    refine ⟨s', hrun, htide.trans ?_, hfabric, honly⟩
    simp [deviceGone]
  case decides =>
    have hgroup : LocalGroup s := ⟨hgvalid, hgjob, hgports, hglocal⟩
    have hdeciding : Deciding tide (tick t s) :=
      ⟨(decisionTide_tick t s).trans hdecision, hroot, hvalid, by rw [tick_tide, advance_decided]; exact hfresh, hdue, halone⟩
    refine ⟨fun len hready => ?_, fun hready hnone => ?_⟩
    · have hready' : planeReady (tick t s) tide = some len := (planeReady_tick t s tide).trans hready
      obtain ⟨s', hrun, htide, hfabric, honly⟩ := runs_tideDecision (k := len.toNat) hgroup (tideDecision_go hdeciding hready') rfl
      exact ⟨s', hrun, htide, hfabric, honly⟩
    · have hready' : planeReady (tick t s) tide = none := (planeReady_tick t s tide).trans hready
      have hnone' : (tick t s).tide.ready = [] := by rw [tick_tide, advance_ready, hnone]
      obtain ⟨s', hrun, htide, hfabric, honly⟩ := runs_tideDecision (k := 0) hgroup (tideDecision_cancel hdeciding hready' hnone') BitVec.toNat_zero
      exact ⟨s', hrun, htide, hfabric, honly⟩
  case go =>
    rw [goCounts_named hpending htide hlen, if_pos hsoon]
    exact ⟨rfl, rfl, ((updFabric_only _ _).mono (by simp)).trans ((updTide_only _ _).mono (by simp))⟩
  case late =>
    rw [goCounts_named hpending htide hlen, if_neg (Bool.eq_false_iff.mp hlate)]
    exact ⟨rfl, rfl, updFabric_only _ _⟩

end Sys2Proof.Safety
end
